-- ==== Sys2Proof/Word.lean ====
section
/-! DEFINITION. The word types of the Agdin and their plainest arithmetic (spec 00 R2, R7; 02 R19, R22). -/

namespace Sys2Proof

/-- Eight bits: the smallest addressable unit (00 R2). -/
abbrev Byte := BitVec 8
/-- Thirty-two bits: a register, an instruction word, a PC (02 R19). -/
abbrev Word := BitVec 32
/-- Sixty-four bits: a virtual address, a register pair (01 R17). -/
abbrev Dword := BitVec 64
/-- One bit for each of the 32 lanes of a group (01 R15). -/
abbrev Mask := BitVec 32
/-- A 7-bit register field of an instruction word (02 R22). -/
abbrev Reg := BitVec 7
/-- A lane of a group, 0 to 31 (01 R15). -/
abbrev LaneIx := Fin 32
/-- A die Q0 to Q3 (01 R11). -/
abbrev Die := Fin 4

/-- The register field value of `z` (02 R22). -/
def Reg.z : Reg := 96#7

/-- A word read as a register pair or any 64-bit value: high word, low word (01 R17). -/
def Word.pair (hi lo : Word) : Dword := hi ++ lo
/-- The low word of a 64-bit value. -/
def Dword.lo (d : Dword) : Word := d.extractLsb' 0 32
/-- The high word of a 64-bit value. -/
def Dword.hi (d : Dword) : Word := d.extractLsb' 32 32
/-- Bit `l` of a lane mask. -/
def Mask.has (m : Mask) (l : LaneIx) : Bool := m.getLsbD l.val

end Sys2Proof
end

