-- ==== Sys2Proof/Config.lean ====
section
/-! DEFINITION. What a package fixes and the spec does not print, and the values it leaves free: constants with no body, of
which nothing can be proved but that they are some value. Each is named in a row of the assumption log. -/

namespace Sys2Proof.Config

/-- Free values, applied to a counter of the state (log 3). -/
opaque freeNat : Nat → Nat
/-- A free word for the n-th use. -/
def freeWord (n : Nat) : Word := BitVec.ofNat 32 (freeNat n)

/-- The choice a special function makes among the FP32 values within its error bound, by function, source and mode: the
same on every core (10 R226; log 7). -/
opaque specialChoice : Nat → Nat → Nat → Nat

/-- What `COREID` of a die's control core reads outside DIE, which the spec does not state (08 R178; log 8). -/
opaque ctrlCoreId : Nat → Word

/-- Identifier 0's XTS key pair after the n-th reset, which the part generates at each reset and no agent sees (03 R62; log 6). -/
opaque rootKey : Nat → List Byte

/-- A choice of the stations of each loop of a die, in the direction of travel (04 R71; log 10). -/
opaque loopChoice : Nat → List Nat
/-- A loop's stations as a number with one bit for each. -/
def loopMask (f : Nat → List Nat) (l : Nat) : Nat := (f l).foldl (fun m st => m ||| 2 ^ st) 0
/-- What 04 R71 and 21 R425 say of the 28 loops: at least 3 of the stations 0 to 71, each once; every core station on 3 to 6 loops,
every other one on at least 6, and every pair on a common loop. -/
def loopsOk (f : Nat → List Nat) : Bool :=
  (List.range 28).all (fun l => 3 ≤ (f l).length && (f l).all (· < 72) && (f l).eraseDups.length == (f l).length) &&
    (List.range 72).all fun a =>
      let on := (List.range 28).filter fun l => (loopMask f l).testBit a
      (if a < 64 then 3 ≤ on.length && on.length ≤ 6 else 6 ≤ on.length) &&
        on.foldl (fun m l => m ||| loopMask f l) 0 == 2 ^ 72 - 1
/-- Loops that meet R71: the cores in seven groups, a loop for each pair of groups with the other stations, and seven loops of the
other stations. -/
def loopExample (l : Nat) : List Nat :=
  let pairs := (List.range 7).flatMap fun i => ((List.range 7).filter (i < ·)).map fun j => (i, j)
  let cores := match pairs[l]? with
    | some (i, j) => (List.range 64).filter fun c => c % 7 == i || c % 7 == j
    | none => []
  cores ++ (List.range 8).map (64 + ·)
/-- The stations of loop L of a die in the direction of travel: any choice that meets R71 (04 R71, 21 R425; log 10). -/
def loopStations (l : Nat) : List Nat := if loopsOk loopChoice then loopChoice l else loopExample l
/-- The number of containers on a loop, as sixteens above the first (04 R75; log 10). -/
opaque loopTrains : Nat → Nat

/-- The Rutik plane of a flow: source core, destination package, destination core (04 R87; log 10). -/
opaque rutikPlane : Nat → Nat → Nat → Nat

/-- The packages of the scale-up domain, by package number (04 R87; log 10). -/
opaque inDomain : Nat → Bool

/-- What is fused into the part: the identity private key's value, Kazind's image key as a point of 97 bytes, and the 16 bytes of
the serial number (21 R417, R420, R425; log 12). -/
opaque identitySeed : Nat
opaque imageKey : List Byte
opaque serialNumber : List Byte
/-- The serial number as 16 bytes. -/
def serialBytes : List Byte := (serialNumber ++ List.replicate 16 0).take 16
/-- The doorbell page of a partition, as the page number of its RDMA virtual address, and its R_Key (21 R427; log 12). -/
opaque doorbellPage : Nat → Nat
opaque doorbellKey : Nat → Word

end Sys2Proof.Config
end

