-- ==== Sys2Proof/Machine/Crypto.lean ====
section
/-! DEFINITION. The cryptography of the standards that 00 R1 names, as functions on bytes: AES-256 (FIPS 197) with XTS (IEEE
1619), GCM (NIST SP 800-38D) and key wrap (SP 800-38F); SHA-384, HMAC and HKDF (RFC 5869); ECDSA and ECDH on P-384 (FIPS 186-5,
SP 800-56A). -/

namespace Sys2Proof.Machine

/-! ### Bytes and numbers -/

/-- A number of bytes, highest first. -/
def natOfBE (bs : List Byte) : Nat := bs.foldl (fun n b => 256 * n + b.toNat) 0
/-- The n bytes of a number, highest first. -/
def bytesOfBE (n k : Nat) : List Byte := (List.range n).map fun i => BitVec.ofNat 8 (k / 256 ^ (n - 1 - i))
/-- A number of bytes, lowest first. -/
def natOfLE (bs : List Byte) : Nat := bs.foldr (fun b n => b.toNat + 256 * n) 0
/-- The n bytes of a number, lowest first. -/
def bytesOfLE (n k : Nat) : List Byte := (List.range n).map fun i => BitVec.ofNat 8 (k / 256 ^ i)
/-- Byte by byte exclusive or. -/
def xorBytes (a b : List Byte) : List Byte := List.zipWith (· ^^^ ·) a b
/-- A list in pieces of n; the last may be shorter. -/
def blocksOfLen {α : Type} (n : Nat) (l : List α) : List (List α) :=
  (List.range ((l.length + n - 1) / n)).map fun i => (l.drop (n * i)).take n

/-! ### AES-256 -/

/-- Times x in the field of AES. -/
def aesX (b : Byte) : Byte := (b <<< 1) ^^^ (if b.msb then 0x1B#8 else 0#8)
/-- The product in the field of AES. -/
def aesMul (a b : Byte) : Byte :=
  ((List.range 8).foldl (fun (acc : Byte × Byte) i =>
    (if b.getLsbD i then acc.1 ^^^ acc.2 else acc.1, aesX acc.2)) (0#8, a)).1
/-- The inverse in the field of AES, 0 of 0: the 254th power. -/
def aesInv (a : Byte) : Byte :=
  let sq := fun b => aesMul b b
  let p := (List.range 6).foldl (fun (acc : Byte × Byte) _ => (aesMul acc.1 (sq acc.2), sq acc.2)) (sq a, sq a)
  p.1
/-- SubBytes of one byte, and back. -/
def aesSub (a : Byte) : Byte :=
  let b := aesInv a
  b ^^^ b.rotateLeft 1 ^^^ b.rotateLeft 2 ^^^ b.rotateLeft 3 ^^^ b.rotateLeft 4 ^^^ 0x63#8
def aesUnsub (b : Byte) : Byte := aesInv (b.rotateLeft 1 ^^^ b.rotateLeft 3 ^^^ b.rotateLeft 6 ^^^ 0x05#8)
/-- The 60 words of the key schedule. -/
def aesSchedule (key : List Byte) : List (List Byte) :=
  ((List.range 52).foldl (fun (acc : List (List Byte) × Byte) k =>
    let i := k + 8
    let w := acc.1
    let prev := w.getD (i - 1) []
    let t := if i % 8 = 0 then xorBytes ((prev.drop 1 ++ prev.take 1).map aesSub) [acc.2, 0, 0, 0]
      else if i % 8 = 4 then prev.map aesSub else prev
    (w ++ [xorBytes (w.getD (i - 8) []) t], if i % 8 = 0 then aesX acc.2 else acc.2)) (blocksOfLen 4 key, 1#8)).1
/-- A round's key. -/
def aesRoundKey (ks : List (List Byte)) (r : Nat) : List Byte := ((ks.drop (4 * r)).take 4).flatten
/-- ShiftRows by `n` columns a row. -/
def aesShift (n : Nat) (s : List Byte) : List Byte :=
  (List.range 16).map fun i => s.getD (i % 4 + 4 * ((i / 4 + n * (i % 4)) % 4)) 0
/-- MixColumns with the coefficients of the first row. -/
def aesMix (m : List Byte) (s : List Byte) : List Byte :=
  (List.range 16).map fun i => (List.range 4).foldl (fun a j =>
    a ^^^ aesMul (m.getD ((j + 4 - i % 4) % 4) 0) (s.getD (i / 4 * 4 + j) 0)) 0#8
/-- Enciphers one block. -/
def aesEnc (key blk : List Byte) : List Byte :=
  let ks := aesSchedule key
  let s := (List.range 13).foldl (fun s r =>
    xorBytes (aesMix [2, 3, 1, 1] (aesShift 1 (s.map aesSub))) (aesRoundKey ks (r + 1))) (xorBytes blk (aesRoundKey ks 0))
  xorBytes (aesShift 1 (s.map aesSub)) (aesRoundKey ks 14)
/-- Deciphers one block. -/
def aesDec (key blk : List Byte) : List Byte :=
  let ks := aesSchedule key
  let s := (List.range 13).foldl (fun s r =>
    aesMix [14, 11, 13, 9] (xorBytes ((aesShift 3 s).map aesUnsub) (aesRoundKey ks (13 - r)))) (xorBytes blk (aesRoundKey ks 14))
  xorBytes ((aesShift 3 s).map aesUnsub) (aesRoundKey ks 0)

/-! ### XTS (03 R62) -/

/-- The tweak of block j of data unit n, under a pair's second key. -/
def xtsTweak (pair : List Byte) (n j : Nat) : List Byte :=
  let t := natOfLE (aesEnc (pair.drop 32) (bytesOfLE 16 n))
  bytesOfLE 16 ((List.range j).foldl (fun t _ => (2 * t % 2 ^ 128) ^^^ (if 2 ^ 127 ≤ t then 0x87 else 0)) t)
/-- Enciphers, and deciphers, block j of data unit n under a pair of keys. -/
def xtsEnc (pair : List Byte) (n j : Nat) (blk : List Byte) : List Byte :=
  let t := xtsTweak pair n j
  xorBytes (aesEnc (pair.take 32) (xorBytes blk t)) t
def xtsDec (pair : List Byte) (n j : Nat) (blk : List Byte) : List Byte :=
  let t := xtsTweak pair n j
  xorBytes (aesDec (pair.take 32) (xorBytes blk t)) t

/-! ### GCM (19 R387) and key wrap (21 R420) -/

/-- The product in the field of GHASH, blocks as numbers of their bits from the first on. -/
def ghashMul (x y : Nat) : Nat :=
  ((List.range 128).foldl (fun (acc : Nat × Nat) i =>
    (if x.testBit (127 - i) then acc.1 ^^^ acc.2 else acc.1,
      acc.2 / 2 ^^^ (if acc.2 % 2 = 1 then 0xE1 * 2 ^ 120 else 0))) (0, y)).1
/-- Bytes filled up with zeros to whole blocks. -/
def gcmPad (bs : List Byte) : List Byte := bs ++ List.replicate ((16 - bs.length % 16) % 16) 0
/-- The key stream exclusive-ored into data, from counter block 2 on. -/
def gcmCtr (key iv data : List Byte) : List Byte :=
  ((blocksOfLen 16 data).zipIdx).flatMap fun e => xorBytes e.1 (aesEnc key (iv ++ bytesOfBE 4 (e.2 + 2)))
/-- The tag of a ciphertext with its additional data. -/
def gcmTag (key iv aad ct : List Byte) : List Byte :=
  let h := natOfBE (aesEnc key (List.replicate 16 0))
  let blocks := blocksOfLen 16 (gcmPad aad ++ gcmPad ct ++ bytesOfBE 8 (8 * aad.length) ++ bytesOfBE 8 (8 * ct.length))
  let g := blocks.foldl (fun y b => ghashMul (y ^^^ natOfBE b) h) 0
  xorBytes (bytesOfBE 16 g) (aesEnc key (iv ++ bytesOfBE 4 1))
/-- AES-256-GCM with a 12-byte IV: ciphertext and tag. -/
def gcmSeal (key iv aad data : List Byte) : List Byte × List Byte :=
  let ct := gcmCtr key iv data
  (ct, gcmTag key iv aad ct)
/-- The data of a ciphertext whose tag is right. -/
def gcmOpen (key iv aad ct tag : List Byte) : Option (List Byte) :=
  if gcmTag key iv aad ct = tag then some (gcmCtr key iv ct) else none
/-- AES key unwrap, without padding, with the default initial value; none when it fails. -/
def kwUnwrap (key ct : List Byte) : Option (List Byte) :=
  let n := ct.length / 8 - 1
  let r := (List.range (6 * n)).foldl (fun (acc : List Byte × List (List Byte)) k =>
    let t := 6 * n - k
    let i := (t - 1) % n
    let b := aesDec key (xorBytes acc.1 (bytesOfBE 8 t) ++ acc.2.getD i [])
    (b.take 8, acc.2.set i (b.drop 8))) (ct.take 8, blocksOfLen 8 (ct.drop 8))
  if ct.length % 8 = 0 && 3 ≤ ct.length / 8 && r.1 = List.replicate 8 0xA6#8 then some r.2.flatten else none

/-! ### SHA-384, HMAC, HKDF -/

/-- The first n primes. -/
def primes (n : Nat) : List Nat :=
  ((List.range 412).drop 2 |>.filter fun p => (List.range p).all fun d => d < 2 || p % d ≠ 0).take n
/-- The greatest number whose cube is at most n, from its highest bit b down. -/
def cubeRoot (n b : Nat) : Nat :=
  (List.range (b + 1)).foldl (fun r i => let c := r + 2 ^ (b - i); if c ^ 3 ≤ n then c else r) 0
/-- The greatest number whose square is at most n, from its highest bit b down. -/
def squareRoot (n b : Nat) : Nat :=
  (List.range (b + 1)).foldl (fun r i => let c := r + 2 ^ (b - i); if c ^ 2 ≤ n then c else r) 0
/-- The round constants: the first 64 bits of the fractions of the cube roots of the first 80 primes. -/
def shaK : List Dword := (primes 80).map fun p => BitVec.ofNat 64 (cubeRoot (p * 2 ^ 192) 68)
/-- SHA-384's initial value: the fractions of the square roots of the 9th to 16th primes. -/
def shaInit : List Dword := ((primes 16).drop 8).map fun p => BitVec.ofNat 64 (squareRoot (p * 2 ^ 128) 68)
/-- One block of the compression function. -/
def shaBlock (h : List Dword) (blk : List Byte) : List Dword :=
  let w := (List.range 64).foldl (fun (w : List Dword) k =>
    let g := fun i => w.getD (k + 16 - i) 0
    let s0 := (g 15).rotateRight 1 ^^^ (g 15).rotateRight 8 ^^^ ((g 15) >>> 7)
    let s1 := (g 2).rotateRight 19 ^^^ (g 2).rotateRight 61 ^^^ ((g 2) >>> 6)
    w ++ [g 16 + s0 + g 7 + s1]) ((blocksOfLen 8 blk).map fun b => BitVec.ofNat 64 (natOfBE b))
  let r := (List.zip shaK w).foldl (fun (v : List Dword) e =>
    let x := fun i => v.getD i 0
    let s1 := (x 4).rotateRight 14 ^^^ (x 4).rotateRight 18 ^^^ (x 4).rotateRight 41
    let ch := (x 4 &&& x 5) ^^^ (~~~(x 4) &&& x 6)
    let t1 := x 7 + s1 + ch + e.1 + e.2
    let s0 := (x 0).rotateRight 28 ^^^ (x 0).rotateRight 34 ^^^ (x 0).rotateRight 39
    let maj := (x 0 &&& x 1) ^^^ (x 0 &&& x 2) ^^^ (x 1 &&& x 2)
    [t1 + s0 + maj, x 0, x 1, x 2, x 3 + t1, x 4, x 5, x 6]) h
  List.zipWith (· + ·) h r
/-- SHA-384 of a message: 48 bytes. -/
def sha384 (m : List Byte) : List Byte :=
  let pad := m ++ [0x80#8] ++ List.replicate ((239 - m.length % 128) % 128) 0 ++ bytesOfBE 16 (8 * m.length)
  (((blocksOfLen 128 pad).foldl shaBlock shaInit).take 6).flatMap fun w => bytesOfBE 8 w.toNat
/-- HMAC with SHA-384. -/
def hmac384 (key m : List Byte) : List Byte :=
  let k := if 128 < key.length then sha384 key else key
  let k := k ++ List.replicate (128 - k.length) 0
  sha384 (k.map (· ^^^ 0x5C#8) ++ sha384 (k.map (· ^^^ 0x36#8) ++ m))
/-- HKDF with SHA-384, for at most 48 bytes of output. -/
def hkdf384 (salt ikm info : List Byte) (n : Nat) : List Byte := (hmac384 (hmac384 salt ikm) (info ++ [1#8])).take n

/-! ### P-384 -/

/-- The prime of P-384, its order, its coefficient b and its base point. -/
def p384 : Nat := 2 ^ 384 - 2 ^ 128 - 2 ^ 96 + 2 ^ 32 - 1
def n384 : Nat := 0xffffffffffffffffffffffffffffffffffffffffffffffffc7634d81f4372ddf581a0db248b0a77aecec196accc52973
def b384 : Nat := 0xb3312fa7e23ee7e4988e056be3f82d19181d9c6efe8141120314088f5013875ac656398d8a2ed19d2a85c8edd3ec2aef
def g384 : Nat × Nat :=
  (0xaa87ca22be8b05378eb1c71ef320ad746e1d3b628ba79b9859f741e082542a385502f25dbf55296c3a545e3872760ab7,
   0x3617de4a96262c6f5d9e98bf9292dc29f8f41dbd289a147ce9da3113b5f0b8c00a60b1ce1d7e819d7a431d7c90ea0e5f)
/-- A power modulo m, by the bits of the exponent. -/
def powMod (a e m : Nat) : Nat :=
  ((List.range 384).foldl (fun (acc : Nat × Nat) i =>
    (if e.testBit i then acc.1 * acc.2 % m else acc.1, acc.2 * acc.2 % m)) (1 % m, a % m)).1
/-- The inverse modulo a prime. -/
def invMod (a m : Nat) : Nat := powMod a (m - 2) m
/-- A point of the curve; none is the point at infinity. -/
abbrev Point := Option (Nat × Nat)
/-- The sum of two points of P-384. -/
def ecAdd (a b : Point) : Point :=
  match a, b with
  | none, q => q
  | q, none => q
  | some (x1, y1), some (x2, y2) =>
    if x1 = x2 && (y1 + y2) % p384 = 0 then none
    else
      let l := if x1 = x2 then (3 * x1 * x1 + p384 - 3) % p384 * invMod (2 * y1) p384 % p384
        else (y2 + p384 - y1) % p384 * invMod ((x2 + p384 - x1) % p384) p384 % p384
      let x3 := (l * l + 2 * p384 - x1 - x2) % p384
      some (x3, (l * ((x1 + p384 - x3) % p384) + p384 - y1) % p384)
/-- A multiple of a point. -/
def ecMul (k : Nat) (q : Point) : Point :=
  ((List.range 384).foldl (fun (acc : Point × Point) i =>
    (if k.testBit i then ecAdd acc.1 acc.2 else acc.1, ecAdd acc.2 acc.2)) (none, q)).1
/-- A point as 97 bytes: the byte 4, then X and Y (21 R420). -/
def ecBytes (q : Point) : List Byte := match q with
  | some (x, y) => [4#8] ++ bytesOfBE 48 x ++ bytesOfBE 48 y
  | none => List.replicate 97 0
/-- The point that 97 bytes name; none when they name no point of the curve. -/
def ecParse (b : List Byte) : Point :=
  let x := natOfBE ((b.drop 1).take 48)
  let y := natOfBE ((b.drop 49).take 48)
  if b.length = 97 && b.headD 0 = 4#8 && x < p384 && y < p384 &&
    y * y % p384 = (x * x * x + (p384 - 3) * x + b384) % p384 then some (x, y) else none
/-- An ECDSA signature r, s, 48 bytes each and little-endian as every multi-byte value (00 R2; 12 R280; 21 R417), of a message's
SHA-384 under a private key, with the per-message number k. -/
def ecdsaSign (d k : Nat) (m : List Byte) : List Byte :=
  let r := ((ecMul k (some g384)).map Prod.fst).getD 0 % n384
  let z := natOfBE (sha384 m)
  bytesOfLE 48 r ++ bytesOfLE 48 (invMod k n384 * (z + r * d) % n384)
/-- A signature r, s of little-endian integers verifies under a public key (00 R2). -/
def ecdsaVerifies (q : Point) (m sig : List Byte) : Bool :=
  let r := natOfLE (sig.take 48)
  let s := natOfLE ((sig.drop 48).take 48)
  let w := invMod s n384
  let u := natOfBE (sha384 m) * w % n384
  1 ≤ r && r < n384 && 1 ≤ s && s < n384 && q.isSome &&
    (ecAdd (ecMul u (some g384)) (ecMul (r * w % n384) q)).any fun e => e.1 % n384 == r

/-! ### The part's keys (12 R280; 21 R417, R420) -/

/-- The identity private key, from 1 to n − 1, and its public point (21 R420; log 12). -/
def identityD : Nat := 1 + Config.identitySeed % (n384 - 1)
def identityPoint : Point := ecMul identityD (some g384)
/-- The per-message number of the n-th signature, which the spec leaves open (log 12). -/
def signNonce (n : Nat) : Nat := 1 + Config.freeNat n % (n384 - 1)
/-- The 32-byte transport key of a key install: HKDF of the shared secret, salted with the serial number (21 R420). -/
def transportKey (ident : Nat) (q : Point) : List Byte :=
  let z := bytesOfBE 48 (((ecMul identityD q).map Prod.fst).getD 0)
  hkdf384 Config.serialBytes z ("KZAG4 key install".toList.map (fun c => BitVec.ofNat 8 c.toNat) ++ bytesOfBE 2 ident) 32
/-- The key pair that a request of key install brings: none for a point off the curve or an unwrap that fails (21 R420). -/
def unwrapPair (ident : Nat) (point wrapped : List Byte) : Option (List Byte) :=
  match ecParse point with
  | none => none
  | q => kwUnwrap (transportKey ident q) wrapped

end Sys2Proof.Machine
end

