-- ==== Sys2Proof/Syntax.lean ====
section
/-! DEFINITION. The syntax of the Agdin: operand shapes of the eight formats (spec 02 R20), the data that events carry,
and the one inductive of all instructions and events. -/

namespace Sys2Proof


/-- Format A with a destination and two sources (02 R20). -/
structure A3 where
  nw : Bool
  g : Bool
  d : Reg
  a : Reg
  b : Reg
  deriving DecidableEq, Repr

/-- Format A with a destination and one source; b holds `z` (02 R24). -/
structure A2 where
  nw : Bool
  g : Bool
  d : Reg
  a : Reg
  deriving DecidableEq, Repr

/-- Format A with a destination only. -/
structure A1d where
  nw : Bool
  g : Bool
  d : Reg
  deriving DecidableEq, Repr

/-- Format A with one source and no destination: nw is reserved (02 R27). -/
structure A1a where
  g : Bool
  a : Reg
  deriving DecidableEq, Repr

/-- Format A with two sources and no destination. -/
structure A2ab where
  g : Bool
  a : Reg
  b : Reg
  deriving DecidableEq, Repr

/-- Format A whose d field is a data source, with two more sources (06 R132, R134). -/
structure A3s where
  g : Bool
  d : Reg
  a : Reg
  b : Reg
  deriving DecidableEq, Repr

/-- Format A whose d field is a data source, with one more source (`ACWR`, 11 R256). -/
structure A2s where
  g : Bool
  d : Reg
  a : Reg
  deriving DecidableEq, Repr

/-- The element type of opcodes 0x20 to 0x25 (02 R29). -/
inductive FType where
  | f32 | f16x2 | bf16x2
  deriving DecidableEq, Repr

/-- Format A with a type in fn (02 R29). -/
structure AF where
  nw : Bool
  g : Bool
  ty : FType
  d : Reg
  a : Reg
  b : Reg
  deriving DecidableEq, Repr

/-- Format I with a signed 10-bit immediate (02 R28). -/
structure AI where
  nw : Bool
  d : Reg
  a : Reg
  imm : BitVec 10
  deriving DecidableEq, Repr

/-- Format I with an amount, lane or distance 0..31; imm10[9:5] is zero (02 R28). -/
structure AIsh where
  nw : Bool
  d : Reg
  a : Reg
  imm : BitVec 5
  deriving DecidableEq, Repr

/-- Format I whose d field is a data source (`LSW`, 06 R133). -/
structure AIst where
  d : Reg
  a : Reg
  imm : BitVec 10
  deriving DecidableEq, Repr

/-- Format K (02 R20). -/
structure AK where
  d : Reg
  imm : BitVec 16
  deriving DecidableEq, Repr

/-- Format M: t is a load's destination or a store's data, a the base pair (02 R20). -/
structure AM where
  g : Bool
  t : Reg
  a : Reg
  off : BitVec 10
  deriving DecidableEq, Repr

/-- The order field of format X (02 R20). -/
inductive MOrder where
  | rlx | acq | rel | ar
  deriving DecidableEq, Repr

/-- The scope field of format X, and the SCOPE fields of descriptors (02 R20, 07 R141). -/
inductive Scope where
  | team | cluster | device | system
  deriving DecidableEq, Repr

/-- Format X (02 R20). -/
structure AX where
  order : MOrder
  scope : Scope
  d : Reg
  a : Reg
  b : Reg
  deriving DecidableEq, Repr

/-- `ALD`: order 0 or 1 only (02 R30). -/
structure AXld where
  acq : Bool
  scope : Scope
  d : Reg
  a : Reg
  deriving DecidableEq, Repr

/-- `AST`: order 0 or 2 only (02 R30). -/
structure AXst where
  rel : Bool
  scope : Scope
  a : Reg
  b : Reg
  deriving DecidableEq, Repr

/-- Format B (02 R20). -/
structure AB where
  a : Reg
  b : Reg
  off : BitVec 10
  deriving DecidableEq, Repr


/-! ### What events carry -/

/-- A management request as it came, but for its type and what its body says (21 R414): the header's fields, the number of body
bytes that followed it, and whether the body's length is not its type's or a reserved bit of the body is set. -/
structure MReq where
  id : Dword
  part : Nat
  status : BitVec 16 := 0
  len : Word := 0
  resv : BitVec 120 := 0
  body : Nat := 0
  badBody : Bool := false
  deriving DecidableEq, Repr

/-- The message is malformed: a wrong length, a reserved bit set or a header field out of range, the partition's apart (21 R414). -/
def MReq.bad (r : MReq) : Bool :=
  r.badBody || r.status != 0 || r.resv != 0 || 65536 < r.len.toNat || r.body != r.len.toNat

/-- Where an RDMA operation goes: the key of a memory region that the host names, and an address (21 R412, R427). -/
structure Remote where
  rkey : Word
  va : Dword
  deriving DecidableEq, Repr

/-- A context-unit command sent by a management request (19 R373, 21 R416). -/
structure CtxReq where
  req : MReq
  core : Nat
  slot : Nat
  addr : Dword
  deriving DecidableEq, Repr

/-- A telemetry frame from the power shelf (20 R397). `fcs` says its frame check sequence is right. -/
structure Frame where
  seq : BitVec 16
  freq : Nat
  volt : Nat
  src : Nat
  etherType : Nat
  resv : Bool
  fcs : Bool
  deriving DecidableEq, Repr

/-- One direction of an edge link (0..7) or a Rutik link (8..23); `rev` is the direction towards the lower-named end
(04 R80, R87; 12 R280 gives the order of the links). -/
structure LinkId where
  link : Nat
  rev : Bool
  deriving DecidableEq, Repr

/-- A power policy setting of 20 R392. -/
inductive PowerSetting where
  | poolSize (v : Nat) | boostEnable (v : Nat) | boostClass (v : Nat)
  | nomFreq (v : Nat) | nomVolt (v : Nat) | voltHyst (v : Nat)
  | freqPoint (i : Nat) (v : Word) | voltPoint (i : Nat) (v : Word)
  | lossTimeout (v : Nat) | lossClass (v : Nat) | shelf (src : Nat) (etherType : Nat)
  | packageCap (v : Nat) | floor (part : Nat) (v : Nat)
  deriving DecidableEq, Repr

/-- The set-up of a migration session (19 R385). A region map entry is (source PA[39:30], destination PA[39:30]); a key
map entry is (PA[39:21], key identifier). -/
structure EbbSetup where
  part : Nat
  dest : Nat
  session : Word
  salt : Word
  /-- the 256-bit migration key, as 32 bytes -/
  migKey : List (BitVec 8)
  keyMap : List (Nat × Nat)
  regionMap : List (Nat × Nat)
  deriving DecidableEq, Repr


/-- The Agdin's instructions and the part's steps: one constructor per row of the spec's operation table. The encoded
instructions come first, in the table's order; each event carries the arguments that one occurrence of it needs. -/
inductive Instr where
  /-- ADD (R212). Each participating lane writes a + b modulo 2^32 to d. -/
  | add (o : A3)
  /-- SUB (R212). Each participating lane writes a − b modulo 2^32 to d. -/
  | sub (o : A3)
  /-- MULLO (R212). Each participating lane writes the low 32 bits of a × b to d. -/
  | mullo (o : A3)
  /-- MACLO (R212). Each participating lane writes the low 32 bits of d + a × b to d. -/
  | maclo (o : A3)
  /-- MULHS (R212). Each participating lane writes the high 32 bits of the signed product of a and b. -/
  | mulhs (o : A3)
  /-- MULHN (R212). Each participating lane writes the high 32 bits of the unsigned product of a and b. -/
  | mulhn (o : A3)
  /-- MINS (R212). Each participating lane writes the signed minimum of a and b. -/
  | mins (o : A3)
  /-- MINN (R212). Each participating lane writes the unsigned minimum of a and b. -/
  | minn (o : A3)
  /-- MAXS (R212). Each participating lane writes the signed maximum of a and b. -/
  | maxs (o : A3)
  /-- MAXN (R212). Each participating lane writes the unsigned maximum of a and b. -/
  | maxn (o : A3)
  /-- AND (R212). Each participating lane writes a AND b. -/
  | and (o : A3)
  /-- OR (R212). Each participating lane writes a OR b. -/
  | or (o : A3)
  /-- XOR (R212). Each participating lane writes a XOR b. -/
  | xor (o : A3)
  /-- ANDN (R212). Each participating lane writes a AND NOT b. -/
  | andn (o : A3)
  /-- SHL (R213). Each participating lane shifts a left by b[7:0], giving 0 for 32 or more. -/
  | shl (o : A3)
  /-- SHR (R213). Each participating lane shifts a right logically by b[7:0]. -/
  | shr (o : A3)
  /-- SRA (R213). Each participating lane shifts a right arithmetically by b[7:0]. -/
  | sra (o : A3)
  /-- ROTL (R213). Each participating lane rotates a left by b[7:0] mod 32. -/
  | rotl (o : A3)
  /-- CLZ (R214). Each participating lane writes the count of leading zero bits of a. -/
  | clz (o : A2)
  /-- POPC (R214). Each participating lane writes the count of set bits of a. -/
  | popc (o : A2)
  /-- BREV (R214). Each participating lane writes a with its bit order reversed. -/
  | brev (o : A2)
  /-- BSWAP (R214). Each participating lane writes a with its byte order reversed. -/
  | bswap (o : A2)
  /-- SEL (R220). Each participating lane writes a when its gp bit is set and b otherwise. -/
  | sel (o : A3)
  /-- MOV (R220). Each participating lane copies a to d. -/
  | mov (o : A2)
  /-- GPRD (R220). Each participating lane writes the whole 32-bit guard predicate to d. -/
  | gprd (o : A1d)
  /-- GPWR (R220). Each participating lane sets its gp bit to whether its a is nonzero. -/
  | gpwr (o : A1a)
  /-- CEQ (R219). Each participating lane writes a == b to d and to its gp bit. -/
  | ceq (o : A3)
  /-- CNE (R219). Each participating lane writes a ≠ b to d and to its gp bit. -/
  | cne (o : A3)
  /-- CLTS (R219). Each participating lane writes signed a < b to d and to its gp bit. -/
  | clts (o : A3)
  /-- CLTN (R219). Each participating lane writes unsigned a < b to d and to its gp bit. -/
  | cltn (o : A3)
  /-- CLES (R219). Each participating lane writes signed a ≤ b to d and to its gp bit. -/
  | cles (o : A3)
  /-- CLEN (R219). Each participating lane writes unsigned a ≤ b to d and to its gp bit. -/
  | clen (o : A3)
  /-- ADDD (R216). Each participating lane writes the 64-bit sum of pairs a and b to pair d. -/
  | addd (o : A3)
  /-- SUBD (R216). Each participating lane writes the 64-bit difference of pairs a and b to pair d. -/
  | subd (o : A3)
  /-- MULW (R216). Each participating lane writes the exact unsigned 64-bit product of words a and b. -/
  | mulw (o : A3)
  /-- MULWS (R216). Each participating lane writes the exact signed 64-bit product of words a and b. -/
  | mulws (o : A3)
  /-- SHLD (R216). Each participating lane shifts pair a left by b[7:0] into pair d. -/
  | shld (o : A3)
  /-- SHRD (R216). Each participating lane shifts pair a right logically by b[7:0] into pair d. -/
  | shrd (o : A3)
  /-- SRAD (R216). Each participating lane shifts pair a right arithmetically by b[7:0] into pair d. -/
  | srad (o : A3)
  /-- BFX (R215). Each participating lane extracts the bit field of a named by b. -/
  | bfx (o : A3)
  /-- BFI (R215). Each participating lane inserts a into the bit field of d named by b. -/
  | bfi (o : A3)
  /-- ADDI (R217). Each active lane writes a plus the sign-extended immediate. -/
  | addi (o : AI)
  /-- ANDI (R217). Each active lane writes a AND the sign-extended immediate. -/
  | andi (o : AI)
  /-- ORI (R217). Each active lane writes a OR the sign-extended immediate. -/
  | ori (o : AI)
  /-- XORI (R217). Each active lane writes a XOR the sign-extended immediate. -/
  | xori (o : AI)
  /-- SHLI (R217). Each active lane shifts a left by the immediate amount. -/
  | shli (o : AIsh)
  /-- SHRI (R217). Each active lane shifts a right logically by the immediate amount. -/
  | shri (o : AIsh)
  /-- SRAI (R217). Each active lane shifts a right arithmetically by the immediate amount. -/
  | srai (o : AIsh)
  /-- ROTLI (R217). Each active lane rotates a left by the immediate amount. -/
  | rotli (o : AIsh)
  /-- MULI (R217). Each active lane writes the low 32 bits of a times the sign-extended immediate. -/
  | muli (o : AI)
  /-- CEQI (R219). Each active lane writes a == sext(imm) to d and its gp bit. -/
  | ceqi (o : AI)
  /-- CLTSI (R219). Each active lane writes signed a < sext(imm) to d and its gp bit. -/
  | cltsi (o : AI)
  /-- CLTNI (R219). Each active lane writes unsigned a < sext(imm) to d and its gp bit. -/
  | cltni (o : AI)
  /-- LIH (R218). Each active lane replaces the upper half of d with the immediate. -/
  | lih (o : AK)
  /-- LIL (R218). Each active lane replaces the lower half of d with the immediate. -/
  | lil (o : AK)
  /-- LIS (R218). Each active lane writes the sign-extended immediate to d. -/
  | lis (o : AK)
  /-- ADPC (R218). Each active lane writes PC + 4 × sext(imm16) to d. -/
  | adpc (o : AK)
  /-- FADD (R221). Each participating lane adds a and b in the typed FP format under FMODE. -/
  | fadd (o : AF)
  /-- FSUB (R221). Each participating lane subtracts b from a in the typed FP format under FMODE. -/
  | fsub (o : AF)
  /-- FMUL (R221). Each participating lane multiplies a and b in the typed FP format under FMODE. -/
  | fmul (o : AF)
  /-- FMA (R221). Each participating lane computes a × b + d with one rounding under FMODE. -/
  | fma (o : AF)
  /-- FMIN (R222). Each participating lane chooses the smaller of a and b without rounding. -/
  | fmin (o : AF)
  /-- FMAX (R222). Each participating lane chooses the larger of a and b without rounding. -/
  | fmax (o : AF)
  /-- FCEQ (R224). Each participating lane writes FP32 a == b to d and its gp bit. -/
  | fceq (o : A3)
  /-- FCLT (R224). Each participating lane writes FP32 a < b to d and its gp bit. -/
  | fclt (o : A3)
  /-- FCLE (R224). Each participating lane writes FP32 a ≤ b to d and its gp bit. -/
  | fcle (o : A3)
  /-- FCUN (R224). Each participating lane writes whether either operand is NaN to d and its gp bit. -/
  | fcun (o : A3)
  /-- FABS (R225). Each participating lane clears the sign bit of a. -/
  | fabs (o : A2)
  /-- FNEG (R225). Each participating lane flips the sign bit of a. -/
  | fneg (o : A2)
  /-- FCPSGN (R225). Each participating lane writes a with the sign of b. -/
  | fcpsgn (o : A3)
  /-- FCLASS (R225). Each participating lane writes a one-hot class mask of FP32 a. -/
  | fclass (o : A2)
  /-- FRCP (R226). Each participating lane writes 1/x within 1 ulp. -/
  | frcp (o : A2)
  /-- FRSQ (R226). Each participating lane writes 1/√x within 1 ulp. -/
  | frsq (o : A2)
  /-- FSQRT (R226). Each participating lane writes √x correctly rounded under RND. -/
  | fsqrt (o : A2)
  /-- FEX2 (R226). Each participating lane writes 2^x within 2 ulp. -/
  | fex2 (o : A2)
  /-- FLG2 (R226). Each participating lane writes log2 x within 2 ulp. -/
  | flg2 (o : A2)
  /-- FSINPI (R226). Each participating lane writes sin(πx) within 2 ulp. -/
  | fsinpi (o : A2)
  /-- FCOSPI (R226). Each participating lane writes cos(πx) within 2 ulp. -/
  | fcospi (o : A2)
  /-- FRINT (R228). Each participating lane rounds a to an integral FP32 value under RND. -/
  | frint (o : A2)
  /-- FFLOOR (R228). Each participating lane rounds a down to an integral FP32 value. -/
  | ffloor (o : A2)
  /-- FCEIL (R228). Each participating lane rounds a up to an integral FP32 value. -/
  | fceil (o : A2)
  /-- FTRUNC (R228). Each participating lane rounds a toward zero to an integral FP32 value. -/
  | ftrunc (o : A2)
  /-- CVTFI (R203). Each participating lane converts FP32 a to a clamped int32 under FMODE. -/
  | cvtfi (o : A2)
  /-- CVTFN (R204). Each participating lane encodes FP32 a into the format named by its conversion word b. -/
  | cvtfn (o : A3)
  /-- CVTIF (R203). Each participating lane converts int32 a to FP32 under FMODE. -/
  | cvtif (o : A2)
  /-- CVTNF (R204). Each participating lane decodes code a under conversion word b into FP32. -/
  | cvtnf (o : A3)
  /-- CVTHF (R203). Each participating lane widens the FP16 in a[15:0] to FP32. -/
  | cvthf (o : A2)
  /-- CVTBF (R203). Each participating lane widens the BF16 in a[15:0] to FP32. -/
  | cvtbf (o : A2)
  /-- CVTFHL (R203). Each participating lane narrows FP32 a to FP16 into the low half, keeping b's high half. -/
  | cvtfhl (o : A3)
  /-- CVTFHH (R203). Each participating lane narrows FP32 a to FP16 into the high half, keeping b's low half. -/
  | cvtfhh (o : A3)
  /-- CVTFBL (R203). Each participating lane narrows FP32 a to BF16 into the low half, keeping b's high half. -/
  | cvtfbl (o : A3)
  /-- CVTFBH (R203). Each participating lane narrows FP32 a to BF16 into the high half, keeping b's low half. -/
  | cvtfbh (o : A3)
  /-- FDOT2_F16X2 (R223). Each participating lane adds the exact dot product of two FP16 pairs to FP32 d with one rounding. -/
  | fdot2F16x2 (o : A3)
  /-- FDOT2_BF16X2 (R223). Each participating lane adds the exact dot product of two BF16 pairs to FP32 d with one rounding. -/
  | fdot2Bf16x2 (o : A3)
  /-- PACK8 (R205). Each participating lane encodes an FP32 quad into four narrow codes. -/
  | pack8 (o : A3)
  /-- PACK8H (R205). Each participating lane encodes an FP16 pair into four narrow codes. -/
  | pack8h (o : A3)
  /-- PACK8B (R205). Each participating lane encodes a BF16 pair into four narrow codes. -/
  | pack8b (o : A3)
  /-- UNPK8 (R205). Each participating lane decodes four narrow codes into an FP32 quad. -/
  | unpk8 (o : A3)
  /-- UNPK8H (R205). Each participating lane decodes four narrow codes into an FP16 pair. -/
  | unpk8h (o : A3)
  /-- UNPK8B (R205). Each participating lane decodes four narrow codes into a BF16 pair. -/
  | unpk8b (o : A3)
  /-- AMAX4 (R206). Each participating lane folds four FP32 magnitudes into a running maximum. -/
  | amax4 (o : A3)
  /-- FMTCHK (R206). Each participating lane writes validity flags of format word a. -/
  | fmtchk (o : A2)
  /-- SHFX (R230). Each participating lane reads a from lane l XOR b[4:0]. -/
  | shfx (o : A3)
  /-- SHFUP (R230). Each participating lane reads a from lane l − b[7:0]. -/
  | shfup (o : A3)
  /-- SHFDN (R230). Each participating lane reads a from lane l + b[7:0]. -/
  | shfdn (o : A3)
  /-- SHFIX (R230). Each participating lane reads a from lane b[4:0]. -/
  | shfix (o : A3)
  /-- BCASTI (R230). Each active lane reads a from the lane named by the immediate. -/
  | bcasti (o : AIsh)
  /-- SHFXI (R230). Each active lane reads a from lane l XOR the immediate. -/
  | shfxi (o : AIsh)
  /-- VALL (R231). Every participating lane receives whether all participating lanes have a nonzero. -/
  | vall (o : A2)
  /-- VANY (R231). Every participating lane receives whether any participating lane has a nonzero. -/
  | vany (o : A2)
  /-- VBAL (R231). Every participating lane receives the mask of participating lanes with a nonzero. -/
  | vbal (o : A2)
  /-- VCNT (R231). Every participating lane receives the count of participating lanes with a nonzero. -/
  | vcnt (o : A2)
  /-- REDADD (R232). Every participating lane receives the sum of a over participating lanes. -/
  | redadd (o : A2)
  /-- REDMIN (R232). Every participating lane receives the signed minimum of a over participating lanes. -/
  | redmin (o : A2)
  /-- REDMAX (R232). Every participating lane receives the signed maximum of a over participating lanes. -/
  | redmax (o : A2)
  /-- FREDADD (R233). Every participating lane receives the FP32 tree sum of a over participating lanes. -/
  | fredadd (o : A2)
  /-- SCANADD (R232). Each participating lane receives the inclusive integer prefix sum of a. -/
  | scanadd (o : A2)
  /-- FSCANADD (R233). Each participating lane receives the FP32 tree sum of a over participating lanes up to itself. -/
  | fscanadd (o : A2)
  /-- JMP (R287). Every active lane's PC moves by 4 × sext(off18). -/
  | jmp (off : BitVec 18)
  /-- CALL (R288). Each active lane advances its window by k, writes link registers and jumps. -/
  | call (k : Reg) (off : BitVec 18)
  /-- JMPR (R287). Each active lane jumps to its own register target. -/
  | jmpr (a : Reg)
  /-- CALLR (R288). Each active lane advances its window by k, writes link registers and jumps to its register target. -/
  | callr (k : Reg) (a : Reg)
  /-- RET (R288). Each active lane retreats its window by v94 and jumps to v95. -/
  | ret
  /-- EXIT (R300). Each participating lane moves to the exited state and leaves masks, loops and barriers. -/
  | exit (g : Bool)
  /-- BEQ (R286). Each active lane branches when a == b. -/
  | beq (o : AB)
  /-- BNE (R286). Each active lane branches when a ≠ b. -/
  | bne (o : AB)
  /-- BLTS (R286). Each active lane branches when a < b signed. -/
  | blts (o : AB)
  /-- BLTN (R286). Each active lane branches when a < b unsigned. -/
  | bltn (o : AB)
  /-- BGES (R286). Each active lane branches when a ≥ b signed. -/
  | bges (o : AB)
  /-- BGEN (R286). Each active lane branches when a ≥ b unsigned. -/
  | bgen (o : AB)
  /-- LOOP (R291). Opens or joins a zero-overhead loop level over the next len instructions. -/
  | loop (a : Reg) (len : BitVec 10)
  /-- RJEN (R290). Adds the active lanes to rejoin mask k. -/
  | rjen (k : BitVec 3)
  /-- RJWAIT (R290). Active lanes in rejoin mask k wait at it; the others continue. -/
  | rjwait (k : BitVec 3)
  /-- RJDROP (R290). Removes the active lanes from rejoin mask k. -/
  | rjdrop (k : BitVec 3)
  /-- RJCLR (R290). Clears rejoin mask k and releases every lane waiting at it. -/
  | rjclr (k : BitVec 3)
  /-- WADJ (R165). Moves each active lane's register window by a signed count. -/
  | wadj (imm : BitVec 10)
  /-- NOP (R297). Occupies an issue slot with no effect. -/
  | nop
  /-- YIELD (R297). Occupies an issue slot and offers a point to park or save the group. -/
  | yield
  /-- BAR (R296). Active lanes wait at team barrier n, which opens when every group has arrived. -/
  | bar (n : BitVec 4)
  /-- BARA (R296). Active lanes are marked arrived at team barrier n and continue. -/
  | bara (n : BitVec 4)
  /-- TRAPC (R297). Each participating lane takes the software trap with TINFO from a. -/
  | trapc (o : A1a)
  /-- BRK (R297). Each participating lane takes the breakpoint trap. -/
  | brk (g : Bool)
  /-- SIGX (R272). Each participating lane folds a into its register signature. -/
  | sigx (o : A1a)
  /-- IFENCE (R298). Waits for earlier ICINVs and discards the group's prefetched words. -/
  | ifence
  /-- ICINV (R298). Removes the instruction-cache line and loop-buffer bodies holding code offset a. -/
  | icinv (a : Reg)
  /-- LDW (R131). Each participating lane loads a 32-bit word asynchronously. -/
  | ldw (o : AM)
  /-- LDD (R131). Each participating lane loads 8 bytes into a pair asynchronously. -/
  | ldd (o : AM)
  /-- LDQ (R131). Each participating lane loads 16 bytes into a quad asynchronously. -/
  | ldq (o : AM)
  /-- LDHN (R131). Each participating lane loads a zero-extended halfword. -/
  | ldhn (o : AM)
  /-- LDHS (R131). Each participating lane loads a sign-extended halfword. -/
  | ldhs (o : AM)
  /-- LDBN (R131). Each participating lane loads a zero-extended byte. -/
  | ldbn (o : AM)
  /-- LDBS (R131). Each participating lane loads a sign-extended byte. -/
  | ldbs (o : AM)
  /-- STW (R131). Each participating lane stores a 32-bit word. -/
  | stw (o : AM)
  /-- STD (R131). Each participating lane stores an 8-byte pair. -/
  | std (o : AM)
  /-- STQ (R131). Each participating lane stores a 16-byte quad. -/
  | stq (o : AM)
  /-- STH (R131). Each participating lane stores a halfword. -/
  | sth (o : AM)
  /-- STB (R131). Each participating lane stores a byte. -/
  | stb (o : AM)
  /-- LDWX (R132). Each participating lane loads a word at a + sext(b) × 4. -/
  | ldwx (o : A3)
  /-- LDDX (R132). Each participating lane loads a pair at a + sext(b) × 8. -/
  | lddx (o : A3)
  /-- STWX (R132). Each participating lane stores a word at a + sext(b) × 4. -/
  | stwx (o : A3s)
  /-- STDX (R132). Each participating lane stores a pair at a + sext(b) × 8. -/
  | stdx (o : A3s)
  /-- LLW (R133). Each active lane loads a scratchpad word synchronously. -/
  | llw (o : AI)
  /-- LSW (R133). Each active lane stores a word to the scratchpad. -/
  | lsw (o : AIst)
  /-- LLD (R134). Each participating lane loads a scratchpad pair synchronously. -/
  | lld (o : A3)
  /-- LSD (R134). Each participating lane stores a pair to the scratchpad. -/
  | lsd (o : A3s)
  /-- LLQ (R134). Each participating lane loads a scratchpad quad synchronously. -/
  | llq (o : A3)
  /-- LSQ (R134). Each participating lane stores a quad to the scratchpad. -/
  | lsq (o : A3s)
  /-- AADD (R135). Atomically adds b to the word at the home slice and returns the old value. -/
  | aadd (o : AX)
  /-- AAND (R135). Atomically ANDs b into the word and returns the old value. -/
  | aand (o : AX)
  /-- AOR (R135). Atomically ORs b into the word and returns the old value. -/
  | aor (o : AX)
  /-- AXOR (R135). Atomically XORs b into the word and returns the old value. -/
  | axor (o : AX)
  /-- AMINS (R135). Atomically keeps the signed minimum of the word and b. -/
  | amins (o : AX)
  /-- AMINN (R135). Atomically keeps the unsigned minimum of the word and b. -/
  | aminn (o : AX)
  /-- AMAXS (R135). Atomically keeps the signed maximum of the word and b. -/
  | amaxs (o : AX)
  /-- AMAXN (R135). Atomically keeps the unsigned maximum of the word and b. -/
  | amaxn (o : AX)
  /-- ASWAP (R135). Atomically replaces the word with b and returns the old value. -/
  | aswap (o : AX)
  /-- ACAS (R135). Atomically replaces the word when it equals the expected value. -/
  | acas (o : AX)
  /-- AFADD (R136). Atomically adds FP32 b to the word with RNE. -/
  | afadd (o : AX)
  /-- ALD (R135). Atomically reads the word at its home slice without writing. -/
  | ald (o : AXld)
  /-- AST (R135). Atomically writes b to the word at its home slice. -/
  | ast (o : AXst)
  /-- FENCE (R139). Parks the group until the ordering conditions of its order and scope hold. -/
  | fence (order : MOrder) (scope : Scope)
  /-- CWB (R140). Writes the line's dirty sectors back to LPDDR-5X after earlier stores are acknowledged. -/
  | cwb (o : A1a)
  /-- CINV (R140). Drops the 128 B line holding a from the core's L1. -/
  | cinv (o : A1a)
  /-- PREF (R140). Fills the line holding a into the L1 and L2 without parking. -/
  | pref (o : A1a)
  /-- CPY (R101). Reads a copy descriptor, starts the copy and returns its ticket. -/
  | cpy (o : A2)
  /-- CPYWAIT (R101). Parks the group until no participating lane's ticket names a copy in flight. -/
  | cpywait (o : A1a)
  /-- CPYST (R101). Writes whether the ticket names no copy in flight. -/
  | cpyst (o : A2)
  /-- PUT (R114). Sends scratchpad bytes to another team's scratchpad and returns a ticket. -/
  | put (o : A2)
  /-- PUTM (R116). Sends scratchpad bytes to every team named by a multicast group. -/
  | putm (o : A2)
  /-- BINIT (R109). Marks a granule as a barrier object with the given expected count. -/
  | binit (o : A2ab)
  /-- BARV (R109). Adds a count to a barrier object's arrived word. -/
  | barv (o : A2ab)
  /-- BWAIT (R109). Parks until the barrier object's generation changes or it is open. -/
  | bwait (o : A2)
  /-- BKILL (R109). Kills and unmarks a barrier object, releasing its waiters. -/
  | bkill (o : A1a)
  /-- BEXP (R109). Adds an amount to a barrier object's expected word. -/
  | bexp (o : A2ab)
  /-- BTEST (R109). Writes the open and ERR bits of a barrier object. -/
  | btest (o : A2)
  /-- MMA (R240). Votes a descriptor and format word and queues a matrix multiply-accumulate. -/
  | mma (a : Reg) (b : Reg)
  /-- MMAS (R251). Queues a matrix operation split over the team's cluster as one instance. -/
  | mmas (a : Reg) (b : Reg)
  /-- MMAZ (R240). Queues a matrix operation whose tile starts from +0. -/
  | mmaz (a : Reg) (b : Reg)
  /-- ACRD (R256). Each participating lane reads an accumulator asynchronously. -/
  | acrd (o : A2)
  /-- ACWR (R256). Each participating lane writes a raw pattern to an accumulator. -/
  | acwr (o : A2s)
  /-- ACZ (R256). Each participating lane zeroes a run of accumulators. -/
  | acz (o : A2ab)
  /-- ACCVT (R256). Each participating lane converts four accumulators into packed narrow codes. -/
  | accvt (o : A3)
  /-- SPAWN (R321). Each participating lane enqueues a task into a bin or the overflow queue. -/
  | spawn (o : A3)
  /-- SFLUSH (R326). Triggers every open bin of the core with the named entry. -/
  | sflush (o : A1a)
  /-- LAUNCH (R327). Submits a launch record from scratchpad to the device launch queue. -/
  | launch (o : A2)
  /-- VPUB (R335). Publishes a new version of a tile. -/
  | vpub (o : A2)
  /-- VFIN (R335). Publishes a new version of a tile and makes it final. -/
  | vfin (o : A2)
  /-- VSTOP (R337). Stops a tile and cancels its queued run. -/
  | vstop (o : A1a)
  /-- VSTALE (R336). Returns whether the caller's run is marked stale, or exits it under KILLST. -/
  | vstale (o : A1d)
  /-- VRD (R338). Reads a tile record or the grid status word asynchronously. -/
  | vrd (o : A2)
  /-- VSLACK (R339). Parks the group until its refinement grid is at slack water. -/
  | vslack
  /-- VSEEN (R338). Reads the SEEN value of the caller's run asynchronously. -/
  | vseen (o : A1d)
  /-- GETS (R180). Reads a system register into d. -/
  | gets (d : Reg) (sel : BitVec 10)
  /-- PUTS (R181). Writes a system register that has no row of its own from the lowest active lane's a. -/
  | puts (sel : BitVec 10) (a : Reg)
  /-- DWRD (R372). Reads a debug-window item and its status. -/
  | dwrd (d : Reg) (a : Reg)
  /-- DWWR (R372). Writes a debug-window item that has no row of its own and returns its status. -/
  | dwwr (d : Reg) (a : Reg) (b : Reg)
  /-- TRET (R368). Resumes, kills the group, faults or kills the grid of the loaded trap. -/
  | tret (a : Reg)
  /-- HALT (R367). Parks the control core until a trap, message or request is pending and loads a trap. -/
  | halt (d : Reg)
  /-- ILLEGAL_WORD_ISSUE (R32). Issue of an illegal or privileged word traps at decode with no other effect. -/
  | illegalWordIssue (w : Word)
  /-- CYCLO_READ (R179). A read of CYCLO returns the low counter half and captures the high half into CYCHI. -/
  | cycloRead (d : Reg)
  /-- ACOWNER_WRITE (R255). A write of ACOWNER parks the control core until the old owner's matrix work drains. -/
  | acownerWrite (a : Reg)
  /-- ACOWNER_CHANGE (R255). Once the old owner's operations are complete, CTX takes the new value. -/
  | acownerChange (die : Die)
  /-- CONTEXT_SAVE (R373). Command 1 of the context unit saves a team to the stream address. -/
  | contextSave (die : Die) (via : Option CtxReq)
  /-- CONTEXT_RESTORE (R373). Command 2 of the context unit restores a stream onto a core. -/
  | contextRestore (die : Die) (via : Option CtxReq)
  /-- CONTEXT_COMMAND_DONE (R373). A running context-unit command ends and sets its status. -/
  | contextCommandDone (die : Die)
  /-- ICACHE_FILL (R298). An instruction-cache miss returns the current line from its home slice or a code fetch fault. -/
  | icacheFill (gid : Nat)
  /-- TRANSLATION_WALK_DONE (R60). A page walk ends and parked lanes proceed or trap. -/
  | translationWalkDone (die : Die) (n : Nat)
  /-- ASYNC_RETURN (R171). An asynchronous value returns and writes its slot if the generation tag matches. -/
  | asyncReturn (rid : Nat)
  /-- STORE_CURRENT_AT_HOME (R119). A store becomes current at its home slice, sets the dirty bit and forwards to sharers. -/
  | storeCurrentAtHome (rid : Nat)
  /-- ATOMIC_AT_HOME (R123). An atomic reads, computes and writes its word at the home slice as one step. -/
  | atomicAtHome (rid : Nat)
  /-- LOAD_AT_HOME (R118). A load miss is performed at the home slice, records the sharer and fills the L1. -/
  | loadAtHome (rid : Nat)
  /-- SHARER_UPDATE_APPLY (R149). A sharer L1 applies a forwarded update once its causal past is applied. -/
  | sharerUpdateApply (uid : Nat)
  /-- STORE_ACK (R147). A store's acknowledgement reaches its issuer and its words become settled. -/
  | storeAck (rid : Nat)
  /-- EPOCH_CLOSE (R149). A die closes its open epoch every 512 ns and sends close markers. -/
  | epochClose (die : Die)
  /-- CLOSE_MARKER_ARRIVE (R149). A close marker arrives and advances the die's applied vector. -/
  | closeMarkerArrive (dst : Die) (src : Die)
  /-- SEQUENCER_SERVE (R153). The sequencer serves one sequentially consistent fence request by closing every die's epoch. -/
  | sequencerServe
  /-- SPILL_BLOCK (R162). The spill engine writes a 32-entry block once no entry is pending. -/
  | spillBlock (gid : Nat)
  /-- FILL_BLOCK (R162). The spill engine reads a 32-entry block back from the frame. -/
  | fillBlock (gid : Nat)
  /-- LOOP_PACKET_EJECT (R74). A circulating packet is ejected at its destination when a buffer is free. -/
  | loopPacketEject (pid : Nat)
  /-- EDGE_FLIT_SEND (R81). An edge station packs queued loop flits into an edge flit and sends it. -/
  | edgeFlitSend (l : LinkId)
  /-- EDGE_FLIT_RECEIVE (R82). A receiver checks CRC and sequence, accepts or refuses, and reassembles packets. -/
  | edgeFlitReceive (l : LinkId) (crcOk : Bool)
  /-- EDGE_ACK_RECEIVE (R82). A sender takes an acknowledgement and returns credits to its window. -/
  | edgeAckReceive (l : LinkId)
  /-- EDGE_NAK_RECEIVE (R82). A sender resends from the flit after the last acknowledged one. -/
  | edgeNakReceive (l : LinkId)
  /-- WINDOW_AUDIT_SEND (R85). After every 4,096 data flits the sender sends a window-audit flit. -/
  | windowAuditSend (l : LinkId)
  /-- WINDOW_AUDIT_RECEIVE (R85). A receiver computes D from an intact audit flit for its next acknowledgement. -/
  | windowAuditReceive (l : LinkId) (intact : Bool)
  /-- LINK_LOSS_OF_LOCK (R83). Loss of lock on a link starts retraining. -/
  | linkLossOfLock (link : Nat)
  /-- LINK_RETRAIN_DONE (R83). Retraining ends and each sender resends from the last acknowledgement. -/
  | linkRetrainDone (link : Nat)
  /-- LINK_DOWN (R83). A link that fails to retrain within 1 ms is down and raises a link-down event. -/
  | linkDown (link : Nat)
  /-- RUTIK_PLANE_DOWN (R87). A Rutik plane going down moves its flows to the next plane and resends. -/
  | rutikPlaneDown (plane : Nat)
  /-- COPY_READ_RETURN (R98). A copy engine source read returns and is converted for landing. -/
  | copyReadReturn (core : Nat) (cid : Nat) (row : Nat) (piece : Nat)
  /-- COPY_LANDING (R94). A copy lands a line or sector, updates presence and counts into its barrier object. -/
  | copyLanding (core : Nat) (cid : Nat) (row : Nat) (piece : Nat)
  /-- PUT_RECEIVE (R115). A receiver checks, lands PUT bytes, counts them and replies. -/
  | putReceive (core : Nat) (cid : Nat) (dest : Nat)
  /-- PUT_REPLY (R115). The sender applies the reply to its object and the transfer leaves flight. -/
  | putReply (core : Nat) (cid : Nat) (dest : Nat)
  /-- MMA_QUEUE_START (R243). The matrix engine starts the next queued operation in queue order. -/
  | mmaQueueStart (core : Nat)
  /-- MMAS_INSTANCE_START (R251). Once every team has issued the n-th MMAS, the instance is compared and starts. -/
  | mmasInstanceStart (grid : Nat) (cluster : Nat)
  /-- MMA_OPERAND_READ (R245). An operand line arrives from scratchpad or the tile fetch unit and is consumed. -/
  | mmaOperandRead (core : Nat) (op : Nat) (isB : Bool) (va : Dword)
  /-- MMA_COMPLETE (R252). An operation completes, performs its release and counts 1 into its barrier object. -/
  | mmaComplete (core : Nat) (op : Nat)
  /-- GROUP_RETIRE (R301). A group retires when its lanes have exited and its returns and stores are done. -/
  | groupRetire (gid : Nat)
  /-- TEAM_RETIRE (R301). A team frees its allocations when its last group has retired and engine work is done. -/
  | teamRetire (tid : Nat)
  /-- COMMIT (R274). The winner's versions become current in release-number order and close epochs. -/
  | commit (run : Nat) (n : Nat)
  /-- GRID_END (R301). After all work and verdicts, the end flush runs and the completion record is written. -/
  | gridEnd (grid : Nat)
  /-- HOLD_TIMEOUT (R278). A store or log entry waiting beyond the hold timeout triggers the hold policy. -/
  | holdTimeout (gid : Nat)
  /-- DEMERIT_EXPIRE (R277). A demerit expires once its die has retired W further teams. -/
  | demeritExpire (core : Nat) (n : Nat)
  /-- FP_THRESHOLD_EVENT (R201). A counter reaching the FP event threshold posts one event to the grid's host queue. -/
  | fpThresholdEvent (grid : Nat) (counter : Nat)
  /-- BIN_TIMER_EXPIRE (R322). A bin's timer expires and triggers the bin. -/
  | binTimerExpire (core : Nat) (bin : Nat)
  /-- BIN_GROUP_START (R324). A triggered bin launches one group once a slot and allocations are free. -/
  | binGroupStart (core : Nat) (bin : Nat)
  /-- OVERFLOW_DRAIN (R323). The task unit starts up to 32 same-key tasks from the overflow queue head as one group. -/
  | overflowDrain (die : Die) (part : Nat) (core : Nat)
  /-- TASK_UNIT_CLOCK (R332). The task unit applies a clock's stops, publications and run ends, then tests firing. -/
  | taskUnitClock (grid : Nat)
  /-- DOORBELL_WRITE (R345). A host write of a doorbell records TAIL and may stop the queue. -/
  | doorbellWrite (qp : Nat) (rem : Remote) (val : Dword)
  /-- DISPATCH (R347). The dispatcher takes one record, checks it, and refuses it or makes it an active grid. -/
  | dispatch (part : Nat)
  /-- PLACEMENT (R350). Placement tries the first candidate and places it or blocks. -/
  | placement (part : Nat)
  /-- COMPACTOR_MOVE (R356). The compactor moves live blocks down on a core until the needed blocks are free. -/
  | compactorMove (core : Nat) (pool : Nat) (tid : Nat) (n : Nat)
  /-- RELEASE_WAVE (R359). A wave releases the first GPW groups of the domain's release queue. -/
  | releaseWave (dom : Nat)
  /-- PREEMPTION (R374). A pre-emption request picks victim clusters and vacates their cores. -/
  | preemption (r : MReq) (seq : Dword) (cores : Nat) (immediate : Bool)
  /-- PREEMPT_FORCE (R375). A cooperative pre-emption still running after 200 µs stops at its next boundary. -/
  | preemptForce
  /-- TEAM_SAVE (R375). A stopped team is drained, its context records written and allocations freed. -/
  | teamSave (tid : Nat)
  /-- CUT (R378). A cut request injects markers from Q0's control station. -/
  | cut (r : MReq) (seqs : List Dword) (num : BitVec 16)
  /-- CUT_MARKER_RECEIVE (R378). A station on its first marker stops the job's groups and injects its own markers. -/
  | cutMarkerReceive (die : Die) (station : Nat) (src : Nat) (num : BitVec 16)
  /-- CUT_COMPLETE (R380). When every station's cut is complete the job's teams are saved. -/
  | cutComplete (num : BitVec 16)
  /-- MIGRATION_SESSION (R385). Firmware starts an Ebb migration session to a destination package. -/
  | migrationSession (r : MReq) (e : EbbSetup)
  /-- EBB_PASS (R386). The Ebb engine reads and clears bitmap words and sends dirty granules. -/
  | ebbPass (region : Nat)
  /-- EBB_MESSAGE_RECEIVE (R387). The destination checks and places a migration message or aborts the session. -/
  | ebbMessageReceive (header rest : List (BitVec 8))
  /-- EBB_FINAL_COPY (R388). Stop-and-copy cuts the job, copies the last pass and sends the context stream. -/
  | ebbFinalCopy
  /-- DOMAIN_INTERVAL_BOUNDARY (R395). A domain moves between boost, intermediate and nominal and counts idle intervals. -/
  | domainIntervalBoundary (dom : Nat)
  /-- BOOST_CLAIM (R393). At clk 7,168 of an interval a domain claims boost for the next interval. -/
  | boostClaim (dom : Nat)
  /-- PERMIT_ARBITRATION (R394). The arbiter grants arrived claims from the permit pool in rotating order. -/
  | permitArbitration (arrived : BitVec 16)
  /-- DOMAIN_IDLE_ENTER (R390). Firmware puts a domain with no resident group into idle. -/
  | domainIdleEnter (dom : Nat)
  /-- DOMAIN_WAKE (R390). Firmware wakes an idle domain, which returns to nominal within 20 µs. -/
  | domainWake (dom : Nat)
  /-- TELEMETRY_FRAME (R400). A valid shelf frame is evaluated and sheds or restores classes. -/
  | telemetryFrame (f : Frame) (us : Nat)
  /-- SHED_FORCE (R402). A marked group still issuing 200 µs after m is forced to park. -/
  | shedForce (gid : Nat)
  /-- TELEMETRY_LOSS (R398). No valid frame within the loss timeout sets TLOSS and applies the loss class. -/
  | telemetryLoss (us : Nat)
  /-- POWER_CONTROL_STEP (R409). Every 20 µs the part measures power and adjusts boost refusal and partition duty. -/
  | powerControlStep (total : Nat) (attributed : List Nat)
  /-- THERMAL_THROTTLE (R423). A die above 105 °C takes duty 4 and raises a thermal alert. -/
  | thermalThrottle (die : Die) (temp : Nat)
  /-- THERMAL_RECOVER (R423). A throttled die falling below 100 °C leaves duty 4. -/
  | thermalRecover (die : Die) (temp : Nat)
  /-- THERMAL_TRIP (R423). At 115 °C the part holds itself in reset and signals the thermal-trip pin. -/
  | thermalTrip (die : Die) (temp : Nat)
  /-- RDMA_WRITE (R412). A host RDMA write lands at home slices of the queue pair's partition or errors. -/
  | rdmaWrite (qp : Nat) (rem : Remote) (bytes : List Byte)
  /-- RDMA_READ (R412). A host RDMA read is served from the partition's regions or errors. -/
  | rdmaRead (qp : Nat) (va : Dword) (len : Nat)
  /-- UEC_PACKET_RECEIVE (R88). A scale-out Ultra Ethernet packet lands at home slices like host RDMA. -/
  | uecPacketReceive (part : Nat) (va : Dword) (bytes : List Byte)
  /-- CM_REQ (R412). A communication-manager REQ is answered with a REP or REJ. -/
  | cmReq (service : Dword) (src : BitVec 128) (rc : Bool)
  /-- CM_RTU (R412). An RTU makes the connected queue pair ready. -/
  | cmRtu (qp : Nat)
  /-- CM_DREQ (R412). A DREQ disconnects a queue pair and is answered with a DREP. -/
  | cmDreq (qp : Nat)
  /-- UNKNOWN_REQUEST (R414). A management request of unknown type is answered with status 2. -/
  | unknownRequest (r : MReq) (type : Nat)
  /-- IDENTITY (R425). Request 0x01 returns serial, identity key and topology descriptor. -/
  | identity (r : MReq)
  /-- FIRMWARE_CHUNK (R418). Request 0x02 stores a chunk of the firmware image in Q0's L2. -/
  | firmwareChunk (r : MReq) (off : Word) (data : List Byte)
  /-- FIRMWARE_START (R418). Request 0x03 checks the image and starts it on the control cores. -/
  | firmwareStart (r : MReq)
  /-- HEALTH_RECORD (R280). Request 0x04 returns a freshly signed Fynil health record. -/
  | healthRecord (r : MReq)
  /-- PARTITION_CREATE (R419). Creates a partition from a mask of free whole bias domains. -/
  | partitionCreate (r : MReq) (mask : BitVec 16)
  /-- PARTITION_DESTROY (R419). Kills a partition's grids, flushes its regions and clears its resources. -/
  | partitionDestroy (r : MReq)
  /-- REGION_TABLE_WRITE (R426). Replaces a region-table entry at once. -/
  | regionTableWrite (r : MReq) (die : Nat) (idx : Nat) (entry : Dword)
  /-- REGION_FLUSH (R426). Starts a flush of a region, answered with status 1. -/
  | regionFlush (r : MReq) (die : Nat) (idx : Nat)
  /-- REGION_FLUSH_DRAINED (R426). Once no line holds a version or pin, dirty sectors are written back and invalidated. -/
  | regionFlushDrained (die : Nat) (idx : Nat)
  /-- SLOT_TABLE_WRITE (R76). Writes a loop's slot table, effective at one container boundary. -/
  | slotTableWrite (r : MReq) (die : Nat) (loop : Nat) (owners : List Nat)
  /-- MULTICAST_ENTRY_LOAD (R78). Loads or refuses one multicast table entry. -/
  | multicastEntryLoad (r : MReq) (die : Nat) (station : Nat) (ident : Nat) (entry : BitVec 128)
  /-- HOST_QUEUE_DESCRIPTOR_WRITE (R344). Writes a host queue descriptor. -/
  | hostQueueDescriptorWrite (r : MReq) (queue : Nat) (desc : BitVec 128)
  /-- DOORBELL_PAGE_READ (R427). Returns the doorbell page's RDMA address and key. -/
  | doorbellPageRead (r : MReq)
  /-- SPILL_POOL_SET (R161). Sets a partition's spill pool base and frame size. -/
  | spillPoolSet (r : MReq) (base : Dword) (frame : Nat)
  /-- LOG_REGION_SET (R267). Sets a partition's log region base and size. -/
  | logRegionSet (r : MReq) (base : Dword) (size : Nat)
  /-- OVERFLOW_QUEUE_SET (R323). Assigns a partition's overflow queue memory on a die. -/
  | overflowQueueSet (r : MReq) (die : Nat) (base : Dword) (tasks : Nat)
  /-- HOLD_TIMEOUT_SET (R278). Sets a partition's hold timeout. -/
  | holdTimeoutSet (r : MReq) (us : Nat)
  /-- PAGE_TABLE_ROOT_SET (R57). Sets or clears a partition's page-table root. -/
  | pageTableRootSet (r : MReq) (root : Option Dword)
  /-- TLB_SHOOTDOWN (R61). Starts dropping matching translations for a partition or range. -/
  | tlbShootdown (r : MReq) (range : Option (Dword × Dword))
  /-- TLB_SHOOTDOWN_COMPLETE (R61). The shootdown completes once old translations are dropped and their accesses performed. -/
  | tlbShootdownComplete (n : Nat)
  /-- DATA_QP_CREATE (R412). Creates a data queue pair for a partition and service ID. -/
  | dataQpCreate (r : MReq) (service : Dword)
  /-- DATA_QP_DESTROY (R412). Destroys a data queue pair. -/
  | dataQpDestroy (r : MReq) (qp : Nat)
  /-- KEY_INSTALL (R420). Derives a transport key, unwraps and installs an XTS key pair. -/
  | keyInstall (r : MReq) (ident : Nat) (point : List Byte) (wrapped : List Byte)
  /-- KEY_REPLACE (R420). Destroys and installs a key identifier in one step. -/
  | keyReplace (r : MReq) (ident : Nat) (point : List Byte) (wrapped : List Byte)
  /-- KEY_DESTROY (R64). Overwrites a key, discards its lines and versions and frees the identifier. -/
  | keyDestroy (r : MReq) (ident : Nat)
  /-- POWER_SETTINGS_WRITE (R392). Writes a power policy setting within its limits. -/
  | powerSettingsWrite (r : MReq) (s : PowerSetting)
  /-- POWER_STATUS_READ (R410). Returns the power status word. -/
  | powerStatusRead (r : MReq)
  /-- POWER_STATUS_CLEAR (R410). Clears W1C fields of the power status word. -/
  | powerStatusClear (r : MReq) (val : Word)
  /-- DEMERIT_POLICY_SET (R277). Sets the demerit threshold and window. -/
  | demeritPolicySet (r : MReq) (threshold : Nat) (window : Nat)
  /-- UNFENCE (R277). Unfences a core and clears its demerits. -/
  | unfence (r : MReq) (core : Nat)
  /-- SUSPECT_SLICE_CLEAR (R280). Clears the suspect-slice masks. -/
  | suspectSliceClear (r : MReq)
  /-- LINK_STATUS_READ (R86). Returns a link direction's status word. -/
  | linkStatusRead (r : MReq) (l : LinkId)
  /-- LINK_STATUS_CLEAR (R86). Clears counter fields of a link status word written with all ones. -/
  | linkStatusClear (r : MReq) (l : LinkId) (val : Dword)
  /-- LINK_RESET (R83). Resets a link, including a down one. -/
  | linkReset (r : MReq) (link : Nat)
  /-- PACKAGE_NUMBER_SET (R421). Sets the package number used by Rutik links and PKGID. -/
  | packageNumberSet (r : MReq) (num : Nat)
  /-- UE_ADDRESS_SET (R421). Sets the scale-out Ultra Ethernet port addresses. -/
  | ueAddressSet (r : MReq) (addrs : List Nat)
  /-- KILL_GRID (R369). Kills a grid and writes its completion record with KILLED. -/
  | killGrid (r : MReq) (seq : Dword)
  /-- PACKAGE_RESET (R422). Request 0x4F resets the package and starts bring-up. -/
  | packageReset (r : MReq)
  /-- RESET_PIN (R422). Assertion of the reset pin resets the package and starts bring-up. -/
  | resetPin
  /-- HOST_PORTS_UP (R422). Host ports come up and the management queue pair opens in the ROM phase. -/
  | hostPortsUp
  /-- MEMORY_SCRUB_COMPLETE (R422). The LPDDR-5X scrub under identifier 0 ends and the ready alert is raised. -/
  | memoryScrubComplete
  /-- CONTROLLER_ACCEPTS_WRITE (R140). The LPDDR-5X controller accepts a CWB write-back of the line's dirty sectors, which leaves them valid and clean and unparks the group. -/
  | controllerAcceptsWrite (gid : Nat)
  /-- LINK_TRAINING_COMPLETE (R86). A link in STATE 0 (training), after reset or a link reset, finishes training and goes to STATE 1 (up). -/
  | linkTrainingComplete (link : Nat)
  /-- DIE_SUPPLY_CHANGE (R391). The die supply voltage set by firmware's operating point crosses 0.70 V, and the die's SRAM write-assist with its extra clk per access is switched on or off. -/
  | dieSupplyChange (die : Die) (millivolts : Nat)
  deriving DecidableEq, Repr

end Sys2Proof
end

