-- ==== Sys2Proof/WellFormed.lean ====
section
/-! DEFINITION. Which instructions are legal words: operand classes, number ranges and assigned selectors
(spec 02 R22, R23, R24, R28, R31; 08 R176). -/

namespace Sys2Proof

/-- How an instruction uses a 7-bit field: a 32-bit source or destination (02 R22), a pair or a quad of either kind
(R23), or a number within a range (R24). -/
inductive Role where
  | src | dst | pair | quad
  | upTo (lo hi : Nat)
  deriving DecidableEq, Repr

/-- The values a field of each class may hold (02 R22, R23, R24). -/
def Role.ok (role : Role) (r : Reg) : Bool :=
  let n := r.toNat
  match role with
  | .src => n ≤ 124
  | .dst => n ≤ 119
  | .pair => n % 2 == 0 && (n ≤ 96 || (98 ≤ n && n ≤ 118))
  | .quad => n % 4 == 0 && (n ≤ 92 || n == 96 || (100 ≤ n && n ≤ 116))
  | .upTo lo hi => lo ≤ n && n ≤ hi

/-- The system register selectors that are assigned (08 R176). -/
def assignedSelectors : List Nat :=
  [0x000, 0x001, 0x010, 0x011, 0x012, 0x013, 0x014, 0x015, 0x016, 0x017, 0x018, 0x019, 0x020, 0x021, 0x022, 0x023,
   0x024, 0x028, 0x029, 0x02A, 0x02B, 0x02C, 0x02D, 0x02E, 0x02F, 0x030, 0x031, 0x032, 0x033, 0x040, 0x050, 0x051,
   0x052, 0x053, 0x060, 0x061, 0x062, 0x063, 0x070, 0x071, 0x072, 0x080, 0x081, 0x082, 0x090, 0x091, 0x092, 0x093,
   0x0A0] ++ [0x100, 0x101, 0x102, 0x103, 0x104, 0x105, 0x106, 0x107]

/-- The fields of an encoded instruction with the class each must have; an event has none. -/
def Instr.operands : Instr → List (Role × Reg)
  | .add o => [(.dst, o.d), (.src, o.a), (.src, o.b)]
  | .sub o => [(.dst, o.d), (.src, o.a), (.src, o.b)]
  | .mullo o => [(.dst, o.d), (.src, o.a), (.src, o.b)]
  | .maclo o => [(.dst, o.d), (.src, o.a), (.src, o.b)]
  | .mulhs o => [(.dst, o.d), (.src, o.a), (.src, o.b)]
  | .mulhn o => [(.dst, o.d), (.src, o.a), (.src, o.b)]
  | .mins o => [(.dst, o.d), (.src, o.a), (.src, o.b)]
  | .minn o => [(.dst, o.d), (.src, o.a), (.src, o.b)]
  | .maxs o => [(.dst, o.d), (.src, o.a), (.src, o.b)]
  | .maxn o => [(.dst, o.d), (.src, o.a), (.src, o.b)]
  | .and o => [(.dst, o.d), (.src, o.a), (.src, o.b)]
  | .or o => [(.dst, o.d), (.src, o.a), (.src, o.b)]
  | .xor o => [(.dst, o.d), (.src, o.a), (.src, o.b)]
  | .andn o => [(.dst, o.d), (.src, o.a), (.src, o.b)]
  | .shl o => [(.dst, o.d), (.src, o.a), (.src, o.b)]
  | .shr o => [(.dst, o.d), (.src, o.a), (.src, o.b)]
  | .sra o => [(.dst, o.d), (.src, o.a), (.src, o.b)]
  | .rotl o => [(.dst, o.d), (.src, o.a), (.src, o.b)]
  | .clz o => [(.dst, o.d), (.src, o.a)]
  | .popc o => [(.dst, o.d), (.src, o.a)]
  | .brev o => [(.dst, o.d), (.src, o.a)]
  | .bswap o => [(.dst, o.d), (.src, o.a)]
  | .sel o => [(.dst, o.d), (.src, o.a), (.src, o.b)]
  | .mov o => [(.dst, o.d), (.src, o.a)]
  | .gprd o => [(.dst, o.d)]
  | .gpwr o => [(.src, o.a)]
  | .ceq o => [(.dst, o.d), (.src, o.a), (.src, o.b)]
  | .cne o => [(.dst, o.d), (.src, o.a), (.src, o.b)]
  | .clts o => [(.dst, o.d), (.src, o.a), (.src, o.b)]
  | .cltn o => [(.dst, o.d), (.src, o.a), (.src, o.b)]
  | .cles o => [(.dst, o.d), (.src, o.a), (.src, o.b)]
  | .clen o => [(.dst, o.d), (.src, o.a), (.src, o.b)]
  | .addd o => [(.pair, o.d), (.pair, o.a), (.pair, o.b)]
  | .subd o => [(.pair, o.d), (.pair, o.a), (.pair, o.b)]
  | .mulw o => [(.pair, o.d), (.src, o.a), (.src, o.b)]
  | .mulws o => [(.pair, o.d), (.src, o.a), (.src, o.b)]
  | .shld o => [(.pair, o.d), (.pair, o.a), (.src, o.b)]
  | .shrd o => [(.pair, o.d), (.pair, o.a), (.src, o.b)]
  | .srad o => [(.pair, o.d), (.pair, o.a), (.src, o.b)]
  | .bfx o => [(.dst, o.d), (.src, o.a), (.src, o.b)]
  | .bfi o => [(.dst, o.d), (.src, o.a), (.src, o.b)]
  | .addi o => [(.dst, o.d), (.src, o.a)]
  | .andi o => [(.dst, o.d), (.src, o.a)]
  | .ori o => [(.dst, o.d), (.src, o.a)]
  | .xori o => [(.dst, o.d), (.src, o.a)]
  | .shli o => [(.dst, o.d), (.src, o.a)]
  | .shri o => [(.dst, o.d), (.src, o.a)]
  | .srai o => [(.dst, o.d), (.src, o.a)]
  | .rotli o => [(.dst, o.d), (.src, o.a)]
  | .muli o => [(.dst, o.d), (.src, o.a)]
  | .ceqi o => [(.dst, o.d), (.src, o.a)]
  | .cltsi o => [(.dst, o.d), (.src, o.a)]
  | .cltni o => [(.dst, o.d), (.src, o.a)]
  | .lih o => [(.dst, o.d)]
  | .lil o => [(.dst, o.d)]
  | .lis o => [(.dst, o.d)]
  | .adpc o => [(.dst, o.d)]
  | .fadd o => [(.dst, o.d), (.src, o.a), (.src, o.b)]
  | .fsub o => [(.dst, o.d), (.src, o.a), (.src, o.b)]
  | .fmul o => [(.dst, o.d), (.src, o.a), (.src, o.b)]
  | .fma o => [(.dst, o.d), (.src, o.a), (.src, o.b)]
  | .fmin o => [(.dst, o.d), (.src, o.a), (.src, o.b)]
  | .fmax o => [(.dst, o.d), (.src, o.a), (.src, o.b)]
  | .fceq o => [(.dst, o.d), (.src, o.a), (.src, o.b)]
  | .fclt o => [(.dst, o.d), (.src, o.a), (.src, o.b)]
  | .fcle o => [(.dst, o.d), (.src, o.a), (.src, o.b)]
  | .fcun o => [(.dst, o.d), (.src, o.a), (.src, o.b)]
  | .fabs o => [(.dst, o.d), (.src, o.a)]
  | .fneg o => [(.dst, o.d), (.src, o.a)]
  | .fcpsgn o => [(.dst, o.d), (.src, o.a), (.src, o.b)]
  | .fclass o => [(.dst, o.d), (.src, o.a)]
  | .frcp o => [(.dst, o.d), (.src, o.a)]
  | .frsq o => [(.dst, o.d), (.src, o.a)]
  | .fsqrt o => [(.dst, o.d), (.src, o.a)]
  | .fex2 o => [(.dst, o.d), (.src, o.a)]
  | .flg2 o => [(.dst, o.d), (.src, o.a)]
  | .fsinpi o => [(.dst, o.d), (.src, o.a)]
  | .fcospi o => [(.dst, o.d), (.src, o.a)]
  | .frint o => [(.dst, o.d), (.src, o.a)]
  | .ffloor o => [(.dst, o.d), (.src, o.a)]
  | .fceil o => [(.dst, o.d), (.src, o.a)]
  | .ftrunc o => [(.dst, o.d), (.src, o.a)]
  | .cvtfi o => [(.dst, o.d), (.src, o.a)]
  | .cvtfn o => [(.dst, o.d), (.src, o.a), (.src, o.b)]
  | .cvtif o => [(.dst, o.d), (.src, o.a)]
  | .cvtnf o => [(.dst, o.d), (.src, o.a), (.src, o.b)]
  | .cvthf o => [(.dst, o.d), (.src, o.a)]
  | .cvtbf o => [(.dst, o.d), (.src, o.a)]
  | .cvtfhl o => [(.dst, o.d), (.src, o.a), (.src, o.b)]
  | .cvtfhh o => [(.dst, o.d), (.src, o.a), (.src, o.b)]
  | .cvtfbl o => [(.dst, o.d), (.src, o.a), (.src, o.b)]
  | .cvtfbh o => [(.dst, o.d), (.src, o.a), (.src, o.b)]
  | .fdot2F16x2 o => [(.dst, o.d), (.src, o.a), (.src, o.b)]
  | .fdot2Bf16x2 o => [(.dst, o.d), (.src, o.a), (.src, o.b)]
  | .pack8 o => [(.dst, o.d), (.quad, o.a), (.src, o.b)]
  | .pack8h o => [(.dst, o.d), (.pair, o.a), (.src, o.b)]
  | .pack8b o => [(.dst, o.d), (.pair, o.a), (.src, o.b)]
  | .unpk8 o => [(.quad, o.d), (.src, o.a), (.src, o.b)]
  | .unpk8h o => [(.pair, o.d), (.src, o.a), (.src, o.b)]
  | .unpk8b o => [(.pair, o.d), (.src, o.a), (.src, o.b)]
  | .amax4 o => [(.dst, o.d), (.quad, o.a), (.src, o.b)]
  | .fmtchk o => [(.dst, o.d), (.src, o.a)]
  | .shfx o => [(.dst, o.d), (.src, o.a), (.src, o.b)]
  | .shfup o => [(.dst, o.d), (.src, o.a), (.src, o.b)]
  | .shfdn o => [(.dst, o.d), (.src, o.a), (.src, o.b)]
  | .shfix o => [(.dst, o.d), (.src, o.a), (.src, o.b)]
  | .bcasti o => [(.dst, o.d), (.src, o.a)]
  | .shfxi o => [(.dst, o.d), (.src, o.a)]
  | .vall o => [(.dst, o.d), (.src, o.a)]
  | .vany o => [(.dst, o.d), (.src, o.a)]
  | .vbal o => [(.dst, o.d), (.src, o.a)]
  | .vcnt o => [(.dst, o.d), (.src, o.a)]
  | .redadd o => [(.dst, o.d), (.src, o.a)]
  | .redmin o => [(.dst, o.d), (.src, o.a)]
  | .redmax o => [(.dst, o.d), (.src, o.a)]
  | .fredadd o => [(.dst, o.d), (.src, o.a)]
  | .scanadd o => [(.dst, o.d), (.src, o.a)]
  | .fscanadd o => [(.dst, o.d), (.src, o.a)]
  | .jmp _ => []
  | .call k _ => [(.upTo 1 88, k)]
  | .jmpr a => [(.src, a)]
  | .callr k a => [(.upTo 1 88, k), (.src, a)]
  | .ret => []
  | .exit _ => []
  | .beq o => [(.src, o.a), (.src, o.b)]
  | .bne o => [(.src, o.a), (.src, o.b)]
  | .blts o => [(.src, o.a), (.src, o.b)]
  | .bltn o => [(.src, o.a), (.src, o.b)]
  | .bges o => [(.src, o.a), (.src, o.b)]
  | .bgen o => [(.src, o.a), (.src, o.b)]
  | .loop a _ => [(.src, a)]
  | .rjen _ => []
  | .rjwait _ => []
  | .rjdrop _ => []
  | .rjclr _ => []
  | .wadj _ => []
  | .nop => []
  | .yield => []
  | .bar _ => []
  | .bara _ => []
  | .trapc o => [(.src, o.a)]
  | .brk _ => []
  | .sigx o => [(.src, o.a)]
  | .ifence => []
  | .icinv a => [(.src, a)]
  | .ldw o => [(.dst, o.t), (.pair, o.a)]
  | .ldd o => [(.pair, o.t), (.pair, o.a)]
  | .ldq o => [(.quad, o.t), (.pair, o.a)]
  | .ldhn o => [(.dst, o.t), (.pair, o.a)]
  | .ldhs o => [(.dst, o.t), (.pair, o.a)]
  | .ldbn o => [(.dst, o.t), (.pair, o.a)]
  | .ldbs o => [(.dst, o.t), (.pair, o.a)]
  | .stw o => [(.src, o.t), (.pair, o.a)]
  | .std o => [(.pair, o.t), (.pair, o.a)]
  | .stq o => [(.quad, o.t), (.pair, o.a)]
  | .sth o => [(.src, o.t), (.pair, o.a)]
  | .stb o => [(.src, o.t), (.pair, o.a)]
  | .ldwx o => [(.dst, o.d), (.pair, o.a), (.src, o.b)]
  | .lddx o => [(.pair, o.d), (.pair, o.a), (.src, o.b)]
  | .stwx o => [(.src, o.d), (.pair, o.a), (.src, o.b)]
  | .stdx o => [(.pair, o.d), (.pair, o.a), (.src, o.b)]
  | .llw o => [(.dst, o.d), (.src, o.a)]
  | .lsw o => [(.src, o.d), (.src, o.a)]
  | .lld o => [(.pair, o.d), (.src, o.a), (.src, o.b)]
  | .lsd o => [(.pair, o.d), (.src, o.a), (.src, o.b)]
  | .llq o => [(.quad, o.d), (.src, o.a), (.src, o.b)]
  | .lsq o => [(.quad, o.d), (.src, o.a), (.src, o.b)]
  | .aadd o => [(.dst, o.d), (.pair, o.a), (.src, o.b)]
  | .aand o => [(.dst, o.d), (.pair, o.a), (.src, o.b)]
  | .aor o => [(.dst, o.d), (.pair, o.a), (.src, o.b)]
  | .axor o => [(.dst, o.d), (.pair, o.a), (.src, o.b)]
  | .amins o => [(.dst, o.d), (.pair, o.a), (.src, o.b)]
  | .aminn o => [(.dst, o.d), (.pair, o.a), (.src, o.b)]
  | .amaxs o => [(.dst, o.d), (.pair, o.a), (.src, o.b)]
  | .amaxn o => [(.dst, o.d), (.pair, o.a), (.src, o.b)]
  | .aswap o => [(.dst, o.d), (.pair, o.a), (.src, o.b)]
  | .acas o => [(.dst, o.d), (.pair, o.a), (.pair, o.b)]
  | .afadd o => [(.dst, o.d), (.pair, o.a), (.src, o.b)]
  | .ald o => [(.dst, o.d), (.pair, o.a)]
  | .ast o => [(.pair, o.a), (.src, o.b)]
  | .fence _ _ => []
  | .cwb o => [(.pair, o.a)]
  | .cinv o => [(.pair, o.a)]
  | .pref o => [(.pair, o.a)]
  | .cpy o => [(.dst, o.d), (.src, o.a)]
  | .cpywait o => [(.src, o.a)]
  | .cpyst o => [(.dst, o.d), (.src, o.a)]
  | .put o => [(.dst, o.d), (.src, o.a)]
  | .putm o => [(.dst, o.d), (.src, o.a)]
  | .binit o => [(.src, o.a), (.src, o.b)]
  | .barv o => [(.src, o.a), (.src, o.b)]
  | .bwait o => [(.dst, o.d), (.src, o.a)]
  | .bkill o => [(.src, o.a)]
  | .bexp o => [(.src, o.a), (.src, o.b)]
  | .btest o => [(.dst, o.d), (.src, o.a)]
  | .mma a b => [(.src, a), (.src, b)]
  | .mmas a b => [(.src, a), (.src, b)]
  | .mmaz a b => [(.src, a), (.src, b)]
  | .acrd o => [(.dst, o.d), (.src, o.a)]
  | .acwr o => [(.src, o.d), (.src, o.a)]
  | .acz o => [(.src, o.a), (.src, o.b)]
  | .accvt o => [(.dst, o.d), (.src, o.a), (.src, o.b)]
  | .spawn o => [(.dst, o.d), (.src, o.a), (.upTo 0 88, o.b)]
  | .sflush o => [(.src, o.a)]
  | .launch o => [(.dst, o.d), (.src, o.a)]
  | .vpub o => [(.dst, o.d), (.src, o.a)]
  | .vfin o => [(.dst, o.d), (.src, o.a)]
  | .vstop o => [(.src, o.a)]
  | .vstale o => [(.dst, o.d)]
  | .vrd o => [(.pair, o.d), (.src, o.a)]
  | .vslack => []
  | .vseen o => [(.dst, o.d)]
  | .gets d _ => [(.dst, d)]
  | .puts _ a => [(.src, a)]
  | .dwrd d a => [(.pair, d), (.src, a)]
  | .dwwr d a b => [(.dst, d), (.src, a), (.src, b)]
  | .tret a => [(.src, a)]
  | .halt d => [(.dst, d)]
  | .illegalWordIssue _ => []
  | .cycloRead _ => []
  | .acownerWrite _ => []
  | .acownerChange _ => []
  | .contextSave _ _ => []
  | .contextRestore _ _ => []
  | .contextCommandDone _ => []
  | .icacheFill _ => []
  | .translationWalkDone _ _ => []
  | .asyncReturn _ => []
  | .storeCurrentAtHome _ => []
  | .atomicAtHome _ => []
  | .loadAtHome _ => []
  | .sharerUpdateApply _ => []
  | .storeAck _ => []
  | .epochClose _ => []
  | .closeMarkerArrive _ _ => []
  | .sequencerServe => []
  | .spillBlock _ => []
  | .fillBlock _ => []
  | .loopPacketEject _ => []
  | .edgeFlitSend _ => []
  | .edgeFlitReceive _ _ => []
  | .edgeAckReceive _ => []
  | .edgeNakReceive _ => []
  | .windowAuditSend _ => []
  | .windowAuditReceive _ _ => []
  | .linkLossOfLock _ => []
  | .linkRetrainDone _ => []
  | .linkDown _ => []
  | .rutikPlaneDown _ => []
  | .copyReadReturn _ _ _ _ => []
  | .copyLanding _ _ _ _ => []
  | .putReceive _ _ _ => []
  | .putReply _ _ _ => []
  | .mmaQueueStart _ => []
  | .mmasInstanceStart _ _ => []
  | .mmaOperandRead _ _ _ _ => []
  | .mmaComplete _ _ => []
  | .groupRetire _ => []
  | .teamRetire _ => []
  | .commit _ _ => []
  | .gridEnd _ => []
  | .holdTimeout _ => []
  | .demeritExpire _ _ => []
  | .fpThresholdEvent _ _ => []
  | .binTimerExpire _ _ => []
  | .binGroupStart _ _ => []
  | .overflowDrain _ _ _ => []
  | .taskUnitClock _ => []
  | .doorbellWrite _ _ _ => []
  | .dispatch _ => []
  | .placement _ => []
  | .compactorMove _ _ _ _ => []
  | .releaseWave _ => []
  | .preemption _ _ _ _ => []
  | .preemptForce => []
  | .teamSave _ => []
  | .cut _ _ _ => []
  | .cutMarkerReceive _ _ _ _ => []
  | .cutComplete _ => []
  | .migrationSession _ _ => []
  | .ebbPass _ => []
  | .ebbMessageReceive _ _ => []
  | .ebbFinalCopy => []
  | .domainIntervalBoundary _ => []
  | .boostClaim _ => []
  | .permitArbitration _ => []
  | .domainIdleEnter _ => []
  | .domainWake _ => []
  | .telemetryFrame _ _ => []
  | .shedForce _ => []
  | .telemetryLoss _ => []
  | .powerControlStep _ _ => []
  | .thermalThrottle _ _ => []
  | .thermalRecover _ _ => []
  | .thermalTrip _ _ => []
  | .rdmaWrite _ _ _ => []
  | .rdmaRead _ _ _ => []
  | .uecPacketReceive _ _ _ => []
  | .cmReq _ _ _ => []
  | .cmRtu _ => []
  | .cmDreq _ => []
  | .unknownRequest _ _ => []
  | .identity _ => []
  | .firmwareChunk _ _ _ => []
  | .firmwareStart _ => []
  | .healthRecord _ => []
  | .partitionCreate _ _ => []
  | .partitionDestroy _ => []
  | .regionTableWrite _ _ _ _ => []
  | .regionFlush _ _ _ => []
  | .regionFlushDrained _ _ => []
  | .slotTableWrite _ _ _ _ => []
  | .multicastEntryLoad _ _ _ _ _ => []
  | .hostQueueDescriptorWrite _ _ _ => []
  | .doorbellPageRead _ => []
  | .spillPoolSet _ _ _ => []
  | .logRegionSet _ _ _ => []
  | .overflowQueueSet _ _ _ _ => []
  | .holdTimeoutSet _ _ => []
  | .pageTableRootSet _ _ => []
  | .tlbShootdown _ _ => []
  | .tlbShootdownComplete _ => []
  | .dataQpCreate _ _ => []
  | .dataQpDestroy _ _ => []
  | .keyInstall _ _ _ _ => []
  | .keyReplace _ _ _ _ => []
  | .keyDestroy _ _ => []
  | .powerSettingsWrite _ _ => []
  | .powerStatusRead _ => []
  | .powerStatusClear _ _ => []
  | .demeritPolicySet _ _ _ => []
  | .unfence _ _ => []
  | .suspectSliceClear _ => []
  | .linkStatusRead _ _ => []
  | .linkStatusClear _ _ _ => []
  | .linkReset _ _ => []
  | .packageNumberSet _ _ => []
  | .ueAddressSet _ _ => []
  | .killGrid _ _ => []
  | .packageReset _ => []
  | .resetPin => []
  | .hostPortsUp => []
  | .memoryScrubComplete => []
  | .controllerAcceptsWrite _ => []
  | .linkTrainingComplete _ => []
  | .dieSupplyChange _ _ => []

/-- The selector a system-register instruction names is assigned (02 R28, R31). -/
def Instr.selectorOk : Instr → Bool
  | .gets _ x => assignedSelectors.contains x.toNat
  | .puts x _ => assignedSelectors.contains x.toNat
  | _ => true

/-- Every field of the instruction holds a value its class admits, and its selector is assigned (02 R31). Whether a
`PUTS` or a privileged word may be issued depends on the mode and is judged at issue (R33). -/
def Instr.wellFormed (i : Instr) : Bool :=
  i.operands.all (fun p => p.1.ok p.2) && i.selectorOk

end Sys2Proof
end

