-- ==== Sys2Proof/Decode.lean ====
section
/-! DEFINITION. Decoding an instruction word, total on any bytes and rejecting by name (spec 02 R19 to R31), and the
encoder, written from the same format and opcode tables. -/

namespace Sys2Proof

/-- Why a word is illegal (02 R31). -/
inductive Illegal where
  /-- fewer than four bytes were given -/
  | short
  /-- the opcode is marked "—" -/
  | opcode
  /-- fn selects an assignment marked "—" -/
  | assignment
  /-- a fixed-zero bit is nonzero -/
  | fixedBit
  /-- g = 1 where R26 forbids it -/
  | guard
  /-- nw = 1 on an instruction that writes no register -/
  | noWrite
  /-- an unused register field does not hold 96 -/
  | unusedField
  /-- a number field is above its range, or an immediate's high bits are nonzero -/
  | number
  /-- `ALD` or `AST` with a forbidden order -/
  | order
  /-- a register field, or a selector, that its class does not admit -/
  | operand
  deriving DecidableEq, Repr

/-- Bits [6:0]: the opcode (02 R19). -/
def opF (w : Word) : BitVec 7 := w.extractLsb' 0 7
/-- Bits [13:7]. -/
def dF (w : Word) : Reg := w.extractLsb' 7 7
/-- Bits [20:14]. -/
def aF (w : Word) : Reg := w.extractLsb' 14 7
/-- Bits [27:21]. -/
def bF (w : Word) : Reg := w.extractLsb' 21 7
/-- Bits [29:28]. -/
def fnF (w : Word) : BitVec 2 := w.extractLsb' 28 2
/-- Bit [30], the guard of format A. -/
def gF (w : Word) : Bool := w.getLsbD 30
/-- Bit [31]: nw in formats A and I, the guard in format M. -/
def topF (w : Word) : Bool := w.getLsbD 31
/-- Bits [30:21]: imm10, off10 and sel10. -/
def immF (w : Word) : BitVec 10 := w.extractLsb' 21 10
/-- Bits [29:14]: imm16. -/
def imm16F (w : Word) : BitVec 16 := w.extractLsb' 14 16
/-- Bits [31:14]: off18. -/
def off18F (w : Word) : BitVec 18 := w.extractLsb' 14 18

/-- The result of decoding one word. -/
abbrev Decoded := Except Illegal Instr

/-- Goes on when a condition holds, and otherwise rejects the word by name. -/
def need (c : Bool) (e : Illegal) (k : Decoded) : Decoded := if c then k else .error e

/-- An assignment marked "—". -/
def none4 : Decoded := .error .assignment

/-- Chooses among the four assignments of an opcode (02 R29). -/
def byFn (fn : BitVec 2) (c0 c1 c2 c3 : Decoded) : Decoded :=
  if fn = 0#2 then c0 else if fn = 1#2 then c1 else if fn = 2#2 then c2 else c3

def dA3 (c : A3 → Instr) (w : Word) : Decoded := .ok (c ⟨topF w, gF w, dF w, aF w, bF w⟩)
def dA2 (c : A2 → Instr) (w : Word) : Decoded :=
  need (bF w == Reg.z) .unusedField (.ok (c ⟨topF w, gF w, dF w, aF w⟩))
def dA1d (c : A1d → Instr) (w : Word) : Decoded :=
  need (bF w == Reg.z && aF w == Reg.z) .unusedField (.ok (c ⟨topF w, gF w, dF w⟩))
def dA1a (c : A1a → Instr) (w : Word) : Decoded :=
  need (!topF w) .noWrite (need (bF w == Reg.z && dF w == Reg.z) .unusedField (.ok (c ⟨gF w, aF w⟩)))
def dA2ab (c : A2ab → Instr) (w : Word) : Decoded :=
  need (!topF w) .noWrite (need (dF w == Reg.z) .unusedField (.ok (c ⟨gF w, aF w, bF w⟩)))
def dA3s (c : A3s → Instr) (w : Word) : Decoded :=
  need (!topF w) .noWrite (.ok (c ⟨gF w, dF w, aF w, bF w⟩))
def dA2s (c : A2s → Instr) (w : Word) : Decoded :=
  need (!topF w) .noWrite (need (bF w == Reg.z) .unusedField (.ok (c ⟨gF w, dF w, aF w⟩)))
/-- Opcodes 0x20 to 0x25: fn is the type, and 3 is illegal (02 R29). -/
def dAF (c : AF → Instr) (w : Word) : Decoded :=
  byFn (fnF w) (.ok (c ⟨topF w, gF w, .f32, dF w, aF w, bF w⟩)) (.ok (c ⟨topF w, gF w, .f16x2, dF w, aF w, bF w⟩))
    (.ok (c ⟨topF w, gF w, .bf16x2, dF w, aF w, bF w⟩)) none4
def dI (c : AI → Instr) (w : Word) : Decoded := .ok (c ⟨topF w, dF w, aF w, immF w⟩)
/-- imm10[9:5] must be 0 (02 R28). -/
def dIsh (c : AIsh → Instr) (w : Word) : Decoded :=
  need (w.extractLsb' 26 5 == 0#5) .number (.ok (c ⟨topF w, dF w, aF w, w.extractLsb' 21 5⟩))
def dIst (c : AIst → Instr) (w : Word) : Decoded := need (!topF w) .noWrite (.ok (c ⟨dF w, aF w, immF w⟩))
def dK (c : AK → Instr) (w : Word) : Decoded := .ok (c ⟨dF w, imm16F w⟩)
def dM (c : AM → Instr) (w : Word) : Decoded := .ok (c ⟨topF w, dF w, aF w, immF w⟩)

/-- The order field (02 R20). -/
def orderOf (b : BitVec 2) : MOrder :=
  if b = 0#2 then .rlx else if b = 1#2 then .acq else if b = 2#2 then .rel else .ar
/-- The scope field (02 R20). -/
def scopeOf (b : BitVec 2) : Scope :=
  if b = 0#2 then .team else if b = 1#2 then .cluster else if b = 2#2 then .device else .system

def dX (c : AX → Instr) (w : Word) : Decoded :=
  .ok (c ⟨orderOf (w.extractLsb' 30 2), scopeOf (fnF w), dF w, aF w, bF w⟩)
def dXld (c : AXld → Instr) (w : Word) : Decoded :=
  need (!topF w) .order (need (bF w == Reg.z) .unusedField (.ok (c ⟨gF w, scopeOf (fnF w), dF w, aF w⟩)))
def dXst (c : AXst → Instr) (w : Word) : Decoded :=
  need (!gF w) .order (need (dF w == Reg.z) .unusedField (.ok (c ⟨topF w, scopeOf (fnF w), aF w, bF w⟩)))
def dXF (c : MOrder → Scope → Instr) (w : Word) : Decoded :=
  need (dF w == Reg.z && aF w == Reg.z && bF w == Reg.z) .unusedField
    (.ok (c (orderOf (w.extractLsb' 30 2)) (scopeOf (fnF w))))
def dB (c : AB → Instr) (w : Word) : Decoded := need (!topF w) .fixedBit (.ok (c ⟨dF w, aF w, immF w⟩))
def dJ0 (c : BitVec 18 → Instr) (w : Word) : Decoded := need (dF w == 0#7) .number (.ok (c (off18F w)))
def dJk (c : Reg → BitVec 18 → Instr) (w : Word) : Decoded := .ok (c (dF w) (off18F w))
/-- A group-level format A word: g and nw are illegal (02 R26, R27). -/
def plain (w : Word) (k : Decoded) : Decoded := need (!gF w) .guard (need (!topF w) .noWrite k)
def dP0 (c : Instr) (w : Word) : Decoded :=
  plain w (need (dF w == Reg.z && aF w == Reg.z && bF w == Reg.z) .unusedField (.ok c))
def dP1a (c : Reg → Instr) (w : Word) : Decoded :=
  plain w (need (dF w == Reg.z && bF w == Reg.z) .unusedField (.ok (c (aF w))))
def dP1d (c : Reg → Instr) (w : Word) : Decoded :=
  plain w (need (aF w == Reg.z && bF w == Reg.z) .unusedField (.ok (c (dF w))))
def dPka (c : Reg → Reg → Instr) (w : Word) : Decoded :=
  plain w (need (bF w == Reg.z) .unusedField (.ok (c (dF w) (aF w))))
def dPda (c : Reg → Reg → Instr) (w : Word) : Decoded :=
  plain w (need (bF w == Reg.z) .unusedField (.ok (c (dF w) (aF w))))
def dP2 (c : Reg → Reg → Instr) (w : Word) : Decoded :=
  plain w (need (dF w == Reg.z) .unusedField (.ok (c (aF w) (bF w))))
def dP3 (c : Reg → Reg → Reg → Instr) (w : Word) : Decoded := plain w (.ok (c (dF w) (aF w) (bF w)))
def dAg (c : Bool → Instr) (w : Word) : Decoded :=
  need (!topF w) .noWrite
    (need (dF w == Reg.z && aF w == Reg.z && bF w == Reg.z) .unusedField (.ok (c (gF w))))
def dL (c : Reg → BitVec 10 → Instr) (w : Word) : Decoded :=
  need (!topF w) .noWrite (need (dF w == Reg.z) .unusedField (.ok (c (aF w) (immF w))))
def dW (c : BitVec 10 → Instr) (w : Word) : Decoded :=
  need (!topF w) .noWrite (need (dF w == Reg.z && aF w == Reg.z) .unusedField (.ok (c (immF w))))
/-- A rejoin mask number 0..7 in d (02 R24). -/
def dN3 (c : BitVec 3 → Instr) (w : Word) : Decoded :=
  plain w (need (aF w == Reg.z && bF w == Reg.z) .unusedField
    (need (w.extractLsb' 10 4 == 0#4) .number (.ok (c (w.extractLsb' 7 3)))))
/-- A barrier number 0..15 in d (02 R24). -/
def dN4 (c : BitVec 4 → Instr) (w : Word) : Decoded :=
  plain w (need (aF w == Reg.z && bF w == Reg.z) .unusedField
    (need (w.extractLsb' 11 3 == 0#3) .number (.ok (c (w.extractLsb' 7 4)))))
def dSg (c : Reg → BitVec 10 → Instr) (w : Word) : Decoded :=
  need (!topF w) .fixedBit (need (aF w == Reg.z) .unusedField (.ok (c (dF w) (immF w))))
def dSp (c : BitVec 10 → Reg → Instr) (w : Word) : Decoded :=
  need (!topF w) .fixedBit (need (dF w == Reg.z) .unusedField (.ok (c (immF w) (aF w))))

/-- The opcode map (02 R29), before operand classes are checked. -/
def decodeFields (w : Word) : Decoded :=
  match (opF w).toNat with
  | 0x01 => byFn (fnF w) (dA3 .add w) (dA3 .sub w) (dA3 .mullo w) (dA3 .maclo w)
  | 0x02 => byFn (fnF w) (dA3 .mulhs w) (dA3 .mulhn w) (dA3 .mins w) (dA3 .minn w)
  | 0x03 => byFn (fnF w) (dA3 .maxs w) (dA3 .maxn w) none4 none4
  | 0x04 => byFn (fnF w) (dA3 .and w) (dA3 .or w) (dA3 .xor w) (dA3 .andn w)
  | 0x05 => byFn (fnF w) (dA3 .shl w) (dA3 .shr w) (dA3 .sra w) (dA3 .rotl w)
  | 0x06 => byFn (fnF w) (dA2 .clz w) (dA2 .popc w) (dA2 .brev w) (dA2 .bswap w)
  | 0x07 => byFn (fnF w) (dA3 .sel w) (dA2 .mov w) (dA1d .gprd w) (dA1a .gpwr w)
  | 0x08 => byFn (fnF w) (dA3 .ceq w) (dA3 .cne w) (dA3 .clts w) (dA3 .cltn w)
  | 0x09 => byFn (fnF w) (dA3 .cles w) (dA3 .clen w) none4 none4
  | 0x0A => byFn (fnF w) (dA3 .addd w) (dA3 .subd w) (dA3 .mulw w) (dA3 .mulws w)
  | 0x0B => byFn (fnF w) (dA3 .shld w) (dA3 .shrd w) (dA3 .srad w) none4
  | 0x0C => byFn (fnF w) (dA3 .bfx w) (dA3 .bfi w) none4 none4
  | 0x10 => dI .addi w
  | 0x11 => dI .andi w
  | 0x12 => dI .ori w
  | 0x13 => dI .xori w
  | 0x14 => dIsh .shli w
  | 0x15 => dIsh .shri w
  | 0x16 => dIsh .srai w
  | 0x17 => dIsh .rotli w
  | 0x18 => dI .muli w
  | 0x19 => dI .ceqi w
  | 0x1A => dI .cltsi w
  | 0x1B => dI .cltni w
  | 0x1C => byFn (w.extractLsb' 30 2) (dK .lih w) (dK .lil w) (dK .lis w) (dK .adpc w)
  | 0x20 => dAF .fadd w
  | 0x21 => dAF .fsub w
  | 0x22 => dAF .fmul w
  | 0x23 => dAF .fma w
  | 0x24 => dAF .fmin w
  | 0x25 => dAF .fmax w
  | 0x26 => byFn (fnF w) (dA3 .fceq w) (dA3 .fclt w) (dA3 .fcle w) (dA3 .fcun w)
  | 0x27 => byFn (fnF w) (dA2 .fabs w) (dA2 .fneg w) (dA3 .fcpsgn w) (dA2 .fclass w)
  | 0x28 => byFn (fnF w) (dA2 .frcp w) (dA2 .frsq w) (dA2 .fsqrt w) (dA2 .fex2 w)
  | 0x29 => byFn (fnF w) (dA2 .flg2 w) (dA2 .fsinpi w) (dA2 .fcospi w) none4
  | 0x2A => byFn (fnF w) (dA2 .frint w) (dA2 .ffloor w) (dA2 .fceil w) (dA2 .ftrunc w)
  | 0x2B => byFn (fnF w) (dA2 .cvtfi w) (dA3 .cvtfn w) (dA2 .cvtif w) (dA3 .cvtnf w)
  | 0x2C => byFn (fnF w) (dA2 .cvthf w) (dA2 .cvtbf w) (dA3 .cvtfhl w) (dA3 .cvtfhh w)
  | 0x2D => byFn (fnF w) (dA3 .cvtfbl w) (dA3 .cvtfbh w) none4 none4
  | 0x2E => byFn (fnF w) none4 (dA3 .fdot2F16x2 w) (dA3 .fdot2Bf16x2 w) none4
  | 0x30 => byFn (fnF w) (dA3 .pack8 w) (dA3 .pack8h w) (dA3 .pack8b w) none4
  | 0x31 => byFn (fnF w) (dA3 .unpk8 w) (dA3 .unpk8h w) (dA3 .unpk8b w) none4
  | 0x32 => byFn (fnF w) (dA3 .amax4 w) (dA2 .fmtchk w) none4 none4
  | 0x38 => byFn (fnF w) (dA3 .shfx w) (dA3 .shfup w) (dA3 .shfdn w) (dA3 .shfix w)
  | 0x39 => dIsh .bcasti w
  | 0x3A => byFn (fnF w) (dA2 .vall w) (dA2 .vany w) (dA2 .vbal w) (dA2 .vcnt w)
  | 0x3B => byFn (fnF w) (dA2 .redadd w) (dA2 .redmin w) (dA2 .redmax w) (dA2 .fredadd w)
  | 0x3C => byFn (fnF w) (dA2 .scanadd w) (dA2 .fscanadd w) none4 none4
  | 0x3D => dIsh .shfxi w
  | 0x40 => dJ0 .jmp w
  | 0x41 => dJk .call w
  | 0x42 => byFn (fnF w) (dP1a .jmpr w) (dPka .callr w) (dP0 .ret w) (dAg .exit w)
  | 0x43 => dB .beq w
  | 0x44 => dB .bne w
  | 0x45 => dB .blts w
  | 0x46 => dB .bltn w
  | 0x47 => dB .bges w
  | 0x48 => dB .bgen w
  | 0x49 => dL .loop w
  | 0x4A => byFn (fnF w) (dN3 .rjen w) (dN3 .rjwait w) (dN3 .rjdrop w) (dN3 .rjclr w)
  | 0x4B => dW .wadj w
  | 0x4C => byFn (fnF w) (dP0 .nop w) (dP0 .yield w) (dN4 .bar w) (dN4 .bara w)
  | 0x4D => byFn (fnF w) (dA1a .trapc w) (dAg .brk w) (dA1a .sigx w) none4
  | 0x4E => byFn (fnF w) (dP0 .ifence w) (dP1a .icinv w) none4 none4
  | 0x50 => dM .ldw w
  | 0x51 => dM .ldd w
  | 0x52 => dM .ldq w
  | 0x53 => dM .ldhn w
  | 0x54 => dM .ldhs w
  | 0x55 => dM .ldbn w
  | 0x56 => dM .ldbs w
  | 0x57 => dM .stw w
  | 0x58 => dM .std w
  | 0x59 => dM .stq w
  | 0x5A => dM .sth w
  | 0x5B => dM .stb w
  | 0x5C => byFn (fnF w) (dA3 .ldwx w) (dA3 .lddx w) (dA3s .stwx w) (dA3s .stdx w)
  | 0x5D => dI .llw w
  | 0x5E => dIst .lsw w
  | 0x5F => byFn (fnF w) (dA3 .lld w) (dA3s .lsd w) (dA3 .llq w) (dA3s .lsq w)
  | 0x60 => dX .aadd w
  | 0x61 => dX .aand w
  | 0x62 => dX .aor w
  | 0x63 => dX .axor w
  | 0x64 => dX .amins w
  | 0x65 => dX .aminn w
  | 0x66 => dX .amaxs w
  | 0x67 => dX .amaxn w
  | 0x68 => dX .aswap w
  | 0x69 => dX .acas w
  | 0x6A => dX .afadd w
  | 0x6B => dXld .ald w
  | 0x6C => dXst .ast w
  | 0x6D => dXF .fence w
  | 0x6E => byFn (fnF w) (dA1a .cwb w) (dA1a .cinv w) (dA1a .pref w) none4
  | 0x70 => byFn (fnF w) (dA2 .cpy w) (dA1a .cpywait w) (dA2 .cpyst w) none4
  | 0x71 => byFn (fnF w) (dA2 .put w) (dA2 .putm w) none4 none4
  | 0x72 => byFn (fnF w) (dA2ab .binit w) (dA2ab .barv w) (dA2 .bwait w) (dA1a .bkill w)
  | 0x73 => byFn (fnF w) (dA2ab .bexp w) (dA2 .btest w) none4 none4
  | 0x74 => byFn (fnF w) (dP2 .mma w) (dP2 .mmas w) (dP2 .mmaz w) none4
  | 0x75 => byFn (fnF w) (dA2 .acrd w) (dA2s .acwr w) (dA2ab .acz w) (dA3 .accvt w)
  | 0x78 => byFn (fnF w) (dA3 .spawn w) (dA1a .sflush w) (dA2 .launch w) none4
  | 0x79 => byFn (fnF w) (dA2 .vpub w) (dA2 .vfin w) (dA1a .vstop w) (dA1d .vstale w)
  | 0x7A => byFn (fnF w) (dA2 .vrd w) (dP0 .vslack w) (dA1d .vseen w) none4
  | 0x7C => dSg .gets w
  | 0x7D => dSp .puts w
  | 0x7E => byFn (fnF w) (dPda .dwrd w) (dP3 .dwwr w) (dP1a .tret w) (dP1d .halt w)
  | _ => .error .opcode

/-- Decodes one instruction word: total, and illegal words are rejected by name (02 R31). -/
def decode (w : Word) : Decoded :=
  match decodeFields w with
  | .ok i => if i.wellFormed then .ok i else .error .operand
  | .error e => .error e

/-- A word from four bytes, the lowest address first (00 R2). -/
def wordOfBytes (b0 b1 b2 b3 : Byte) : Word := b3 ++ b2 ++ b1 ++ b0

/-- Decodes the instruction at the head of a list of bytes and gives the rest (02 R19: one word, little-endian). -/
def decodeBytes : List Byte → Except Illegal (Instr × List Byte)
  | b0 :: b1 :: b2 :: b3 :: rest => (decode (wordOfBytes b0 b1 b2 b3)).map (·, rest)
  | _ => .error .short

/-- The four bytes of a word, the lowest address first (00 R2). -/
def bytesOfWord (w : Word) : List Byte :=
  [w.extractLsb' 0 8, w.extractLsb' 8 8, w.extractLsb' 16 8, w.extractLsb' 24 8]

/-- What the decoder reads from the word of an operation-table row, laid out as the part stores it. -/
def decodeTableWord (nbits w : Nat) : Option Instr :=
  match decodeBytes (bytesOfWord (BitVec.ofNat 32 (w % 2 ^ nbits))) with
  | .ok (i, _) => some i
  | .error _ => none

/-! ### The encoder -/

/-- Format A (02 R20). -/
def eA (nw g : Bool) (fn : BitVec 2) (b a d op : BitVec 7) : Word :=
  BitVec.ofBool nw ++ BitVec.ofBool g ++ fn ++ b ++ a ++ d ++ op
/-- Formats I, M, B and S: a top bit, ten bits, two register fields (02 R20). -/
def eI (top : Bool) (imm : BitVec 10) (a d op : BitVec 7) : Word := BitVec.ofBool top ++ imm ++ a ++ d ++ op
/-- Format K (02 R20). -/
def eK (fn : BitVec 2) (imm : BitVec 16) (d op : BitVec 7) : Word := fn ++ imm ++ d ++ op
/-- Format X (02 R20). -/
def eX (order scope : BitVec 2) (b a d op : BitVec 7) : Word := order ++ scope ++ b ++ a ++ d ++ op
/-- Format J (02 R20). -/
def eJ (off : BitVec 18) (k op : BitVec 7) : Word := off ++ k ++ op
def ftypeBits : FType → BitVec 2
  | .f32 => 0#2 | .f16x2 => 1#2 | .bf16x2 => 2#2
def orderBits : MOrder → BitVec 2
  | .rlx => 0#2 | .acq => 1#2 | .rel => 2#2 | .ar => 3#2
def scopeBits : Scope → BitVec 2
  | .team => 0#2 | .cluster => 1#2 | .device => 2#2 | .system => 3#2

/-- The word of a well-formed encoded instruction; an event has no word and gives the illegal word 0. -/
def encode : Instr → Word
  | .add o => eA o.nw o.g 0#2 o.b o.a o.d 0x01#7
  | .sub o => eA o.nw o.g 1#2 o.b o.a o.d 0x01#7
  | .mullo o => eA o.nw o.g 2#2 o.b o.a o.d 0x01#7
  | .maclo o => eA o.nw o.g 3#2 o.b o.a o.d 0x01#7
  | .mulhs o => eA o.nw o.g 0#2 o.b o.a o.d 0x02#7
  | .mulhn o => eA o.nw o.g 1#2 o.b o.a o.d 0x02#7
  | .mins o => eA o.nw o.g 2#2 o.b o.a o.d 0x02#7
  | .minn o => eA o.nw o.g 3#2 o.b o.a o.d 0x02#7
  | .maxs o => eA o.nw o.g 0#2 o.b o.a o.d 0x03#7
  | .maxn o => eA o.nw o.g 1#2 o.b o.a o.d 0x03#7
  | .and o => eA o.nw o.g 0#2 o.b o.a o.d 0x04#7
  | .or o => eA o.nw o.g 1#2 o.b o.a o.d 0x04#7
  | .xor o => eA o.nw o.g 2#2 o.b o.a o.d 0x04#7
  | .andn o => eA o.nw o.g 3#2 o.b o.a o.d 0x04#7
  | .shl o => eA o.nw o.g 0#2 o.b o.a o.d 0x05#7
  | .shr o => eA o.nw o.g 1#2 o.b o.a o.d 0x05#7
  | .sra o => eA o.nw o.g 2#2 o.b o.a o.d 0x05#7
  | .rotl o => eA o.nw o.g 3#2 o.b o.a o.d 0x05#7
  | .clz o => eA o.nw o.g 0#2 Reg.z o.a o.d 0x06#7
  | .popc o => eA o.nw o.g 1#2 Reg.z o.a o.d 0x06#7
  | .brev o => eA o.nw o.g 2#2 Reg.z o.a o.d 0x06#7
  | .bswap o => eA o.nw o.g 3#2 Reg.z o.a o.d 0x06#7
  | .sel o => eA o.nw o.g 0#2 o.b o.a o.d 0x07#7
  | .mov o => eA o.nw o.g 1#2 Reg.z o.a o.d 0x07#7
  | .gprd o => eA o.nw o.g 2#2 Reg.z Reg.z o.d 0x07#7
  | .gpwr o => eA false o.g 3#2 Reg.z o.a Reg.z 0x07#7
  | .ceq o => eA o.nw o.g 0#2 o.b o.a o.d 0x08#7
  | .cne o => eA o.nw o.g 1#2 o.b o.a o.d 0x08#7
  | .clts o => eA o.nw o.g 2#2 o.b o.a o.d 0x08#7
  | .cltn o => eA o.nw o.g 3#2 o.b o.a o.d 0x08#7
  | .cles o => eA o.nw o.g 0#2 o.b o.a o.d 0x09#7
  | .clen o => eA o.nw o.g 1#2 o.b o.a o.d 0x09#7
  | .addd o => eA o.nw o.g 0#2 o.b o.a o.d 0x0A#7
  | .subd o => eA o.nw o.g 1#2 o.b o.a o.d 0x0A#7
  | .mulw o => eA o.nw o.g 2#2 o.b o.a o.d 0x0A#7
  | .mulws o => eA o.nw o.g 3#2 o.b o.a o.d 0x0A#7
  | .shld o => eA o.nw o.g 0#2 o.b o.a o.d 0x0B#7
  | .shrd o => eA o.nw o.g 1#2 o.b o.a o.d 0x0B#7
  | .srad o => eA o.nw o.g 2#2 o.b o.a o.d 0x0B#7
  | .bfx o => eA o.nw o.g 0#2 o.b o.a o.d 0x0C#7
  | .bfi o => eA o.nw o.g 1#2 o.b o.a o.d 0x0C#7
  | .addi o => eI o.nw o.imm o.a o.d 0x10#7
  | .andi o => eI o.nw o.imm o.a o.d 0x11#7
  | .ori o => eI o.nw o.imm o.a o.d 0x12#7
  | .xori o => eI o.nw o.imm o.a o.d 0x13#7
  | .shli o => eI o.nw (0#5 ++ o.imm) o.a o.d 0x14#7
  | .shri o => eI o.nw (0#5 ++ o.imm) o.a o.d 0x15#7
  | .srai o => eI o.nw (0#5 ++ o.imm) o.a o.d 0x16#7
  | .rotli o => eI o.nw (0#5 ++ o.imm) o.a o.d 0x17#7
  | .muli o => eI o.nw o.imm o.a o.d 0x18#7
  | .ceqi o => eI o.nw o.imm o.a o.d 0x19#7
  | .cltsi o => eI o.nw o.imm o.a o.d 0x1A#7
  | .cltni o => eI o.nw o.imm o.a o.d 0x1B#7
  | .lih o => eK 0#2 o.imm o.d 0x1C#7
  | .lil o => eK 1#2 o.imm o.d 0x1C#7
  | .lis o => eK 2#2 o.imm o.d 0x1C#7
  | .adpc o => eK 3#2 o.imm o.d 0x1C#7
  | .fadd o => eA o.nw o.g (ftypeBits o.ty) o.b o.a o.d 0x20#7
  | .fsub o => eA o.nw o.g (ftypeBits o.ty) o.b o.a o.d 0x21#7
  | .fmul o => eA o.nw o.g (ftypeBits o.ty) o.b o.a o.d 0x22#7
  | .fma o => eA o.nw o.g (ftypeBits o.ty) o.b o.a o.d 0x23#7
  | .fmin o => eA o.nw o.g (ftypeBits o.ty) o.b o.a o.d 0x24#7
  | .fmax o => eA o.nw o.g (ftypeBits o.ty) o.b o.a o.d 0x25#7
  | .fceq o => eA o.nw o.g 0#2 o.b o.a o.d 0x26#7
  | .fclt o => eA o.nw o.g 1#2 o.b o.a o.d 0x26#7
  | .fcle o => eA o.nw o.g 2#2 o.b o.a o.d 0x26#7
  | .fcun o => eA o.nw o.g 3#2 o.b o.a o.d 0x26#7
  | .fabs o => eA o.nw o.g 0#2 Reg.z o.a o.d 0x27#7
  | .fneg o => eA o.nw o.g 1#2 Reg.z o.a o.d 0x27#7
  | .fcpsgn o => eA o.nw o.g 2#2 o.b o.a o.d 0x27#7
  | .fclass o => eA o.nw o.g 3#2 Reg.z o.a o.d 0x27#7
  | .frcp o => eA o.nw o.g 0#2 Reg.z o.a o.d 0x28#7
  | .frsq o => eA o.nw o.g 1#2 Reg.z o.a o.d 0x28#7
  | .fsqrt o => eA o.nw o.g 2#2 Reg.z o.a o.d 0x28#7
  | .fex2 o => eA o.nw o.g 3#2 Reg.z o.a o.d 0x28#7
  | .flg2 o => eA o.nw o.g 0#2 Reg.z o.a o.d 0x29#7
  | .fsinpi o => eA o.nw o.g 1#2 Reg.z o.a o.d 0x29#7
  | .fcospi o => eA o.nw o.g 2#2 Reg.z o.a o.d 0x29#7
  | .frint o => eA o.nw o.g 0#2 Reg.z o.a o.d 0x2A#7
  | .ffloor o => eA o.nw o.g 1#2 Reg.z o.a o.d 0x2A#7
  | .fceil o => eA o.nw o.g 2#2 Reg.z o.a o.d 0x2A#7
  | .ftrunc o => eA o.nw o.g 3#2 Reg.z o.a o.d 0x2A#7
  | .cvtfi o => eA o.nw o.g 0#2 Reg.z o.a o.d 0x2B#7
  | .cvtfn o => eA o.nw o.g 1#2 o.b o.a o.d 0x2B#7
  | .cvtif o => eA o.nw o.g 2#2 Reg.z o.a o.d 0x2B#7
  | .cvtnf o => eA o.nw o.g 3#2 o.b o.a o.d 0x2B#7
  | .cvthf o => eA o.nw o.g 0#2 Reg.z o.a o.d 0x2C#7
  | .cvtbf o => eA o.nw o.g 1#2 Reg.z o.a o.d 0x2C#7
  | .cvtfhl o => eA o.nw o.g 2#2 o.b o.a o.d 0x2C#7
  | .cvtfhh o => eA o.nw o.g 3#2 o.b o.a o.d 0x2C#7
  | .cvtfbl o => eA o.nw o.g 0#2 o.b o.a o.d 0x2D#7
  | .cvtfbh o => eA o.nw o.g 1#2 o.b o.a o.d 0x2D#7
  | .fdot2F16x2 o => eA o.nw o.g 1#2 o.b o.a o.d 0x2E#7
  | .fdot2Bf16x2 o => eA o.nw o.g 2#2 o.b o.a o.d 0x2E#7
  | .pack8 o => eA o.nw o.g 0#2 o.b o.a o.d 0x30#7
  | .pack8h o => eA o.nw o.g 1#2 o.b o.a o.d 0x30#7
  | .pack8b o => eA o.nw o.g 2#2 o.b o.a o.d 0x30#7
  | .unpk8 o => eA o.nw o.g 0#2 o.b o.a o.d 0x31#7
  | .unpk8h o => eA o.nw o.g 1#2 o.b o.a o.d 0x31#7
  | .unpk8b o => eA o.nw o.g 2#2 o.b o.a o.d 0x31#7
  | .amax4 o => eA o.nw o.g 0#2 o.b o.a o.d 0x32#7
  | .fmtchk o => eA o.nw o.g 1#2 Reg.z o.a o.d 0x32#7
  | .shfx o => eA o.nw o.g 0#2 o.b o.a o.d 0x38#7
  | .shfup o => eA o.nw o.g 1#2 o.b o.a o.d 0x38#7
  | .shfdn o => eA o.nw o.g 2#2 o.b o.a o.d 0x38#7
  | .shfix o => eA o.nw o.g 3#2 o.b o.a o.d 0x38#7
  | .bcasti o => eI o.nw (0#5 ++ o.imm) o.a o.d 0x39#7
  | .shfxi o => eI o.nw (0#5 ++ o.imm) o.a o.d 0x3D#7
  | .vall o => eA o.nw o.g 0#2 Reg.z o.a o.d 0x3A#7
  | .vany o => eA o.nw o.g 1#2 Reg.z o.a o.d 0x3A#7
  | .vbal o => eA o.nw o.g 2#2 Reg.z o.a o.d 0x3A#7
  | .vcnt o => eA o.nw o.g 3#2 Reg.z o.a o.d 0x3A#7
  | .redadd o => eA o.nw o.g 0#2 Reg.z o.a o.d 0x3B#7
  | .redmin o => eA o.nw o.g 1#2 Reg.z o.a o.d 0x3B#7
  | .redmax o => eA o.nw o.g 2#2 Reg.z o.a o.d 0x3B#7
  | .fredadd o => eA o.nw o.g 3#2 Reg.z o.a o.d 0x3B#7
  | .scanadd o => eA o.nw o.g 0#2 Reg.z o.a o.d 0x3C#7
  | .fscanadd o => eA o.nw o.g 1#2 Reg.z o.a o.d 0x3C#7
  | .jmp off => eJ off 0#7 0x40#7
  | .call k off => eJ off k 0x41#7
  | .jmpr a => eA false false 0#2 Reg.z a Reg.z 0x42#7
  | .callr k a => eA false false 1#2 Reg.z a k 0x42#7
  | .ret => eA false false 2#2 Reg.z Reg.z Reg.z 0x42#7
  | .exit g => eA false g 3#2 Reg.z Reg.z Reg.z 0x42#7
  | .beq o => eI false o.off o.b o.a 0x43#7
  | .bne o => eI false o.off o.b o.a 0x44#7
  | .blts o => eI false o.off o.b o.a 0x45#7
  | .bltn o => eI false o.off o.b o.a 0x46#7
  | .bges o => eI false o.off o.b o.a 0x47#7
  | .bgen o => eI false o.off o.b o.a 0x48#7
  | .loop a len => eI false len a Reg.z 0x49#7
  | .rjen k => eA false false 0#2 Reg.z Reg.z (0#4 ++ k) 0x4A#7
  | .rjwait k => eA false false 1#2 Reg.z Reg.z (0#4 ++ k) 0x4A#7
  | .rjdrop k => eA false false 2#2 Reg.z Reg.z (0#4 ++ k) 0x4A#7
  | .rjclr k => eA false false 3#2 Reg.z Reg.z (0#4 ++ k) 0x4A#7
  | .wadj imm => eI false imm Reg.z Reg.z 0x4B#7
  | .nop => eA false false 0#2 Reg.z Reg.z Reg.z 0x4C#7
  | .yield => eA false false 1#2 Reg.z Reg.z Reg.z 0x4C#7
  | .bar n => eA false false 2#2 Reg.z Reg.z (0#3 ++ n) 0x4C#7
  | .bara n => eA false false 3#2 Reg.z Reg.z (0#3 ++ n) 0x4C#7
  | .trapc o => eA false o.g 0#2 Reg.z o.a Reg.z 0x4D#7
  | .brk g => eA false g 1#2 Reg.z Reg.z Reg.z 0x4D#7
  | .sigx o => eA false o.g 2#2 Reg.z o.a Reg.z 0x4D#7
  | .ifence => eA false false 0#2 Reg.z Reg.z Reg.z 0x4E#7
  | .icinv a => eA false false 1#2 Reg.z a Reg.z 0x4E#7
  | .ldw o => eI o.g o.off o.a o.t 0x50#7
  | .ldd o => eI o.g o.off o.a o.t 0x51#7
  | .ldq o => eI o.g o.off o.a o.t 0x52#7
  | .ldhn o => eI o.g o.off o.a o.t 0x53#7
  | .ldhs o => eI o.g o.off o.a o.t 0x54#7
  | .ldbn o => eI o.g o.off o.a o.t 0x55#7
  | .ldbs o => eI o.g o.off o.a o.t 0x56#7
  | .stw o => eI o.g o.off o.a o.t 0x57#7
  | .std o => eI o.g o.off o.a o.t 0x58#7
  | .stq o => eI o.g o.off o.a o.t 0x59#7
  | .sth o => eI o.g o.off o.a o.t 0x5A#7
  | .stb o => eI o.g o.off o.a o.t 0x5B#7
  | .ldwx o => eA o.nw o.g 0#2 o.b o.a o.d 0x5C#7
  | .lddx o => eA o.nw o.g 1#2 o.b o.a o.d 0x5C#7
  | .stwx o => eA false o.g 2#2 o.b o.a o.d 0x5C#7
  | .stdx o => eA false o.g 3#2 o.b o.a o.d 0x5C#7
  | .llw o => eI o.nw o.imm o.a o.d 0x5D#7
  | .lsw o => eI false o.imm o.a o.d 0x5E#7
  | .lld o => eA o.nw o.g 0#2 o.b o.a o.d 0x5F#7
  | .lsd o => eA false o.g 1#2 o.b o.a o.d 0x5F#7
  | .llq o => eA o.nw o.g 2#2 o.b o.a o.d 0x5F#7
  | .lsq o => eA false o.g 3#2 o.b o.a o.d 0x5F#7
  | .aadd o => eX (orderBits o.order) (scopeBits o.scope) o.b o.a o.d 0x60#7
  | .aand o => eX (orderBits o.order) (scopeBits o.scope) o.b o.a o.d 0x61#7
  | .aor o => eX (orderBits o.order) (scopeBits o.scope) o.b o.a o.d 0x62#7
  | .axor o => eX (orderBits o.order) (scopeBits o.scope) o.b o.a o.d 0x63#7
  | .amins o => eX (orderBits o.order) (scopeBits o.scope) o.b o.a o.d 0x64#7
  | .aminn o => eX (orderBits o.order) (scopeBits o.scope) o.b o.a o.d 0x65#7
  | .amaxs o => eX (orderBits o.order) (scopeBits o.scope) o.b o.a o.d 0x66#7
  | .amaxn o => eX (orderBits o.order) (scopeBits o.scope) o.b o.a o.d 0x67#7
  | .aswap o => eX (orderBits o.order) (scopeBits o.scope) o.b o.a o.d 0x68#7
  | .acas o => eX (orderBits o.order) (scopeBits o.scope) o.b o.a o.d 0x69#7
  | .afadd o => eX (orderBits o.order) (scopeBits o.scope) o.b o.a o.d 0x6A#7
  | .ald o => eX (0#1 ++ BitVec.ofBool o.acq) (scopeBits o.scope) Reg.z o.a o.d 0x6B#7
  | .ast o => eX (BitVec.ofBool o.rel ++ 0#1) (scopeBits o.scope) o.b o.a Reg.z 0x6C#7
  | .fence order scope => eX (orderBits order) (scopeBits scope) Reg.z Reg.z Reg.z 0x6D#7
  | .cwb o => eA false o.g 0#2 Reg.z o.a Reg.z 0x6E#7
  | .cinv o => eA false o.g 1#2 Reg.z o.a Reg.z 0x6E#7
  | .pref o => eA false o.g 2#2 Reg.z o.a Reg.z 0x6E#7
  | .cpy o => eA o.nw o.g 0#2 Reg.z o.a o.d 0x70#7
  | .cpywait o => eA false o.g 1#2 Reg.z o.a Reg.z 0x70#7
  | .cpyst o => eA o.nw o.g 2#2 Reg.z o.a o.d 0x70#7
  | .put o => eA o.nw o.g 0#2 Reg.z o.a o.d 0x71#7
  | .putm o => eA o.nw o.g 1#2 Reg.z o.a o.d 0x71#7
  | .binit o => eA false o.g 0#2 o.b o.a Reg.z 0x72#7
  | .barv o => eA false o.g 1#2 o.b o.a Reg.z 0x72#7
  | .bwait o => eA o.nw o.g 2#2 Reg.z o.a o.d 0x72#7
  | .bkill o => eA false o.g 3#2 Reg.z o.a Reg.z 0x72#7
  | .bexp o => eA false o.g 0#2 o.b o.a Reg.z 0x73#7
  | .btest o => eA o.nw o.g 1#2 Reg.z o.a o.d 0x73#7
  | .mma a b => eA false false 0#2 b a Reg.z 0x74#7
  | .mmas a b => eA false false 1#2 b a Reg.z 0x74#7
  | .mmaz a b => eA false false 2#2 b a Reg.z 0x74#7
  | .acrd o => eA o.nw o.g 0#2 Reg.z o.a o.d 0x75#7
  | .acwr o => eA false o.g 1#2 Reg.z o.a o.d 0x75#7
  | .acz o => eA false o.g 2#2 o.b o.a Reg.z 0x75#7
  | .accvt o => eA o.nw o.g 3#2 o.b o.a o.d 0x75#7
  | .spawn o => eA o.nw o.g 0#2 o.b o.a o.d 0x78#7
  | .sflush o => eA false o.g 1#2 Reg.z o.a Reg.z 0x78#7
  | .launch o => eA o.nw o.g 2#2 Reg.z o.a o.d 0x78#7
  | .vpub o => eA o.nw o.g 0#2 Reg.z o.a o.d 0x79#7
  | .vfin o => eA o.nw o.g 1#2 Reg.z o.a o.d 0x79#7
  | .vstop o => eA false o.g 2#2 Reg.z o.a Reg.z 0x79#7
  | .vstale o => eA o.nw o.g 3#2 Reg.z Reg.z o.d 0x79#7
  | .vrd o => eA o.nw o.g 0#2 Reg.z o.a o.d 0x7A#7
  | .vslack => eA false false 1#2 Reg.z Reg.z Reg.z 0x7A#7
  | .vseen o => eA o.nw o.g 2#2 Reg.z Reg.z o.d 0x7A#7
  | .gets d sel => eI false sel Reg.z d 0x7C#7
  | .puts sel a => eI false sel a Reg.z 0x7D#7
  | .dwrd d a => eA false false 0#2 Reg.z a d 0x7E#7
  | .dwwr d a b => eA false false 1#2 b a d 0x7E#7
  | .tret a => eA false false 2#2 Reg.z a Reg.z 0x7E#7
  | .halt d => eA false false 3#2 Reg.z Reg.z d 0x7E#7
  | .illegalWordIssue _ => 0#32
  | .cycloRead _ => 0#32
  | .acownerWrite _ => 0#32
  | .acownerChange _ => 0#32
  | .contextSave _ _ => 0#32
  | .contextRestore _ _ => 0#32
  | .contextCommandDone _ => 0#32
  | .icacheFill _ => 0#32
  | .translationWalkDone _ _ => 0#32
  | .asyncReturn _ => 0#32
  | .storeCurrentAtHome _ => 0#32
  | .atomicAtHome _ => 0#32
  | .loadAtHome _ => 0#32
  | .sharerUpdateApply _ => 0#32
  | .storeAck _ => 0#32
  | .epochClose _ => 0#32
  | .closeMarkerArrive _ _ => 0#32
  | .sequencerServe => 0#32
  | .spillBlock _ => 0#32
  | .fillBlock _ => 0#32
  | .loopPacketEject _ => 0#32
  | .edgeFlitSend _ => 0#32
  | .edgeFlitReceive _ _ => 0#32
  | .edgeAckReceive _ => 0#32
  | .edgeNakReceive _ => 0#32
  | .windowAuditSend _ => 0#32
  | .windowAuditReceive _ _ => 0#32
  | .linkLossOfLock _ => 0#32
  | .linkRetrainDone _ => 0#32
  | .linkDown _ => 0#32
  | .rutikPlaneDown _ => 0#32
  | .copyReadReturn _ _ _ _ => 0#32
  | .copyLanding _ _ _ _ => 0#32
  | .putReceive _ _ _ => 0#32
  | .putReply _ _ _ => 0#32
  | .mmaQueueStart _ => 0#32
  | .mmasInstanceStart _ _ => 0#32
  | .mmaOperandRead _ _ _ _ => 0#32
  | .mmaComplete _ _ => 0#32
  | .groupRetire _ => 0#32
  | .teamRetire _ => 0#32
  | .commit _ _ => 0#32
  | .gridEnd _ => 0#32
  | .holdTimeout _ => 0#32
  | .demeritExpire _ _ => 0#32
  | .fpThresholdEvent _ _ => 0#32
  | .binTimerExpire _ _ => 0#32
  | .binGroupStart _ _ => 0#32
  | .overflowDrain _ _ _ => 0#32
  | .taskUnitClock _ => 0#32
  | .doorbellWrite _ _ _ => 0#32
  | .dispatch _ => 0#32
  | .placement _ => 0#32
  | .compactorMove _ _ _ _ => 0#32
  | .releaseWave _ => 0#32
  | .preemption _ _ _ _ => 0#32
  | .preemptForce => 0#32
  | .teamSave _ => 0#32
  | .cut _ _ _ => 0#32
  | .cutMarkerReceive _ _ _ _ => 0#32
  | .cutComplete _ => 0#32
  | .migrationSession _ _ => 0#32
  | .ebbPass _ => 0#32
  | .ebbMessageReceive _ _ => 0#32
  | .ebbFinalCopy => 0#32
  | .domainIntervalBoundary _ => 0#32
  | .boostClaim _ => 0#32
  | .permitArbitration _ => 0#32
  | .domainIdleEnter _ => 0#32
  | .domainWake _ => 0#32
  | .telemetryFrame _ _ => 0#32
  | .shedForce _ => 0#32
  | .telemetryLoss _ => 0#32
  | .powerControlStep _ _ => 0#32
  | .thermalThrottle _ _ => 0#32
  | .thermalRecover _ _ => 0#32
  | .thermalTrip _ _ => 0#32
  | .rdmaWrite _ _ _ => 0#32
  | .rdmaRead _ _ _ => 0#32
  | .uecPacketReceive _ _ _ => 0#32
  | .cmReq _ _ _ => 0#32
  | .cmRtu _ => 0#32
  | .cmDreq _ => 0#32
  | .unknownRequest _ _ => 0#32
  | .identity _ => 0#32
  | .firmwareChunk _ _ _ => 0#32
  | .firmwareStart _ => 0#32
  | .healthRecord _ => 0#32
  | .partitionCreate _ _ => 0#32
  | .partitionDestroy _ => 0#32
  | .regionTableWrite _ _ _ _ => 0#32
  | .regionFlush _ _ _ => 0#32
  | .regionFlushDrained _ _ => 0#32
  | .slotTableWrite _ _ _ _ => 0#32
  | .multicastEntryLoad _ _ _ _ _ => 0#32
  | .hostQueueDescriptorWrite _ _ _ => 0#32
  | .doorbellPageRead _ => 0#32
  | .spillPoolSet _ _ _ => 0#32
  | .logRegionSet _ _ _ => 0#32
  | .overflowQueueSet _ _ _ _ => 0#32
  | .holdTimeoutSet _ _ => 0#32
  | .pageTableRootSet _ _ => 0#32
  | .tlbShootdown _ _ => 0#32
  | .tlbShootdownComplete _ => 0#32
  | .dataQpCreate _ _ => 0#32
  | .dataQpDestroy _ _ => 0#32
  | .keyInstall _ _ _ _ => 0#32
  | .keyReplace _ _ _ _ => 0#32
  | .keyDestroy _ _ => 0#32
  | .powerSettingsWrite _ _ => 0#32
  | .powerStatusRead _ => 0#32
  | .powerStatusClear _ _ => 0#32
  | .demeritPolicySet _ _ _ => 0#32
  | .unfence _ _ => 0#32
  | .suspectSliceClear _ => 0#32
  | .linkStatusRead _ _ => 0#32
  | .linkStatusClear _ _ _ => 0#32
  | .linkReset _ _ => 0#32
  | .packageNumberSet _ _ => 0#32
  | .ueAddressSet _ _ => 0#32
  | .killGrid _ _ => 0#32
  | .packageReset _ => 0#32
  | .resetPin => 0#32
  | .hostPortsUp => 0#32
  | .memoryScrubComplete => 0#32
  | .controllerAcceptsWrite _ => 0#32
  | .linkTrainingComplete _ => 0#32
  | .dieSupplyChange _ _ => 0#32

/-- The encoded instructions, those with a word. An event is none of them. -/
def Instr.hasWord (i : Instr) : Bool := encode i != 0#32

end Sys2Proof
end

