-- ==== Sys2Proof/Machine/Assoc.lean ====
section
/-! DEFINITION. Tables: finite maps from numbers held as lists of key and value pairs with rising keys. A table either says
which keys exist (`find`, `put`, `del`) or holds a value for every key, the unlisted ones a default (`getD`, `setD`); in
the second use no listed value equals the default, so equal tables are equal lists. -/

namespace Sys2Proof.Machine

/-- A finite map keyed by numbers, keys rising. -/
abbrev Tab (α : Type) := List (Nat × α)

/-- Puts an element into a sorted list, before the first it may stand before. -/
def insertBy {α : Type} (le : α → α → Bool) (a : α) : List α → List α
  | [] => [a]
  | b :: t => if le a b then a :: b :: t else b :: insertBy le a t
/-- A list in order; elements that are equal in the order keep theirs. -/
def sortBy {α : Type} (le : α → α → Bool) (l : List α) : List α := l.foldr (insertBy le) []

/-- The value at a key, if listed. -/
def Tab.find {α : Type} (m : Tab α) (k : Nat) : Option α :=
  match m with
  | [] => none
  | (k', v) :: t => if k' = k then some v else Tab.find t k

/-- The table without a key. -/
def Tab.del {α : Type} (m : Tab α) (k : Nat) : Tab α :=
  match m with
  | [] => []
  | (k', v) :: t => if k' = k then Tab.del t k else (k', v) :: Tab.del t k

/-- Inserts an entry before the first greater key. -/
def Tab.ins {α : Type} (m : Tab α) (k : Nat) (v : α) : Tab α :=
  match m with
  | [] => [(k, v)]
  | (k', v') :: t => if k < k' then (k, v) :: (k', v') :: t else (k', v') :: Tab.ins t k v

/-- The table with a key set to a value. -/
def Tab.put {α : Type} (m : Tab α) (k : Nat) (v : α) : Tab α := Tab.ins (Tab.del m k) k v

/-- The value at a key of a total table. -/
def Tab.getD {α : Type} (m : Tab α) (d : α) (k : Nat) : α := (Tab.find m k).getD d

/-- Sets a key of a total table; the default is never listed. -/
def Tab.setD {α : Type} [DecidableEq α] (m : Tab α) (d : α) (k : Nat) (v : α) : Tab α :=
  if v = d then Tab.del m k else Tab.put m k v

/-- Keys strictly rising. -/
def Tab.rising {α : Type} : Tab α → Bool
  | [] => true
  | [_] => true
  | (a, _) :: (b, w) :: t => a < b && Tab.rising ((b, w) :: t)

/-- The canonical form of a total table: keys strictly rising and no value equal to the default. -/
def Tab.canon {α : Type} [DecidableEq α] (m : Tab α) (d : α) : Bool := Tab.rising m && m.all (fun e => e.2 ≠ d)

/-- The listed values, in key order. -/
def Tab.vals {α : Type} (m : Tab α) : List α := m.map Prod.snd

/-- The listed keys, rising. -/
def Tab.keys {α : Type} (m : Tab α) : List Nat := m.map Prod.fst

/-- Changes the value at a listed key; an unlisted key stays unlisted. -/
def Tab.upd {α : Type} (m : Tab α) (k : Nat) (f : α → α) : Tab α :=
  match m with
  | [] => []
  | (k', v) :: t => if k' = k then (k', f v) :: t else (k', v) :: Tab.upd t k f

end Sys2Proof.Machine
end

