-- ==== Sys2Proof/Machine/State.lean ====
section
/-! DEFINITION. The state of the package as plain data: every piece of state the spec gives the machine, the state right
after reset, and the reasons a step can stop. INVENTORY.md's "State" lists each piece with its rule. -/

namespace Sys2Proof.Machine

/-! ### Clocks (07 R149, R150) -/

/-- A four-entry clock: one epoch number per die. The spec's 64-bit epochs never wrap in service (07 R149). -/
structure Clk where
  q0 : Nat := 0
  q1 : Nat := 0
  q2 : Nat := 0
  q3 : Nat := 0
  deriving DecidableEq, Repr

/-! ### Registers (08) -/

/-- One register entry, `s` register or saved latch value with its pending bit, its poison bit and whether its check bits
hold an error that cannot be corrected (08 R159, R170, R173, R174). -/
structure RCell where
  val : Word := 0
  pend : Bool := false
  pois : Bool := false
  unc : Bool := false
  deriving DecidableEq, Repr

/-- The four bypass latches of a lane; `f0` is the newest (08 R167). -/
structure Ring where
  f0 : RCell := {}
  f1 : RCell := {}
  f2 : RCell := {}
  f3 : RCell := {}
  deriving DecidableEq, Repr

/-- Where a lane of a group stands (13 R281). -/
inductive LaneSt where
  | eligible
  | rejoin (k : Nat)
  | held (n : Nat)
  | barrier (n : Nat)
  | exited
  deriving DecidableEq, Repr

/-- One lane (08 R159, R167; 12 R271; 13 R281, R284, R296). -/
structure Lane where
  /-- the PC table's entry (13 R281, R282) -/
  pc : Word := 0
  st : LaneSt := .eligible
  /-- logical index of window register `v0` (08 R159) -/
  wb : Nat := 0
  /-- logical index of the lowest resident entry (08 R159) -/
  wlo : Nat := 0
  /-- the resident slots; an unlisted slot reads zero (08 R160) -/
  stack : Tab RCell := []
  fw : Ring := {}
  /-- the register signature r, and how many values it has folded or reserved a place for (12 R271) -/
  rsig : Word := 0
  nfold : Nat := 0
  /-- issues of the group since the lane last issued (13 R284) -/
  starve : Nat := 0
  /-- team barriers at which the lane is marked arrived (13 R296) -/
  marks : BitVec 16 := 0
  /-- the lane waits at a barrier its group had already arrived at (13 R296) -/
  second : Bool := false
  deriving DecidableEq, Repr

/-- An open zero-overhead loop level (13 R291). -/
structure Level where
  start : Word
  stop : Word
  wbn : Nat
  opener : Word
  members : Mask
  arrived : Mask
  /-- iterations issue from the loop buffer; false when they fetch through the instruction cache (13 R295, R298) -/
  buffered : Bool
  deriving DecidableEq, Repr

/-- A trap of a group as its queue entry holds it (19 R363 to R365). -/
structure Trap where
  code : Nat
  pc : Word
  lanes : Mask
  info : Word
  addr : Dword
  loaded : Bool := false
  deriving DecidableEq, Repr

/-- An instruction that has issued and not yet finished: its active lanes and its word. The group issues nothing else
(13 R281). -/
structure Pin where
  act : Mask
  word : Word
  deriving DecidableEq, Repr

/-- One lane's wait in `BWAIT`: the object's offset in the scratchpad, the captured generation, and the status word taken
at its release (05 R105, R109). -/
structure ObjWait where
  lane : Nat
  off : Nat
  gen : Word
  status : Option Word := none
  /-- the written-clocks that the counts before its release brought (07 R156) -/
  clk : Clk := {}
  deriving DecidableEq, Repr

/-- A group's arrival at a barrier, a release (13 R296; 18 R354): the stores and atomics issued before it that are not acknowledged,
then at team scope the clock that its die must have applied; once it is performed, the clock it released. -/
structure Arrival where
  owed : List Nat := []
  clk : Option Clk := none
  done : Bool := false
  rel : Clk := {}
  deriving DecidableEq, Repr

/-- A lane's window move in progress: its new wb and the PC it goes on at, read before the move (08 R162; 13 R288). -/
structure WinMove where
  lane : Nat
  wb : Nat
  pc : Word
  deriving DecidableEq, Repr

/-- What a parked group waits for inside the instruction of its `Pin`. -/
inductive Wait where
  | none
  /-- `BWAIT` (05 R109) -/
  | object (w : List ObjWait)
  /-- the spill engine is moving windows, as the instruction found them; the lanes in `failed` met a frame access that
  failed (08 R162) -/
  | window (moves : List WinMove) (failed : Mask)
  /-- a sequentially consistent fence sent to the sequencer; the vector once it has been served (07 R153) -/
  | sequencer (vec : Option Clk)
  /-- `CWB`: lines still to be written back, as L2 table keys (06 R140) -/
  | writeBack (lines : List Nat)
  /-- `VPUB`, `VFIN`: answers so far, as (tile, value) (17 R334) -/
  | taskUnit (answers : List (Nat × Word)) (owed : Nat)
  /-- `VSLACK`: the grid is not at slack water (17 R339) -/
  | slack
  /-- `MMAS`: waiting for its instance, turned away with a reason, or started (11 R251) -/
  | mmas (reason : Option Nat) (started : Bool)
  /-- `PUTS ACOWNER`: the core, the new context number, and whether `ACOWNER` has taken it (11 R255) -/
  | acowner (core : Nat) (value : Word) (done : Bool)
  deriving DecidableEq, Repr

/-- Breakwater's view of a group (20 R402). -/
inductive Shed where
  | running
  | marked
  | forced
  | parked
  deriving DecidableEq, Repr

/-- A recorded plain load (08 R172). -/
structure RecLoad where
  pc : Word
  word : Word
  lane : Nat
  va : Dword
  size : Nat
  sext : Bool
  dst : List Nat
  sreg : Bool
  fold : Option Nat
  /-- the load signature has it already (12 R270) -/
  folded : Bool := false
  deriving DecidableEq, Repr

/-- One entry of a primary's input log (12 R265, R266). `filled` is false for a kind-7 entry whose reply is owed. -/
structure LogE where
  kind : Nat
  lane : Nat
  grpix : Nat
  value : Word
  operand : Word
  addr : Word
  filled : Bool := true
  /-- its number among the entries of the primary's log -/
  place : Nat := 0
  deriving DecidableEq, Repr

/-- A group: 32 lanes in one slot of a barrel, or a control core (01 R15; 08 R166, R176; 13). -/
structure Group where
  /-- the team's number; a control core has none -/
  team : Nat
  /-- GRPIX -/
  grpix : Nat := 0
  lanes : Vector Lane 32 := Vector.ofFn (fun _ => {})
  /-- `s1` to `s23`, keyed by register field value 97 to 119 (08 R166) -/
  s : Tab RCell := []
  gp : Mask := 0
  rj : Vector Mask 8 := Vector.ofFn (fun _ => 0)
  lc : Vector Word 3 := Vector.ofFn (fun _ => 0)
  /-- the open loop levels, outermost first; LDEPTH is their number (13 R291) -/
  levels : List Level := []
  fmode : Word := 0
  status : Word := 0
  cychi : Word := 0
  /-- full, observed and carried clock (07 R150) -/
  vc : Clk := {}
  obs : Clk := {}
  cc : Clk := {}
  /-- scope of a release fence whose following writes are release-carrying (07 R143) -/
  relCarry : Option Scope := none
  /-- the group waits until its die has applied `vc` (07 R152) -/
  acq : Bool := false
  /-- what the group's die must have applied before the group issues: what was ordered before its launch or its restore (07 R145,
  R155, R158; log 38) -/
  mustSee : Clk := {}
  /-- stores whose words the group's loads returned before they were settled (07 R147) -/
  readFrom : List Nat := []
  pclass : Nat := 0
  /-- TILEXY, TILEVER, GRIDID and SEEN of a refinement run, and its stale mark (17 R333, R336) -/
  tilexy : Word := 0
  tilever : Word := 0
  gridid : Word := 0
  seen : Word := 0
  stale : Bool := false
  /-- the next copy sequence number (05 R97) -/
  copySeq : BitVec 16 := 0
  /-- generation tag of the group's register allocation (08 R171) -/
  tag : BitVec 8 := 0
  pin : Option Pin := none
  wait : Wait := .none
  /-- lanes whose page walk is outstanding (03 R60, 06 R126) -/
  walk : Mask := 0
  /-- page walks that failed and are not yet taken: lane, virtual address, level (03 R58) -/
  walkFail : List (Nat × Dword × Nat) := []
  trap : Option Trap := none
  /-- it is stopped by its own save to an address alone (19 R373) -/
  saveStop : Bool := false
  /-- the group's arrivals at barriers that have not opened, by number (13 R296) -/
  arr : Tab Arrival := []
  /-- openings of barriers of the group whose release waves have not come: the number, whether it is the grid barrier, and the
  lanes that waited there at the opening (13 R296; 18 R354, R359, R360) -/
  opened : List (Nat × Bool × Mask) := []
  shed : Shed := .running
  /-- stopped for a save at an instruction boundary (19 R375, R378) -/
  stopping : Bool := false
  stopped : Bool := false
  recLoads : List RecLoad := []
  priv : Bool := false
  /-- entries of the team's log that this group of a shadow or third run has consumed (12 R268) -/
  replayed : Nat := 0
  /-- the entries of a primary's group, in issue order (12 R265) -/
  log : List LogE := []
  /-- one of its stores finds no version way (12 R264) -/
  blocked : Bool := false
  /-- a log entry or a held store waits for room: since when a hold-stall event has been posted (12 R267, R278) -/
  stalled : Bool := false
  stallPosted : Bool := false
  deriving DecidableEq, Repr

/-! ### Teams and grids (13 R302 to R306, 12, 17, 18) -/

/-- A launch record (13 R302, R303). -/
structure LaunchRec where
  entry : Word := 0
  flags : Word := 0
  codeBase : Dword := 0
  args : Dword := 0
  x : Nat := 1
  y : Nat := 1
  z : Nat := 1
  groups : Nat := 1
  w : Nat := 1
  h : Nat := 1
  stack : Nat := 0
  locBytes : Nat := 0
  accBytes : Nat := 0
  owner : Nat := 1
  resv : Nat := 0
  complAddr : Dword := 0
  fpThreshold : Nat := 0
  seed : Word := 0
  deriving DecidableEq, Repr

/-- Which work a team is (12 R258, 17 R324, R333). -/
inductive TeamKind where
  | launch
  | bin (seq : Nat)
  | tile (idx : Nat)
  deriving DecidableEq, Repr

/-- A publication a primary holds until its verdict (17 R341). -/
structure HeldPub where
  tile : Nat
  fin : Bool
  num : Nat
  /-- the publishing group's clock at its release, and its core (17 R335; 07 R155) -/
  clk : Clk := {}
  core : Nat := 0
  deriving DecidableEq, Repr

/-- A team on a core (01 R15). -/
structure Team where
  grid : Nat
  core : Nat
  lin : Nat := 0
  x : Nat := 0
  y : Nat := 0
  z : Nat := 0
  rank : Nat := 0
  cluster : Nat := 0
  kind : TeamKind := .launch
  groups : Nat := 1
  owner : Nat := 1
  /-- the class of its groups (18 R350) -/
  pclass : Nat := 0
  /-- resident stack size S (08 R159) -/
  stackS : Nat := 128
  locSize : Nat := 0
  /-- first byte of the scratchpad block (05 R89) and of the accumulator block (11 R234) -/
  locBlk : Nat := 0
  /-- first byte of each group's register block in the core's pool, by GRPIX (08 R160, 18 R355) -/
  regBlks : List Nat := []
  accSize : Nat := 0
  accBlk : Nat := 0
  accCtx : BitVec 16 := 0
  tslot : Nat := 0
  /-- openings of the 16 team barriers (13 R296) -/
  bars : Tab Nat := []
  /-- the team has arrived at the grid barrier (18 R354) -/
  gridArr : Bool := false
  binTimer : BitVec 16 := 256
  /-- RUNROLE, and the number of the checked unit it belongs to (12 R259) -/
  role : Nat := 0
  check : Option Nat := none
  /-- running store and load signatures, and the register signature terms of retired groups (12 R269 to R271) -/
  sh : Word := 0
  sl : Word := 0
  ls : Word := 0
  rs : Word := 0
  /-- release number (12 R274) -/
  relNo : Nat := 0
  /-- the run has met a divergence (12 R268) -/
  diverged : Bool := false
  /-- it performed an operation that is not contained (12 R276) -/
  acted : Bool := false
  held : List HeldPub := []
  /-- MMAS operations issued, and the numbers that trapped instances gave back (11 R251) -/
  mmas : Nat := 0
  mmasFree : List Nat := []
  /-- the number of its cluster's pair of operand groups (04 R78; 11 R250) -/
  band : Option Nat := none
  /-- its place in its grid's firing order, of a tile's run (18 R350) -/
  firing : Nat := 0
  /-- written-clocks that counts brought into the barrier objects, by granule offset (07 R156) -/
  objClk : Tab Clk := []
  /-- every group has retired; engine work may remain (13 R301) -/
  ending : Bool := false
  deriving DecidableEq, Repr

/-- The record of a refinement tile (17 R330), and the clocks of its publications (07 R155). -/
structure Tile where
  version : Nat := 0
  final : Bool := false
  stopped : Bool := false
  queued : Bool := false
  running : Bool := false
  seen : Nat := 0
  runs : Nat := 0
  clk : Clk := {}
  deriving DecidableEq, Repr

/-- A fired run not yet placed (17 R331, R333): its place in the firing order, tile index, VERSION and SEEN at firing, its run count,
and the clocks of the publications it counted. -/
structure Fired where
  num : Nat
  tile : Nat
  ver : Nat
  seen : Nat
  runs : Nat
  clk : Clk
  deriving DecidableEq, Repr

/-- An event on its way to the task unit, or in the coming clock (17 R332). A publication carries the group that awaits its
result, if any, and its release's clock. -/
inductive TaskEv where
  | stop (tile : Nat)
  | pub (tile : Nat) (fin : Bool) (reply : Option Nat) (clk : Clk)
  | runEnd (tile : Nat)
  deriving DecidableEq, Repr

/-- The scoreboard of a refinement grid (17 R329 to R332). -/
structure Refine where
  num : Nat
  w : Nat
  h : Nat
  stencil : Word
  entry : Word
  classes : Word
  tiles : Tab Tile := []
  /-- fired runs not yet placed, in firing order, and how many have been fired -/
  fired : List Fired := []
  firings : Nat := 0
  /-- events by their numbers, and those that have arrived, in order -/
  ev : Tab TaskEv := []
  arrived : List Nat := []
  deriving DecidableEq, Repr

/-- A task: its argument record and the clocks it carries (17 R321, R324). -/
structure Task where
  grid : Nat
  entry : Word
  args : List Word
  vc : Clk
  deriving DecidableEq, Repr

/-- How a grid stands (18 R349, 19 R369). -/
inductive GridEnd where
  | running
  | killed
  | faulted (code : Nat)
  deriving DecidableEq, Repr

/-- The counts of a completion record (18 R349). -/
structure Counts where
  checked : Nat := 0
  matched : Nat := 0
  votes : Nat := 0
  unstable : Nat := 0
  unchecked : Nat := 0
  uncontained : Nat := 0
  deriving DecidableEq, Repr

/-- An active grid (18 R347). -/
structure Grid where
  part : Nat
  /-- the queue that dispatched it, 64 for the device launch queue, and the host queue its events go to (18 R346) -/
  queue : Nat
  evQueue : Nat
  seq : Nat
  recd : LaunchRec
  gang : Bool := false
  /-- FP event counters and which have been posted (09 R200, R201) -/
  fp : Tab Nat := []
  fpPosted : BitVec 16 := 0
  counts : Counts := {}
  /-- the join of its retired groups' clocks, for the end flush (07 R155) -/
  vc : Clk := {}
  /-- epochs of the writes before its doorbell or launch, which its groups are ordered after (07 R155) -/
  startClk : Clk := {}
  /-- the next cluster of the grid to be placed (18 R350) -/
  nextCluster : Nat := 0
  /-- the reservations of 12 R261 are held -/
  reserved : Bool := false
  slots : Nat := 0
  quota : Nat := 0
  ended : GridEnd := .running
  binSeq : Nat := 0
  barInst : Nat := 0
  /-- what the arrivals at the grid barrier have released (18 R354) -/
  barClk : Clk := {}
  refine : Option Refine := none
  /-- cores vacated by a pre-emption (19 R374) -/
  vacated : List Nat := []
  /-- teams saved and waiting to be placed again, as context stream numbers (19 R376) -/
  saved : List Nat := []
  /-- stopped by a cut, until one of its streams is restored (19 R378) -/
  suspended : Bool := false
  deriving DecidableEq, Repr

/-- The signatures of one rank of a run (12 R273). -/
structure Triple where
  sh : Word
  sl : Word
  rs : Word
  ls : Word
  core : Nat
  deriving DecidableEq, Repr

/-- Where a checked unit stands (12 R260, R273). -/
inductive Phase where
  | primary
  | queueShadow
  | shadow
  | queueThird
  | third
  /-- the winner's run commits: which role's versions -/
  | commit (role : Nat)
  deriving DecidableEq, Repr

/-- A checked unit: a selected team or a selected cluster (12 R258, R273). -/
structure Check where
  grid : Nat
  kind : TeamKind := .launch
  /-- linear index and cluster of its rank-0 team -/
  lin : Nat := 0
  cluster : Nat := 0
  ranks : Nat := 1
  phase : Phase := .primary
  /-- runs so far, as team numbers by rank; 1 primary, 2 shadow, 3 third run -/
  teams1 : List Nat := []
  teams2 : List Nat := []
  teams3 : List Nat := []
  /-- triples by rank of the runs that have retired -/
  sig1 : List (Nat × Triple) := []
  sig2 : List (Nat × Triple) := []
  sig3 : List (Nat × Triple) := []
  div2 : Bool := false
  div3 : Bool := false
  acted : Bool := false
  /-- the primaries' logs, keyed by 32 × rank + GRPIX, and by rank the blocks of the log region they occupy and their entries -/
  logs : Tab (List LogE) := []
  blocks : Tab (List Nat) := []
  entries : Tab Nat := []
  /-- what a bin's or tile's run starts from, kept for its later runs: tasks, and the firing (17 R324, R333) -/
  tasks : List Task := []
  fired : Option Fired := none
  /-- publications its retired runs hold, by team number -/
  pubs : List (Nat × HeldPub) := []
  /-- the dies a commit has touched (12 R274) -/
  touched : List Nat := []
  /-- epochs of the versions committed so far -/
  clk : Clk := {}
  retiredAt : Nat := 0
  deriving DecidableEq, Repr

/-! ### Cores (05, 06, 11, 13, 17) -/

/-- What the copy engine holds in one slot (05 R97): a copy, a `PUT` or a `PUTM`. -/
inductive CopyKind where
  | copy
  | put
  | putm
  deriving DecidableEq, Repr

/-- One destination of a `PUT` or `PUTM`: the core, the team slot, and how far it is (05 R115, R116). -/
structure PutDest where
  core : Nat
  tslot : Nat
  /-- 0 sent, 1 received and replied, 2 the reply was applied -/
  stage : Nat := 0
  /-- the error code of its reply, 0 for none, and whether no-object comes with a clobber (05 R107) -/
  err : Nat := 0
  noObj : Bool := false
  /-- its place in its flow to a core of another package (04 R87) -/
  flow : Nat := 0
  deriving DecidableEq, Repr

/-- What an engine's acquire waits for: loads of its group outstanding at issue, and writes whose words its group's loads returned
before they were settled (05 R98; 07 R147, R156). -/
structure AcqWait where
  loads : List Nat := []
  src : List Nat := []
  deriving DecidableEq, Repr

/-- A copy or transfer in flight (05 R92, R94, R97, R112). -/
structure Copy where
  kind : CopyKind
  team : Nat
  gid : Nat
  ticket : Word
  src : Dword
  dst : Dword
  rowBytes : Nat
  rows : Nat
  srcStride : Nat
  dstStride : Nat
  obj : Nat
  robj : Nat := 0
  destWord : Word := 0
  destOff : Nat := 0
  ctrl : Word
  /-- destination lines this copy cleared and has not filled, as core scratchpad lines (05 R91) -/
  absent : List Nat := []
  /-- read pieces not yet landed: (row, piece) and the converted bytes (05 R94) -/
  buf : List (Nat × Nat × List Byte) := []
  /-- pieces landed -/
  landed : List (Nat × Nat) := []
  /-- the last count waits for the copy's release (05 R98) -/
  last : Option Nat := none
  bytes : List Byte := []
  dests : List PutDest := []
  /-- a transfer has been sent; before, its release is awaited (05 R115) -/
  sent : Bool := false
  /-- an error reply of a `PUTM` has been applied (05 R116) -/
  erred : List Nat := []
  /-- the acquire that ACQ asks for (05 R98) -/
  acq : AcqWait := {}
  /-- a landing of it found no version way, at a home and set; since when a hold-stall event has been posted (05 R100; 12 R264,
  R278) -/
  blocked : Option (Nat × Nat) := none
  stallPosted : Bool := false
  /-- bytes of 16 B granules that a later copy took while this one was in flight: scratchpad or physical granule, whether it is
  in the scratchpad, and the bytes (05 R94) -/
  ceded : List (Bool × Nat × BitVec 16) := []
  /-- the issuing group's clocks (07 R156) and the written-clocks of the landed data -/
  vc : Clk := {}
  obs : Clk := {}
  cc : Clk := {}
  wc : Clk := {}
  /-- stores this engine operation has made in memory, not yet acknowledged, and the dies of their homes (07 R156) -/
  stores : List Nat := []
  dies : List Nat := []
  /-- stores and atomics its group had issued before it that are not acknowledged, and earlier transfers of the group to other
  packages that are not replied to (07 R148, R152, R154) -/
  owed : List Nat := []
  /-- place of its kind-7 entry in the group's log (12 R265) -/
  logIx : Option Nat := none
  deriving DecidableEq, Repr

/-- An operation in the matrix queue or running (11 R237, R243): the core's own tile, of M × N × K elements. -/
structure Mop where
  id : Nat
  team : Nat
  gid : Nat
  /-- address of the first element of the bands the tile takes, and the distances between their rows (11 R239, R249) -/
  a : Dword
  b : Dword
  aStride : Nat
  bStride : Nat
  m : Nat
  n : Nat
  k : Nat
  accOff : Nat
  accStride : Nat
  obj : Nat
  ctrl : Word
  fmt : Word
  zero : Bool := false
  /-- the collective operation of an `MMAS`, and this core's row and column of the cluster (11 R249, R251) -/
  coll : Option Nat := none
  row : Nat := 0
  col : Nat := 0
  started : Bool := false
  /-- operand pieces taken so far: 64 B sectors of a global operand, 16 B granules of a local one, by virtual address
  divided by that size (11 R244, R245) -/
  bufA : Tab (List Byte) := []
  bufB : Tab (List Byte) := []
  failed : Option Nat := none
  /-- the issuing group's clocks (07 R156), and the acquire that ACQ asks for -/
  vc : Clk := {}
  obs : Clk := {}
  acq : AcqWait := {}
  /-- pinned lines: of B or of A, virtual line number, and the L2 line (11 R245) -/
  pins : List (Bool × Nat × Nat) := []
  deriving DecidableEq, Repr

/-- A group that waits for its `MMAS` instance: its number, its place in the issue order, the descriptor read at issue and the
format word (11 R236, R251). -/
structure MmasWait where
  n : Nat
  id : Nat
  desc : List Byte
  fmt : Word
  deriving DecidableEq, Repr

/-- A line of an L1 data cache (06 R118): key identifier, bytes by offset, and the stores whose updates have been applied
to it and are not settled, each with the words it wrote (07 R147). -/
structure L1Line where
  key : Nat
  data : List Host.Cell := []
  poison : BitVec 2 := 0
  unsettled : List (Nat × List Nat) := []
  /-- written-clocks by word number (07 R150) -/
  clk : Tab Clk := []
  lru : Nat := 0
  deriving DecidableEq, Repr

/-- A line of an instruction cache, as its 32 words (13 R298). -/
structure ILine where
  words : List Word
  deriving DecidableEq, Repr

/-- A loop body held in a barrel's loop buffer: its code address and words (13 R295). -/
structure Body where
  part : Nat
  va : Nat
  words : List Word
  deriving DecidableEq, Repr

/-- A TLB entry (03 R58, R60): partition, page size in bits, virtual page, physical page, key and permissions UXWR. -/
structure TlbE where
  part : Nat
  bits : Nat
  vpage : Nat
  ppage : Nat
  key : Nat
  perm : BitVec 4
  deriving DecidableEq, Repr

/-- A task bin in use (17 R322). -/
structure Bin where
  grid : Nat
  entry : Word
  tasks : List Task
  timer : Nat
  triggered : Bool
  deriving DecidableEq, Repr

/-- A core (01 R12). -/
structure Core where
  /-- scratchpad bytes; an unlisted byte is zero (03 R66) -/
  scratch : List Host.Cell := []
  /-- owner tag per 128 B line; unlisted 0 -/
  lineTag : Tab Nat := []
  /-- marked 16 B granules, as physical granule numbers (05 R90) -/
  marks : List Nat := []
  copies : Tab Copy := []
  /-- accumulators and owner tag per 4 KiB unit (11 R234, R235) -/
  acc : Tab Word := []
  accTag : Tab Nat := []
  /-- owner tag per 8 KiB register allocation unit (03 R66) -/
  regTag : Tab Nat := []
  acOwner : BitVec 16 := 0
  mq : List Mop := []
  /-- groups waiting in `MMAS`, by group number (11 R251) -/
  mwait : Tab MmasWait := []
  dropCnt : Word := 0
  tagCtr : BitVec 8 := 0
  l1 : Tab L1Line := []
  /-- keyed by partition × 2^57 + fetch address / 128 -/
  ilines : Tab ILine := []
  loopBuf : Tab (List Body) := []
  tlb : List TlbE := []
  bins : Tab Bin := []
  /-- slot pointer of each barrel: 8 × its rotation, 0 to 15, and the slot (01 R13; 20 R409) -/
  rot : Tab Nat := []
  /-- demerits, each with its die's count of team retirements when it was earned; fenced (12 R277) -/
  demerits : List Nat := []
  fenced : Bool := false
  /-- single-bit errors corrected in its registers and its L1, and words of its registers marked poisoned (03 R52; 08 R173) -/
  corrected : Nat := 0
  poisoned : Nat := 0
  deriving DecidableEq, Repr

/-! ### Dies (03, 07, 17, 19) -/

/-- A page walk in progress (03 R60): the translation wanted and the lanes that wait for it, as (group, lane). -/
structure Walk where
  id : Nat
  core : Nat
  part : Nat
  vpage : Nat
  waiters : List (Nat × Nat × Dword)
  deriving DecidableEq, Repr

/-- A table entry the walker keeps (03 R60): its partition, its level and physical address, and the entry. -/
structure PteC where
  part : Nat
  level : Nat
  pa : Nat
  entry : Dword
  deriving DecidableEq, Repr

/-- A partition's overflow queue on a die (17 R323): its memory, its room, the place of its head, and its tasks. -/
structure Overflow where
  base : Dword
  room : Nat
  head : Nat := 0
  tasks : List Task := []
  deriving DecidableEq, Repr

/-- The context unit of a die (19 R371, R373). `via` is the management request a command came by. -/
structure CtxUnit where
  addr : Dword := 0
  command : Word := 0
  status : Word := 0
  running : Bool := false
  core : Nat := 0
  slot : Nat := 0
  via : Option MReq := none
  /-- how the running command has ended -/
  result : Option Nat := none
  deriving DecidableEq, Repr

/-- A compute die with its control core's trap registers (01 R11, 08 R176, 19 R364). -/
structure DieSt where
  region : Tab Dword := []
  /-- the bias domains of the die above whose cores each region's slices lie, as its entry was last written; unlisted: all
  (03 R50) -/
  sets : Tab (BitVec 4) := []
  /-- the open epoch, and per other die the highest epoch whose close marker has arrived (07 R149) -/
  epoch : Nat := 1
  markers : Clk := {}
  trapQ : List Nat := []
  tcause : Word := 0
  tpc : Word := 0
  tlanes : Mask := 0
  taddr : Dword := 0
  tgroup : Word := 0
  dwsel : Word := 0
  tinfo : Word := 0
  /-- the control core took a trap itself (19 R369) -/
  ctrlStopped : Bool := false
  ctx : CtxUnit := {}
  overflow : Tab Overflow := []
  walks : List Walk := []
  pteCache : List PteC := []
  lowV : Bool := false
  hot : Bool := false
  retired : Nat := 0
  /-- a pre-emption, cut or Breakwater request, and a management message, pending for the die (19 R367) -/
  reqPend : Bool := false
  msgPend : Bool := false
  deriving DecidableEq, Repr

/-! ### Memory (03, 06, 07, 12) -/

/-- The record a release leaves on a line (07 R151, 03 R51): its scope and team. -/
structure RelRec where
  scope : Scope
  team : Nat
  grid : Nat
  cluster : Nat
  deriving DecidableEq, Repr

/-- A line of the L2 (03 R51). Keyed by home slice × 2^32 + PA[39:8]. `lid` is the key under which the bytes were filled, as
the number of its installation (03 R62). -/
structure L2Line where
  key : Nat
  lid : Nat
  valid : BitVec 4 := 0
  dirty : BitVec 4 := 0
  poison : BitVec 4 := 0
  data : List Host.Cell := []
  sharers : List Nat := []
  pins : Nat := 0
  lru : Nat := 0
  deriving DecidableEq, Repr

/-- A version way (03 R51, 12 R262): the run (as its team's number), the line, the bytes written by offset. -/
structure Ver where
  run : Nat
  grid : Nat
  home : Nat
  ln : Nat
  key : Nat
  lid : Nat
  bytes : List Host.Cell
  num : Nat
  /-- the way of the set that it takes, 12 to 15 (03 R51; 12 R262) -/
  way : Nat := 12
  /-- the primary team's cluster (07 R142) -/
  cluster : Nat := 0
  /-- clock of the latest write merged, and whether a write came after a release point (07 R157) -/
  cc : Clk := {}
  rel : Bool := false
  deriving DecidableEq, Repr

/-- The atomic operations (06 R135). -/
inductive AtomOp where
  | add | and | or | xor | mins | minn | maxs | maxn | swap | cas | fadd | ld | st
  deriving DecidableEq, Repr

/-- What an access does when it is performed. -/
inductive ReqKind where
  | load (size : Nat) (sext : Bool)
  | store (bytes : List Byte)
  | atomic (op : AtomOp) (b b1 : Word)
  /-- `ACRD`, `ACCVT`: performed at issue (11 R256) -/
  | acc
  /-- `VRD` of a tile or of the grid status, with the number of its issue, and `VSEEN` (17 R338) -/
  | tileRead (tile : Option Nat) (issue : Nat)
  | seenRead
  /-- `PREF`: fills an L1 and returns nothing (06 R140) -/
  | prefetch
  deriving DecidableEq, Repr

/-- Where an asynchronous value goes: resident slots, an `s` register, or nowhere (08 R170). -/
inductive Dst where
  | none
  | slots (l : List Nat)
  | sregs (l : List Nat)
  deriving DecidableEq, Repr

/-- How far an access is (06 R118 to R123). -/
inductive Stage where
  | sent
  /-- a load that waits at its core for the earlier accesses of its line, named here; its group is parked (06 R120) -/
  | queued (after : List Nat)
  /-- a held store that finds no version way (12 R264) -/
  | blocked
  /-- current at its home; its acknowledgement waits for updates (06 R119) -/
  | current
  /-- the home has returned the acknowledgement, which is on its way (06 R119; 04 R72) -/
  | acked
  /-- the value is on its way back -/
  | reply (words : List Word) (poisoned : Bool)
  deriving DecidableEq, Repr

/-- Who makes an access: a lane, a copy of a core, or the part itself (07 R142). -/
inductive Maker where
  | lane (gid lane : Nat)
  | engine (core cid : Nat)
  | machine
  deriving DecidableEq, Repr

/-- An access in flight (06 R118 to R130). -/
structure Req where
  maker : Maker
  tag : BitVec 8 := 0
  core : Nat
  team : Nat
  /-- the grid it is a write of; 0 for none (01 R16) -/
  grid : Nat := 0
  part : Nat
  pc : Word := 0
  word : Word := 0
  kind : ReqKind
  va : Dword
  pa : Nat
  key : Nat
  home : Nat
  /-- the core whose L1 a load fills (06 R122) -/
  member : Nat
  dst : Dst := .none
  /-- place of its value in the lane's register signature (12 R271); none when it is not folded -/
  fold : Option Nat := none
  /-- the load signature has it already, of a load issued again (08 R172; 12 R270) -/
  folded : Bool := false
  order : MOrder := .rlx
  scope : Scope := .team
  cc : Clk := {}
  rel : Option RelRec := none
  /-- the release record an atomic met (07 R151) -/
  found : Option RelRec := none
  /-- the writing run holds it as a version (12 R262), with its release number -/
  held : Option Nat := none
  /-- place of its value in the group's log (12 R265) -/
  logIx : Option Nat := none
  stage : Stage := .sent
  /-- die and epoch in which a write became current, 0 once it is settled, and the clock of the value or write (07 R150) -/
  epoch : Nat := 0
  wclk : Clk := {}
  /-- the settled write's own epoch as a clock, which its acknowledgement carries (07 R150) -/
  own : Clk := {}
  /-- unsettled stores whose words a load returned (07 R147) -/
  unsettled : List Nat := []
  /-- its group was killed: the return is dropped when it comes (08 R171; 19 R369) -/
  dead : Bool := false
  deriving DecidableEq, Repr

/-- A sharer update, or a fill, on its way from a home to a core's L1 (06 R118, R119; 07 R149). -/
structure Upd where
  /-- the write it forwards, or the load it fills for -/
  store : Nat
  core : Nat
  src : Die
  epoch : Nat
  cc : Clk
  /-- the L1 line, and the bytes written by physical address; none are left when the line was dropped meanwhile (06 R118) -/
  line : Nat
  cells : List Host.Cell
  /-- the home slice it comes from: its path is from there to the core (07 R149) -/
  home : Nat := 0
  /-- the core whose access made the write; none for another agent's (06 R120) -/
  writer : Option Nat := none
  /-- a fill, and the line it fills; none is left when the line was dropped meanwhile -/
  isFill : Bool := false
  fill : Option L1Line := none
  deriving DecidableEq, Repr

/-- A request at the sequencer of Q0's control station (07 R153). -/
structure SeqReq where
  gid : Nat
  deriving DecidableEq, Repr

/-- A shootdown in progress (03 R61): its request, partition, range, and the accesses it waits for. -/
structure Shootdown where
  req : MReq
  part : Nat
  range : Option (Dword × Dword)
  reqs : List Nat
  deriving DecidableEq, Repr

/-! ### Fabric (04) -/

/-- What a packet carries: a request, a reply or acknowledgement, a sharer update or fill, a transfer's data for one
destination and its reply, a multicast transfer on a loop and on its way to a further die, a transfer of another package and its
reply, an epoch's close marker, or an event for a task unit. -/
inductive Cargo where
  | req (rid : Nat)
  | reply (rid : Nat)
  | upd (uid : Nat)
  | put (core cid dest : Nat)
  | putReply (core cid dest : Nat)
  /-- the group identifier, the die it goes to, and the links it has crossed (04 R77) -/
  | mcast (core cid ident : Nat) (die : Nat) (seen : List Nat)
  /-- on a loop of a die: the stations that eject it, in order, a core station's with the destination's place (04 R77) -/
  | mput (core cid ident : Nat) (die : Nat) (seen : List Nat) (stops : List (Nat × Nat))
  /-- a transfer of another package on its way to its core, and the reply to it (04 R87) -/
  | foreign (id : Nat)
  | foreignReply (id : Nat)
  | marker (src dst : Die) (epoch : Nat)
  | task (id : Nat)
  deriving DecidableEq, Repr

/-- One leg of a packet's path (04 R73, R77, R80): a loop of a die between two stations, with the loop when a multicast entry
names it, or a link direction. -/
inductive Leg where
  | loop (die : Die) (src dst : Nat)
  | mloop (die : Die) (loop src dst : Nat)
  | link (l : LinkId)
  deriving DecidableEq, Repr

/-- A packet on its way (04 R72 to R75): the legs still to travel, the first one being travelled. -/
structure Packet where
  part : Nat
  flits : Nat
  legs : List Leg
  cargo : Cargo
  /-- its place in the order of arrival at its station and, from its injection on, in the order of injection -/
  seq : Nat := 0
  /-- the container of the loop that it rides; none while it waits at its station -/
  on : Option Nat := none
  deriving DecidableEq, Repr

/-- An edge flit: its sequence number and up to four loop flits, each a packet number and flit index (04 R81). -/
structure EFlit where
  seq : Nat
  lanes : List (Nat × Nat)
  bad : Bool := false
  /-- a window-audit flit, with S (04 R85) -/
  audit : Option Nat := none
  deriving DecidableEq, Repr

/-- An acknowledgement on its way back (04 R82, R84, R85). -/
structure Ack where
  upto : Nat
  credits : Nat
  d : Option Nat := none
  nak : Bool := false
  deriving DecidableEq, Repr

/-- One direction of a link (04 R80 to R87). -/
structure LinkDir where
  state : Nat := 0
  queue : List (Nat × Nat) := []
  nextSeq : Nat := 0
  /-- flits sent and not acknowledged, oldest first; `sentTo` is how many of them are on the wire or beyond -/
  replay : List EFlit := []
  sentTo : Nat := 0
  win : Int := 384
  wire : List EFlit := []
  acks : List Ack := []
  /-- receiver: next sequence number, flits seen since training and the numbers of those refused lately, buffers in use (R84),
  flits freed, credits owed, and an audit's S whose D the next acknowledgement returns (R85) -/
  expect : Nat := 0
  seenFlits : Nat := 0
  refused : List Nat := []
  inUse : Nat := 0
  freed : Nat := 0
  owed : Nat := 0
  dOwed : Option Nat := none
  /-- reassembly: flits present per packet (04 R81) -/
  parts : Tab Nat := []
  /-- sender: data flits sent, and at the latest audit flit -/
  sent : Nat := 0
  audited : Nat := 0
  audLoss : Nat := 0
  audGain : Nat := 0
  retrain : Nat := 0
  nakCount : Nat := 0
  mcDrop : Nat := 0
  deriving DecidableEq, Repr

/-! ### Partitions and the host (18, 21) -/

/-- A host queue (18 R344 to R346). -/
structure HQueue where
  desc : BitVec 128 := 0x200#128
  head : BitVec 32 := 0
  tail : BitVec 32 := 0
  stopped : Bool := false
  err : Nat := 0
  events : Tab Nat := []
  /-- epochs of the partition's writes by the host and the part at the latest doorbell (07 R155) -/
  clk : Clk := {}
  deriving DecidableEq, Repr

/-- A record in a device launch queue (17 R327, 18 R346). -/
structure DevLaunch where
  recd : LaunchRec
  evQueue : Nat
  /-- epochs of the partition's writes by the host and the part at the launch (07 R155) -/
  clk : Clk := {}
  deriving DecidableEq, Repr

/-- A partition (21 R419). -/
structure Part where
  domains : BitVec 16
  root : Option Nat := none
  queues : Tab HQueue := []
  devq : List DevLaunch := []
  seq : Nat := 0
  /-- the queue served last of each level; at first the one before queue 0 (18 R347) -/
  lastServed : Tab Nat := []
  poolBase : Dword := 0
  frame : Nat := 0
  logBase : Dword := 0
  logSize : Nat := 0
  logUsed : List Nat := []
  holdUs : Nat := 1000
  duty : Nat := 16
  /-- epochs of the writes that the host and the part have made current in it (07 R155) -/
  clk : Clk := {}
  destroying : Option MReq := none
  deriving DecidableEq, Repr

/-- A queue pair (21 R412). -/
inductive QpState where
  | created
  | connecting
  | ready
  deriving DecidableEq, Repr

structure Qp where
  part : Nat
  service : Dword
  st : QpState := .created
  deriving DecidableEq, Repr

/-- What the part sends out, in order (18 R346, 19 R387, 20, 21). -/
inductive Msg where
  | reply (req : MReq) (type status : Nat) (body : List Byte)
  | alert (kind : Nat) (id : Dword) (a b : Word) (c : Dword)
  | send (qp queue kind : Nat) (bytes : List Byte)
  /-- a REP, with the queue pair's number and its starting packet sequence number (21 R412) -/
  | rep (qp : Nat) (service : Dword) (psn : BitVec 24)
  | rej (service : Dword)
  | drep (qp : Nat)
  | readData (qp : Nat) (bytes : List Byte)
  | remoteError (qp : Nat)
  | migration (bytes : List Byte)
  | migrationAck (seq : Dword)
  /-- a session has aborted, which its other package is told (19 R387) -/
  | migrationAbort (session : Word)
  /-- a transfer for another package leaves on a Rutik plane (04 R87) -/
  | rutik (plane pkg : Nat) (core cid dest seq : Nat) (bytes : List Byte)
  /-- the reply to a transfer of another package, with its error codes (05 R115) -/
  | rutikReply (pkg src seq : Nat) (codes : List Nat)
  | thermalTrip
  /-- events posted to firmware: a hold stall, a link down, a core fenced, an uncorrectable mismatch, an uncontained event -/
  | firmware (what : String) (n : Nat)
  deriving DecidableEq, Repr

/-- Bring-up (21 R422). -/
inductive BootPhase where
  /-- ports down; the ROM runs -/
  | rom
  /-- ports up; the ROM runs -/
  | romPorts
  /-- firmware started; training and scrub under way -/
  | training
  | ready
  /-- held in reset by a thermal trip (21 R423) -/
  | tripped
  deriving DecidableEq, Repr

/-- The firmware image (21 R417, R418). -/
structure Firmware where
  image : List Host.Cell := []
  /-- length of the image that runs; 0 until one is started -/
  size : Nat := 0
  /-- (offset, length) of the chunks that have arrived -/
  got : List (Nat × Nat) := []
  entry : Word := 0
  version : Word := 0
  measurement : List Byte := []
  allow : List (BitVec 128) := []
  deriving DecidableEq, Repr

/-! ### Power (20) -/

/-- A bias domain (20 R389 to R396, 18 R358, R359). -/
structure Domain where
  /-- 0 nominal, 1 intermediate, 2 boost, 3 idle -/
  st : Nat := 0
  /-- the clk counter (08 R179) -/
  clk : Dword := 0
  claimed : Bool := false
  /-- the arbiter has answered the claim, and granted it -/
  answered : Bool := false
  granted : Bool := false
  /-- the current interval has been nominal with no resident group throughout (20 R396) -/
  idleSoFar : Bool := true
  idleCount : Nat := 0
  relq : List Nat := []
  /-- the domain's copy of the allowed class (20 R400) -/
  allowed : Nat := 0
  islope : Word := 0x00004008#32
  /-- fall to nominal at the next boundary (20 R409) -/
  fall : Bool := false
  deriving DecidableEq, Repr

/-- Power policy and Breakwater (20 R392 to R410). -/
structure Power where
  permits : Nat := 64
  poolSize : Nat := 64
  boostEnable : Nat := 0xFFFF
  boostClass : Nat := 4
  nomFreq : Nat := 50000
  nomVolt : Nat := 50000
  voltHyst : Nat := 500
  freqCurve : Tab Word := []
  voltCurve : Tab Word := []
  lossTimeout : Nat := 10
  lossClass : Nat := 8
  shelfSrc : Nat := 0
  shelfType : Nat := 0
  cap : Nat := 2600
  floors : Tab Nat := []
  lastGranted : Nat := 15
  allowed : Nat := 0
  lastChange : Nat := 0
  tloss : Bool := false
  /-- sequence number of the latest valid frame; none before the first and after a loss (20 R397) -/
  lastSeq : Option (BitVec 16) := none
  capLow : Bool := false
  floorDef : Bool := false
  capHit : Bool := false
  gaps : Nat := 0
  refuse : Bool := false
  overLast : Bool := false
  deriving DecidableEq, Repr

/-! ### Pre-emption, cuts, contexts, migration (19) -/

/-- A packet of a saved team's channel state: an access, at its request, its reply or its acknowledgement, or a sharer update (19
R379). -/
inductive Chan where
  | access (r : Req)
  | update (u : Upd)
  deriving DecidableEq, Repr
/-- A packet that a cut holds: its number in the order of arrival, its source station, the team and grid it belongs to, and what it is: the request, reply or
acknowledgement of an access, which keeps its packet, or an update, which is taken out of the fabric (19 R379). -/
inductive HeldPkt where
  | access (rid pid : Nat)
  | update (u : Upd)
  deriving DecidableEq, Repr
structure Held where
  num : Nat
  src : Nat
  team : Nat
  grid : Nat
  what : HeldPkt
  deriving DecidableEq, Repr

/-- A saved team (19 R375, R382, R383): the records of one team's stream. -/
structure SavedTeam where
  tid : Nat
  team : Team
  groups : List (Nat × Group) := []
  /-- the scratchpad block as its owner reads it, and its marked granules, counted from the block's start (03 R66) -/
  scratch : List Byte := []
  marks : List Nat := []
  /-- the accumulator block as its owner reads it; none in a save of one context alone, which leaves the memory as it is (19 R377) -/
  acc : Option (List Word) := none
  /-- spilled entries by 32 × GRPIX + lane, as 64 B sectors; a sector that could not be read is none (08 R161) -/
  frames : Tab (List (Option (List Byte))) := []
  /-- held packets by their numbers in the cut's order of arrival, the groups of their makers named by GRPIX, and the cut that held
  them, if any (R379 to R381) -/
  channel : Tab Chan := []
  job : Option (BitVec 16) := none
  /-- it comes from another package: its clocks are set when it is restored (07 R158) -/
  moved : Bool := false
  deriving DecidableEq, Repr

/-- A context stream (19 R382, R383). The spec fixes no layout of the record bodies, so the records are kept as data (log
11). -/
structure Stream where
  part : Nat
  grid : Nat
  /-- the cut that saved it, if one did -/
  cut : Option (BitVec 16) := none
  teams : List SavedTeam := []
  deriving DecidableEq, Repr

/-- A pre-emption in progress (19 R374, R375). -/
structure Preempt where
  req : MReq
  grid : Nat
  cores : List Nat
  immediate : Bool
  teams : List Nat
  deriving DecidableEq, Repr

/-- A cut in progress (19 R378 to R380). Stations are numbered 72 × die + station. -/
structure Cut where
  req : MReq
  part : Nat
  grids : List Nat
  num : BitVec 16
  /-- stations that have met their first marker, each with the first packet number after it -/
  met : Tab Nat := []
  /-- sources that stations have closed -/
  closed : List (Nat × Nat) := []
  /-- held packets, in order of arrival -/
  held : List Held := []
  /-- held store and atomic requests -/
  recorded : List Nat := []
  complete : Bool := false
  deriving DecidableEq, Repr

/-- A stream's header record (19 R383). -/
structure StreamHead where
  format : Nat := 1
  partNumber : List Byte := []
  serial : List Byte := []
  firmware : Word := 0
  part : Nat := 0
  cut : BitVec 16 := 0
  teams : Nat := 0
  deriving DecidableEq, Repr
/-- What a record stream carries: its header, grids, and their teams, whose `grid` is a place in that list (19 R383, R388). -/
structure Job where
  head : StreamHead := {}
  grids : List Grid
  teams : List SavedTeam
  deriving DecidableEq, Repr

/-- The migration session of the Ebb engine (19 R385 to R388). -/
structure Ebb where
  setup : EbbSetup
  req : MReq
  /-- this package is the source -/
  isSource : Bool
  pass : Nat := 0
  seq : Nat := 0
  sentInPass : Nat := 0
  /-- regions scanned in this pass -/
  scanned : List Nat := []
  /-- source side: messages not yet acknowledged, by sequence number (R386) -/
  unacked : List Nat := []
  /-- destination side: sequence numbers accepted, granules placed by pass, and the record stream's chunks by sequence number -/
  accepted : List Nat := []
  placed : Tab Nat := []
  stream : Tab (List Byte) := []
  final : Bool := false
  deriving DecidableEq, Repr

/-! ### The package -/

/-- What the environment lets happen next: the next turn of a barrel or control core, an event of the part, an upset of
stored data (08 R168, R173; 03 R52), or the freeing of a link receiver's buffers. -/
inductive Move where
  | turn (unit : Nat)
  | event (e : Instr)
  /-- a management request that named a partition now destroyed has its turn, with its type (21 R415, R419) -/
  | lateRequest (r : MReq) (type : Nat)
  | upsetReg (gid lane slot : Nat)
  | upsetSreg (gid r : Nat)
  | upsetLatch (gid lane ix : Nat)
  /-- a latch of a saved team, by its stream, team and GRPIX (08 R173; 19 R375) -/
  | upsetSaved (key tid grpix lane ix : Nat)
  | upsetSector (home ln sector : Nat)
  /-- a sector of LPDDR-5X that its controller will report as uncorrectable (03 R52) -/
  | upsetDram (sector : Nat)
  /-- a single-bit error, corrected and counted: in a core's registers or L1, in a slice (03 R52; 08 R173) -/
  | corrected (core : Nat)
  | correctedSlice (home : Nat)
  | upsetL1 (core line half : Nat)
  /-- a soft error changes the send window of a link direction (04 R85) -/
  | upsetWindow (l : LinkId) (win : Int)
  /-- an empty container of a packet's loop passes its station (04 R74, R75) -/
  | inject (pid container : Nat)
  /-- a station's ejection buffers for a loop fill up or drain (04 R74) -/
  | ejector (key : Nat) (full : Bool)
  /-- a link's receiver frees flit buffers and acknowledges (04 R84, R85) -/
  | linkDrain (l : LinkId) (flits : Nat)
  /-- a `PUT` of another package stands at the far end of its Rutik link: its package, source core and place in its flow, then core,
  team slot, owner, offset, receiver object and bytes (04 R87; 05 R115) -/
  | foreignPut (pkg src seq core tslot owner off robj : Nat) (bytes : List Byte)
  /-- a migration message's acknowledgement, and the other package's abort, arrive (19 R386, R387) -/
  | migrationAck (seq : Dword)
  | migrationAbort (session : Word)
  deriving DecidableEq, Repr

/-- A `PUT` of another package on this one (04 R87; 05 R115): its package, source core and place in its flow, then core, team slot,
owner, offset, receiver object and bytes; the codes of its reply once it has been received. -/
structure Foreign where
  pkg : Nat
  src : Nat
  seq : Nat
  core : Nat
  tslot : Nat
  owner : Nat
  off : Nat
  robj : Nat
  bytes : List Byte
  codes : Option (List Nat) := none
  deriving DecidableEq, Repr

/-- A write of the part's own that waits for its line or its path (11 R245; 04 R76): bytes at a virtual address of a partition, with
what the host is told after it and the clock they carry, or the bitmap bit of the granule of a physical address (03 R67). -/
inductive Pend where
  | write (part : Nat) (va : Dword) (bytes : List Byte) (note : Option Msg) (cc : Clk)
  | mark (pa : Nat)
  deriving DecidableEq, Repr

/-- The state of the package. -/
structure State where
  -- the model's own
  agenda : List Move := []
  turn : Nat := 0
  freeCtr : Nat := 0
  nextId : Nat := 1
  out : List Msg := []
  -- units
  groups : Tab Group := []
  teams : Tab Team := []
  grids : Tab Grid := []
  checks : Tab Check := []
  cores : Tab Core := []
  dies : Tab DieSt := []
  domains : Tab Domain := []
  -- memory
  dram : List Host.Cell := []
  dramKey : Tab Nat := []
  dramBad : List Nat := []
  l2 : Tab L2Line := []
  wclk : Tab Clk := []
  /-- release records by line number PA[39:8] (07 R151) -/
  rels : Tab RelRec := []
  vers : List Ver := []
  reqs : Tab Req := []
  upds : Tab Upd := []
  scq : List SeqReq := []
  /-- resets so far: each generates identifier 0's key pair anew (03 R62; 21 R422) -/
  boot : Nat := 0
  /-- installed key identifiers with the number of the installation (03 R62) -/
  keys : Tab Nat := [(0, 0)]
  /-- the XTS key pair of each installation, 64 bytes, kept after its destruction for the ciphertext it has left; 0 is
  identifier 0's, which no agent sees (03 R62, R64) -/
  keyPairs : Tab (List Byte) := []
  /-- writes of the part's own that wait, oldest first (11 R245; 04 R76) -/
  pend : List Pend := []
  shoots : Tab Shootdown := []
  lruClock : Nat := 0
  suspectSlices : List Nat := []
  /-- single-bit errors corrected in each slice (03 R52) -/
  sliceCorrected : Tab Nat := []
  -- fabric
  packets : Tab Packet := []
  /-- stations with no free ejection buffer for a loop, as 72 × (28 × die + loop) + station (04 R74) -/
  ejFull : List Nat := []
  slotTab : Tab Nat := []
  mcast : Tab (BitVec 128) := []
  links : Tab LinkDir := []
  pkgId : BitVec 9 := 0
  ueAddr : List Nat := [0, 0, 0, 0, 0, 0, 0, 0]
  /-- transfers numbered by flow, and the next sequence number awaited of each flow from another package (04 R87) -/
  flowOut : Tab Nat := []
  flowIn : Tab Nat := []
  /-- transfers of other packages that are not yet replied to -/
  foreign : Tab Foreign := []
  -- partitions and host
  parts : Tab Part := []
  flushes : List (MReq × Nat × Nat) := []
  qps : Tab Qp := []
  phase : BootPhase := .rom
  fw : Firmware := {}
  fusedMin : Word := 0
  mgmtConn : Bool := false
  mgmtWait : Bool := false
  /-- management requests that wait for the one being handled, oldest first (21 R415) -/
  mgmtQ : List Move := []
  /-- the request that has just come must wait -/
  mgmtDefer : Bool := false
  /-- the destruction or replacement of a key being handled, until no access in flight uses its identifier: the
  request, the identifier and the key pair that replaces it (03 R64; 21 R415, R420) -/
  mgmtCur : Option (MReq × Nat × Option (List Byte)) := none
  alerts : List Msg := []
  -- Assay
  demeritT : Nat := 3
  demeritW : Nat := 2 ^ 20
  fynil : Tab Nat := []
  fynilSeq : Nat := 0
  -- power
  power : Power := {}
  -- contexts
  preempts : List Preempt := []
  cuts : List Cut := []
  streams : Tab Stream := []
  ebb : Option Ebb := none
  deriving DecidableEq, Repr

/-- The package right after reset (21 R422). -/
def State.reset : State := {}

/-- Why the machine stops without a next state: it never does, every move has a next state. -/
inductive Fault where
  deriving DecidableEq, Repr

/-- Why an instruction has no meaning. -/
inductive Refusal where
  /-- an arm of `exec` that has no meaning yet, by its mnemonic. Safe: no claim about a refused instruction can be proved -/
  | notModelled (mnemonic : String)
  deriving DecidableEq, Repr

end Sys2Proof.Machine
end

