-- ==== Sys2Proof/Machine/Ops.lean ====
section
/-! DEFINITION. The named operations every meaning is built from: units and their tables, the PC table and what an issue
takes (13 R281 to R285), moving lanes through loops and rejoin masks (13 R289 to R294, R300), taking a trap (19 R362 to
R365) and returning from one (R368), and the shape shared by all issues. -/

namespace Sys2Proof.Machine

/-- The outcome of a meaning. -/
abbrev Out := Host.Outcome State Fault Refusal

/-! ### Units and tables -/

/-- The core of a group: cores 0 to 255, and 256 + die for a control core (01 R11, R12; 02 R33). -/
def coreOf (gid : Nat) : Nat := if gid < 8192 then gid / 32 else 256 + (gid - 8192)
/-- The slot number k = 8 × barrel + slot of a group on its core (08 R161). -/
def slotOf (gid : Nat) : Nat := if gid < 8192 then gid % 32 else 0
/-- The die of a core (01 R11). -/
def dieOfCore (c : Nat) : Nat := if c < 256 then c / 64 else c - 256
/-- The die of a group. -/
def dieOf (gid : Nat) : Nat := dieOfCore (coreOf gid)
/-- The bias domain of a core: 4 d + 2 (y ≫ 2) + (x ≫ 2) (01 R11). -/
def domainOf (c : Nat) : Nat := 4 * (c / 64) + 2 * (c % 64 / 32) + c % 8 / 4
/-- The group number of a control core. -/
def ctrlGid (die : Nat) : Nat := 8192 + die

def State.grp (s : State) (gid : Nat) : Option Group := s.groups.find gid
def State.setGrp (s : State) (gid : Nat) (g : Group) : State := { s with groups := s.groups.put gid g }
def State.updGrp (s : State) (gid : Nat) (f : Group → Group) : State := { s with groups := s.groups.upd gid f }
def State.delGrp (s : State) (gid : Nat) : State := { s with groups := s.groups.del gid }
def State.team (s : State) (tid : Nat) : Option Team := s.teams.find tid
def State.updTeam (s : State) (tid : Nat) (f : Team → Team) : State := { s with teams := s.teams.upd tid f }
def State.grid (s : State) (n : Nat) : Option Grid := s.grids.find n
def State.updGrid (s : State) (n : Nat) (f : Grid → Grid) : State := { s with grids := s.grids.upd n f }
def State.core (s : State) (c : Nat) : Core := s.cores.getD {} c
def State.setCore (s : State) (c : Nat) (v : Core) : State := { s with cores := s.cores.setD {} c v }
def State.updCore (s : State) (c : Nat) (f : Core → Core) : State := s.setCore c (f (s.core c))
def State.die (s : State) (d : Nat) : DieSt := s.dies.getD {} d
def State.setDie (s : State) (d : Nat) (v : DieSt) : State := { s with dies := s.dies.setD {} d v }
def State.updDie (s : State) (d : Nat) (f : DieSt → DieSt) : State := s.setDie d (f (s.die d))
def State.domain (s : State) (n : Nat) : Domain := s.domains.getD {} n
def State.setDomain (s : State) (n : Nat) (v : Domain) : State := { s with domains := s.domains.setD {} n v }
def State.updDomain (s : State) (n : Nat) (f : Domain → Domain) : State := s.setDomain n (f (s.domain n))
def State.part (s : State) (p : Nat) : Option Part := s.parts.find p
def State.updPart (s : State) (p : Nat) (f : Part → Part) : State := { s with parts := s.parts.upd p f }
def State.link (s : State) (l : LinkId) : LinkDir := s.links.getD {} (2 * l.link + l.rev.toNat)
def State.setLink (s : State) (l : LinkId) (v : LinkDir) : State :=
  { s with links := s.links.setD {} (2 * l.link + l.rev.toNat) v }
def State.check (s : State) (n : Nat) : Option Check := s.checks.find n
def State.updCheck (s : State) (n : Nat) (f : Check → Check) : State := { s with checks := s.checks.upd n f }

/-- A name no object of the state has. -/
def State.fresh (s : State) : Nat × State := (s.nextId, { s with nextId := s.nextId + 1 })
/-- Sends something off the package. -/
def State.emit (s : State) (m : Msg) : State := { s with out := s.out ++ [m] }
/-- Raises a management alert: sent on an open management connection, otherwise queued, the oldest of 256 dropped
(21 R415, R424). -/
def State.alert (s : State) (kind : Nat) (id : Dword) (a b : Word) (c : Dword) : State :=
  let m := Msg.alert kind id a b c
  if s.mgmtConn && s.phase == .ready then s.emit m
  else { s with alerts := (if s.alerts.length < 256 then s.alerts else s.alerts.drop 1) ++ [m] }
/-- A value as a program counter: its bits [1:0] are 0 (02 R19; log 30). -/
def alignPc (w : Word) : Word := w &&& 0xFFFFFFFC#32
/-- The grid of a group's team. -/
def State.gridOf (s : State) (g : Group) : Option Grid := (s.team g.team).bind fun t => s.grid t.grid
/-- The partition a group's accesses belong to; a control core has none. -/
def State.partOf (s : State) (g : Group) : Option Nat := (s.gridOf g).map Grid.part
/-- Resident stack size S of a group (08 R159). A control core's is 128 (log 8). -/
def State.stackOf (s : State) (g : Group) : Nat := ((s.team g.team).map Team.stackS).getD 128
/-- The groups of a team, as (number, group), in group-number order. -/
def State.groupsOf (s : State) (tid : Nat) : List (Nat × Group) := s.groups.filter fun e => e.2.team = tid && !e.2.priv
/-- The teams of a grid. -/
def State.teamsOf (s : State) (n : Nat) : List (Nat × Team) := s.teams.filter fun e => e.2.grid = n

/-! ### Clocks (07 R150) -/

/-- Entry by entry maximum. -/
def Clk.join (a b : Clk) : Clk := ⟨max a.q0 b.q0, max a.q1 b.q1, max a.q2 b.q2, max a.q3 b.q3⟩
/-- Every entry of `a` is at most that of `b`. -/
def Clk.le (a b : Clk) : Bool := a.q0 ≤ b.q0 && a.q1 ≤ b.q1 && a.q2 ≤ b.q2 && a.q3 ≤ b.q3
/-- The entry of a die. -/
def Clk.get (a : Clk) (d : Nat) : Nat := if d = 0 then a.q0 else if d = 1 then a.q1 else if d = 2 then a.q2 else a.q3
/-- The clock with one entry set. -/
def Clk.set (a : Clk) (d n : Nat) : Clk :=
  if d = 0 then { a with q0 := n } else if d = 1 then { a with q1 := n } else if d = 2 then { a with q2 := n }
  else { a with q3 := n }
/-- The clock that holds only one die's epoch. -/
def Clk.one (d n : Nat) : Clk := Clk.set {} d n

/-! ### Lanes -/

/-- The 32 lanes, ascending. -/
def allLanes : List LaneIx := List.finRange 32

/-- A mask of the lanes that satisfy a condition. -/
def maskOf (p : LaneIx → Bool) : Mask := allLanes.foldl (fun m l => if p l then m ||| (1#32 <<< l.val) else m) 0#32

/-- The lanes of a mask, ascending. -/
def Mask.lanes (m : Mask) : List LaneIx := allLanes.filter fun l => Mask.has m l

/-- The lowest lane of a mask. -/
def Mask.low (m : Mask) : Option LaneIx := (Mask.lanes m).head?

def Group.lane (g : Group) (l : LaneIx) : Lane := g.lanes.get l
def Group.setLane (g : Group) (l : LaneIx) (v : Lane) : Group :=
  { g with lanes := Vector.ofFn fun k => if k = l then v else g.lanes.get k }
/-- Changes every lane. -/
def Group.mapLanes (g : Group) (f : LaneIx → Lane → Lane) : Group :=
  { g with lanes := Vector.ofFn fun k => f k (g.lanes.get k) }
/-- Changes the lanes of a mask. -/
def Group.mapOn (g : Group) (m : Mask) (f : LaneIx → Lane → Lane) : Group :=
  g.mapLanes fun k v => if Mask.has m k then f k v else v
/-- The lanes in a state. -/
def Group.inState (g : Group) (st : LaneSt) : Mask := maskOf fun l => (g.lane l).st == st
/-- The lanes that have not exited. -/
def Group.live (g : Group) : Mask := maskOf fun l => (g.lane l).st != .exited

/-! ### What an issue takes (13 R281 to R285) -/

/-- The lanes that can be issued: eligible, with no page walk outstanding (13 R281, 03 R60). -/
def Group.eligible (g : Group) : Mask := maskOf fun l => (g.lane l).st == .eligible && !Mask.has g.walk l

/-- Key order of the PC table: wb descending, then PC ascending (13 R282). -/
def keyBefore (a b : Nat × Word) : Bool := b.1 < a.1 || (a.1 == b.1 && a.2.toNat < b.2.toNat)

/-- The key of a lane. -/
def Lane.key (v : Lane) : Nat × Word := (v.wb, v.pc)

/-- The first key among the lanes of a mask (13 R282). -/
def Group.headKey (g : Group) (m : Mask) : Option (Nat × Word) :=
  (Mask.lanes m).foldl (fun best l =>
    let k := (g.lane l).key
    match best with
    | none => some k
    | some b => if keyBefore k b then some k else some b) none

/-- The starved lane to serve: the greatest count of at least 992, the lowest lane among equals (13 R284). -/
def Group.starved (g : Group) (m : Mask) : Option LaneIx :=
  (Mask.lanes m).foldl (fun best l =>
    if 992 ≤ (g.lane l).starve then
      match best with
      | none => some l
      | some b => if (g.lane b).starve < (g.lane l).starve then some l else some b
    else best) none

/-- The lanes of the next issue (13 R282, R284). -/
def Group.run (g : Group) : Mask :=
  let m := g.eligible
  let key := match g.starved m with
    | some l => some (g.lane l).key
    | none => g.headKey m
  match key with
  | none => 0#32
  | some k => maskOf fun l => Mask.has m l && (g.lane l).key == k

/-- The whole group is parked by something outside any instruction: a queued or loaded trap, shedding, or a stop for a save
(13 R281, 19 R375, 20 R402). -/
def Group.parked (g : Group) : Bool :=
  g.trap.isSome || g.stopped || (g.shed == .forced && g.pin.isNone) || g.shed == .parked

/-- One issue: the group, its state when it issues, its active lanes and their PC (13 R282, 02 R32). -/
structure Issue where
  gid : Nat
  g : Group
  act : Mask
  pc : Word
  deriving DecidableEq, Repr

/-- The issue a group would make now, if any. A group inside an instruction issues that instruction's lanes again. -/
def issueOf (gid : Nat) (g : Group) : Option Issue :=
  if g.parked then none
  else
    let act := match g.pin with
      | some p => p.act
      | none => g.run
    match Mask.low act with
    | none => none
    | some l => some ⟨gid, g, act, (g.lane l).pc⟩

/-- The group whose turn it is: barrel B serves the slot its pointer names; a unit from 1024 on is a control core. The pointer
counts 16 rotations of 8 slots (01 R13; 20 R409; log 1). -/
def State.turnGid (s : State) : Nat :=
  if s.turn < 1024 then 8 * s.turn + (s.core (s.turn / 4)).rot.getD 0 (s.turn % 4) % 8 else ctrlGid (s.turn - 1024)
/-- The duty of a core's domain: its partition's, or 4 while its die is too hot (20 R409; 21 R423). -/
def State.dutyOf (s : State) (core : Nat) : Nat :=
  if (s.die (core / 64)).hot then 4
  else ((s.parts.find? fun p => p.2.domains.getLsbD (domainOf core)).map fun p => p.2.duty).getD 16
/-- The unit's slots are empty in this rotation: at duty D a barrel issues in D of 16 rotations, spread evenly (20 R409). -/
def State.idleTurn (s : State) : Bool :=
  s.turn < 1024 &&
    let d := s.dutyOf (s.turn / 4)
    d ≤ ((s.core (s.turn / 4)).rot.getD 0 (s.turn % 4) / 8 * d) % 16

/-- A write that has been made at a home of the die and is not settled (07 R147). -/
def Req.unsettledOn (r : Req) (die : Nat) : Bool := r.epoch != 0 && r.home / 64 == die
/-- applied(d) of 07 R149: for the die itself the highest epoch whose every write is settled, for another die the highest
whose close marker has arrived and whose every update has been applied. -/
def State.applied (s : State) (d : Nat) : Clk :=
  (List.range 4).foldl (fun (c : Clk) e =>
    let n := if e = d then
        s.reqs.foldl (fun m r => if r.2.unsettledOn d then min m (r.2.epoch - 1) else m) ((s.die d).epoch - 1)
      else
        s.upds.foldl (fun m u => if !u.2.isFill && u.2.src.val = e && u.2.core / 64 = d then min m (u.2.epoch - 1) else m)
          ((s.die d).markers.get e)
    c.set e n) {}

/-- A load waits at its core for earlier accesses of its line (06 R120). -/
def Stage.isQueued : Stage → Bool
  | .queued _ => true
  | _ => false
/-- An access that the group awaits before it issues again: an acquiring atomic's return (07 R152; log 15), and a load that waits to
be performed (06 R120; log 42). -/
def Req.awaitedBy (r : Req) (gid : Nat) (g : Group) : Bool :=
  match r.maker, r.kind with
  | .lane k _, .atomic _ _ _ => k == gid && r.tag == g.tag && r.team == g.team && (r.order == .acq || r.order == .ar)
  | .lane k _, .load _ _ => k == gid && r.tag == g.tag && r.team == g.team && r.stage.isQueued
  | _, _ => false
/-- The group waits for memory before its next issue: a held store without a way (12 R264), clocks not yet applied (07 R145, R152,
R155), an acquire that has not returned (07 R152), or a load that waits to be performed (06 R120). -/
def State.awaits (s : State) (gid : Nat) (g : Group) : Bool :=
  g.blocked || !g.mustSee.le (s.applied (dieOf gid)) || (g.acq && !g.vc.le (s.applied (dieOf gid))) || s.reqs.any fun r => r.2.awaitedBy gid g

/-- The issue of the unit whose turn it is (13 R281, R282). A control core stopped by a trap of its own issues nothing
(19 R369). -/
def State.issue (s : State) : Option Issue :=
  if (s.turn ≥ 1024 && (s.die (s.turn - 1024)).ctrlStopped) || s.idleTurn then none
  else (s.grp s.turnGid).bind fun g => if s.awaits s.turnGid g then none else issueOf s.turnGid g

/-! ### Moving lanes: loops, rejoin masks, exits (13 R289 to R294, R300) -/

/-- A level a lane leaves: its wb is below the level's, or at the same wb its PC lies outside the body (13 R293). -/
def Level.leaves (lv : Level) (wb : Nat) (pc : Word) : Bool :=
  wb < lv.wbn || (wb == lv.wbn && (pc.toNat < lv.start.toNat || lv.stop.toNat < pc.toNat))

/-- Clears one lane's bit. -/
def Mask.drop (m : Mask) (l : LaneIx) : Mask := m &&& ~~~(1#32 <<< l.val)
/-- Sets one lane's bit. -/
def Mask.add (m : Mask) (l : LaneIx) : Mask := m ||| (1#32 <<< l.val)

/-- The innermost level at which a lane that completes the instruction at `pc` with next PC `next` arrives (13 R294). -/
def Group.arrivesAt (g : Group) (l : LaneIx) (pc next : Word) : Option Nat :=
  let wb := (g.lane l).wb
  let ok := fun (e : Level × Nat) =>
    Mask.has e.1.members l && !Mask.has e.1.arrived l && e.1.wbn == wb && e.1.stop == pc && next == e.1.stop + 4#32
  ((g.levels.zipIdx.filter ok).getLast?).map Prod.snd

/-- Changes one open level. -/
def Group.updLevel (g : Group) (n : Nat) (f : Level → Level) : Group :=
  { g with levels := g.levels.zipIdx.map fun e => if e.2 = n then f e.1 else e.1 }

/-- A lane completes the instruction at `pc` and goes on at `next`: it arrives at a loop level, or becomes eligible there
and leaves the levels whose bodies it is outside of (13 R293, R294). -/
def Group.moveLane (g : Group) (l : LaneIx) (pc next : Word) : Group :=
  match g.arrivesAt l pc next with
  | some n =>
    (g.updLevel n fun lv => { lv with arrived := Mask.add lv.arrived l }).setLane l
      { (g.lane l) with pc := next, st := .held n, starve := 0 }
  | none =>
    let v := g.lane l
    { (g.setLane l { v with pc := next, st := .eligible }) with
      levels := g.levels.map fun lv => if lv.leaves v.wb next then { lv with members := Mask.drop lv.members l } else lv }

/-- Removes an open level; the levels above it move down with their counters (13 R294). -/
def Group.dropLevel (g : Group) (n : Nat) : Group :=
  let g := { g with
    levels := g.levels.eraseIdx n
    lc := Vector.ofFn fun k => if k.val < n then g.lc.get k else
      if h : k.val + 1 < 3 then (if k.val + 1 < g.levels.length then g.lc.get ⟨k.val + 1, h⟩ else g.lc.get k)
      else g.lc.get k }
  g.mapLanes fun _ v => match v.st with
    | .held m => if n < m then { v with st := .held (m - 1) } else v
    | _ => v

/-- One decision of level n, every member of which has arrived (13 R294): the back-edge, or the close, after which the
arrived lanes go on at end + 4 and arrive at the enclosing level when it ends there too. -/
def Group.decideLevel (g : Group) (n : Nat) (lv : Level) : Group :=
  let c := g.lc.get (Fin.ofNat 3 n)
  if lv.members != 0#32 && 1 < c.toNat then
    let g := { g with lc := Vector.ofFn fun k => if k.val = n then c - 1 else g.lc.get k }
    (g.updLevel n fun lv => { lv with arrived := 0#32 }).mapOn lv.arrived
      fun _ v => { v with pc := lv.start, st := .eligible, starve := 0 }
  else
    let g := (g.dropLevel n).mapOn lv.arrived fun _ v => { v with pc := lv.stop, st := .eligible, starve := 0 }
    (Mask.lanes lv.arrived).foldl (fun g l => g.moveLane l lv.stop (lv.stop + 4#32)) g

/-- Decides levels until none is ready, innermost first (13 R294). -/
def Group.settleLoops (g : Group) (fuel : Nat) : Group :=
  match fuel with
  | 0 => g
  | fuel + 1 =>
    match (g.levels.zipIdx.filter fun e => e.1.members == e.1.arrived || e.1.members == 0#32).getLast? with
    | none => g
    | some (lv, n) => (g.decideLevel n lv).settleLoops fuel

/-- Releases rejoin mask k: its waiting lanes go on after their `RJWAIT` and the mask becomes 0 (13 R289). -/
def Group.releaseRejoin (g : Group) (k : Nat) : Group :=
  let w := g.inState (.rejoin k)
  let g := { g with rj := Vector.ofFn fun j => if j.val = k then 0#32 else g.rj.get j }
  let g := g.mapOn w fun _ v => { v with starve := 0 }
  (Mask.lanes w).foldl (fun g l => g.moveLane l (g.lane l).pc ((g.lane l).pc + 4#32)) g

/-- Mask k holds waiting lanes and every lane of it waits at k (13 R289). -/
def Group.rejoinReady (g : Group) (k : Nat) : Bool :=
  let w := g.inState (.rejoin k)
  w != 0#32 && (g.rj.get (Fin.ofNat 8 k) &&& ~~~w) == 0#32

/-- Releases every satisfied rejoin mask (13 R289, R290), then decides the loop levels. -/
def Group.settle (g : Group) : Group :=
  let g := (List.range 8).foldl (fun g k => if g.rejoinReady k then g.releaseRejoin k else g) g
  g.settleLoops 8

/-- Lanes exit: they leave the rejoin masks, the loop members and the barriers (13 R300). -/
def Group.leaveLanes (g : Group) (m : Mask) : Group :=
  let g := g.mapOn m fun _ v => { v with st := .exited, marks := 0, second := false, starve := 0 }
  { g with
    rj := Vector.ofFn fun j => g.rj.get j &&& ~~~m
    levels := g.levels.map fun (lv : Level) => { lv with members := lv.members &&& ~~~m, arrived := lv.arrived &&& ~~~m } }
/-- Lanes exit outside any issue, with the releases and closes that this completes (13 R300). -/
def Group.exitLanes (g : Group) (m : Mask) : Group := (g.leaveLanes m).settle

/-- The counts of R284 after an issue: the active lanes restart at 0, the other eligible lanes rise by one. -/
def Group.countIssue (g : Group) (act : Mask) : Group :=
  let e := g.eligible
  g.mapLanes fun l v =>
    if Mask.has act l then { v with starve := 0 } else if Mask.has e l then { v with starve := v.starve + 1 } else v

/-- The end of an issue for the lanes `moved`, each going on at its own next PC (13 R282, R293, R294). -/
def Group.advance (g : Group) (x : Issue) (moved : Mask) (next : LaneIx → Word) : Group :=
  let g := { (g.countIssue x.act) with pin := none, wait := .none, acq := false }
  ((Mask.lanes moved).foldl (fun g l => g.moveLane l x.pc (next l)) g).settle

/-! ### Taking a trap and returning from one (02 R34; 19 R362 to R369) -/

/-- A trap condition that a lane meets: its place in the instruction's own order, its cause, and what TINFO and TADDR take
from the lane (02 R34, 19 R365). -/
structure TrapC where
  rank : Nat
  code : Nat
  info : Word := 0
  addr : Dword := 0
  deriving DecidableEq, Repr

/-- Which of two conditions comes first: earlier place, then lower cause (02 R34). -/
def TrapC.before (a b : TrapC) : Bool := a.rank < b.rank || (a.rank == b.rank && a.code < b.code)

/-- The earliest condition among lanes, with the lanes that meet it: those lanes trap, lanes with later ones are held
(19 R362). -/
def firstTrap (m : Mask) (trap : LaneIx → Option TrapC) : Option (TrapC × Mask) :=
  let best := (Mask.lanes m).foldl (fun (best : Option TrapC) l =>
    match trap l, best with
    | none, b => b
    | some c, none => some c
    | some c, some b => if c.before b then some c else some b) none
  best.map fun b =>
    (b, maskOf fun l => Mask.has m l && (match trap l with
      | some c => c.rank == b.rank && c.code == b.code
      | none => false))

/-- Taking a trap, the one operation for every instruction and every unit (19 R362 to R365, R369): the group parks with
the trap's record, and its entry joins its die's trap queue. A control core's own trap stops that control core and raises
a control-fault alert. -/
def State.takeTrap (s : State) (gid : Nat) (t : Trap) : State :=
  let die := dieOf gid
  if gid < 8192 then
    (s.updGrp gid fun g => { g with trap := some t }).updDie die fun d => { d with trapQ := d.trapQ ++ [gid] }
  else
    ((s.updGrp gid fun g => { g with trap := some t }).updDie die fun d => { d with ctrlStopped := true }).alert
      3 0 (BitVec.ofNat 32 die) (BitVec.ofNat 32 t.code) (t.pc.setWidth 64)

/-- Loads the head of a die's trap queue into its trap registers (19 R363, R364, R367). -/
def State.loadTrap (s : State) (die : Nat) : State :=
  match (s.die die).trapQ with
  | [] => s
  | gid :: rest =>
    match (s.grp gid).bind Group.trap with
    | none => s.updDie die fun d => { d with trapQ := rest }
    | some t =>
      let s := s.updGrp gid fun g => { g with trap := g.trap.map fun t => { t with loaded := true } }
      s.updDie die fun d => { d with
        trapQ := rest
        tcause := BitVec.ofNat 32 t.code
        tpc := t.pc
        tlanes := t.lanes
        taddr := t.addr
        tinfo := t.info
        tgroup := 0x80000000#32 ||| (BitVec.ofNat 32 (coreOf gid % 64) <<< 8) ||| BitVec.ofNat 32 (slotOf gid) }

/-- A trap is loaded: TGROUP.LOADED (19 R364). -/
def DieSt.loaded (d : DieSt) : Bool := d.tgroup.getLsbD 31
/-- The group of the loaded trap, from TGROUP's fields. -/
def loadedGid (die : Nat) (d : DieSt) : Nat :=
  32 * (64 * die + (d.tgroup.extractLsb' 8 6).toNat) + (d.tgroup.extractLsb' 0 5).toNat

/-- Returning from a trap with the resume action: every lane of TLANES takes PC = TPC, whose bits [1:0] are zero in any PC (02 R19;
log 30), and one that can be issued arrives at a loop level that ends at the trapped instruction; held lanes keep theirs; the group
unparks (19 R368 action 0; 13 R293, R294). -/
def State.resumeTrap (s : State) (die : Nat) : State :=
  let d := s.die die
  s.updGrp (loadedGid die d) fun g =>
    match g.trap with
    | some t =>
      if t.loaded then
        let pc := alignPc d.tpc
        let go := fun (g : Group) l =>
          if (g.lane l).st == .eligible then g.moveLane l t.pc pc else g.setLane l { (g.lane l) with pc }
        { ((Mask.lanes d.tlanes).foldl go g).settle with trap := none }
      else g
    | none => g

/-- LOADED clears; the other trap registers keep their values (19 R368). -/
def State.clearLoaded (s : State) (die : Nat) : State :=
  s.updDie die fun d => { d with tgroup := d.tgroup &&& 0x7FFFFFFF#32 }

/-! ### The shape of every issue -/

/-- Runs a meaning on the issue of the unit whose turn it is; with none, the turn passes and nothing changes (01 R13). -/
def State.withIssue (s : State) (k : Issue → Out) : Out :=
  match s.issue with
  | none => .next s
  | some x => k x

/-- The lanes that participate: active, and with the guard their `gp` bit set (10 R208). -/
def Issue.part (x : Issue) (guard : Bool) : Mask := if guard then x.act &&& x.g.gp else x.act

/-- The end of an issue (19 R362, 10 R208, R209). Of the participating lanes those with the earliest condition trap, those
with a later one are held, and the others complete: `eff` is what they do. They and the active lanes that do not
participate go on, but for the lanes that `stay` names, which `eff` has made wait or exit. -/
def State.finishStay (s : State) (x : Issue) (part : Mask) (trap : LaneIx → Option TrapC)
    (eff : Mask → State → State) (stay : Mask → Mask) (next : LaneIx → Word) : Out :=
  let done := maskOf fun l => Mask.has part l && (trap l).isNone
  let s1 := eff done s
  let s2 := s1.updGrp x.gid fun g => g.advance x ((done ||| (x.act &&& ~~~part)) &&& ~~~(stay done)) next
  match firstTrap part trap with
  | none => .next s2
  | some (_, lanes) =>
    let c := ((Mask.low lanes).bind trap).getD ⟨0, 0, 0, 0⟩
    .next (s2.takeTrap x.gid ⟨c.code, x.pc, lanes, c.info, c.addr, false⟩)

/-- `finishStay` with every completing lane going on. -/
def State.finish (s : State) (x : Issue) (part : Mask) (trap : LaneIx → Option TrapC)
    (eff : Mask → State → State) (next : LaneIx → Word) : Out :=
  s.finishStay x part trap eff (fun _ => 0#32) next

/-- Every active lane traps together and nothing else happens (11 R241, 13 R292, 02 R32). -/
def State.trapAll (s : State) (x : Issue) (code : Nat) (info : Word) (addr : Dword) : Out :=
  .next ((s.updGrp x.gid fun g => { (g.countIssue x.act) with pin := none, wait := Wait.none, acq := false }).takeTrap x.gid
    ⟨code, x.pc, x.act, info, addr, false⟩)

/-- The next PC of an instruction that is no jump. -/
def Issue.seq (x : Issue) : LaneIx → Word := fun _ => x.pc + 4#32

end Sys2Proof.Machine
end

