-- ==== Sys2Proof/Machine/Fabric.lean ====
section
/-! DEFINITION. Loops and links (04): the fixed path of every pair of stations, partition slots, packets on their way, and
the edge and Rutik links with their replay, windows and audits. A packet is on its way until its last leg is travelled; what it
carries has arrived when no packet carries it. -/

namespace Sys2Proof.Machine

/-! ### Stations and paths (R70, R73, R80) -/

/-- A counter field that stops at its greatest value. -/
def satInc (n top : Nat) : Nat := min (n + 1) top

/-- The edge link between adjacent dies, in the order of 12 R280, seen from the source (R70). -/
def edgeLink (d d' : Nat) : LinkId :=
  let n := if d / 2 = d' / 2 then d / 2 else 2 + d % 2
  ⟨n, d' < d⟩
/-- The edge station of a die towards an adjacent die (R70). -/
def edgeStation (d d' : Nat) : Nat := if d / 2 = d' / 2 then 69 else 70
/-- A loop leg, none where the packet is already at its station. -/
def loopLeg (d : Nat) (src dst : Nat) : List Leg := if src = dst then [] else [.loop (Fin.ofNat 4 d) src dst]
/-- The legs between adjacent dies from an edge or other station. -/
def hopLegs (d d' src : Nat) : List Leg := loopLeg d src (edgeStation d d') ++ [.link (edgeLink d d')]
/-- The one fixed path between two stations of the package (R73, R80): a diagonal pair is relayed through the die
horizontally adjacent to the source. -/
def route (d src d' dst : Nat) : List Leg :=
  if d = d' then loopLeg d src dst
  else if d ^^^ d' = 3 then
    hopLegs d (d ^^^ 1) src ++ hopLegs (d ^^^ 1) d' (edgeStation (d ^^^ 1) d) ++ loopLeg d' (edgeStation d' (d ^^^ 1)) dst
  else hopLegs d d' src ++ loopLeg d' (edgeStation d' d) dst
/-- The path of a close marker between the edge stations of two dies (07 R149). -/
def markerRoute (d d' : Nat) : List Leg :=
  if d ^^^ d' = 3 then
    .link (edgeLink d (d ^^^ 1)) :: hopLegs (d ^^^ 1) d' (edgeStation (d ^^^ 1) d)
  else [.link (edgeLink d d')]
/-- The station of a core or a control core on its die (R70). -/
def stationOf (c : Nat) : Nat := if c < 256 then c % 64 else 64

/-- Hops from one station to another round a loop, if it passes both; to itself it is a whole round (R73, R77). -/
def loopHops (l src dst : Nat) : Option Nat :=
  let st := Config.loopStations l
  match st.findIdx? (· == src), st.findIdx? (· == dst) with
  | some i, some j => some (1 + (j + st.length - i - 1) % st.length)
  | _, _ => none
/-- Of some loops the one with the fewest hops between two stations, then the lowest number (R73, R77). -/
def nearestLoop (loops : List Nat) (src dst : Nat) : Option Nat :=
  (loops.foldl (fun (best : Option (Nat × Nat)) l =>
    match loopHops l src dst, best with
    | some h, none => some (h, l)
    | some h, some b => if h < b.1 then some (h, l) else best
    | none, _ => best) none).map Prod.snd
/-- The loop of a station pair: fewest hops, then lowest number (R73). -/
def loopFor (src dst : Nat) : Option Nat := nearestLoop (List.range 28) src dst

/-- The loop that a leg travels (R73, R77). -/
def Leg.loopNo : Leg → Option Nat
  | .loop _ src dst => loopFor src dst
  | .mloop _ l _ _ => some l
  | .link _ => none
/-- The die and the stations of a loop leg. -/
def Leg.onDie : Leg → Option (Die × Nat × Nat)
  | .loop d src dst | .mloop d _ src dst => some (d, src, dst)
  | .link _ => none
/-- Two legs join the same stations on the same loop: packets on them keep their order (R73, R74). -/
def Leg.samePath (a b : Leg) : Bool := a.onDie.isSome && a.onDie == b.onDie && a.loopNo == b.loopNo

/-- The owner of containers j mod 16 of a loop; 31 at reset (R75, R76). -/
def State.slotOwner (s : State) (die loop j : Nat) : Nat := s.slotTab.getD 31 (16 * (28 * die + loop) + j)
/-- The containers on a loop: a multiple of 16 (R75). -/
def loopContainers (l : Nat) : Nat := 16 * (Config.loopTrains l + 1)
/-- A packet rides a container of a loop of a die. -/
def Packet.rides (p : Packet) (die : Die) (loop c : Nat) : Bool :=
  p.on == some c && p.legs.head?.any fun g => g.loopNo == some loop && (g.onDie.map Prod.fst) == some die
/-- A container of a loop is a partition's and empty (R75). -/
def State.emptyAt (s : State) (part : Nat) (die : Die) (loop c : Nat) : Bool :=
  s.slotOwner die loop (c % 16) == part && s.packets.all fun e => !e.2.rides die loop c
/-- A partition has an empty container on a loop of a die (R75, R76). -/
def State.roomOn (s : State) (part : Nat) (die : Die) (loop : Nat) : Bool :=
  ((List.range 16).any fun c => s.emptyAt part die loop c) || (List.range (loopContainers loop)).any fun c => s.emptyAt part die loop c
/-- A partition has an empty container on the loop that serves a pair of stations, as it does when it has one on every loop (R71,
R75, R76). -/
def State.roomFor (s : State) (part : Nat) (die : Die) (src dst : Nat) : Bool :=
  ((List.range 28).all fun l => s.roomOn part die l) || (loopFor src dst).any fun l => s.roomOn part die l
/-- A partition's packets can travel a path now: on every loop of it an empty container is the partition's, and its links are up
(R75, R76, R83). What an engine, the host or a home's own fills and write-backs move in one step moves only then (log 10). -/
def State.pathOpen (s : State) (part : Nat) (legs : List Leg) : Bool :=
  legs.all fun g => match g with
    | .link l => (s.link l).state == 1
    | .loop d src dst => s.roomFor part d src dst
    | .mloop d l _ _ => s.roomOn part d l

/-! ### Packets (R72 to R74) -/

/-- The flits of a transfer's packets: each packet moves at most one L2 line (R72). -/
def packetFlits (n : Nat) : List Nat := (List.range ((n + 255) / 256)).map fun i => (min 256 (n - 256 * i) + 63) / 64
/-- Starts the travel of a packet's first leg: it joins its station's queue, a link leg the link's (R74, R81). -/
def State.enter (s : State) (pid : Nat) (p : Packet) : State :=
  let (n, s) := s.fresh
  let s := { s with packets := s.packets.put pid { p with seq := n, on := none } }
  match p.legs with
  | .link l :: _ =>
    let d := s.link l
    s.setLink l { d with queue := d.queue ++ (List.range p.flits).map fun i => (pid, i) }
  | _ => s
/-- Sends a packet along a path; with no leg to travel its cargo is there at once. -/
def State.send (s : State) (part flits : Nat) (legs : List Leg) (c : Cargo) : State :=
  if legs.isEmpty then s
  else
    let (pid, s) := s.fresh
    s.enter pid { part, flits, legs, cargo := c }
/-- A packet carrying this is still on its way. -/
def State.inTransit (s : State) (c : Cargo) : Bool := s.packets.any fun e => e.2.cargo == c

/-- A transfer's data for one of its destinations is still on its way. -/
def State.putOut (s : State) (core cid dest : Nat) : Bool := s.packets.any fun e => match e.2.cargo with
  | .put c k d => c == core && k == cid && d == dest
  | .mput c k _ _ _ stops => c == core && k == cid && stops.any fun x => decide (x.1 < 64) && x.2 == dest
  | _ => false
/-- A multicast transfer still has a copy on its way to a further die. -/
def State.mcastOut (s : State) (core cid : Nat) : Bool := s.packets.any fun e => match e.2.cargo with
  | .mcast c k _ die _ => c == core && k == cid && die < 4
  | .mput c k _ _ _ stops => c == core && k == cid && stops.any fun x => x.1 == 69 || x.1 == 70
  | _ => false

/-! ### Multicast (R77 to R79) -/

/-- The key of a station's entry for a group (R77). -/
def mcKey (die st ident : Nat) : Nat := (72 * die + st) * 4096 + ident
/-- A multicast entry of a station as a partition may use it (R77, R79). Identifiers from 0xE00 on serve placement's operand
groups alone. -/
def State.mcEntry (s : State) (die st ident part : Nat) : Option (BitVec 128) :=
  match s.mcast.find (mcKey die st ident) with
  | some e =>
    if e.getLsbD 127 && ((e.extractLsb' 96 5).toNat = part || (e.extractLsb' 96 5).toNat = 31) && ident < 0xE00 then some e
    else none
  | none => none
/-- The core stations an entry drops copies at. -/
def mcDrops (die : Nat) (e : BitVec 128) : List Nat := ((List.range 64).filter fun n => e.getLsbD n).map (64 * die + ·)
/-- The group identifier of the row operand, or of the column operand, of a cluster whose pair of groups is number k (R78; log
28). -/
def bandIdent (k : Nat) (isB : Bool) : Nat := 0xE00 + 2 * k + isB.toNat
/-- The lowest pair of groups that no station of some cores uses (R78; log 28). -/
def State.freeBand (s : State) (cores : List Nat) : Nat :=
  ((List.range 256).find? fun k => cores.all fun c => [false, true].all fun b =>
    (s.mcast.find (mcKey (c / 64) (c % 64) (bandIdent k b))).isNone).getD 0
/-- The entry of an operand group of a partition that drops at the stations of some cores, over any loop (R77, R78). -/
def bandWord (part : Nat) (cores : List Nat) : BitVec 128 :=
  cores.foldl (fun w c => w ||| (1#128 <<< (c % 64)))
    (BitVec.ofNat 128 (2 ^ 127 + part * 2 ^ 96 + (2 ^ 28 - 1) * 2 ^ 64))
/-- The core that reads a row's A band or a column's B band of a cluster, by its base, and the other cores of the row or column (11
R250). -/
def bandRow (base w h : Nat) (isB : Bool) (i : Nat) : Nat × List Nat :=
  if isB then (base + i, (List.range (h - 1)).map fun j => base + i + 8 * (j + 1))
  else (base + 8 * i, (List.range (w - 1)).map fun j => base + 8 * i + (j + 1))
/-- Placement writes a cluster's row and column groups (R78; 11 R250). -/
def State.writeBands (s : State) (part base w h k : Nat) : State :=
  [false, true].foldl (fun s b => (List.range (if b then w else h)).foldl (fun s i =>
    let (c, others) := bandRow base w h b i
    { s with mcast := s.mcast.put (mcKey (c / 64) (c % 64) (bandIdent k b)) (bandWord part others) }) s) s
/-- Placement clears a cluster's row and column groups (R78). -/
def State.clearBands (s : State) (base w h k : Nat) : State :=
  [false, true].foldl (fun s b => (List.range (if b then w else h)).foldl (fun s i =>
    let c := (bandRow base w h b i).1
    { s with mcast := s.mcast.del (mcKey (c / 64) (c % 64) (bandIdent k b)) }) s) s
/-- The dies whose edge stations an entry forwards to (R70, R77). -/
def mcEdges (die : Nat) (e : BitVec 128) : List Nat :=
  (if e.getLsbD 92 then [die ^^^ 1] else []) ++ (if e.getLsbD 93 then [die ^^^ 2] else [])
/-- The loops that an entry names (R77). -/
def mcLoops (e : BitVec 128) : List Nat := (List.range 28).filter fun l => e.getLsbD (64 + l)
/-- The loop of LOOPS from which a station ejects what another injects: the one that reaches it first; none where no loop of them
joins the two (R77). -/
def mcLoop (e : BitVec 128) (src dst : Nat) : Option Nat := nearestLoop (mcLoops e) src dst
/-- Of some stations those that eject from a loop, in the order in which it reaches them (R77). -/
def mcStops (e : BitVec 128) (src l : Nat) (stops : List (Nat × Nat)) : List (Nat × Nat) :=
  sortBy (fun a b => (loopHops l src a.1).getD 0 ≤ (loopHops l src b.1).getD 0) (stops.filter fun x => mcLoop e src x.1 == some l)
/-- The die that an edge station's port leads to; none for the port to the I/O die (R70). -/
def edgeDie (die st : Nat) : Option Nat := if st = 69 then some (die ^^^ 1) else if st = 70 then some (die ^^^ 2) else none
/-- The team of the sender's grid on a core stands for slot 32: `PUTM` (05 R116). -/
def gridSlot : Nat := 32
/-- Counts a multicast copy dropped at a far die's edge station, on the direction that carried it there (R79, R86; log 40). -/
def State.countDrop (s : State) (d d' : Nat) : State :=
  let l := edgeLink d d'
  s.setLink l { (s.link l) with mcDrop := satInc (s.link l).mcDrop 15 }
/-- A link on a path is down (05 R104 code 0x05). -/
def State.pathDown (s : State) (legs : List Leg) : Bool := legs.any fun g => match g with
  | .link l => (s.link l).state == 3
  | _ => false
/-- A further destination of a transfer. -/
def State.addDest (s : State) (core cid : Nat) (d : PutDest) : State :=
  s.updCore core fun k => { k with copies := k.copies.upd cid fun c => { c with dests := c.dests ++ [d] } }
/-- Sends a transfer's packets along a path with one cargo (R72). -/
def State.sendAll (s : State) (part bytes : Nat) (legs : List Leg) (c : Cargo) : State :=
  (packetFlits bytes).foldl (fun s n => s.send part n legs c) s
/-- A multicast transfer spreads from a station as the entry says: each of its packets is injected once onto each loop of LOOPS that
passes the station, and ejected at each core station of DROP and each edge station of EDGE whose link its copy has not crossed, by
the loop that reaches it first; port 2 leads to the I/O die, which drops it. A loop that no station ejects from takes the packet round
once. An entry that leads nowhere leaves its sender nothing to wait for (R77; 05 R116; log 40). -/
def State.spread (s : State) (part core cid ident die st : Nat) (seen : List Nat) (e : BitVec 128) : State :=
  match (s.core core).copies.find cid with
  | none => s
  | some c =>
    let drops := (mcDrops die e).filter fun k => (mcLoop e st (k % 64)).isSome
    let ports := (mcEdges die e).filter fun d' =>
      !seen.contains (4 * die + d') && !seen.contains (4 * d' + die) && (mcLoop e st (edgeStation die d')).isSome
    let down := ports.filter fun d' => s.pathDown [.link (edgeLink die d')]
    let s := drops.foldl (fun s k => s.addDest core cid { core := k, tslot := gridSlot }) s
    let s := down.foldl (fun s _ => s.addDest core cid { core := core, tslot := 33, stage := 1, err := 0x05 }) s
    let s := if drops.isEmpty && ports.isEmpty then s.addDest core cid { core := core, tslot := 33, stage := 1 } else s
    let stops := (drops.zipIdx.map fun x => (x.1 % 64, c.dests.length + x.2)) ++
      ((ports.filter fun d' => !down.contains d').map fun d' => (edgeStation die d', 0)) ++
      (if e.getLsbD 94 && (mcLoop e st 71).isSome then [(71, 0)] else [])
    ((mcLoops e).filter fun l => (Config.loopStations l).contains st).foldl (fun s l =>
      let at_ := mcStops e st l stops
      let legs := (if at_.isEmpty then [st] else at_.map Prod.fst).map fun x => Leg.mloop (Fin.ofNat 4 die) l st x
      s.sendAll part c.bytes.length legs (.mput core cid ident die seen at_)) s
/-- A multicast packet has come to a station that ejects it: an edge station repacks it onto its link, and on the loop it rides on to
the next such station, in its container (R77). -/
def State.stopDone (s : State) (pid : Nat) (p : Packet) (core cid ident die : Nat) (seen : List Nat) (stops : List (Nat × Nat)) :
    State :=
  let q := { p with legs := p.legs.drop 1, cargo := .mput core cid ident die seen (stops.drop 1) }
  let s := { s with packets := if q.legs.isEmpty then s.packets.del pid else s.packets.put pid q }
  match stops.head? with
  | none => s
  | some (st, _) =>
    if st = 71 then s.send p.part p.flits [.link ⟨4 + die, false⟩] (.mcast core cid ident 4 seen)
    else match edgeDie die st with
      | some d' => s.send p.part p.flits [.link (edgeLink die d')] (.mcast core cid ident d' ((4 * die + d') :: seen))
      | none => s
/-- Packets of a multicast transfer are still on their way to a further die over the links in `seen`: on the last of them, or on a
loop before it (R72, R77). -/
def State.mcastMore (s : State) (core cid ident die : Nat) (seen : List Nat) : Bool := s.packets.any fun e => match e.2.cargo with
  | .mcast c k i d sn => c == core && k == cid && i == ident && d == die && sn == seen
  | .mput c k i d sn stops => c == core && k == cid && i == ident && (4 * d + die) :: sn == seen &&
      stops.any fun x => edgeDie d x.1 == some die
  | _ => false
/-- What a packet's arrival does by itself: an event stands in its task unit's order of arrival (17 R332).
The last packet of a multicast transfer has come to a far die's edge station, which looks the group up in its own table: it spreads
from there, or is dropped and counted, and its sender meets the no-group error (R77 to R79). -/
def State.arrive (s : State) (part : Nat) (c : Cargo) : State :=
  match c with
  | .mcast core cid ident die seen =>
    if s.mcastMore core cid ident die seen || 4 ≤ die then s
    else
      let prev := seen.headD 0 / 4
      let st := edgeStation die prev
      match s.mcEntry die st ident part with
      | some e => s.spread part core cid ident die st seen e
      | none => (s.countDrop prev die).addDest core cid { core := core, tslot := 33, stage := 1, err := 0x04 }
  | .foreignReply id => match s.foreign.find id with
    | some f => { s with foreign := s.foreign.del id }.emit (.rutikReply f.pkg f.src f.seq (f.codes.getD []))
    | none => s
  | .task id => { s with grids := s.grids.map fun e => (e.1, { e.2 with refine := e.2.refine.map fun r =>
      if (r.ev.find id).isSome then { r with arrived := r.arrived ++ [id] } else r }) }
  | _ => s

/-! ### Travel (R73, R74; 19 R379) -/

/-- Where a leg starts and ends, as stations of the package (19 R378). -/
def Leg.ends : Leg → Nat × Nat
  | .loop d src dst | .mloop d _ src dst => (72 * d.val + src, 72 * d.val + dst)
  | .link l =>
    if 4 ≤ l.link then (0, 0)
    else
      let (d, d') := if l.link < 2 then (2 * l.link, 2 * l.link + 1) else (l.link - 2, l.link)
      let (d, d') := if l.rev then (d', d) else (d, d')
      (72 * d + edgeStation d d', 72 * d' + edgeStation d' d)
/-- The team and grid of the lane whose load, store or atomic an access is (19 R379). -/
def State.reqOwner (s : State) (rid : Nat) : Option (Nat × Nat) :=
  (s.reqs.find rid).bind fun r => match r.maker, r.kind with
    | .lane _ _, .load _ _ | .lane _ _, .store _ | .lane _ _, .atomic _ _ _ => (s.team r.team).map fun t => (r.team, t.grid)
    | _, _ => none
/-- The grid whose lane made an access. -/
def State.reqGrid (s : State) (rid : Nat) : Option Nat := (s.reqOwner rid).map Prod.snd
/-- The team and grid whose lane access a packet belongs to, of the class that a cut holds: requests, replies and
acknowledgements, and updates (19 R379). -/
def State.heldClass (s : State) (c : Cargo) : Option (Nat × Nat) :=
  match c with
  | .req rid | .reply rid => s.reqOwner rid
  | .upd uid => (s.upds.find uid).bind fun u => s.reqOwner u.store
  | _ => none
/-- A packet of a job arrives at a station that has met the job's marker before it has closed the packet's source: it is held
there, and a store or atomic is recorded (19 R379). -/
def Cut.holds (k : Cut) (s : State) (p : Packet) (leg : Leg) : Bool :=
  let (src, dst) := leg.ends
  (k.met.find dst).isSome && !k.closed.contains (dst, src) && (s.heldClass p.cargo).any fun g => k.grids.contains g.2
/-- A cut holds a packet at the end of a leg: it stays there with its access; an update leaves the fabric, and a fill with it, whose
load's value it may carry; a store's or atomic's request is recorded (19 R379). -/
def State.holdPacket (s : State) (i pid : Nat) (p : Packet) (leg : Leg) : State :=
  let (team, grid) := (s.heldClass p.cargo).getD (0, 0)
  let add := fun (s : State) (what : HeldPkt) => { s with
    nextId := s.nextId + 1
    cuts := s.cuts.modify i fun k => { k with held := k.held ++ [⟨s.nextId, leg.ends.1, team, grid, what⟩] } }
  let stay := fun (rid : Nat) (c : Cargo) => add { s with packets := s.packets.put pid { p with legs := [], cargo := c } } (.access rid pid)
  match p.cargo with
  | .req rid =>
    let s := stay rid p.cargo
    if (s.reqs.find rid).any fun r => match r.kind with
      | .load _ _ => false
      | _ => true then { s with cuts := s.cuts.modify i fun k => { k with recorded := k.recorded ++ [rid] } } else s
  | .reply rid => stay rid p.cargo
  | .upd uid => match s.upds.find uid with
    | none => s
    | some u =>
      if u.isFill then
        if s.packets.any fun e => e.2.cargo == .reply u.store then { s with packets := s.packets.del pid, upds := s.upds.del uid }
        else { (stay u.store (.reply u.store)) with upds := s.upds.del uid }
      else add { s with packets := s.packets.del pid, upds := s.upds.del uid } (.update u)
  | _ => s
/-- The packet has travelled its first leg: it starts the next one, has arrived, or is held by a cut. -/
def State.legDone (s : State) (pid : Nat) : State :=
  match s.packets.find pid with
  | none => s
  | some p =>
    let q := { p with legs := p.legs.drop 1 }
    match p.legs.head?.bind fun leg => (s.cuts.findIdx? fun k => k.holds s p leg).map fun i => (leg, i) with
    | some (leg, i) =>
      s.holdPacket i pid p leg
    | none => match p.cargo with
      | .mput core cid ident die seen stops => s.stopDone pid p core cid ident die seen stops
      | c =>
        if q.legs.isEmpty then { s with packets := s.packets.del pid }.arrive p.part c
        else s.enter pid q
/-- The held packets of a grid that has ended are delivered: its stores and atomics still complete (19 R369). -/
def State.releaseHeld (s : State) (grid : Nat) : State :=
  let hs := (s.cuts.flatMap Cut.held).filter fun h => h.grid == grid
  let s := { s with cuts := s.cuts.map fun k => { k with held := k.held.filter fun h => h.grid != grid } }
  hs.foldl (fun s h => match h.what with
    | .access _ pid => { s with packets := s.packets.del pid }
    | .update u => let (uid, s) := s.fresh; { s with upds := s.upds.put uid u }) s
/-- Of the packets on one path that ride it, or wait for it with a partition's, this is the first (R73 to R75). -/
def State.firstOn (s : State) (p : Packet) (g : Leg) : Bool :=
  s.packets.all fun e => p.seq ≤ e.2.seq || !(e.2.legs.head?.any g.samePath) ||
    (if p.on.isSome then e.2.on.isNone else e.2.on.isSome || e.2.part ≠ p.part)
/-- A container passes a station: empty and owned by the packet's partition, it takes the packet that has waited longest among
the partition's for the same path; flits on the loop, and other partitions' containers, pass (R74, R75). -/
def State.injectInto (s : State) (pid c : Nat) : State :=
  match s.packets.find pid with
  | none => s
  | some p =>
    match p.legs.head?.bind fun g => g.onDie.bind fun e => g.loopNo.map fun l => (g, e.1, l) with
    | none => s
    | some (g, d, l) =>
      if p.on.isNone && c < loopContainers l && s.emptyAt p.part d l c && s.firstOn p g then
        { s with packets := s.packets.put pid { p with on := some c, seq := s.nextId }, nextId := s.nextId + 1 }
      else s
/-- A station's ejection buffers for a loop as one number (R74). -/
def ejectKey (die loop st : Nat) : Nat := 72 * (28 * die + loop) + st

/-- LOOP_PACKET_EJECT: a packet that rides a loop is ejected at its station when an ejection buffer is free, in the order of
injection from one station to another; otherwise it stays on the loop and comes round again (R73 to R76). -/
def execLoopPacketEject (pid : Nat) (s : State) : Out :=
  match s.packets.find pid with
  | some p =>
    match p.legs.head?.bind fun g => g.onDie.bind fun e => g.loopNo.map fun l => (g, e, l) with
    | some (g, (d, _, dst), l) =>
      if p.on.isSome && s.firstOn p g && !s.ejFull.contains (ejectKey d l dst) then .next (s.legDone pid) else .next s
    | none => .next s
  | none => .next s

/-! ### Edge and Rutik links (R81 to R87) -/

/-- Changes both directions of a link. -/
def State.bothDirs (s : State) (link : Nat) (f : LinkDir → LinkDir) : State :=
  let s := s.setLink ⟨link, false⟩ (f (s.link ⟨link, false⟩))
  s.setLink ⟨link, true⟩ (f (s.link ⟨link, true⟩))
/-- Starts retraining: queues hold, what is on the wire is lost and counted once (R83). -/
def State.startRetrain (s : State) (link : Nat) : State :=
  s.bothDirs link fun d => { d with
    state := 2, wire := [], seenFlits := 0, refused := [], retrain := satInc d.retrain 0xFFF }

/-- 4,096 data flits have been sent since the last window audit: the audit flit is sent next (R85). -/
def LinkDir.auditDue (d : LinkDir) : Bool := 4096 ≤ (d.sent + 2 ^ 32 - d.audited) % 2 ^ 32
/-- EDGE_FLIT_SEND: the next unacknowledged flit, or a new one packed from the head of the queue while the window and the
replay buffer have room (R81, R82, R84). -/
def execEdgeFlitSend (l : LinkId) (s : State) : Out :=
  let d := s.link l
  if d.state ≠ 1 then .next s
  else match d.replay[d.sentTo]? with
    | some f => .next (s.setLink l { d with wire := d.wire ++ [f], sentTo := d.sentTo + 1 })
    | none =>
      if d.queue.isEmpty || d.win ≤ 0 || 1024 ≤ d.replay.length || d.auditDue then .next s
      else
        let f : EFlit := { seq := d.nextSeq, lanes := d.queue.take 4 }
        .next (s.setLink l { d with
          queue := d.queue.drop 4, nextSeq := (d.nextSeq + 1) % 65536, replay := d.replay ++ [f]
          sentTo := d.sentTo + 1, win := d.win - 1, wire := d.wire ++ [f], sent := (d.sent + 1) % 2 ^ 32 })

/-- Takes the loop flits of an accepted edge flit; a packet whose flits are all present goes on (R81). -/
def State.reassemble (s : State) (l : LinkId) (lanes : List (Nat × Nat)) : State :=
  lanes.foldl (fun s e =>
    let d := s.link l
    let n := d.parts.getD 0 e.1 + 1
    match s.packets.find e.1 with
    | none => s
    | some p =>
      if n < p.flits then s.setLink l { d with parts := d.parts.setD 0 e.1 n }
      else (s.setLink l { d with parts := d.parts.del e.1 }).legDone e.1) s

/-- The answer of a receiver: the last number accepted, the credits owed and an audit's D = S − F, where F counts the flits
freed with those credits (R82, R84, R85). -/
def LinkDir.answer (d : LinkDir) (nak : Bool) : LinkDir :=
  { d with
    acks := d.acks ++ [⟨(d.expect + 65535) % 65536, d.owed, d.dOwed.map fun n => (n + 2 ^ 32 - d.freed) % 2 ^ 32, nak⟩]
    owed := 0, dOwed := none
    nakCount := if nak then satInc d.nakCount 0xFFF else d.nakCount }

/-- The refusal of the flit numbered n: 16 refusals within the last 65,536 flits retrain the link (R83). -/
def LinkDir.refuse (d : LinkDir) : LinkDir × Bool :=
  let r := (d.seenFlits :: d.refused).filter fun n => d.seenFlits < n + 65536
  ({ (d.answer true) with refused := r }, 16 ≤ r.length)
/-- EDGE_FLIT_RECEIVE: the data flit at the end of the wire is accepted in sequence, discarded when already accepted, and
refused on a bad CRC or out of sequence; 16 refusals within 65,536 flits, or a flit that finds all 392 buffers in use, retrain
the link (R82 to R84). -/
def execEdgeFlitReceive (l : LinkId) (crcOk : Bool) (s : State) : Out :=
  let d := s.link l
  match d.wire with
  | [] => .next s
  | f :: rest =>
    if f.audit.isSome then .next s
    else
      let d := { d with wire := rest, seenFlits := d.seenFlits + 1 }
      let ahead := (f.seq + 65536 - d.expect) % 65536
      if crcOk && !f.bad && ahead = 0 && d.inUse < 392 then
        let d := { d with expect := (d.expect + 1) % 65536, inUse := d.inUse + 1 }
        .next ((s.setLink l (d.answer false)).reassemble l f.lanes)
      else if crcOk && !f.bad && 32768 ≤ ahead then .next (s.setLink l (d.answer false))
      else
        let (d, often) := d.refuse
        let s := s.setLink l d
        .next (if often || 392 ≤ d.inUse then s.startRetrain l.link else s)

/-- A receiver frees buffers: their credits go in an acknowledgement (R84, R85). -/
def LinkDir.drain (d : LinkDir) (n : Nat) : LinkDir :=
  let k := min n d.inUse
  if k = 0 then d
  else ({ d with inUse := d.inUse - k, freed := (d.freed + k) % 2 ^ 32, owed := d.owed + k }).answer false

/-- Flits acknowledged up to a number leave the replay buffer (R82). -/
def LinkDir.acked (d : LinkDir) (upto : Nat) : LinkDir :=
  let n := ((d.replay.findIdx? fun f => f.seq == upto).map (· + 1)).getD 0
  { d with replay := d.replay.drop n, sentTo := d.sentTo - n }
/-- An answer's credits, then the window an audit finds (R84, R85). -/
def LinkDir.credit (d : LinkDir) (a : Ack) : LinkDir :=
  let d := { d.acked a.upto with win := d.win + a.credits }
  match a.d with
  | none => d
  | some n =>
    let w : Int := 384 - n - ((d.sent + 2 ^ 32 - d.audited) % 2 ^ 32 : Nat)
    if d.win = w then d
    else if d.win < w then { d with win := w, audLoss := satInc d.audLoss 0xFFFF }
    else { d with win := w, audGain := satInc d.audGain 0xFFFF }

/-- EDGE_ACK_RECEIVE (R82, R84, R85). -/
def execEdgeAckReceive (l : LinkId) (s : State) : Out :=
  let d := s.link l
  match d.acks with
  | a :: rest => if a.nak then .next s else .next (s.setLink l ({ d with acks := rest }.credit a))
  | [] => .next s
/-- EDGE_NAK_RECEIVE: resend from the flit after the last acknowledged one (R82). -/
def execEdgeNakReceive (l : LinkId) (s : State) : Out :=
  let d := s.link l
  match d.acks with
  | a :: rest => if a.nak then .next (s.setLink l { ({ d with acks := rest }.credit a) with sentTo := 0 }) else .next s
  | [] => .next s
/-- WINDOW_AUDIT_SEND: after every 4,096 data flits, behind them on the link (R85). -/
def execWindowAuditSend (l : LinkId) (s : State) : Out :=
  let d := s.link l
  if d.state = 1 && d.auditDue then
    .next (s.setLink l { d with audited := d.sent, wire := d.wire ++ [{ seq := 0, lanes := [], audit := some d.sent }] })
  else .next s
/-- WINDOW_AUDIT_RECEIVE: S waits for the next acknowledgement, which returns D; a corrupted audit flit is discarded (R85). -/
def execWindowAuditReceive (l : LinkId) (intact : Bool) (s : State) : Out :=
  let d := s.link l
  match d.wire with
  | f :: rest =>
    match f.audit with
    | some n => .next (s.setLink l { d with wire := rest, dOwed := if intact && !f.bad then some n else d.dOwed })
    | none => .next s
  | [] => .next s

/-- LINK_LOSS_OF_LOCK (R83). -/
def execLinkLossOfLock (link : Nat) (s : State) : Out :=
  if (s.link ⟨link, false⟩).state = 1 then .next (s.startRetrain link) else .next s
/-- LINK_RETRAIN_DONE: each sender resends from the flit after the last acknowledgement (R83). -/
def execLinkRetrainDone (link : Nat) (s : State) : Out :=
  if (s.link ⟨link, false⟩).state = 2 then .next (s.bothDirs link fun d => { d with state := 1, sentTo := 0 }) else .next s
/-- LINK_DOWN: a link that failed to retrain within 1 ms is down; queues stay (R83). -/
def execLinkDown (link : Nat) (s : State) : Out :=
  if (s.link ⟨link, false⟩).state = 2 then
    .next ((s.bothDirs link fun d => { d with state := 3 }).emit (.firmware "link down" link))
  else .next s
/-- LINK_TRAINING_COMPLETE: training ends and each sender resends what is unacknowledged (R83, R86). -/
def execLinkTrainingComplete (link : Nat) (s : State) : Out :=
  if (s.link ⟨link, false⟩).state = 0 then .next (s.bothDirs link fun d => { d with state := 1, sentTo := 0 }) else .next s

/-- The next Rutik plane up that is not down, wrapping (R87). -/
def State.nextPlane (s : State) (plane : Nat) : Option Nat :=
  ((List.range 15).map fun i => (plane + 1 + i) % 16).find? fun p => (s.link ⟨8 + p, false⟩).state ≠ 3
/-- What a direction of a plane's link holds, queued and unacknowledged, moves to another plane, ahead of later packets (R87). -/
def State.movePlane (s : State) (l l' : LinkId) : State :=
  let d := s.link l
  let pids : List Nat := (d.replay.flatMap EFlit.lanes ++ d.queue).map Prod.fst
  let moved : Tab Packet := s.packets.filter fun e => pids.contains e.1
  let turn := fun (e : Nat × Packet) =>
    (e.1, { e.2 with legs := e.2.legs.map fun g => if g = .link l then .link l' else g })
  let s := { s with packets := s.packets.map turn }
  let s := s.setLink l { (s.link l) with queue := [], replay := [], sentTo := 0, wire := [], parts := [] }
  let d' := s.link l'
  s.setLink l' { d' with
    queue := (moved.flatMap fun e => (List.range e.2.flits).map fun i => (e.1, i)) ++ d'.queue }
/-- RUTIK_PLANE_DOWN: the plane's flows move to the next plane up, ahead of later packets of the same flow (R87). -/
def execRutikPlaneDown (plane : Nat) (s : State) : Out :=
  if 16 ≤ plane then .next s
  else
    let s := s.bothDirs (8 + plane) fun d => { d with state := 3 }
    match s.nextPlane plane with
    | none => .next s
    | some q => .next ([false, true].foldl (fun s r => s.movePlane ⟨8 + plane, r⟩ ⟨8 + q, r⟩) s)

/-! ### Status words and slot tables (R76, R86) -/

/-- The status word of a link direction (R86). -/
def LinkDir.word (d : LinkDir) : Dword :=
  BitVec.ofNat 16 d.audLoss ++ BitVec.ofNat 16 d.audGain ++ BitVec.ofNat 12 d.retrain ++ BitVec.ofNat 12 d.nakCount ++
    BitVec.ofNat 4 d.mcDrop ++ 0#2 ++ BitVec.ofNat 2 d.state
/-- A counter field written with all ones is cleared (R86). -/
def LinkDir.clear (d : LinkDir) (v : Dword) : LinkDir :=
  { d with
    audLoss := if v.extractLsb' 48 16 = 0xFFFF#16 then 0 else d.audLoss
    audGain := if v.extractLsb' 32 16 = 0xFFFF#16 then 0 else d.audGain
    retrain := if v.extractLsb' 20 12 = 0xFFF#12 then 0 else d.retrain
    nakCount := if v.extractLsb' 8 12 = 0xFFF#12 then 0 else d.nakCount
    mcDrop := if v.extractLsb' 4 4 = 0xF#4 then 0 else d.mcDrop }

end Sys2Proof.Machine
end

