-- ==== Sys2Proof/Machine/Operands.lean ====
section
/-! DEFINITION. Operand forms: what a register field reads and writes in each lane (02 R22, R23; 08 R159, R166, R167),
readiness (06 R127), poisoned and uncorrectable operands (08 R173, R175), the latch ring and the register signature (12
R271). -/

namespace Sys2Proof.Machine

/-- A register field with the number of words it names: 1, 2 or 4 (02 R22, R23). -/
structure Operand where
  r : Reg
  w : Nat := 1
  deriving DecidableEq, Repr

/-- The register field values of an operand's words, low word first; every word of `z` is `z` (02 R23). -/
def Operand.regs (o : Operand) : List Nat :=
  if o.r = Reg.z then List.replicate o.w 96 else (List.range o.w).map fun i => o.r.toNat + i

/-- The resident slot of window register `v`n of a lane: entry wb + n in slot (wb + n) mod S (08 R159). -/
def Lane.slot (v : Lane) (stackS n : Nat) : Nat := (v.wb + n) % stackS

/-- A latch of a lane (08 R167). -/
def Ring.get (r : Ring) (i : Nat) : RCell := if i = 0 then r.f0 else if i = 1 then r.f1 else if i = 2 then r.f2 else r.f3
/-- Sets a latch. -/
def Ring.set (r : Ring) (i : Nat) (c : RCell) : Ring :=
  if i = 0 then { r with f0 := c } else if i = 1 then { r with f1 := c } else if i = 2 then { r with f2 := c }
  else { r with f3 := c }
/-- Pushes a result (08 R167). -/
def Ring.push (r : Ring) (v : Word) : Ring := ⟨{ val := v }, r.f0, r.f1, r.f2⟩

/-- What a register field value reads in a lane: window register, `z`, `s` register, latch or `lid` (02 R22). -/
def Group.cell (g : Group) (stackS : Nat) (l : LaneIx) (r : Nat) : RCell :=
  if r < 96 then (g.lane l).stack.getD {} ((g.lane l).slot stackS r)
  else if r = 96 then {}
  else if r ≤ 119 then g.s.getD {} r
  else if r ≤ 123 then (g.lane l).fw.get (r - 120)
  else { val := BitVec.ofNat 32 l.val }

/-- Sets the entry a register field value names in a lane; `z`, latches and `lid` are no entries. -/
def Group.setCell (g : Group) (stackS : Nat) (l : LaneIx) (r : Nat) (c : RCell) : Group :=
  if r < 96 then g.setLane l { (g.lane l) with stack := (g.lane l).stack.setD {} ((g.lane l).slot stackS r) c }
  else if r = 96 then g
  else if r ≤ 119 then { g with s := g.s.setD {} r c }
  else g

/-- Word i of an operand in a lane. -/
def Group.opWord (g : Group) (stackS : Nat) (l : LaneIx) (o : Operand) (i : Nat) : Word :=
  (g.cell stackS l ((o.regs[i]?).getD 96)).val
/-- A one-word source in a lane. -/
def Group.src (g : Group) (stackS : Nat) (l : LaneIx) (r : Reg) : Word := g.opWord stackS l ⟨r, 1⟩ 0
/-- A pair source in a lane, the low word in the even register (02 R23). -/
def Group.src2 (g : Group) (stackS : Nat) (l : LaneIx) (r : Reg) : Dword :=
  Word.pair (g.opWord stackS l ⟨r, 2⟩ 1) (g.opWord stackS l ⟨r, 2⟩ 0)
/-- The words of an operand in a lane, low word first. -/
def Group.srcs (g : Group) (stackS : Nat) (l : LaneIx) (o : Operand) : List Word :=
  o.regs.map fun r => (g.cell stackS l r).val

/-- Some word of the operands is pending in a lane of the mask (06 R127). -/
def Group.pending (g : Group) (stackS : Nat) (m : Mask) (ops : List Operand) : Bool :=
  (Mask.lanes m).any fun l => ops.any fun o => o.regs.any fun r => (g.cell stackS l r).pend

/-- The poisoned-operand trap, then the register-uncorrectable trap, that a lane meets reading operands: TINFO holds the
field and the word's index within it (08 R173, R175). -/
def Group.operandTrap (g : Group) (stackS : Nat) (ops : List Operand) (l : LaneIx) : Option TrapC :=
  let ws := ops.flatMap fun o => o.regs.zipIdx.map fun e =>
    (o.r.setWidth 32 ||| (BitVec.ofNat 32 e.2 <<< 8), g.cell stackS l e.1)
  match ws.find? fun e => e.2.pois with
  | some e => some { rank := 0, code := 0x09, info := e.1 }
  | none => (ws.find? fun e => e.2.unc).map fun e => { rank := 1, code := 0x0A, info := e.1 }

/-- The first of a condition over lanes. -/
def firstOf (m : Mask) (f : LaneIx → Option TrapC) : Option TrapC := (Mask.lanes m).findSome? f
/-- The operand trap of an instruction that every active lane takes together when any of them meets it: poison before
uncorrectable (08 R181; 11 R241). -/
def Group.jointTrap (g : Group) (stackS : Nat) (ops : List Operand) (m : Mask) : Option TrapC :=
  (firstOf m fun l => (g.operandTrap stackS ops l).filter fun c => c.code == 0x09).or
    (firstOf m fun l => g.operandTrap stackS ops l)

/-- An entry whose check bits fail becomes poisoned when it is read (08 R173). -/
def RCell.scrub (c : RCell) : RCell := if c.unc then { c with unc := false, pois := true } else c

/-- Reading operands checks the bank rows of every lane: entries that fail are marked poisoned (08 R173). `wb` is the
issue's window base, whose rows are read in every lane. -/
def Group.scrub (g : Group) (stackS wb : Nat) (part : Mask) (ops : List Operand) : Group :=
  let rs := ops.flatMap Operand.regs
  let g := { g with s := rs.foldl (fun t r => if 97 ≤ r && r ≤ 119 then t.setD {} r (t.getD {} r).scrub else t) g.s }
  g.mapLanes fun l v =>
    { v with
      stack := rs.foldl (fun t r => if r < 96 then t.setD {} ((wb + r) % stackS) (t.getD {} ((wb + r) % stackS)).scrub
        else t) v.stack
      fw := if Mask.has part l then
        rs.foldl (fun f r => if 120 ≤ r && r ≤ 123 then f.set (r - 120) (f.get (r - 120)).scrub else f) v.fw
        else v.fw }

/-! ### Register signature (12 R271) -/

/-- Folds one value into the register signature: r = (r rotl 7) XOR v. -/
def Lane.fold (v : Lane) (w : Word) : Lane := { v with rsig := v.rsig.rotateLeft 7 ^^^ w, nfold := v.nfold + 1 }
/-- Keeps the place of an asynchronous value, which is folded in issue order whatever order it arrives in. -/
def Lane.reserve (v : Lane) : Lane := { v with rsig := v.rsig.rotateLeft 7, nfold := v.nfold + 1 }
/-- Folds a value that arrives into the place kept for it. -/
def Lane.foldAt (v : Lane) (place : Nat) (w : Word) : Lane :=
  { v with rsig := v.rsig ^^^ w.rotateLeft (7 * (v.nfold - place - 1) % 32) }

/-! ### Writing results -/

/-- Writes the words of a synchronous result to the register file (02 R22, R23; 08 R166): each completing lane's own, or for
an `s` destination the lowest lane's; `z` discards. A write clears poison. -/
def Group.writeRegs (g : Group) (stackS : Nat) (done : Mask) (dst : Operand) (vals : LaneIx → List Word) : Group :=
  if dst.r.toNat < 96 then
    g.mapOn done fun l v =>
      { v with stack := (dst.regs.zip (vals l)).foldl (fun t e => t.setD {} (v.slot stackS e.1) { val := e.2 }) v.stack }
  else if dst.r = Reg.z then g
  else match Mask.low done with
    | none => g
    | some l => { g with s := (dst.regs.zip (vals l)).foldl (fun t e => t.setD {} e.1 { val := e.2 }) g.s }

/-- The value a lane's result has: for an `s` destination the lowest completing lane's (08 R166, R167). -/
def resultOf (done : Mask) (dst : Operand) (vals : LaneIx → List Word) (l : LaneIx) : List Word :=
  if 97 ≤ dst.r.toNat && dst.r.toNat ≤ 119 then ((Mask.low done).map vals).getD [] else vals l

/-- A synchronous register result: written unless nw, pushed onto the ring of each completing lane, low word first, and
folded into the register signature, for an `s` destination only in the lowest lane (08 R166, R167; 12 R271). -/
def Group.writeSync (g : Group) (stackS : Nat) (done : Mask) (nw : Bool) (dst : Operand) (vals : LaneIx → List Word)
    (folds : Bool := true) : Group :=
  let uni := 97 ≤ dst.r.toNat && dst.r.toNat ≤ 119
  let g := if nw then g else g.writeRegs stackS done dst vals
  g.mapOn done fun l v =>
    let ws := resultOf done dst vals l
    let v := ws.foldl (fun v w => { v with fw := v.fw.push w }) v
    if folds && (!uni || Mask.low done == some l) then ws.foldl Lane.fold v else v

end Sys2Proof.Machine
end

