-- ==== Sys2Proof/Machine/Memory.lean ====
section
/-! DEFINITION. The memory tiers (03): LPDDR-5X under its keys, home slices and the lines of the L2, L1 copies and their
updates (06 R118, R119), dirty granules, address classes, translation and the scratchpad with its owner tags. -/

namespace Sys2Proof.Machine

/-- n bytes of a byte table from an address on. -/
def getBytes (m : Tab Byte) (a n : Nat) : List Byte := (List.range n).map fun i => m.getD 0 (a + i)
/-- Sets bytes of a byte table from an address on. -/
def putBytes (m : Tab Byte) (a : Nat) (bs : List Byte) : Tab Byte :=
  (bs.zipIdx).foldl (fun m e => m.setD 0 (a + e.2) e.1) m
/-- A word of bytes, the lowest address least significant (01 R17). -/
def wordOf (bs : List Byte) : Word := bs.getD 3 0 ++ bs.getD 2 0 ++ bs.getD 1 0 ++ bs.getD 0 0
/-- The bytes of a word, lowest first. -/
def bytesOf (w : Word) : List Byte := (List.range 4).map fun i => w.extractLsb' (8 * i) 8
/-- The words of a list of bytes. -/
def wordsOf (bs : List Byte) : List Word :=
  (List.range ((bs.length + 3) / 4)).map fun i => wordOf (bs.drop (4 * i))
/-- A number of bytes, lowest first. -/
def natOfBytes (bs : List Byte) : Nat := bs.foldr (fun b n => b.toNat + 256 * n) 0
/-- The bytes of a number, lowest first. -/
def bytesOfNat (n k : Nat) : List Byte := (List.range n).map fun i => BitVec.ofNat 8 (k / 256 ^ i)

/-! ### Homes (03 R47 to R50) -/

/-- The region-table entry of a physical address (R49). -/
def State.region (s : State) (pa : Nat) : Dword := (s.die (pa / 2 ^ 38)).region.getD 0 (pa / 2 ^ 30 % 256)
/-- PART of a region-table entry. -/
def regionPart (e : Dword) : Nat := (e.extractLsb' 1 5).toNat
/-- The region is assigned: V, and PART no value treated as V = 0 (R49). -/
def regionAssigned (e : Dword) : Bool := e.getLsbD 0 && (regionPart e ≤ 15 || regionPart e == 31)
/-- The cores of a partition on a die, by package core number (01 R11, 21 R419). -/
def State.coresOf (s : State) (p d : Nat) : List Nat :=
  match s.part p with
  | none => []
  | some pt => ((List.range 64).map (64 * d + ·)).filter fun c => pt.domains.getLsbD (domainOf c)
/-- The bias domains of a die that a region-table entry written now gives its region's slice set: its partition's, none for a
die-wide region (R50). -/
def State.setDomains (s : State) (d : Nat) (e : Dword) : BitVec 4 :=
  ((s.part (regionPart e)).map fun p => p.domains.extractLsb' (4 * d) 4).getD 0#4
/-- The slice set of a region: the slices above the cores of the domains that its entry found when it was written, or all 64
(R50). -/
def State.sliceSet (s : State) (pa : Nat) : List Nat :=
  let d := pa / 2 ^ 38
  let doms := (s.die d).sets.getD 0#4 (pa / 2 ^ 30 % 256)
  let all := (List.range 64).map (64 * d + ·)
  if doms = 0#4 then all else all.filter fun c => doms.getLsbD (domainOf c % 4)
/-- The place a line number hashes to among n (R50, 06 R122). -/
def hashIdx (ln n : Nat) : Nat :=
  let hx := (ln ^^^ (ln >>> 13) ^^^ (ln >>> 23)) % 2 ^ 32
  (hx * 0x9E3779B1 % 2 ^ 32 / 2 ^ 16) * n / 2 ^ 16
/-- The home slice of a physical address, as its core's package number (R50). -/
def State.home (s : State) (pa : Nat) : Nat :=
  let set := s.sliceSet pa
  set.getD (hashIdx (pa / 256 % 2 ^ 30) set.length) 0
/-- The set of a line in its slice (R48). -/
def setOf (ln : Nat) : Nat := (ln % 2 ^ 13) ^^^ (ln / 2 ^ 13 % 2 ^ 13)
/-- The table key of a line in a slice. -/
def l2Key (home ln : Nat) : Nat := home * 2 ^ 32 + ln
/-- The installation number of a key identifier; 0 is identifier 0's (R62). -/
def State.lid (s : State) (key : Nat) : Nat := (s.keys.find key).getD 0

/-! ### LPDDR-5X (R46, R47, R52, R62) -/

/-- Where a physical address lies on its die: controller, channel of the controller's package, and byte offset in the channel
(R47). -/
structure DramPlace where
  ctrl : Nat
  chan : Nat
  off : Nat
  deriving DecidableEq, Repr
/-- The LPDDR-5X address map (R47). -/
def dramPlace (pa : Nat) : DramPlace :=
  let ln := pa / 2 ^ 8 % 2 ^ 30
  let ch := (List.range 6).foldl (fun x i => x ^^^ (ln / 2 ^ (5 * i) % 32)) 0
  ⟨ch / 8, ch % 8, ln / 32 * 256 + pa % 256⟩
/-- The memory station of the controller that holds a physical address (R47; 04 R70). -/
def memStation (pa : Nat) : Nat := 65 + (dramPlace pa).ctrl

/-- The canonical form of a byte memory whose unlisted bytes read zero: addresses strictly rising, no listed zero. -/
def Memory.wf (m : List Host.Cell) : Bool := Tab.canon m 0

/-- The key pair of an installation (R62). -/
def State.keyPair (s : State) (lid : Nat) : List Byte := if lid = 0 then Config.rootKey s.boot else s.keyPairs.getD [] lid
/-- A 16-byte block as it deciphers under a key's installation: the bytes written under it or under an equal pair, else the XTS
decryption of the ciphertext; the data unit is the sector (R62; log 6). -/
def State.dramBlock (s : State) (lid bn : Nat) : List Byte :=
  let bs := getBytes s.dram (16 * bn) 16
  let w := s.dramKey.getD 0 bn
  if w = lid then bs
  else if s.keyPair w = s.keyPair lid then bs
  else xtsDec (s.keyPair lid) (bn / 4) (bn % 4) (xtsEnc (s.keyPair w) (bn / 4) (bn % 4) bs)
/-- Enciphers a block under a key's installation; a block that reads as these bytes already keeps its ciphertext (03 R62). -/
def State.putBlock (s : State) (lid bn : Nat) (bs : List Byte) : State :=
  if s.dramBlock lid bn = bs then s
  else { s with dram := putBytes s.dram (16 * bn) bs, dramKey := s.dramKey.setD 0 bn lid }
/-- The 64 bytes of a sector as a fill under a key's installation returns them, and whether they are uncorrectable. -/
def State.dramSector (s : State) (lid sn : Nat) : List Byte × Bool :=
  ((List.range 4).flatMap fun i => s.dramBlock lid (4 * sn + i), s.dramBad.contains sn)
/-- Writes a sector back under a key's installation; a poisoned one with the check pattern of R52. -/
def State.putSector (s : State) (lid sn : Nat) (bs : List Byte) (bad : Bool) : State :=
  let s := (List.range 4).foldl (fun s i => s.putBlock lid (4 * sn + i) ((bs.drop (16 * i)).take 16)) s
  { s with dramBad := if bad then (if s.dramBad.contains sn then s.dramBad else sn :: s.dramBad) else s.dramBad.erase sn }

/-! ### L1 copies (06 R118) -/

/-- An update or fill on its way that will change nothing when it comes: its line was dropped (06 R118). -/
def Upd.void (u : Upd) : Upd := { u with cells := [], fill := none }
/-- Drops a line from a core's L1; updates and fills on their way to it will change nothing (06 R118). -/
def State.l1Drop (s : State) (c ln7 : Nat) : State :=
  { s.updCore c (fun k => { k with l1 := k.l1.del ln7 }) with
    upds := s.upds.map fun e => if e.2.core = c && e.2.line = ln7 then (e.1, e.2.void) else e }
/-- A core drops a line and its home forgets the core, unless the other half of the 256 B line is still held or on its way (06
R118). -/
def State.l1Evict (s : State) (c ln7 : Nat) : State :=
  let s := s.l1Drop c ln7
  if ((s.core c).l1.any fun e => e.1 / 2 == ln7 / 2) ||
    s.upds.any (fun u => u.2.fill.isSome && u.2.core == c && u.2.line / 2 == ln7 / 2) then s
  else { s with l2 := s.l2.map fun e =>
    if e.1 % 2 ^ 32 = ln7 / 2 then (e.1, { e.2 with sharers := e.2.sharers.erase c }) else e }
/-- Drops both halves of a 256 B line from every L1 (03 R63). -/
def State.l1DropAll (s : State) (ln : Nat) : State :=
  let s := (s.cores.filter fun e => e.2.l1.any fun l => l.1 / 2 == ln).foldl
    (fun s e => (s.l1Drop e.1 (2 * ln)).l1Drop e.1 (2 * ln + 1)) s
  { s with upds := s.upds.map fun e => if e.2.line / 2 = ln then (e.1, e.2.void) else e }
/-- Fills a line of an L1; at 2,048 lines the least recently used goes (06 R118; log 9). -/
def State.l1Fill (s : State) (c ln7 key : Nat) (bs : List Byte) (poison : BitVec 2) (unsettled : List (Nat × List Nat))
    (clk : Tab Clk) : State :=
  let l1 := (s.core c).l1
  let s := if l1.length < 2048 || (l1.find ln7).isSome then s else
    match l1.foldl (fun (b : Option (Nat × Nat)) e => match b with
      | none => some (e.1, e.2.lru)
      | some v => if e.2.lru < v.2 then some (e.1, e.2.lru) else b) none with
    | none => s
    | some v => s.l1Evict c v.1
  { s.updCore c (fun k => { k with l1 := k.l1.put ln7 { key, data := putBytes [] 0 bs, poison, unsettled, clk, lru := s.lruClock } }) with
    lruClock := s.lruClock + 1 }

/-! ### Lines of the L2 (03 R51, R63) -/

/-- Writes back the sectors of a mask that are valid, leaving them clean (03 R51, R52). -/
def State.writeBackOf (s : State) (k : Nat) (which : L2Line → BitVec 4) : State :=
  match s.l2.find k with
  | none => s
  | some l =>
    let s := (List.range 4).foldl (fun s i =>
      if (which l).getLsbD i && l.valid.getLsbD i then
        s.putSector l.lid (4 * (k % 2 ^ 32) + i) (getBytes l.data (64 * i) 64) (l.poison.getLsbD i)
      else s) s
    { s with l2 := s.l2.put k { l with dirty := 0 } }
/-- Writes back a line's dirty sectors, leaving them valid and clean (03 R51). -/
def State.writeBack (s : State) (k : Nat) : State := s.writeBackOf k L2Line.dirty
/-- Takes a line out of the L2 with its L1 copies; a poisoned sector goes to LPDDR-5X with the check pattern even when it is
clean (03 R52, R63; log 16). -/
def State.evict (s : State) (k : Nat) : State :=
  let s := s.writeBackOf k fun l => l.dirty ||| l.poison
  { (s.l1DropAll (k % 2 ^ 32)) with l2 := s.l2.del k }
/-- Discards a line without write-back (03 R64). -/
def State.discardLine (s : State) (k : Nat) : State := { (s.l1DropAll (k % 2 ^ 32)) with l2 := s.l2.del k }
/-- Version ways in use in a set of a slice, of one grid or of all (12 R261, R262). -/
def State.waysUsed (s : State) (home set : Nat) (grid : Option Nat) : Nat :=
  s.vers.countP fun v => v.home == home && setOf v.ln == set && (grid.isNone || grid == some v.grid)
/-- The line that goes when a set needs one more way: with 16 in use the least recently used unpinned one (03 R51). -/
def State.victim (s : State) (home set : Nat) : Option Nat :=
  let here := s.l2.filter fun e => e.1 / 2 ^ 32 == home && setOf (e.1 % 2 ^ 32) == set
  if here.length + s.waysUsed home set none < 16 then none
  else (here.foldl (fun (b : Option (Nat × Nat)) e =>
      if e.2.pins ≠ 0 then b else match b with
        | none => some (e.1, e.2.lru)
        | some v => if e.2.lru < v.2 then some (e.1, e.2.lru) else b) none).map Prod.fst
/-- Makes room for one more way in a set (03 R51). -/
def State.makeRoom (s : State) (home set : Nat) : State :=
  match s.victim home set with
  | none => s
  | some k => s.evict k
/-- The line of an address in its home slice under the access's key: a line under another key is written back, invalidated
and started afresh (03 R51, R63). -/
def State.openLine (s : State) (home ln key : Nat) : State :=
  let k := l2Key home ln
  let fresh := fun (s : State) =>
    let s := s.makeRoom home (setOf ln)
    { s with l2 := s.l2.put k { key, lid := s.lid key, lru := s.lruClock }, lruClock := s.lruClock + 1 }
  match s.l2.find k with
  | none => fresh s
  | some l =>
    if l.key = key && l.lid = s.lid key then
      { s with l2 := s.l2.put k { l with lru := s.lruClock }, lruClock := s.lruClock + 1 }
    else fresh (s.evict k)
/-- A pinned line stands under another key than an access's: the access waits (11 R245). -/
def State.keyClash (s : State) (pa key : Nat) : Bool :=
  match s.l2.find (l2Key (s.home pa) (pa / 256)) with
  | none => false
  | some l => l.pins != 0 && (l.key != key || l.lid != s.lid key)
/-- The packet partition of traffic to a physical address (04 R76). -/
def State.packetPart (s : State) (part pa : Nat) : Nat := if regionPart (s.region pa) = 31 then 31 else part
/-- Traffic between a station of the package and the home of an address can travel (04 R70, R75, R76; log 10). Stations are numbered 72
× die + station. -/
def State.wayOpen (s : State) (part st pa : Nat) : Bool :=
  let h := s.home pa
  let p := s.packetPart part pa
  s.pathOpen p (route (st / 72) (st % 72) (h / 64) (h % 64)) && s.pathOpen p (route (h / 64) (h % 64) (st / 72) (st % 72))
/-- Fills and write-backs of a line can travel between its home and its memory station (04 R70, R76). -/
def State.dramPath (s : State) (part pa : Nat) : Bool :=
  let h := s.home pa
  s.pathOpen part (loopLeg (h / 64) (h % 64) (memStation pa) ++ loopLeg (h / 64) (memStation pa) (h % 64))
/-- The sectors of a line that n bytes at a physical address touch. -/
def sectorsOf (pa n : Nat) : List Nat := (List.range 4).filter fun i => pa % 256 < 64 * (i + 1) && 64 * i < pa % 256 + n
/-- A write-back of a line by its table key can leave its home: nothing is dirty, or its path is open (04 R76). -/
def State.backOpen (s : State) (k : Nat) : Bool :=
  match s.l2.find k with
  | none => true
  | some l => l.dirty ||| l.poison == 0#4 || s.dramPath (regionPart (s.region (k % 2 ^ 32 * 256))) (k % 2 ^ 32 * 256)
/-- An access of n bytes under a key can be performed at its home now: no pin holds the line under another key (11 R245), and the
fill and write-backs that it needs can travel (04 R76). -/
def State.homeReady (s : State) (part pa key n : Nat) : Bool :=
  let k := l2Key (s.home pa) (pa / 256)
  let fills := s.dramPath (s.packetPart part pa) pa
  match s.l2.find k with
  | none => ((s.victim (s.home pa) (setOf (pa / 256))).all s.backOpen) && fills
  | some l =>
    if l.key = key && l.lid = s.lid key then ((sectorsOf pa n).all fun i => l.valid.getLsbD i) || fills
    else l.pins == 0 && s.backOpen k && fills
/-- Fills a sector that is invalid; a poisoning counts against the slice (03 R51, R52; 12 R280). -/
def State.fillSector (s : State) (home ln i : Nat) : State :=
  let k := l2Key home ln
  match s.l2.find k with
  | none => s
  | some l =>
    if l.valid.getLsbD i then s
    else
      let (bs, bad) := s.dramSector l.lid (4 * ln + i)
      let b : BitVec 4 := 1#4 <<< i
      let l := { l with
        data := putBytes l.data (64 * i) bs, valid := l.valid ||| b, dirty := l.dirty &&& ~~~b
        poison := if bad then l.poison ||| b else l.poison &&& ~~~b }
      { s with
        l2 := s.l2.put k l
        suspectSlices := if bad && !s.suspectSlices.contains home then home :: s.suspectSlices else s.suspectSlices }
/-- Reads n bytes of one line at its home under a key (03 R51, R63): the state with the line filled, the bytes, and whether a
sector of them is poisoned. -/
def State.readHome (s : State) (pa key n : Nat) : State × List Byte × Bool :=
  let home := s.home pa
  let ln := pa / 256
  let s := (sectorsOf pa n).foldl (fun s i => s.fillSector home ln i) (s.openLine home ln key)
  let l := (s.l2.find (l2Key home ln)).getD { key, lid := 0 }
  (s, getBytes l.data (pa % 256) n, (sectorsOf pa n).any fun i => l.poison.getLsbD i)
/-- Writes bytes of one line at its home: a sector not wholly covered is filled first; a sector wholly covered loses its
poison (03 R51, R52). -/
def State.writeLine (s : State) (pa key : Nat) (bs : List Byte) : State :=
  let home := s.home pa
  let ln := pa / 256
  let n := bs.length
  let whole := fun i => pa % 256 ≤ 64 * i && 64 * (i + 1) ≤ pa % 256 + n
  let s := (sectorsOf pa n).foldl (fun s i => if whole i then s else s.fillSector home ln i) (s.openLine home ln key)
  match s.l2.find (l2Key home ln) with
  | none => s
  | some l =>
    let m : BitVec 4 := (sectorsOf pa n).foldl (fun m i => m ||| (1#4 <<< i)) 0#4
    let w : BitVec 4 := ((sectorsOf pa n).filter whole).foldl (fun m i => m ||| (1#4 <<< i)) 0#4
    { s with l2 := s.l2.put (l2Key home ln) { l with
      data := putBytes l.data (pa % 256) bs, valid := l.valid ||| m, dirty := l.dirty ||| m, poison := l.poison &&& ~~~w } }

/-- Puts bytes into an L1 line that a core holds; a whole sector written clears its poison (03 R52). -/
def L1Line.poke (l : L1Line) (ln7 : Nat) (cells : List Host.Cell) : L1Line :=
  let whole := fun h => (cells.countP fun c => c.1 / 64 == 2 * ln7 + h) == 64
  { l with
    data := cells.foldl (fun d c => Tab.setD d 0 (c.1 - 128 * ln7) c.2) l.data
    poison := (List.range 2).foldl (fun p h => if whole h then p &&& ~~~(1#2 <<< h) else p) l.poison }
/-- The cells of bytes at a physical address. -/
def cellsAt (pa : Nat) (bs : List Byte) : List Host.Cell := bs.zipIdx.map fun e => (pa + e.2, e.1)

/-! ### Dirty granules (03 R67 to R69) -/

/-- Byte and bit of the dirty bitmap for a physical address (R67). -/
def State.granuleAt (s : State) (pa : Nat) : Nat × Nat :=
  (((s.region pa).extractLsb' 15 25).toNat * 2 ^ 15 + pa % 2 ^ 30 / 2 ^ 15, pa / 2 ^ 12 % 8)
/-- Writes bytes in every copy at once: the part's own bookkeeping under identifier 0, no write of R68. -/
def State.pokeHome (s : State) (pa : Nat) (bs : List Byte) : State :=
  let s := s.writeLine pa 0 bs
  let ln7 := pa / 128
  let f := fun (e : Nat × Core) => match e.2.l1.find ln7 with
    | none => e
    | some l => (e.1, { e.2 with l1 := e.2.l1.put ln7 (l.poke ln7 (cellsAt pa bs)) })
  { s with cores := s.cores.map f }
/-- The granule's bit is set in its bitmap (R67). -/
def State.setBit (s : State) (pa : Nat) : State :=
  let (a, i) := s.granuleAt pa
  let (s, bs, _) := s.readHome a 0 1
  let b := bs.getD 0 0
  if b.getLsbD i then s else s.pokeHome a [b ||| (1#8 <<< i)]
/-- The granule's bitmap can be reached now (11 R245; 04 R76). -/
def State.bitReady (s : State) (pa : Nat) : Bool := s.homeReady 31 (s.granuleAt pa).1 0 1
/-- Sets the granule's bit; bitmaps are reached under identifier 0 and set no bit of their own. One that cannot be reached now is
reached before anything else of the part's own (R67, R68; 11 R245; log 26). -/
def State.markDirty (s : State) (pa : Nat) : State :=
  if !regionAssigned (s.region pa) then s
  else if s.pend.isEmpty && s.bitReady pa then s.setBit pa
  else { s with pend := s.pend ++ [.mark pa] }

/-! ### Writes that become current (06 R119; 07 R149 to R151) -/

/-- The aligned words that n bytes at an address touch, by word number. -/
def wordsAt (pa n : Nat) : List Nat := (List.range ((pa % 4 + n + 3) / 4)).map (pa / 4 + ·)
/-- A die closes its open epoch, opens the next and sends a close marker to every other die (07 R149). -/
def State.closeEpoch (s : State) (d : Nat) : State :=
  let e := (s.die d).epoch
  let s := s.updDie d fun k => { k with epoch := k.epoch + 1 }
  ((List.range 4).filter (· ≠ d)).foldl (fun s d' =>
    s.send 31 1 (markerRoute d d') (.marker (Fin.ofNat 4 d) (Fin.ofNat 4 d') e)) s
/-- Puts an update or fill on its way from its home to its core (06 R118, R119; 04 R72, R76). -/
def State.sendUpd (s : State) (part bytes : Nat) (u : Upd) : State :=
  let (uid, s) := s.fresh
  ({ s with upds := s.upds.put uid u }).send part ((bytes + 63) / 64)
    (route (u.home / 64) (u.home % 64) (u.core / 64) (u.core % 64)) (.upd uid)
/-- A core's L1 holds a line, or a fill of it is on its way (06 R118). -/
def State.l1Has (s : State) (c ln7 : Nat) : Bool :=
  ((s.core c).l1.find ln7).isSome || s.upds.any fun u => u.2.fill.isSome && u.2.core == c && u.2.line == ln7
/-- A core's L1 holds a line under a key, or a fill of it under that key is on its way (06 R118, R140; 03 R63). -/
def State.l1Keyed (s : State) (c ln7 key : Nat) : Bool :=
  (((s.core c).l1.find ln7).any fun l => l.key == key) ||
    s.upds.any fun u => (u.2.fill.any fun l => l.key == key) && u.2.core == c && u.2.line == ln7
/-- The core of a lane's access. -/
def State.laneCore (s : State) (rid : Nat) : Option Nat :=
  (s.reqs.find rid).bind fun r => match r.maker with
    | .lane _ _ => some r.core
    | _ => none
/-- Forwards written bytes to every L1 recorded as a sharer that holds the line or whose fill is on its way (06 R119). -/
def State.forward (s : State) (rid part pa epoch : Nat) (cc : Clk) (bs : List Byte) (writer : Option Nat := none) : State :=
  let home := s.home pa
  let sharers := ((s.l2.find (l2Key home (pa / 256))).map L2Line.sharers).getD []
  (sharers.filter fun c => s.l1Has c (pa / 128)).foldl (fun s c =>
    s.sendUpd (s.packetPart part pa) bs.length
      { store := rid, core := c, src := Fin.ofNat 4 (home / 64), epoch, cc, line := pa / 128, cells := cellsAt pa bs, home
        writer := (s.laneCore rid).or writer }) s
/-- The record a write leaves: its release's, or empty (07 R151). -/
def State.recordRel (s : State) (pa : Nat) (rel : Option RelRec) : State :=
  { s with rels := match rel with
      | some r => s.rels.put (pa / 256) r
      | none => s.rels.del (pa / 256) }
/-- A release-carrying write at device or system scope closes its home die's epoch (07 R149, R152). -/
def RelRec.closes (r : RelRec) : Bool := r.scope == .device || r.scope == .system
/-- A write becomes current at its home: it enters coherence order with its epoch and written-clock, sets its dirty
granule, leaves its release record and is forwarded to the sharers (06 R119; 03 R68; 07 R149 to R152). Answers its epoch. `writer` is
the core for whose run a commit writes. -/
def State.makeCurrent (s : State) (rid part pa key : Nat) (bs : List Byte) (cc : Clk) (rel : Option RelRec)
    (writer : Option Nat := none) : State × Nat :=
  let d := s.home pa / 64
  let e := (s.die d).epoch
  let s := (s.writeLine pa key bs).markDirty pa
  let w := (wordsAt pa bs.length).foldl (fun t k => t.setD {} k (cc.join (Clk.one d e))) s.wclk
  let s := ({ s with wclk := w }.recordRel pa rel).forward rid part pa e cc bs writer
  (if rel.any RelRec.closes then s.closeEpoch d else s, e)
/-- The written-clock of the words that n bytes touch (07 R150). -/
def State.clockAt (s : State) (pa n : Nat) : Clk :=
  (wordsAt pa n).foldl (fun c k => c.join (s.wclk.getD {} k)) {}
/-- The writes that are current and not settled and touch one of these bytes (07 R147). -/
def State.unsettledAt (s : State) (pa n : Nat) : List Nat :=
  (s.reqs.filter fun e => e.2.epoch != 0 && e.2.pa / 4 < (pa + n + 3) / 4 &&
    pa / 4 < (e.2.pa + (match e.2.kind with | .store b => b.length | _ => 4) + 3) / 4).map Prod.fst

/-! ### Versions (12 R262, R263) -/

/-- The version of a line that a run holds under a key; a version never changes key (03 R65). -/
def State.verOf (s : State) (run home ln key : Nat) : Option Ver :=
  s.vers.find? fun v => v.run == run && v.home == home && v.ln == ln && v.key == key
/-- Bytes with a version's own bytes in place. -/
def Ver.over (v : Ver) (pa : Nat) (bs : List Byte) : List Byte :=
  bs.zipIdx.map fun e => (Tab.find v.bytes (pa % 256 + e.2)).getD e.1
/-- Reads bytes of one line at its home as a team's access sees them (12 R263). -/
def State.readFor (s : State) (team pa key n : Nat) : State × List Byte × Bool :=
  let (s, bs, p) := s.readHome pa key n
  match s.verOf team (s.home pa) (pa / 256) key with
  | some v => (s, v.over pa bs, p)
  | none => (s, bs, p)

/-! ### The part's own writes and reads, in pieces of one line -/

/-- Pieces of an address range that do not cross a multiple of `step`: place in the range, address, length. -/
def piecesOf (step a n : Nat) : List (Nat × Nat × Nat) :=
  let k := if n = 0 then 0 else (a + n - 1) / step - a / step + 1
  (List.range k).map fun i =>
    let lo := max a ((a / step + i) * step)
    let hi := min (a + n) ((a / step + i + 1) * step)
    (lo - a, lo, hi - lo)
/-- A write by an agent that is no lane, current at once; its acknowledgement is owed like a store's (06 R119, 03 R68). -/
def State.machineWrite (s : State) (part pa key : Nat) (va : Dword) (bs : List Byte) (cc : Clk) (rel : Option RelRec)
    (grid : Nat := 0) (writer : Option Nat := none) : State × List Nat :=
  (piecesOf 128 pa bs.length).foldl (fun (acc : State × List Nat) p =>
    let (rid, s) := acc.1.fresh
    let b := (bs.drop p.1).take p.2.2
    let (s, e) := s.makeCurrent rid part p.2.1 key b cc rel writer
    let r : Req := { maker := .machine, core := 0, team := 0, part, kind := .store b, va := va + BitVec.ofNat 64 p.1, pa := p.2.1, key,
                     home := s.home p.2.1, member := 0, stage := .current, epoch := e, cc, grid }
    ({ s with reqs := s.reqs.put rid r }, rid :: acc.2)) (s, [])

/-! ### Addresses that programs form (03 R53, R54) -/

/-- The three classes of R53. -/
inductive AddrClass where
  | localAp (off : Nat)
  | global
  | misuse
  deriving DecidableEq, Repr

/-- The class of a virtual address (R53). -/
def classify (va : Dword) : AddrClass :=
  if va.extractLsb' 32 32 = 0xFFFFFFFF#32 then .localAp (va.extractLsb' 0 32).toNat
  else if va.extractLsb' 48 16 = 0xFFFF#16 then .misuse
  else if va.extractLsb' 56 8 = 0#8 || va.extractLsb' 56 8 = 0xFF#8 then .global else .misuse

/-! ### Translation (03 R57 to R60) -/

/-- What an access needs of a leaf, as the bits U X W R (R59). -/
def needRead : BitVec 4 := 1#4
def needWrite : BitVec 4 := 2#4
def needAtomic : BitVec 4 := 3#4
def needFetch : BitVec 4 := 4#4
/-- A kernel access also needs U (R59). -/
def kernel (n : BitVec 4) : BitVec 4 := n ||| 8#4

/-- How a translation ends: a leaf, or the level at which it ended (R57); or it waits for an entry's line (11 R245; 04 R76). -/
inductive WalkEnd where
  | leaf (e : TlbE)
  | absent (level : Nat)
  | wait
  deriving DecidableEq, Repr

/-- Index bits of a level (R57). -/
def vaIndex (va : Nat) (level : Nat) : Nat := if level = 0 then va / 2 ^ 13 % 2 ^ 8 else va / 2 ^ (12 + 9 * level) % 2 ^ 9
/-- log2 of the page that a leaf of a level maps (R57). -/
def pageBits (level : Nat) : Nat := if level = 2 then 30 else if level = 1 then 21 else 13
/-- A well-formed table entry of a level (R58). -/
def tableOk (e : Dword) (level : Nat) : Bool :=
  e.getLsbD 0 && !e.getLsbD 1 && level != 0 && e.extractLsb' 48 16 == 0#16 && e.extractLsb' 40 8 == 0#8 &&
    e.extractLsb' 6 5 == 0#5 && !e.getLsbD 5 && (level == 1 || !e.getLsbD 11)
/-- A well-formed leaf of a level (R58). -/
def State.leafOk (s : State) (e : Dword) (level : Nat) : Bool :=
  let key := (e.extractLsb' 48 16).toNat
  e.getLsbD 0 && e.getLsbD 1 && level ≤ 2 && e.extractLsb' 40 8 == 0#8 && e.extractLsb' 6 7 == 0#7 &&
    (e.extractLsb' 0 40).toNat % 2 ^ pageBits level / 2 ^ 13 == 0 && (s.keys.find key).isSome &&
    !(key == 0 && e.getLsbD 5)
/-- One step down the tables: the entry comes from the walker's cache of 256, whose oldest leaves, or, under identifier 0, from the
L2; a poisoned one ends the walk (R58, R60; log 9, log 17). `now` says that it does not wait for the entry's line. -/
def State.walkFrom (s : State) (now : Bool) (d part va : Nat) (table level : Nat) : State × WalkEnd :=
  let pa := table + 8 * vaIndex va level
  let cached := if level = 0 then none else (s.die d).pteCache.find? fun c => c.part == part && c.level == level && c.pa == pa
  if !now && cached.isNone && !(s.homeReady 31 pa 0 8 && s.wayOpen 31 (72 * d + 64) pa) then (s, .wait)
  else
    let (s, e, bad) := match cached with
      | some c => (s, c.entry, false)
      | none =>
        let (s, bs, bad) := s.readHome pa 0 8
        (s, BitVec.ofNat 64 (natOfBytes bs), bad)
    if bad then (s, .absent level)
    else if s.leafOk e level then
      let b := pageBits level
      (s, .leaf ⟨part, b, va / 2 ^ b, (e.extractLsb' 0 40).toNat / 2 ^ b, (e.extractLsb' 48 16).toNat, e.extractLsb' 2 4⟩)
    else if tableOk e level then
      let s := if cached.isSome || level = 0 then s else
        s.updDie d fun k => { k with pteCache := (⟨part, level, pa, e⟩ :: k.pteCache).take 256 }
      match level with
      | 0 => (s, .absent 0)
      | n + 1 => s.walkFrom now d part va ((e.extractLsb' 0 40).toNat / 2 ^ 11 * 2 ^ 11) n
    else (s, .absent level)
termination_by structural level

/-- A walk of a partition's tables; with no root it ends at level 4 and nothing is read (R57). -/
def State.walkTables (s : State) (now : Bool) (d part : Nat) (va : Dword) : State × WalkEnd :=
  match (s.part part).bind Part.root with
  | none => (s, .absent 4)
  | some root => s.walkFrom now d part (va.toNat % 2 ^ 57) root 4

end Sys2Proof.Machine
end

