-- ==== Sys2Proof/Machine/Reach.lean ====
section
/-! DEFINITION. What a lane's or an engine's address reaches: the L1 TLBs and the checks of a translated access (03 R49,
R55 to R60), the scratchpad with its owner tags, presence and marks (03 R54, R66; 05 R89 to R91), and a core's L1 or fused
member (06 R118, R122). -/

namespace Sys2Proof.Machine

/-! ### Translation at an access (03 R57 to R60) -/

/-- A TLB entry's page holds an address. -/
def TlbE.covers (e : TlbE) (part va : Nat) : Bool := e.part == part && va / 2 ^ e.bits == e.vpage
/-- The physical address: the page followed by the bits below the page size (R59). -/
def TlbE.pa (e : TlbE) (va : Nat) : Nat := e.ppage * 2 ^ e.bits + va % 2 ^ e.bits
/-- The entry of a core's TLB for an address (R60). -/
def State.tlbFind (s : State) (core part : Nat) (va : Dword) : Option TlbE :=
  (s.core core).tlb.find? fun e => e.covers part (va.toNat % 2 ^ 57)
/-- Puts an entry into a core's TLB of 128 entries, newest first (R60; log 9). -/
def State.tlbAdd (s : State) (core : Nat) (e : TlbE) : State :=
  s.updCore core fun k => { k with tlb := (e :: k.tlb.filter (· != e)).take 128 }

/-- Where a global access stands after translation and its checks (R55, R59): it reaches a physical address under a key,
its walk is outstanding, or it fails. -/
inductive Look where
  | at (pa key : Nat)
  | walk
  | absent (level : Nat)
  | protect (region : Bool)
  deriving DecidableEq, Repr

/-- The level of the leaf that an entry holds (R57). -/
def TlbE.level (e : TlbE) : Nat := if e.bits = 30 then 2 else if e.bits = 21 then 1 else 0
/-- A partition without a root reaches nothing: whatever its cores' TLBs hold, the walk ends at level 4 (R57). -/
def State.rootless (s : State) (part : Nat) : Bool := ((s.part part).bind Part.root).isNone
/-- A leaf whose key has gone since it was cached ends the access as its walk would, at the leaf's level (R58, R64; log 41); then
the permission check of a leaf and the region check (R49, R59). -/
def State.lookLeaf (s : State) (e : TlbE) (part : Nat) (va : Dword) (need : BitVec 4) : Look :=
  if (s.keys.find e.key).isNone then .absent e.level
  else if e.perm &&& need ≠ need then .protect false
  else
    let pa := e.pa (va.toNat % 2 ^ 57)
    let r := s.region pa
    if regionAssigned r && (regionPart r = 31 || regionPart r = part) then .at pa e.key else .protect true
/-- A control core's access: physical addresses under identifier 0, in every assigned region (R49; log 8). -/
def State.lookCtrl (s : State) (va : Dword) : Look :=
  if 2 ^ 40 ≤ va.toNat then .absent 4
  else if regionAssigned (s.region va.toNat) then .at va.toNat 0 else .protect true
/-- A lane's access through its core's TLB; `failed` is the level at which its walk has ended (R60). -/
def State.look (s : State) (core : Nat) (part : Option Nat) (va : Dword) (need : BitVec 4) (failed : Option Nat) : Look :=
  match part with
  | none => s.lookCtrl va
  | some p =>
    if s.rootless p then .absent 4
    else match failed, s.tlbFind core p va with
      | some n, _ => .absent n
      | none, some e => s.lookLeaf e p va (kernel need)
      | none, none => .walk
/-- An engine's or fetch's access, which waits for its own walk (R57, R60): the translation is made at once, or waits for a line of
the tables. -/
def State.lookNow (s : State) (core part : Nat) (va : Dword) (need : BitVec 4) : State × Look :=
  if s.rootless part then (s, .absent 4)
  else match s.tlbFind core part va with
    | some e => (s, s.lookLeaf e part va (kernel need))
    | none =>
      match s.walkTables false (dieOfCore core) part va with
      | (s, .leaf e) => (s.tlbAdd core e, s.lookLeaf e part va (kernel need))
      | (s, .absent n) => (s, .absent n)
      | (s, .wait) => (s, .walk)
/-- A translation for the part's own reads and writes and for host RDMA, which need no U (R59, 21 R412). Whether it must wait is
asked before (`partReady`). -/
def State.lookPart (s : State) (die part : Nat) (va : Dword) (need : BitVec 4) : State × Look :=
  match s.walkTables true die part va with
  | (s, .leaf e) => (s, s.lookLeaf e part va need)
  | (s, .absent n) => (s, .absent n)
  | (s, .wait) => (s, .walk)

/-- Starts or joins the walk of a lane's page (R60). -/
def State.startWalk (s : State) (gid core part : Nat) (l : LaneIx) (va : Dword) : State :=
  let d := dieOfCore core
  let vp := va.toNat % 2 ^ 57 / 2 ^ 13
  let s := s.updGrp gid fun g => { g with walk := Mask.add g.walk l, pin := if g.wait = .none then none else g.pin }
  if (s.die d).walks.any fun w => w.part == part && w.vpage == vp then
    s.updDie d fun k => { k with walks := k.walks.map fun w =>
      if w.part = part && w.vpage = vp then { w with waiters := w.waiters ++ [(gid, l.val, va)] } else w }
  else
    let (n, s) := s.fresh
    s.updDie d fun k => { k with walks := k.walks ++ [⟨n, core, part, vp, [(gid, l.val, va)]⟩] }
/-- The level at which a lane's walk for an address has failed, if it has (R58, R60). -/
def Group.failedWalk (g : Group) (l : LaneIx) (va : Dword) : Option Nat :=
  (g.walkFail.find? fun f => f.1 == l.val && f.2.1 == va).map fun f => f.2.2

/-! ### The scratchpad (03 R54, R66; 05 R89 to R91) -/

/-- One stored byte as its owner reads it: a foreign line reads zero (03 R66). -/
def Core.scrByte (k : Core) (owner a : Nat) : Byte :=
  if k.lineTag.getD 0 (a / 128) = owner then Tab.getD k.scratch 0 a else 0
/-- Reads scratchpad bytes (03 R66). -/
def Core.scrRead (k : Core) (owner a n : Nat) : List Byte := (List.range n).map fun i => k.scrByte owner (a + i)
/-- Retags a line for a writer, zeroing a foreign one (03 R66). -/
def Core.own (k : Core) (owner line : Nat) : Core :=
  if k.lineTag.getD 0 line = owner then k
  else { k with
    lineTag := k.lineTag.setD 0 line owner
    scratch := k.scratch.filter fun c => c.1 / 128 ≠ line }
/-- Writes scratchpad bytes (03 R66). -/
def Core.scrWrite (k : Core) (owner a : Nat) (bs : List Byte) : Core :=
  let k := ((piecesOf 128 a bs.length).map fun p => p.2.1 / 128).foldl (fun k ln => k.own owner ln) k
  { k with scratch := putBytes k.scratch a bs }
/-- A copy in flight keeps a line absent (05 R91). -/
def Core.absent (k : Core) (line : Nat) : Bool := k.copies.any fun c => c.2.absent.contains line
/-- Some line that n bytes touch is absent (05 R91). -/
def Core.anyAbsent (k : Core) (a n : Nat) : Bool := (piecesOf 128 a n).any fun p => k.absent (p.2.1 / 128)
/-- Some granule that n bytes touch is marked (05 R90). -/
def Core.anyMarked (k : Core) (a n : Nat) : Bool := (piecesOf 16 a n).any fun p => k.marks.contains (p.2.1 / 16)

/-- What a group's local accesses need of its team: the first byte of its block, LOCSIZE and the owner. A control core has
no scratchpad (log 8). -/
def State.locOf (s : State) (g : Group) : Nat × Nat × Nat :=
  match s.team g.team with
  | none => (0, 0, 0)
  | some t => (t.locBlk, t.locSize, t.owner)

/-! ### The L1 that serves a core (06 R118, R122) -/

/-- Core of a rank of a cluster whose rank-0 team is on core `base` (01 R16; 18 R350). -/
def clusterCore (base w rank : Nat) : Nat := base + 8 * (rank / w) + rank % w
/-- The core whose L1 holds a line for a team: its own, or the member of a fused cluster (06 R122). -/
def State.memberOf (s : State) (core tid ln7 : Nat) : Nat :=
  match s.team tid with
  | none => core
  | some t =>
    match s.grid t.grid with
    | none => core
    | some g =>
      let n := g.recd.w * g.recd.h
      if g.recd.flags.getLsbD 7 && 1 < n && t.kind == .launch then
        let base := core - (8 * (t.rank / g.recd.w) + t.rank % g.recd.w)
        clusterCore base g.recd.w (hashIdx ln7 n)
      else core

/-- The accesses of a core's lanes to a line that are in flight (06 R120). -/
def State.lineReqs (s : State) (core ln7 : Nat) : List Nat :=
  (s.reqs.filter fun e => e.2.core == core && e.2.pa / 128 == ln7 && (match e.2.maker with
    | .lane _ _ => match e.2.kind with
      | .load _ _ | .store _ | .atomic _ _ _ => true
      | _ => false
    | _ => false)).map Prod.fst
/-- An update by one of the core's own writes to a line is still to be applied: until then a lane could read a value older than one
that its core has written (06 R120; log 42). -/
def State.lineStale (s : State) (core ln7 : Nat) : Bool :=
  s.upds.any fun e => e.2.writer == some core && e.2.line == ln7 && !e.2.cells.isEmpty
/-- A load of the line must wait: an access of the core to it is in flight, or an update by one of its writes (06 R120; log 42). -/
def State.lineBusy (s : State) (core ln7 : Nat) : Bool := !(s.lineReqs core ln7).isEmpty || s.lineStale core ln7

end Sys2Proof.Machine
end

