-- ==== Sys2Proof/Machine/Scoreboard.lean ====
section
/-! DEFINITION. The tile scoreboard of a refinement grid (17 R330 to R332, R335 to R339) and the reads of it. -/

namespace Sys2Proof.Machine

/-! ### Tiles (R330, R331, R339) -/

def Refine.tile (r : Refine) (i : Nat) : Tile := r.tiles.getD {} i
def Refine.updTile (r : Refine) (i : Nat) (f : Tile → Tile) : Refine := { r with tiles := r.tiles.setD {} i (f (r.tile i)) }
/-- All tile indices, ascending. -/
def Refine.all (r : Refine) : List Nat := List.range (r.w * r.h)
/-- The tile index of a coordinate word, if the tile exists (R330, R340). -/
def Refine.index (r : Refine) (c : Word) : Option Nat :=
  let x := (c.extractLsb' 0 16).toNat
  let y := (c.extractLsb' 16 16).toNat
  if x < r.w && y < r.h then some (y * r.w + x) else none
/-- The coordinate word of a tile. -/
def Refine.coord (r : Refine) (i : Nat) : Word := BitVec.ofNat 32 (i / r.w * 2 ^ 16 + i % r.w)
/-- The named in-grid neighbours of a tile (R330). -/
def Refine.nbrs (r : Refine) (i : Nat) : List Nat :=
  (List.range 25).filterMap fun b =>
    if b ≠ 12 && r.stencil.getLsbD b then
      let x : Int := (i % r.w : Nat) + (b % 5 : Nat) - 2
      let y : Int := (i / r.w : Nat) + (b / 5 : Nat) - 2
      if 0 ≤ x && x < r.w && 0 ≤ y && y < r.h then some (y.toNat * r.w + x.toNat) else none
    else none
/-- The neighbour sum (R330). -/
def Refine.sum (r : Refine) (i : Nat) : Nat := ((r.nbrs i).map fun j => (r.tile j).version).sum
/-- The 64-bit record (R330). -/
def Tile.word (t : Tile) : Dword :=
  BitVec.ofNat 64 (t.version + (t.final.toNat * 2 ^ 16) + t.stopped.toNat * 2 ^ 17 + t.queued.toNat * 2 ^ 18 +
    t.running.toNat * 2 ^ 19 + t.seen * 2 ^ 20 + t.runs * 2 ^ 44)
/-- A settled tile (R339). -/
def Refine.settled (r : Refine) (i : Nat) : Bool := (r.tile i).stopped || ((r.tile i).final && r.sum i == (r.tile i).seen)
/-- A run of the tile is queued or running. -/
def Refine.active (r : Refine) (i : Nat) : Bool := (r.tile i).queued || (r.tile i).running
/-- Slack water (R339). -/
def Refine.slack (r : Refine) : Bool := r.all.all fun i => !r.active i && r.settled i
/-- The grid status word (R338). -/
def Refine.status (r : Refine) : Dword :=
  BitVec.ofNat 64 (r.slack.toNat + min (r.all.countP r.active) 0xFFFF * 2 ^ 16 + r.all.countP (fun i => !r.settled i) * 2 ^ 32)
/-- The class of a run fired at a version: band min(version, 3) + 1 of the class table (R329, R333). -/
def Refine.bandClass (r : Refine) (ver : Nat) : Nat := (r.classes.extractLsb' (3 * min ver 3) 3).toNat

/-- A tile fires (R331); one whose class is shed does not (20 R401). -/
def Refine.fires (r : Refine) (allowed : Nat) (i : Nat) : Bool :=
  let t := r.tile i
  !t.final && !t.stopped && !t.queued && !t.running &&
    ((r.nbrs i).all fun j => 1 ≤ (r.tile j).version || (r.tile j).stopped) &&
    (t.runs == 0 || t.seen < r.sum i) && allowed ≤ r.bandClass t.version
/-- Firing (R331). -/
def Refine.fire (r : Refine) (i : Nat) : Refine :=
  let n := r.sum i
  let clk := (r.nbrs i).foldl (fun (c : Clk) j => c.join (r.tile j).clk) {}
  let r := r.updTile i fun t => { t with seen := n, runs := min (t.runs + 1) 255, queued := true }
  { r with fired := r.fired ++ [⟨r.firings, i, (r.tile i).version, n, (r.tile i).runs, clk⟩], firings := r.firings + 1 }
/-- Tests firing in ascending tile index (R332). -/
def Refine.fireAll (r : Refine) (allowed : Nat) : Refine :=
  r.all.foldl (fun r i => if r.fires allowed i then r.fire i else r) r

/-- A publication acts on its tile; its result (R335). -/
def Refine.publish (r : Refine) (i : Nat) (fin : Bool) (clk : Clk) : Refine × Word :=
  let t := r.tile i
  if t.final || t.stopped then (r, 0)
  else
    let v := min (t.version + 1) 65535
    (r.updTile i fun t => { t with version := v, final := v == 65535 || fin, clk := t.clk.join clk }, BitVec.ofNat 32 v)
/-- A stop acts on its tile (R337). -/
def Refine.stop (r : Refine) (i : Nat) : Refine :=
  { (r.updTile i fun t => { t with stopped := true, queued := false }) with fired := r.fired.filter fun f => f.tile ≠ i }

/-- The answers that a clock's publications owe: group, tile coordinate, value. -/
abbrev Answers := List (Nat × Word × Word)
/-- The tile of an event, to order publications. -/
def TaskEv.tile : TaskEv → Nat
  | .stop t => t
  | .pub t _ _ _ => t
  | .runEnd t => t
/-- One clock of the task unit: stops, publications by tile, run ends, then firing (R332). -/
def Refine.clock (r : Refine) (evs : List TaskEv) (allowed : Nat) : Refine × Answers :=
  let r := evs.foldl (fun r e => match e with
    | .stop t => r.stop t
    | _ => r) r
  let pubs := sortBy (fun a b => a.tile ≤ b.tile) (evs.filter fun e => match e with
    | .pub _ _ _ _ => true
    | _ => false)
  let (r, ans) := pubs.foldl (fun (acc : Refine × Answers) e => match e with
    | .pub t fin reply clk =>
      let (r, v) := acc.1.publish t fin clk
      (r, match reply with
        | some g => acc.2 ++ [(g, r.coord t, v)]
        | none => acc.2)
    | _ => acc) (r, [])
  let r := evs.foldl (fun r e => match e with
    | .runEnd t => r.updTile t fun v => { v with running := false }
    | _ => r) r
  (r.fireAll allowed, ans)

/-! ### The task unit's place, requests and reads (R329, R332, R338) -/

/-- The lowest-numbered bias domain of a partition. -/
def Part.lowDomain (p : Part) : Nat := ((List.range 16).find? fun n => p.domains.getLsbD n).getD 0
/-- The die whose task unit keeps a partition's scoreboards (R329). -/
def State.taskDie (s : State) (part : Nat) : Nat := ((s.part part).map fun p => p.lowDomain / 4).getD 0
/-- Sends an event from a core to the task unit of a grid (R332). -/
def State.sendTask (s : State) (core grid : Nat) (e : TaskEv) : State :=
  match s.grid grid with
  | none => s
  | some g =>
    let (id, s) := s.fresh
    let d := s.taskDie g.part
    (s.updGrid grid fun g => { g with refine := g.refine.map fun r => { r with ev := r.ev.put id e } }).send g.part 1
      (route (dieOfCore core) (stationOf core) d 64) (.task id)
/-- What a read of the scoreboard returns, low word first; none when the grid has gone (R338; 08 R174). -/
def State.boardRead (s : State) (grid : Nat) (tile : Option Nat) : Option (List Word) :=
  ((s.grid grid).bind Grid.refine).map fun r =>
    let w := match tile with
      | some i => (r.tile i).word
      | none => r.status
    [w.lo, w.hi]

end Sys2Proof.Machine
end

