-- ==== Sys2Proof/Machine/Own.lean ====
section
/-! DEFINITION. The part's own reads and writes in a partition: dispatch, completion records, event blocks, logs, task queues, spill
frames and host RDMA (03 R67 to R69; 18 R345, R346, R349; 21 R412), and those of them that wait for a line or a path. -/

namespace Sys2Proof.Machine

/-- Every sector's page of a range of a partition admits an access. -/
def State.partCan (s : State) (part : Nat) (va : Dword) (n : Nat) (need : BitVec 4) : Bool :=
  (piecesOf 64 va.toNat n).all fun p => match (s.lookPart (s.taskDie part) part (BitVec.ofNat 64 p.2.1) need).2 with
    | .at _ _ => true
    | _ => false
/-- A machine write in a partition; its epoch counts for what a later doorbell covers (07 R155). -/
def State.partPiece (s : State) (part pa key : Nat) (va : Dword) (bs : List Byte) (cc : Clk) (rel : Option RelRec) : State :=
  let d := s.home pa / 64
  let e := Clk.one d (s.die d).epoch
  (s.machineWrite part pa key va bs cc rel).1.updPart part fun p => { p with clk := p.clk.join e }
/-- The part writes bytes at a virtual address of a partition, if every sector's page can be written. -/
def State.partWrite (s : State) (part : Nat) (va : Dword) (bs : List Byte) (cc : Clk) (rel : Option RelRec) : State × Bool :=
  if !s.partCan part va bs.length needWrite then (s, false)
  else
    ((piecesOf 64 va.toNat bs.length).foldl (fun s p =>
      match s.lookPart (s.taskDie part) part (BitVec.ofNat 64 p.2.1) needWrite with
      | (s, .at pa key) => s.partPiece part pa key (BitVec.ofNat 64 p.2.1) ((bs.drop p.1).take p.2.2) cc rel
      | (s, _) => s) s, true)
/-- The part reads bytes of a partition; none when a page cannot be read or a sector is poisoned. -/
def State.partRead (s : State) (part : Nat) (va : Dword) (n : Nat) : State × Option (List Byte) :=
  (piecesOf 64 va.toNat n).foldl (fun (acc : State × Option (List Byte)) p =>
    match acc with
    | (s, none) => (s, none)
    | (s, some bs) => match s.lookPart (s.taskDie part) part (BitVec.ofNat 64 p.2.1) needRead with
      | (s, .at pa key) =>
        let (s, b, bad) := s.readHome pa key p.2.2
        (s, if bad then none else some (bs ++ b))
      | (s, _) => (s, none)) (s, some [])

/-- The part's access to bytes of a partition, from a station of each home's die, waits neither for a table's line, nor for a page's
line that is pinned under another key, nor for a path. The part's units stand at the control stations, the host ports at the I/O
stations (11 R245; 04 R70, R76; log 10). -/
def State.partReady (s : State) (part : Nat) (va : Dword) (n : Nat) (need : BitVec 4) (st : Nat := 64) : Bool :=
  let d := s.taskDie part
  (piecesOf 64 va.toNat n).all fun p =>
    (s.walkTables false d part (BitVec.ofNat 64 p.2.1)).2 != .wait &&
      (match (s.lookPart d part (BitVec.ofNat 64 p.2.1) need).2 with
        | .at pa key => s.homeReady part pa key p.2.2 && s.wayOpen part (72 * (s.home pa / 64) + st) pa
        | _ => true)
/-- The station at which the host ports and the scale-out ports reach a die (04 R70, R88). -/
def ioStation : Nat := 71

/-! ### Writes that wait (11 R245; 04 R76) -/

/-- A write of the part's own can be made now. -/
def State.pendReady (s : State) : Pend → Bool
  | .write part va bs _ _ => s.partReady part va bs.length needWrite
  | .mark pa => s.bitReady pa
/-- A write of the part's own is made, and what it tells the host follows it (18 R346). -/
def State.pendDo (s : State) : Pend → State
  | .write part va bs note cc =>
    let s := (s.partWrite part va bs cc none).1
    (note.map s.emit).getD s
  | .mark pa => if regionAssigned (s.region pa) then s.setBit pa else s
/-- The writes that wait are made in their order, as far as they can be. -/
def State.drainPend (s : State) : State :=
  let (s', left) := s.pend.foldl (fun (a : State × List Pend) p =>
    if a.2.isEmpty && a.1.pend.isEmpty && a.1.pendReady p then (a.1.pendDo p, []) else (a.1, a.2 ++ [p])) ({ s with pend := [] }, [])
  if s.pend.isEmpty then s else { s' with pend := s'.pend ++ left }
/-- A write of the part's own: made at once when nothing holds it back, otherwise after those that wait (11 R245; 04 R76; log 26). -/
def State.ownWrite (s : State) (part : Nat) (va : Dword) (bs : List Byte) (note : Option Msg := none) (cc : Clk := {}) :
    State :=
  let p := Pend.write part va bs note cc
  if s.pend.isEmpty && s.pendReady p then s.pendDo p else { s with pend := s.pend ++ [p] }

end Sys2Proof.Machine
end

