-- ==== Sys2Proof/Machine/AssayOps.lean ====
section
/-! DEFINITION. Operations of the Assay unit that instructions and events share (12): signatures, the input log, versions and
their commit, release points and release unchecked. -/

namespace Sys2Proof.Machine

/-! ### Signatures (R269 to R271) -/

/-- The aligned words that a write or load touches: VA of the word, byte mask, and the word with its bytes in place. -/
def sigWords (va : Dword) (bs : List Byte) : List (Dword × BitVec 4 × Word) :=
  let a := va.toNat
  (wordsAt a bs.length).map fun k =>
    let byte := fun i => if a ≤ 4 * k + i && 4 * k + i < a + bs.length then some (bs.getD (4 * k + i - a) 0) else none
    (BitVec.ofNat 64 (4 * k),
      (List.range 4).foldl (fun m i => if (byte i).isSome then m ||| (1#4 <<< i) else m) 0#4,
      wordOf ((List.range 4).map fun i => (byte i).getD 0))
/-- The multiplier of a word address in SH and LS. -/
def sigMul (a : Dword) : Word := 2#32 * (a >>> 2).setWidth 32 + 1#32
/-- Folds a held write into a run's store signature (R269). -/
def Team.foldStore (t : Team) (va : Dword) (bs : List Byte) : Team :=
  (sigWords va bs).foldl (fun t e =>
    { t with
      sh := t.sh + e.2.2 * sigMul e.1
      sl := t.sl + (e.2.2 ^^^ e.1.setWidth 32 ^^^ (e.2.1 ++ 0#28)) }) t
/-- Folds the source bytes of a `PUT`, at their destination offset and with the destination word in a32 (R269). -/
def Team.foldPut (t : Team) (off : Nat) (dest : Word) (bs : List Byte) : Team :=
  (sigWords (BitVec.ofNat 64 off) bs).foldl (fun t e =>
    { t with
      sh := t.sh + e.2.2 * sigMul e.1
      sl := t.sl + (e.2.2 ^^^ (e.1.setWidth 32 ^^^ dest) ^^^ (e.2.1 ++ 0#28)) }) t
/-- Folds a lane's global load into a run's load signature (R270). -/
def Team.foldLoad (t : Team) (va : Dword) (bs : List Byte) : Team :=
  (sigWords va bs).foldl (fun t e => { t with ls := t.ls + e.2.2 * sigMul e.1 }) t
/-- The register signature terms of a group's lanes (R271). -/
def Group.rsTerm (g : Group) : Word :=
  allLanes.foldl (fun w l => w + (g.lane l).rsig * BitVec.ofNat 32 (2 * (32 * g.grpix + l.val) + 1)) 0#32

/-! ### Roles (R259) -/

/-- A run whose writes are held as versions (R262): a checked run that has not been released unchecked. -/
def Team.holds (t : Team) : Bool := t.role != 0 && t.check.isSome
/-- A primary that logs its inputs (R265). -/
def Team.logs (t : Team) : Bool := t.role == 1 && t.check.isSome
/-- A run that replays its primary's log (R268). -/
def Team.replays (t : Team) : Bool := 2 ≤ t.role
/-- The version ways a grid may hold in one set (R261). -/
def quotaOf (level : Nat) : Nat := if level = 7 then 4 else (level + 1) / 2
/-- The redundancy level of a launch record (R258). -/
def LaunchRec.redund (r : LaunchRec) : Nat := (r.flags.extractLsb' 0 3).toNat

/-! ### Versions (R262 to R264, R274) -/

/-- A way for a run's line can be had: it has one, or its set has a free version way and the grid's quota is not used up
(R262, R264). -/
def State.wayFree (s : State) (run grid home ln key : Nat) : Bool :=
  (s.verOf run home ln key).isSome ||
    (s.waysUsed home (setOf ln) none < 4 &&
      s.waysUsed home (setOf ln) (some grid) < ((s.grid grid).map fun g => quotaOf g.recd.redund).getD 0)
/-- The lowest version way of a set of a slice that no version takes (03 R51; R262). -/
def State.freeWay (s : State) (home set : Nat) : Nat :=
  ([12, 13, 14, 15].find? fun w => !s.vers.any fun v => v.home == home && setOf v.ln == set && v.way == w).getD 12
/-- Holds bytes in the run's way for the line under their key, for a team of a cluster (R262, R274; 03 R65; 07 R142). -/
def State.hold (s : State) (run grid cluster home pa key num : Nat) (cc : Clk) (rel : Bool) (bs : List Byte) : State :=
  let ln := pa / 256
  let put := fun (m : Tab Byte) => bs.zipIdx.foldl (fun m e => m.put (pa % 256 + e.2) e.1) m
  match s.verOf run home ln key with
  | some _ => { s with vers := s.vers.map fun v =>
      if v.run = run && v.home = home && v.ln = ln && v.key = key then
        { v with bytes := put v.bytes, num := max v.num num, cc := v.cc.join cc, rel := v.rel || rel }
      else v }
  | none =>
    let s := s.makeRoom home (setOf ln)
    { s with vers := s.vers ++ [{ run, grid, home, ln, key, lid := s.lid key, bytes := put [], num, cc, rel
                                  cluster, way := s.freeWay home (setOf ln) }] }
/-- Contiguous runs of a version's bytes that stay within a 128 B line: offset and bytes. -/
def runsOf : List Host.Cell → List (Nat × List Byte)
  | [] => []
  | c :: t => match runsOf t with
    | [] => [(c.1, [c.2])]
    | (o, bs) :: r => if o = c.1 + 1 && o % 128 ≠ 0 then (c.1, c.2 :: bs) :: r else (c.1, [c.2]) :: (o, bs) :: r
/-- The primary team for whose run a commit acts: the one of the same rank (07 R142). -/
def Check.primaryOf (k : Check) (run : Nat) : Nat :=
  let at_ := fun (ts : List Nat) => if ts.contains run then k.teams1[ts.idxOf run]? else none
  ((at_ k.teams2).or (at_ k.teams3)).getD run
/-- One version becomes current under its own key (R274; 03 R65), carrying the epochs of the versions before it; its release is
recorded for the primary team, in the run's cluster (07 R142, R151), and that team's core, while it runs, reads none of its lines
older (06 R120). -/
def State.commitVer (s : State) (n : Nat) (v : Ver) : State :=
  let part := ((s.grid v.grid).map Grid.part).getD 31
  let clk := ((s.check n).map Check.clk).getD {}
  let rel : Option RelRec := if v.rel then some ⟨.device, ((s.check n).map fun k => k.primaryOf v.run).getD v.run, v.grid, v.cluster⟩ else none
  let s := { s with vers := s.vers.filter fun w => w ≠ v }
  let s := (runsOf v.bytes).foldl (fun s r =>
    let pa := 256 * v.ln + r.1
    let d := s.home pa / 64
    let e := (s.die d).epoch
    let core := (s.team (((s.check n).map fun k => k.primaryOf v.run).getD v.run)).map Team.core
    let s := (s.machineWrite part pa v.key 0 r.2 (v.cc.join clk) rel v.grid core).1
    s.updCheck n fun k => { k with
      clk := k.clk.join (Clk.one d e), touched := if k.touched.contains d then k.touched else d :: k.touched }) s
  s
/-- The release numbers of a run's versions, rising. -/
def State.verNums (s : State) (run : Nat) : List Nat :=
  (sortBy (fun a b => a ≤ b) ((s.vers.filter fun v => v.run == run).map Ver.num)).dedup
/-- All versions of one release number of a run become current (R274). -/
def State.commitNumber (s : State) (n run num : Nat) : State :=
  (s.vers.filter fun v => v.run == run && v.num == num).foldl (fun s v => s.commitVer n v) s
/-- The last committed write closes the epoch of every die the commit touched (R274). -/
def State.commitEnd (s : State) (n : Nat) : State :=
  let ds := ((s.check n).map Check.touched).getD []
  (ds.foldl (fun s d => s.closeEpoch d) s).updCheck n fun k => { k with touched := [] }
/-- Every version of a run's ranks becomes current in ascending release number, which the run's teams share (R274). -/
def State.commitAll (s : State) (n : Nat) (runs : List Nat) : State :=
  let nums := (sortBy (fun a b => a ≤ b) (runs.flatMap s.verNums)).dedup
  (nums.foldl (fun s k => runs.foldl (fun s run => s.commitNumber n run k) s) s).commitEnd n
/-- A version can become current now: no pin holds its line under another key, and what it moves can travel (11 R245; 04 R76). -/
def State.verReady (s : State) (v : Ver) : Bool :=
  s.homeReady (((s.grid v.grid).map Grid.part).getD 31) (256 * v.ln) v.key 256
/-- The versions that a release unchecked would commit can become current now (11 R245). -/
def State.releasable (s : State) (n : Nat) : Bool :=
  (s.check n).all fun k => (s.vers.filter fun v => k.teams1.contains v.run).all s.verReady
/-- A run's versions are discarded. -/
def State.discardRun (s : State) (run : Nat) : State := { s with vers := s.vers.filter fun v => v.run ≠ run }

/-! ### Units and their counts (R267, R275, R280) -/

/-- The team numbers of a unit's run of a role. -/
def Check.runs (k : Check) (role : Nat) : List Nat := if role = 1 then k.teams1 else if role = 2 then k.teams2 else k.teams3
/-- A unit's log blocks return to the region (R267). -/
def State.freeLog (s : State) (n : Nat) : State :=
  match s.check n with
  | none => s
  | some k =>
    let part := ((s.grid k.grid).map Grid.part).getD 0
    { (s.updPart part fun p => { p with logUsed := p.logUsed.filter fun b => !k.blocks.any fun e => e.2.contains b }) with
      checks := s.checks.put n { k with logs := [], blocks := [], entries := [] } }
/-- Counts of a completion record (R275, R278). -/
def State.countGrid (s : State) (grid : Nat) (f : Counts → Counts) : State :=
  s.updGrid grid fun g => { g with counts := f g.counts }
/-- A saturating Fynil count by its place in the record (R280). -/
def State.fynilInc (s : State) (i : Nat) : State := { s with fynil := s.fynil.setD 0 i (min (s.fynil.getD 0 i + 1) (2 ^ 64 - 1)) }
/-- Sets bits of STATUS (08 R177). -/
def Group.setStatus (g : Group) (b : Word) : Group := { g with status := g.status ||| b }
/-! ### The input log (R265 to R268) -/

/-- How making entries in a primary's log goes: there is room, the region has no block, or the log would pass 16,384. -/
inductive LogRoom where
  | room (s : State)
  | wait
  | overflow
  deriving DecidableEq, Repr

/-- The 16 KiB blocks of a partition's log region that are free (R267). -/
def Part.freeBlock (p : Part) : Option Nat := (List.range (p.logSize / 16384)).find? fun b => !p.logUsed.contains b
/-- The blocks and the number of entries of the log of a rank's primary (R266, R267). -/
def Check.blocksOf (k : Check) (rank : Nat) : List Nat := k.blocks.getD [] rank
def Check.entriesOf (k : Check) (rank : Nat) : Nat := k.entries.getD 0 rank
/-- Finds room for `count` more entries of a rank's primary (R266, R267). -/
def State.logRoom (s : State) (n rank count : Nat) : LogRoom :=
  match s.check n with
  | none => .room s
  | some k =>
    if 16384 < k.entriesOf rank + count then .overflow
    else if k.entriesOf rank + count ≤ 1024 * (k.blocksOf rank).length then .room s
    else
      let part := ((s.grid k.grid).map Grid.part).getD 0
      match (s.part part).bind Part.freeBlock with
      | none => .wait
      | some b =>
        .room ((s.updPart part fun p => { p with logUsed := b :: p.logUsed }).updCheck n fun k =>
          { k with blocks := k.blocks.setD [] rank (k.blocksOf rank ++ [b]) })
/-- The sixteen bytes of a log entry (R266). -/
def LogE.bytes (e : LogE) : List Byte :=
  bytesOf (BitVec.ofNat 32 (e.kind + 256 * e.lane + 8192 * e.grpix)) ++ bytesOf e.value ++ bytesOf e.operand ++ bytesOf e.addr
/-- Writes a filled entry of a rank's primary to its place in the log region (R266, R267; 03 R68; log 18). -/
def State.logStore (s : State) (n rank : Nat) (e : LogE) : State :=
  match s.check n with
  | none => s
  | some k =>
    let part := ((s.grid k.grid).map Grid.part).getD 0
    match s.part part, (k.blocksOf rank)[e.place / 1024]? with
    | some p, some b =>
      s.ownWrite part (p.logBase + BitVec.ofNat 64 (16384 * b + 16 * (e.place % 1024))) e.bytes
    | _, _ => s
/-- The checked unit and the rank of a team. -/
def State.unitOf (s : State) (tid : Nat) : Nat × Nat :=
  match s.team tid with
  | none => (0, 0)
  | some t => (t.check.getD 0, t.rank)
/-- Appends an entry to the log of a primary's group; answers its place in that log. -/
def State.logAppend (s : State) (gid : Nat) (e : LogE) : State × Nat :=
  match s.grp gid with
  | none => (s, 0)
  | some g =>
    let (n, rank) := s.unitOf g.team
    let e := { e with grpix := g.grpix, place := ((s.check n).map fun k => k.entriesOf rank).getD 0 }
    let s := (s.updGrp gid fun g => { g with log := g.log ++ [e] }).updCheck n fun k =>
      { k with entries := k.entries.setD 0 rank (k.entriesOf rank + 1) }
    (if e.filled then s.logStore n rank e else s, g.log.length)
/-- Fills an entry whose value was owed, in the log of a group of a team: with the group while it lives, with its unit once it has
retired (R265; 13 R301). -/
def State.logFill (s : State) (tid grpix ix : Nat) (v : Word) : State :=
  let (n, rank) := s.unitOf tid
  let key := 32 * rank + grpix
  match (s.groupsOf tid).find? fun e => e.2.grpix == grpix with
  | some (gid, g) =>
    match g.log[ix]? with
    | none => s
    | some e =>
      let e := { e with value := v, filled := true }
      (s.updGrp gid fun g => { g with log := g.log.set ix e }).logStore n rank e
  | none =>
    match (s.check n).bind fun k => (k.logs.getD [] key)[ix]? with
    | none => s
    | some e =>
      let e := { e with value := v, filled := true }
      (s.updCheck n fun k => { k with logs := k.logs.upd key fun l => l.set ix e }).logStore n rank e
/-- The log that a replaying group reads: its primary's, by rank and GRPIX (R268). -/
def State.logOf (s : State) (g : Group) : List LogE :=
  match s.team g.team with
  | none => []
  | some t => ((t.check.bind s.check).map fun k => k.logs.getD [] (32 * t.rank + g.grpix)).getD []
/-- The address word of a log entry (R266). -/
def foldVa (va : Dword) : Word := va.lo ^^^ va.hi
/-- The next entries agree with the operations about to be replayed (R268). -/
def LogE.agrees (e : LogE) (kind lane : Nat) (operand addr : Word) : Bool :=
  e.kind == kind && e.lane == lane && e.operand == operand && e.addr == addr
/-- A group ends where it stands: its lanes exit, and it leaves every queue it waits in (R268; 19 R369). An `MMAS` that has not
started gives its number back (11 R251). -/
def State.endGroup (s : State) (gid : Nat) : State :=
  match s.grp gid with
  | none => s
  | some g =>
    let s := match (s.core (coreOf gid)).mwait.find gid with
      | some e => (s.updCore (coreOf gid) fun k => { k with mwait := k.mwait.del gid }).updTeam g.team fun t =>
          { t with mmasFree := e.n :: t.mmasFree }
      | none => s
    let s := s.updDie (dieOf gid) fun d => { d with trapQ := d.trapQ.filter (· ≠ gid), walks := d.walks.map fun w =>
      { w with waiters := w.waiters.filter fun v => v.1 ≠ gid } }
    let s := s.updDomain (domainOf (coreOf gid)) fun d => { d with relq := d.relq.filter (· ≠ gid) }
    s.updGrp gid fun g =>
      { (g.exitLanes 0xFFFFFFFF#32) with
        pin := none, wait := .none, walk := 0, walkFail := [], trap := none, opened := [], arr := [], stopped := false, stopping := false
        shed := .running, blocked := false, stalled := false, acq := false }
/-- A saved team, by its number (19 R375). -/
def State.savedTeam (s : State) (tid : Nat) : Option SavedTeam :=
  (s.streams.flatMap fun e => e.2.teams).find? fun v => v.tid == tid
/-- A team as it stands, on its core or saved. -/
def State.anyTeam (s : State) (tid : Nat) : Option Team := (s.team tid).or ((s.savedTeam tid).map SavedTeam.team)
/-- Changes a team and its groups where they are: on their core, or saved in a stream (19 R375). -/
def State.mapTeam (s : State) (tid : Nat) (f : Team → Team) (h : Group → Group) : State :=
  let s := (s.groupsOf tid).foldl (fun s e => s.updGrp e.1 h) (s.updTeam tid f)
  if s.streams.isEmpty then s
  else { s with streams := s.streams.map fun e => (e.1, { e.2 with teams := e.2.teams.map fun v =>
    if v.tid = tid then { v with team := f v.team, groups := v.groups.map fun g => (g.1, h g.2) } else v }) }
/-- The teams of a run: of a cluster's run the teams of all its ranks (R273). -/
def State.runOf (s : State) (tid : Nat) : List Nat :=
  match (s.team tid).bind fun t => (t.check.bind s.check).map fun k => k.runs t.role with
  | some ts => if ts.contains tid then ts else [tid]
  | none => [tid]
/-- A shadow or third run ends at once with a divergence (R268, R273): the groups of all its ranks end. -/
def State.diverge (s : State) (tid : Nat) : State :=
  (s.runOf tid).foldl (fun s t =>
    let s := s.updTeam t fun k => { k with diverged := true }
    (s.groupsOf t).foldl (fun s e => s.endGroup e.1) s) s

/-- The core from whose station a unit's commit tells the task unit of its publications and its end: its first primary's, so that they
arrive in the order in which they are sent (04 R73; 17 R331, R341). -/
def State.unitCore (s : State) (n : Nat) : Nat :=
  match s.check n with
  | none => 0
  | some k => ((k.sig1.head?).map fun e => e.2.core).getD (((s.anyTeam (k.teams1.headD 0)).map Team.core).getD 0)
/-- Held publications go to the task unit at commit, in the order of their release numbers (R274; 17 R341). -/
def State.sendPubs (s : State) (n : Nat) (ps : List HeldPub) : State :=
  match s.check n with
  | none => s
  | some k => (sortBy (fun a b => a.num ≤ b.num) ps).foldl (fun s p =>
      s.sendTask (s.unitCore n) k.grid (.pub p.tile p.fin none (k.clk.join p.clk))) s
/-- The end of a checked tile run reaches the task unit, behind its publications (17 R331, R332). -/
def State.sendRunEnd (s : State) (n : Nat) : State :=
  match s.check n with
  | none => s
  | some k => match k.kind with
    | .tile t => s.sendTask (s.unitCore n) k.grid (.runEnd t)
    | _ => s
/-- The publications that a unit's run holds: of its retired ranks and of those that still run or are saved (17 R341). -/
def State.heldPubs (s : State) (k : Check) (runs : List Nat) : List HeldPub :=
  ((k.pubs.filter fun e => runs.contains e.1).map Prod.snd) ++ runs.flatMap fun t => ((s.anyTeam t).map Team.held).getD []
/-- Saved teams of runs that are over go from their streams (R268, R279). -/
def State.dropSaved (s : State) (tids : List Nat) : State :=
  if s.streams.isEmpty then s
  else { s with streams := s.streams.map fun e => (e.1, { e.2 with teams := e.2.teams.filter fun v => !tids.contains v.tid }) }
/-- A primary is released unchecked: its versions commit at once and their epochs join its groups' full clocks, like
acknowledged writes (07 R145, R150), and with them the grid's for its end flush; later writes are not held, its log is freed and no run of it
remains (R268, R278). -/
def State.releaseUnchecked (s : State) (n : Nat) : State :=
  match s.check n with
  | none => s
  | some k =>
    let s := s.commitAll n k.teams1
    let clk := ((s.check n).map Check.clk).getD {}
    let s := k.teams1.foldl (fun s t => s.mapTeam t id fun g => { g with vc := g.vc.join clk }) s
    let s := s.updGrid k.grid fun g => { g with vc := g.vc.join clk }
    let s := s.sendPubs n (s.heldPubs k k.teams1)
    let s := if k.phase = .primary then s else s.sendRunEnd n
    let s := (k.teams2 ++ k.teams3).foldl (fun s t => (s.diverge t).discardRun t) s
    let s := s.dropSaved (k.teams2 ++ k.teams3)
    let s := s.freeLog n
    let s := ((s.countGrid k.grid fun c => { c with unchecked := c.unchecked + 1 })).fynilInc 7
    let s := k.teams1.foldl (fun s t => s.mapTeam t (fun t => { t with check := none, held := [] }) id) s
    { s with checks := s.checks.del n }

/-! ### What engine operations wait for (05 R98, R115; 07 R147, R148, R156) -/

/-- A write is current and not settled (07 R147). -/
def State.isUnsettled (s : State) (rid : Nat) : Bool := (s.reqs.find rid).any fun r => r.epoch != 0
/-- An acknowledgement or reply has come: a transfer of the core that waits for it waits no more and takes its epoch (07 R148,
R152, R154). -/
def State.paidOff (s : State) (core rid : Nat) (own : Clk) : State :=
  let paid := fun (c : Nat × Copy) =>
    if c.2.owed.contains rid then (c.1, { c.2 with owed := c.2.owed.erase rid, vc := c.2.vc.join own }) else c
  if (s.core core).copies.any (fun c => c.2.owed.contains rid) then
    s.updCore core fun k => { k with copies := k.copies.map paid }
  else s
/-- A load an acquire waited for has returned: what it read unsettled is awaited in its place. -/
def AcqWait.back (a : AcqWait) (rid : Nat) (un : List Nat) : AcqWait := ⟨a.loads.erase rid, un ++ a.src⟩
/-- A load or atomic has returned: the engine operations of its core whose acquire waits for it wait for what it read unsettled,
and take its clock (07 R147, R150, R156). -/
def State.readBack (s : State) (core rid : Nat) (un : List Nat) (clk : Clk) : State :=
  let copy := fun (c : Nat × Copy) =>
    if c.2.acq.loads.contains rid then (c.1, { c.2 with acq := c.2.acq.back rid un, obs := c.2.obs.join clk }) else c
  let mop := fun (m : Mop) =>
    if m.acq.loads.contains rid then { m with acq := m.acq.back rid un, obs := m.obs.join clk } else m
  if (s.core core).copies.any (fun c => c.2.acq.loads.contains rid) || (s.core core).mq.any (fun m => m.acq.loads.contains rid) then
    s.updCore core fun k => { k with copies := k.copies.map copy, mq := k.mq.map mop }
  else s
/-- The accesses of a group of a kind that are in flight, by number: those that carry its allocation's tag (08 R171). -/
def State.laneReqs (s : State) (gid : Nat) (p : ReqKind → Bool) : List Nat :=
  (s.reqs.filter fun e => (match e.2.maker with
    | .lane k _ => k == gid && (s.grp gid).any fun g => g.tag == e.2.tag && g.team == e.2.team
    | _ => false) && p e.2.kind).map Prod.fst
/-- The access returns a value that a lane reads from memory. -/
def ReqKind.reads : ReqKind → Bool
  | .load _ _ | .atomic _ _ _ => true
  | _ => false
/-- The access writes memory, or may. -/
def ReqKind.writes : ReqKind → Bool
  | .store _ | .atomic _ _ _ => true
  | _ => false
/-- What an acquire of a group's engine operation waits for, as its group stands (05 R98; 07 R147). -/
def State.acqWait (s : State) (gid : Nat) (g : Group) : AcqWait := ⟨s.laneReqs gid ReqKind.reads, g.readFrom⟩
/-- The acquire is met as far as its group's earlier loads go. -/
def State.acqMet (s : State) (a : AcqWait) : Bool :=
  (a.loads.all fun r => (s.reqs.find r).isNone) && a.src.all fun r => !s.isUnsettled r

/-! ### Release points (07 R143, R148, R150, R152; R274) -/

/-- A store or atomic of the group that is not acknowledged (07 R148). -/
def State.owesStores (s : State) (gid : Nat) : Bool :=
  !(s.laneReqs gid ReqKind.writes).isEmpty
/-- A load or atomic of the group whose value has not returned: an atomic reads as a load does (07 R147; log 43). -/
def State.owesLoads (s : State) (gid : Nat) : Bool :=
  !(s.laneReqs gid ReqKind.reads).isEmpty
/-- A transfer of the group to another package that its receiver has not acknowledged (07 R154). -/
def State.owesPuts (s : State) (gid : Nat) : Bool :=
  (s.core (coreOf gid)).copies.any fun e => e.2.kind != .copy && e.2.gid == gid &&
    e.2.dests.any fun d => 256 ≤ d.core && d.stage < 2
/-- The wait of a release point at a scope is met (07 R148, R152, R154). Held stores wait for no acknowledgement (R157). -/
def State.releaseReady (s : State) (gid : Nat) (g : Group) (sc : Scope) : Bool :=
  !s.owesStores gid && (match sc with
    | .team | .cluster => g.vc.le (s.applied (dieOf gid))
    | .device => true
    | .system => !s.owesPuts gid)
/-- A release point of a team's run is performed: the run's release number rises (R274). -/
def State.raiseRel (s : State) (tid : Nat) : State :=
  (s.runOf tid).foldl (fun s t => s.mapTeam t (fun t => { t with relNo := t.relNo + 1 }) id) s
/-- A release point of a group is performed: CC takes VC and the run's release number rises (07 R150, R274). `carry` is the scope of
a release fence. -/
def State.releasePoint (s : State) (gid : Nat) (carry : Option Scope) : State :=
  match s.grp gid with
  | none => s
  | some g => (s.updGrp gid fun g => { g with cc := g.vc, relCarry := carry }).raiseRel g.team
/-- An engine operation of a team performs its release: a checked run's number rises (07 R143; R274). -/
def State.engineRel (s : State) (tid : Nat) (ctrl : Bool) : State :=
  if ctrl && (s.team tid).any Team.holds then s.raiseRel tid else s
/-- The record that a release-carrying write of a group leaves (07 R151). Control cores have no team: each is one of its own, whose
number no team has (log 8). -/
def State.relRec (s : State) (g : Group) (sc : Scope) : RelRec :=
  match s.team g.team with
  | none => ⟨sc, g.team, 0, g.team⟩
  | some t => ⟨sc, g.team, t.grid, t.cluster⟩

end Sys2Proof.Machine
end

