-- ==== Sys2Proof/Machine/Access.lean ====
section
/-! DEFINITION. Loads, stores and atomics (06), `FENCE` (06 R139; 07 R143 to R153), `CWB`, `CINV` and `PREF` (06 R140), as
issues make them. What happens to an access after its issue is in Coherence.lean. -/

namespace Sys2Proof

/-- The order acquires. -/
def MOrder.acquires (o : MOrder) : Bool := o == .acq || o == .ar
/-- The order releases. -/
def MOrder.releases (o : MOrder) : Bool := o == .rel || o == .ar
/-- Scope is device or system. -/
def Scope.wide (sc : Scope) : Bool := sc == .device || sc == .system

end Sys2Proof

namespace Sys2Proof.Machine

/-! ### What a lane's address meets (R124 to R126) -/

/-- What one lane's access meets: a trap, an outstanding walk, a scratchpad byte, or memory under a key. -/
inductive Meet where
  | trap (c : TrapC)
  | walk
  | loc (a : Nat)
  | mem (pa key : Nat)
  deriving DecidableEq, Repr

/-- The checks of an access (R125, R126): its word, operands, size, alignment, what it needs of a leaf, its access code, and
whether it may be local and stores. -/
structure Chk where
  word : Word
  srcs : List Operand
  size : Nat
  align : Nat
  need : BitVec 4
  acc : Nat
  localOk : Bool
  store : Bool
  deriving DecidableEq, Repr

/-- Bounds, then barrier clobber, of scratchpad offset `off`; `shown` is what TADDR takes (03 R54; R126 steps 4 and 6). -/
def State.meetLoc (s : State) (x : Issue) (k : Chk) (off : Nat) (shown : Dword) : Meet :=
  let (blk, size, _) := s.locOf x.g
  if size < off + k.size then .trap { rank := 4, code := 0x0E, addr := BitVec.ofNat 64 off }
  else if k.store && (s.core (coreOf x.gid)).anyMarked (blk + off) k.size then
    .trap { rank := 6, code := 0x08, info := k.word, addr := shown }
  else .loc (blk + off)
/-- The conditions of R126 in their order, for a lane and its address. -/
def State.meet (s : State) (x : Issue) (n : Nat) (k : Chk) (l : LaneIx) (va : Dword) : Meet :=
  match x.g.operandTrap n k.srcs l with
  | some c => .trap c
  | none =>
    if va.toNat % k.align ≠ 0 then .trap { rank := 2, code := 0x03, info := k.word, addr := va }
    else match classify va with
      | .misuse => .trap { rank := 3, code := 0x13, info := k.word, addr := va }
      | .localAp off =>
        if k.localOk then s.meetLoc x k off va else .trap { rank := 3, code := 0x13, info := k.word, addr := va }
      | .global =>
        match s.look (coreOf x.gid) (s.partOf x.g) va k.need (x.g.failedWalk l va) with
        | .at pa key => .mem pa key
        | .walk => .walk
        | .absent lv => .trap { rank := 4, code := 0x04, info := BitVec.ofNat 32 (k.acc + 256 * lv), addr := va }
        | .protect r => .trap { rank := 5, code := 0x05, info := BitVec.ofNat 32 (k.acc + (if r then 4 else 0)), addr := va }
/-- The trap of a lane, if its access meets one. -/
def Meet.trap? : Meet → Option TrapC
  | .trap c => some c
  | _ => none

/-- The shape of an issue that reaches memory (R126, 03 R60): lanes whose walk is outstanding park and stay, the others
trap or complete. `wait` says whether the group parks before the issue, `eff` what the completing lanes do. -/
def State.reachOp (s : State) (x : Issue) (n : Nat) (k : Chk) (part : Mask) (va : LaneIx → Dword)
    (wait : (LaneIx → Meet) → Mask → Bool) (eff : (LaneIx → Meet) → Mask → State → State) : Out :=
  let m := fun l => s.meet x n k l (va l)
  let walks := maskOf fun l => Mask.has part l && m l == .walk
  let part' := part &&& ~~~walks
  let ok := maskOf fun l => Mask.has part' l && (m l).trap?.isNone
  if wait m ok then .next s
  else
    let wb := ((Mask.low x.act).map fun l => (x.g.lane l).wb).getD 0
    s.finishStay x part' (fun l => (m l).trap?)
      (fun done s =>
        let s := s.updGrp x.gid fun g =>
          { (g.scrub n wb part k.srcs) with walkFail := g.walkFail.filter fun f => !x.act.getLsbD f.1 }
        let p := ((s.partOf x.g)).getD 0
        eff m done ((Mask.lanes walks).foldl (fun s l => s.startWalk x.gid (coreOf x.gid) p l (va l)) s))
      (fun _ => walks) x.seq

/-! ### Requests (R118 to R127) -/

/-- An instruction of this chapter: its word, guard, whether it writes a register, its operands and its lanes' addresses. -/
structure Form where
  word : Word
  guard : Bool
  nw : Bool := false
  srcs : List Operand
  addr : Issue → Nat → LaneIx → Dword

/-- The place in the destination of a lane's asynchronous value (R127, R128): `s` only for the lowest lane. -/
def dstOf (g : Group) (n : Nat) (done : Mask) (nw : Bool) (dst : Operand) (l : LaneIx) : Dst :=
  if nw || dst.r = Reg.z then .none
  else if dst.r.toNat < 96 then .slots (dst.regs.map fun r => (g.lane l).slot n r)
  else if Mask.low done = some l then .sregs dst.regs else .none
/-- The value is folded in this lane (12 R271): not with nw, and for `s` only in the lowest lane. -/
def foldsIn (done : Mask) (nw : Bool) (dst : Operand) (l : LaneIx) : Bool :=
  !nw && (!(97 ≤ dst.r.toNat && dst.r.toNat ≤ 119) || Mask.low done == some l)
/-- Sets the pending bits of an asynchronous destination (R127): of the completing lanes, and of `s` when any completes. -/
def Group.setPend (g : Group) (n : Nat) (done : Mask) (nw : Bool) (dst : Operand) : Group :=
  if nw || dst.r = Reg.z || done = 0#32 then g
  else if dst.r.toNat < 96 then
    g.mapOn done fun _ v => { v with stack := dst.regs.foldl (fun t r =>
      t.setD {} (v.slot n r) { (t.getD {} (v.slot n r)) with pend := true }) v.stack }
  else { g with s := dst.regs.foldl (fun t r => t.setD {} r { (t.getD {} r) with pend := true }) g.s }
/-- Reserves the places of a lane's words in its register signature; answers the first (12 R271). -/
def State.reserve (s : State) (gid : Nat) (l : LaneIx) (words : Nat) : State × Nat :=
  let place := ((s.grp gid).map fun g => (g.lane l).nfold).getD 0
  (s.updGrp gid fun g => g.setLane l ((List.range words).foldl (fun v _ => v.reserve) (g.lane l)), place)
/-- A physical address no access has, for an access that reaches no memory. -/
def noPa : Nat := 2 ^ 41
/-- The path between the stations of two cores, or of a core and a home slice (04 R70, R80). -/
def coreRoute (a b : Nat) : List Leg := route (dieOfCore a) (stationOf a) (dieOfCore b) (stationOf b)
/-- The core whose L1 an access asks before its home: a load's fused member, else its own (R122). -/
def Req.via (r : Req) : Nat :=
  match r.kind with
  | .load _ _ | .prefetch => r.member
  | _ => r.core
/-- An access as it stands goes on its way: one to be performed at its home travels there from the issuing core, a load through the
member of a fused L1, and a member's L1 sends back what it held (R118, R119, R122, R123). -/
def State.travel (s : State) (rid : Nat) (r : Req) : State :=
  let s := { s with reqs := s.reqs.put rid r }
  let part := s.packetPart r.part r.pa
  match r.stage with
  | .sent => s.send part 1 (coreRoute r.core r.via ++ coreRoute r.via r.home) (.req rid)
  | .reply _ _ => if r.pa = noPa then s else s.send part 1 (coreRoute r.via r.core) (.reply rid)
  | _ => s
/-- Puts a new access in flight; answers its number. -/
def State.launch (s : State) (r : Req) : State × Nat :=
  let (rid, s) := s.fresh
  (s.travel rid r, rid)
/-- An access to n bytes from a core's station can be made at their home: its packets can travel between the core and the home, and the
home can serve it (04 R76; 11 R245; log 10). -/
def State.engineReady (s : State) (core part pa key n : Nat) : Bool :=
  s.homeReady part pa key n && s.pathOpen (s.packetPart part pa) (coreRoute core (s.home pa) ++ coreRoute (s.home pa) core)
/-- A lane's access as it is issued. -/
def State.reqOf (s : State) (x : Issue) (l : LaneIx) (word : Word) (kind : ReqKind) (va : Dword) (pa key : Nat) : Req :=
  let core := coreOf x.gid
  let g := ((s.grp x.gid)).getD x.g
  { maker := .lane x.gid l.val, tag := g.tag, core, team := g.team, grid := ((s.team g.team).map Team.grid).getD 0
    part := (s.partOf g).getD 31, pc := x.pc, word, kind, va,
    pa, key, home := s.home pa, member := s.memberOf core g.team (pa / 128), cc := g.cc }
/-- The words a load of s bytes writes (R130, R131). -/
def loadWords (size : Nat) (sext : Bool) (bs : List Byte) : List Word :=
  if 4 ≤ size then wordsOf bs
  else
    let n := natOfBytes (bs.take size)
    [if sext then (BitVec.ofNat (8 * size) n).signExtend 32 else BitVec.ofNat 32 n]
/-- Folds a run's global load (12 R270). -/
def State.foldLoad (s : State) (tid : Nat) (va : Dword) (bs : List Byte) : State :=
  s.updTeam tid fun t => if t.role = 0 then t else t.foldLoad va bs
/-- The L1 line that serves a load at issue: present under the access's key, and no version of the reading team hides the
line (R118; 03 R63; 12 R263). -/
def State.l1Hit (s : State) (member tid pa key : Nat) : Option L1Line :=
  match (s.core member).l1.find (pa / 128) with
  | some l => if l.key = key && (s.verOf tid (s.home pa) (pa / 256) key).isNone then some l else none
  | none => none
/-- The group that made an access still has the allocation it was made under (08 R171). -/
def State.isLive (s : State) (r : Req) : Bool :=
  match r.maker with
  | .lane gid _ => !r.dead && (s.grp gid).any fun g => g.tag == r.tag && g.team == r.team
  | _ => false
/-- A lane's load of memory is performed at its core: an L1 hit returns its bytes, a miss goes to the home (R118, R121, R127). -/
def State.beginLoad (s : State) (rid : Nat) (r : Req) : State :=
  match r.kind, s.l1Hit r.member r.team r.pa r.key with
  | .load size sext, some ln =>
    let bs := (List.range size).map fun i => Tab.getD ln.data 0 (r.pa % 128 + i)
    let ws := wordsAt r.pa size
    let s := if r.folded || !s.isLive r then s else s.foldLoad r.team r.va bs
    let s := { s.updCore r.member (fun k => { k with l1 := k.l1.put (r.pa / 128) { ln with lru := s.lruClock } }) with
      lruClock := s.lruClock + 1 }
    s.travel rid { r with
      stage := .reply (loadWords size sext bs) (ln.poison.getLsbD (r.pa / 64 % 2))
      wclk := ws.foldl (fun c w => c.join (ln.clk.getD {} w)) {}
      unsettled := (ln.unsettled.filter fun e => e.2.any ws.contains).map Prod.fst }
  | _, _ => s.travel rid { r with stage := .sent }
/-- A lane's load of memory as it is issued: at once, or behind the accesses `after` of its line (R120). -/
def State.issueLoad (s : State) (r : Req) (after : Option (List Nat)) : State :=
  let (rid, s) := s.fresh
  match after with
  | none => s.beginLoad rid r
  | some l => s.travel rid { r with stage := .queued l }
/-- What a load of a line issued now waits for, if anything (R120). -/
def State.loadAfter (s : State) (core ln7 : Nat) : Option (List Nat) :=
  if s.lineBusy core ln7 then some (s.lineReqs core ln7) else none
/-- Loads that waited for earlier accesses of their line are performed once those have completed (R120). -/
def State.releaseQueued (s : State) : State :=
  s.reqs.foldl (fun s e => match e.2.stage with
    | .queued after =>
      if (after.all fun k => (s.reqs.find k).isNone) && !s.lineStale e.2.core (e.2.pa / 128) then s.beginLoad e.1 e.2 else s
    | _ => s) s
/-- One lane's load as it is issued (R118, R120, R121, R127); `after` says what a load of a line waits for. -/
def State.loadLane (s : State) (x : Issue) (n : Nat) (f : Form) (dst : Operand) (size : Nat) (sext : Bool) (done : Mask)
    (after : Nat → Option (List Nat)) (m : Meet) (va : Dword) (l : LaneIx) : State :=
  let (s, fold) := if foldsIn done f.nw dst l then
      let (s, p) := s.reserve x.gid l dst.w
      (s, some p)
    else (s, none)
  let d := dstOf x.g n done f.nw dst l
  let kind := ReqKind.load size sext
  match m with
  | .loc a =>
    let bs := (s.core (coreOf x.gid)).scrRead (s.locOf x.g).2.2 a size
    let r := s.reqOf x l f.word kind va noPa 0
    (s.launch { r with dst := d, fold, stage := .reply (loadWords size sext bs) false }).1
  | .mem pa key => s.issueLoad { (s.reqOf x l f.word kind va pa key) with dst := d, fold } (after (pa / 128))
  | _ => s

/-- A load of any form (R118, R120, R126 to R132). -/
def State.loadOp (s : State) (f : Form) (t : Reg) (size : Nat) (sext : Bool) : Out :=
  s.withIssue fun x =>
    let n := s.stackOf x.g
    let dst : Operand := ⟨t, max 1 (size / 4)⟩
    if x.g.pending n x.act (f.srcs ++ if f.nw then [] else [dst]) then .next s
    else
      let core := coreOf x.gid
      s.reachOp x n ⟨f.word, f.srcs, size, size, needRead, 0, true, false⟩ (x.part f.guard) (f.addr x n)
        (fun m ok => (Mask.lanes ok).any fun l => match m l with
          | .loc a => (s.core core).anyAbsent a size
          | _ => false)
        (fun m done t => (Mask.lanes done).foldl
          (fun t l => t.loadLane x n f dst size sext done (s.loadAfter core) (m l) (f.addr x n l) l)
          (t.updGrp x.gid fun g => g.setPend n done f.nw dst))

/-- Writes a lane's bytes to its team's scratchpad (03 R66). -/
def State.scrStore (s : State) (x : Issue) (a : Nat) (bs : List Byte) : State :=
  s.updCore (coreOf x.gid) fun k => k.scrWrite (s.locOf x.g).2.2 a bs
/-- One lane's store as it is issued: a run's global stores are held and folded (R119; 12 R262, R269), and after a release
fence they carry its release (07 R143). -/
def State.storeLane (s : State) (x : Issue) (word : Word) (m : Meet) (va : Dword) (bs : List Byte) (l : LaneIx) : State :=
  match m with
  | .loc a => s.scrStore x a bs
  | .mem pa key =>
    let r := s.reqOf x l word (.store bs) va pa key
    let rel := x.g.relCarry.map fun sc => s.relRec x.g sc
    match s.team r.team with
    | some t =>
      if t.holds then
        ((s.updTeam r.team fun t => t.foldStore va bs).launch { r with rel, held := some t.relNo }).1
      else (s.launch { r with rel }).1
    | none => (s.launch { r with rel }).1
  | _ => s
/-- A store of any form (R119, R121, R126, R131, R132). -/
def State.storeOp (s : State) (f : Form) (t : Reg) (size : Nat) : Out :=
  s.withIssue fun x =>
    let n := s.stackOf x.g
    let data : Operand := ⟨t, max 1 (size / 4)⟩
    let srcs := f.srcs ++ [data]
    if x.g.pending n x.act srcs then .next s
    else
      s.reachOp x n ⟨f.word, srcs, size, size, needWrite, 1, true, true⟩ (x.part f.guard) (f.addr x n)
        (fun m ok => (Mask.lanes ok).any fun l => match m l with
          | .loc a => (s.core (coreOf x.gid)).anyAbsent a size
          | _ => false)
        (fun m done s => (Mask.lanes done).foldl (fun s l =>
          s.storeLane x f.word (m l) (f.addr x n l) (((x.g.srcs n l data).flatMap bytesOf).take size) l) s)

/-- Base pair and scaled offset (R131). -/
def formM (w : Word) (o : AM) (size : Nat) : Form :=
  { word := w, guard := o.g, srcs := [⟨o.a, 2⟩]
    addr := fun x n l => x.g.src2 n l o.a + o.off.signExtend 64 * BitVec.ofNat 64 size }
/-- LDW (R131). -/
def execLdw (o : AM) (s : State) : Out := s.loadOp (formM (encode (.ldw o)) o 4) o.t 4 false
/-- LDD (R131). -/
def execLdd (o : AM) (s : State) : Out := s.loadOp (formM (encode (.ldd o)) o 8) o.t 8 false
/-- LDQ (R131). -/
def execLdq (o : AM) (s : State) : Out := s.loadOp (formM (encode (.ldq o)) o 16) o.t 16 false
/-- LDHN (R131). -/
def execLdhn (o : AM) (s : State) : Out := s.loadOp (formM (encode (.ldhn o)) o 2) o.t 2 false
/-- LDHS (R131). -/
def execLdhs (o : AM) (s : State) : Out := s.loadOp (formM (encode (.ldhs o)) o 2) o.t 2 true
/-- LDBN (R131). -/
def execLdbn (o : AM) (s : State) : Out := s.loadOp (formM (encode (.ldbn o)) o 1) o.t 1 false
/-- LDBS (R131). -/
def execLdbs (o : AM) (s : State) : Out := s.loadOp (formM (encode (.ldbs o)) o 1) o.t 1 true
/-- STW (R131). -/
def execStw (o : AM) (s : State) : Out := s.storeOp (formM (encode (.stw o)) o 4) o.t 4
/-- STD (R131). -/
def execStd (o : AM) (s : State) : Out := s.storeOp (formM (encode (.std o)) o 8) o.t 8
/-- STQ (R131). -/
def execStq (o : AM) (s : State) : Out := s.storeOp (formM (encode (.stq o)) o 16) o.t 16
/-- STH (R131). -/
def execSth (o : AM) (s : State) : Out := s.storeOp (formM (encode (.sth o)) o 2) o.t 2
/-- STB (R131). -/
def execStb (o : AM) (s : State) : Out := s.storeOp (formM (encode (.stb o)) o 1) o.t 1

/-- Base pair and scaled index (R132). -/
def formX (w : Word) (g nw : Bool) (a b : Reg) (size : Nat) : Form :=
  { word := w, guard := g, nw, srcs := [⟨a, 2⟩, ⟨b, 1⟩]
    addr := fun x n l => x.g.src2 n l a + (x.g.src n l b).signExtend 64 * BitVec.ofNat 64 size }
/-- LDWX (R132). -/
def execLdwx (o : A3) (s : State) : Out := s.loadOp (formX (encode (.ldwx o)) o.g o.nw o.a o.b 4) o.d 4 false
/-- LDDX (R132). -/
def execLddx (o : A3) (s : State) : Out := s.loadOp (formX (encode (.lddx o)) o.g o.nw o.a o.b 8) o.d 8 false
/-- STWX (R132). -/
def execStwx (o : A3s) (s : State) : Out := s.storeOp (formX (encode (.stwx o)) o.g false o.a o.b 4) o.d 4
/-- STDX (R132). -/
def execStdx (o : A3s) (s : State) : Out := s.storeOp (formX (encode (.stdx o)) o.g false o.a o.b 8) o.d 8

/-! ### Local forms (R133, R134) -/

/-- What a local form's lane meets: operands, alignment, bounds, clobber (R134). -/
def State.meetForm (s : State) (x : Issue) (n : Nat) (k : Chk) (l : LaneIx) (off : Word) : Meet :=
  match x.g.operandTrap n k.srcs l with
  | some c => .trap c
  | none =>
    if off.toNat % k.align ≠ 0 then .trap { rank := 2, code := 0x03, info := k.word, addr := off.setWidth 64 }
    else s.meetLoc x k off.toNat (off.setWidth 64)
/-- The scratchpad byte of a lane that completes. -/
def Meet.place : Meet → Nat
  | .loc a => a
  | _ => 0
/-- A local form: it waits for absent lines, then loads or stores at issue (R121, R127, R130, R133, R134). -/
def State.localOp (s : State) (guard : Bool) (k : Chk) (off : Issue → Nat → LaneIx → Word) (nw : Bool) (dst : Option Operand)
    (data : Issue → Nat → LaneIx → List Byte) : Out :=
  s.withIssue fun x =>
    let n := s.stackOf x.g
    let part := x.part guard
    let m := fun l => s.meetForm x n k l (off x n l)
    let ok := (Mask.lanes part).filter fun l => (m l).trap?.isNone
    if x.g.pending n x.act (k.srcs ++ if nw then [] else dst.toList) then .next s
    else if ok.any fun l => (s.core (coreOf x.gid)).anyAbsent (m l).place k.size then .next s
    else
      let wb := ((Mask.low x.act).map fun l => (x.g.lane l).wb).getD 0
      let core := s.core (coreOf x.gid)
      let owner := (s.locOf x.g).2.2
      s.finish x part (fun l => (m l).trap?)
        (fun done s =>
          let s := s.updGrp x.gid fun g => g.scrub n wb part k.srcs
          match dst with
          | some d => s.updGrp x.gid fun g => g.writeSync n done nw d fun l => wordsOf (core.scrRead owner (m l).place k.size)
          | none => (Mask.lanes done).foldl (fun s l => s.scrStore x (m l).place (data x n l)) s)
        x.seq
/-- LLW (R133). -/
def execLlw (o : AI) (s : State) : Out :=
  s.localOp false ⟨encode (.llw o), [⟨o.a, 1⟩], 4, 4, 0, 0, true, false⟩
    (fun x n l => x.g.src n l o.a + o.imm.signExtend 32 * 4#32) o.nw (some ⟨o.d, 1⟩) fun _ _ _ => []
/-- LSW (R133). -/
def execLsw (o : AIst) (s : State) : Out :=
  s.localOp false ⟨encode (.lsw o), [⟨o.a, 1⟩, ⟨o.d, 1⟩], 4, 4, 0, 1, true, true⟩
    (fun x n l => x.g.src n l o.a + o.imm.signExtend 32 * 4#32) true none fun x n l => bytesOf (x.g.src n l o.d)
/-- The offset of `LLD` to `LSQ` (R134). -/
def offAB (a b : Reg) : Issue → Nat → LaneIx → Word := fun x n l => x.g.src n l a + x.g.src n l b
/-- LLD (R134). -/
def execLld (o : A3) (s : State) : Out :=
  s.localOp o.g ⟨encode (.lld o), [⟨o.a, 1⟩, ⟨o.b, 1⟩], 8, 8, 0, 0, true, false⟩ (offAB o.a o.b) o.nw (some ⟨o.d, 2⟩)
    fun _ _ _ => []
/-- LSD (R134). -/
def execLsd (o : A3s) (s : State) : Out :=
  s.localOp o.g ⟨encode (.lsd o), [⟨o.a, 1⟩, ⟨o.b, 1⟩, ⟨o.d, 2⟩], 8, 8, 0, 1, true, true⟩ (offAB o.a o.b) true none
    fun x n l => (x.g.srcs n l ⟨o.d, 2⟩).flatMap bytesOf
/-- LLQ (R134). -/
def execLlq (o : A3) (s : State) : Out :=
  s.localOp o.g ⟨encode (.llq o), [⟨o.a, 1⟩, ⟨o.b, 1⟩], 16, 16, 0, 0, true, false⟩ (offAB o.a o.b) o.nw (some ⟨o.d, 4⟩)
    fun _ _ _ => []
/-- LSQ (R134). -/
def execLsq (o : A3s) (s : State) : Out :=
  s.localOp o.g ⟨encode (.lsq o), [⟨o.a, 1⟩, ⟨o.b, 1⟩, ⟨o.d, 4⟩], 16, 16, 0, 1, true, true⟩ (offAB o.a o.b) true none
    fun x n l => (x.g.srcs n l ⟨o.d, 4⟩).flatMap bytesOf

/-! ### Logged operations (12 R265 to R268) -/

/-- How an issue whose lanes make log entries goes on: as an ordinary one, as a primary's with room in the log, as a
replaying run's with its lanes' logged values, or not now with the state that this leaves. -/
inductive Logged where
  | plain
  | log (s : State)
  | replay (values : List (LaneIx × List Word))
  | stop (s : State)
  deriving DecidableEq, Repr

/-- What a lane is about to log: kind, operand, address, and how many entries it makes. -/
structure LogKey where
  kind : Nat
  operand : Word
  addr : Word
  count : Nat := 1
  deriving DecidableEq, Repr

/-- Takes the next entries of a replaying group's log for the lanes in order; none at the first disagreement (R268). -/
def takeEntries (log : List LogE) (key : LaneIx → LogKey) : List LaneIx → Nat → Option (List (LaneIx × List Word))
  | [], _ => some []
  | l :: t, i =>
    let k := key l
    let es := (log.drop i).take k.count
    if es.length = k.count && es.all fun e => e.agrees k.kind l.val k.operand k.addr then
      (takeEntries log key t (i + k.count)).map ((l, es.map LogE.value) :: ·)
    else none
/-- Decides how lanes that make log entries go on (R265, R267, R268). -/
def State.logged (s : State) (x : Issue) (lanes : List LaneIx) (key : LaneIx → LogKey) : Logged :=
  match s.team x.g.team with
  | none => .plain
  | some t =>
    if t.logs then
      let n := t.check.getD 0
      match s.logRoom n t.rank ((lanes.map fun l => (key l).count).sum) with
      | .room s => .log (s.updGrp x.gid fun g => { g with stalled := false })
      | .wait => .stop (s.updGrp x.gid fun g => { g with stalled := true })
      | .overflow =>
        .stop (if s.releasable n then (s.releaseUnchecked n).updGrp x.gid fun g => g.setStatus 2#32 else s)
    else if t.replays then
      match takeEntries (s.logOf x.g) key lanes x.g.replayed with
      | some vs => .replay vs
      | none => .stop (s.diverge x.g.team)
    else .plain
/-- A lane's logged values. -/
def Logged.values (k : Logged) (l : LaneIx) : Option (List Word) :=
  match k with
  | .replay vs => (vs.find? fun e => e.1 == l).map Prod.snd
  | _ => none
/-- The state in which the issue goes on, or the one that a stop leaves. -/
def Logged.onState (k : Logged) (s : State) : State :=
  match k with
  | .log s => s
  | .stop s => s
  | _ => s
/-- The group consumed entries of its primary's log. -/
def State.consumed (s : State) (gid : Nat) (n : Nat) : State :=
  s.updGrp gid fun g => { g with replayed := g.replayed + n }

/-! ### Atomics (R123, R135 to R138) -/

/-- One lane's atomic as it is issued: it drops its line from the L1 that holds it and goes to its home; a logged one keeps
its place in the log, a replayed one returns the logged value (R123; 12 R265, R268). -/
def State.atomicLane (s : State) (x : Issue) (n : Nat) (word : Word) (op : AtomOp) (order : MOrder) (scope : Scope)
    (dst : Operand) (b b1 : Word) (done : Mask) (lg : Logged) (key : LogKey) (m : Meet) (va : Dword) (l : LaneIx) : State :=
  match m with
  | .mem pa k =>
    let (s, fold) := if foldsIn done false dst l then
        let (s, p) := s.reserve x.gid l 1
        (s, some p)
      else (s, none)
    let r := s.reqOf x l word (.atomic op b b1) va pa k
    let r := { r with dst := dstOf x.g n done false dst l, fold, order, scope }
    match lg.values l with
    | some vs => ((s.consumed x.gid 1).launch { r with pa := noPa, stage := .reply vs false }).1
    | none =>
      let s := s.l1Evict r.member (pa / 128)
      let rel := if order.releases then some (s.relRec x.g scope) else x.g.relCarry.map fun sc => s.relRec x.g sc
      let (s, logIx) := match lg with
        | .log _ =>
          let (s, ix) := s.logAppend x.gid
            { kind := key.kind, lane := l.val, grpix := 0, value := 0, operand := key.operand, addr := key.addr, filled := false }
          (s, some ix)
        | _ => (s, none)
      ((s.updTeam r.team fun t => if t.logs then { t with acted := true } else t).launch { r with rel, logIx }).1
  | _ => s
/-- Every atomic (R135, R137): a releasing one waits as its release point does and then performs it (07 R148, R152). -/
def State.atomicOp (s : State) (word : Word) (op : AtomOp) (order : MOrder) (scope : Scope) (d a : Reg) (b : Option Operand) :
    Out :=
  s.withIssue fun x =>
    let n := s.stackOf x.g
    let srcs := (⟨a, 2⟩ : Operand) :: b.toList
    let dst : Operand := ⟨d, 1⟩
    let va := fun l => x.g.src2 n l a
    let bw := fun l i => match b with
      | some o => x.g.opWord n l o i
      | none => 0#32
    let key := fun l =>
      let acq := order.acquires && scope != .team
      { kind := if acq then 2 else 1, operand := if op = .cas then bw l 1 else bw l 0, addr := foldVa (va l) : LogKey }
    if x.g.pending n x.act (srcs ++ [dst]) || (order.releases && !s.releaseReady x.gid x.g scope) then .next s
    else
      let k : Chk := ⟨word, srcs, 4, 4, needAtomic, 2, false, false⟩
      let ok := (Mask.lanes x.act).filter fun l => match s.meet x n k l (va l) with
        | .mem _ _ => true
        | _ => false
      match s.logged x ok key with
      | .stop s => .next s
      | lg =>
        (lg.onState s).reachOp x n k x.act va (fun _ _ => false) fun m done s =>
          let s := s.updGrp x.gid fun g => g.setPend n done false dst
          let s := if order.releases && done != 0#32 then s.releasePoint x.gid none else s
          (Mask.lanes done).foldl (fun s l =>
            s.atomicLane x n word op order scope dst (bw l 0) (bw l 1) done lg (key l) (m l) (va l) l) s

/-- An atomic with one operand word. -/
def State.atomicX (s : State) (word : Word) (op : AtomOp) (o : AX) : Out :=
  s.atomicOp word op o.order o.scope o.d o.a (some ⟨o.b, 1⟩)
/-- AADD (R135). -/
def execAadd (o : AX) (s : State) : Out := s.atomicX (encode (.aadd o)) .add o
/-- AAND (R135). -/
def execAand (o : AX) (s : State) : Out := s.atomicX (encode (.aand o)) .and o
/-- AOR (R135). -/
def execAor (o : AX) (s : State) : Out := s.atomicX (encode (.aor o)) .or o
/-- AXOR (R135). -/
def execAxor (o : AX) (s : State) : Out := s.atomicX (encode (.axor o)) .xor o
/-- AMINS (R135). -/
def execAmins (o : AX) (s : State) : Out := s.atomicX (encode (.amins o)) .mins o
/-- AMINN (R135). -/
def execAminn (o : AX) (s : State) : Out := s.atomicX (encode (.aminn o)) .minn o
/-- AMAXS (R135). -/
def execAmaxs (o : AX) (s : State) : Out := s.atomicX (encode (.amaxs o)) .maxs o
/-- AMAXN (R135). -/
def execAmaxn (o : AX) (s : State) : Out := s.atomicX (encode (.amaxn o)) .maxn o
/-- ASWAP (R135). -/
def execAswap (o : AX) (s : State) : Out := s.atomicX (encode (.aswap o)) .swap o
/-- ACAS: b is a pair, expected then replacement (R135). -/
def execAcas (o : AX) (s : State) : Out :=
  s.atomicOp (encode (.acas o)) .cas o.order o.scope o.d o.a (some ⟨o.b, 2⟩)
/-- AFADD (R136). -/
def execAfadd (o : AX) (s : State) : Out := s.atomicX (encode (.afadd o)) .fadd o
/-- ALD (R135). -/
def execAld (o : AXld) (s : State) : Out :=
  s.atomicOp (encode (.ald o)) .ld (if o.acq then .acq else .rlx) o.scope o.d o.a none
/-- AST (R135). -/
def execAst (o : AXst) (s : State) : Out :=
  s.atomicOp (encode (.ast o)) .st (if o.rel then .rel else .rlx) o.scope Reg.z o.a (some ⟨o.b, 1⟩)

/-! ### FENCE (R139; 07 R147 to R154) -/

/-- Every word that the group's loads returned is settled and no load is outstanding (07 R147). -/
def State.settledFor (s : State) (gid : Nat) (g : Group) : Bool :=
  !s.owesLoads gid && g.readFrom.all fun r => !s.isUnsettled r
/-- An acquire fence's effect on the clocks (07 R150). -/
def Group.acquireFence (g : Group) (vec : Clk) : Group :=
  { g with vc := (g.vc.join g.obs).join vec, readFrom := [] }
/-- The fence completes: the acquire side joins its clocks, the release side is a release point whose following writes
carry it. -/
def State.fenceDone (s : State) (x : Issue) (acq rel : Bool) (scope : Scope) (vec : Clk) : Out :=
  s.finish x x.act (fun _ => none) (fun _ s =>
    let s := if acq then s.updGrp x.gid fun g => g.acquireFence vec else s
    if rel then s.releasePoint x.gid (some scope) else s) x.seq
/-- FENCE (R139): acquire, release, both; a sequentially consistent one at device or system scope is served by the
sequencer (07 R153), at narrower scopes it acts as an acquire-release fence. -/
def execFence (order : MOrder) (scope : Scope) (s : State) : Out :=
  s.withIssue fun x =>
    let acqReady := fun (vec : Clk) => s.settledFor x.gid x.g &&
      (!scope.wide || ((x.g.vc.join x.g.obs).join vec).le (s.applied (dieOf x.gid)))
    let relReady := s.releaseReady x.gid x.g scope
    if order = .rlx && scope.wide then
      match x.g.wait with
      | .sequencer none => .next s
      | .sequencer (some vec) => if acqReady vec then s.fenceDone x true true scope vec else .next s
      | _ =>
        if relReady then
          .next ({ s with scq := s.scq ++ [(⟨x.gid⟩ : SeqReq)] }.updGrp x.gid fun g =>
            { g with pin := some ⟨x.act, encode (.fence order scope)⟩, wait := .sequencer none })
        else .next s
    else
      let acq := order != .rel
      let rel := order != .acq
      if (!acq || acqReady {}) && (!rel || relReady) then s.fenceDone x acq rel scope {} else .next s

/-! ### CWB, CINV, PREF (R140) -/

/-- A store or atomic of a lane to a 256 B line that is not acknowledged. -/
def State.laneOwes (s : State) (gid : Nat) (l : LaneIx) (ln : Nat) : Bool :=
  s.reqs.any fun e => e.2.maker == .lane gid l.val && e.2.pa / 256 == ln && (match e.2.kind with
    | .store _ | .atomic _ _ _ => true
    | _ => false)
/-- The lines that lanes name and the L2 holds, as L2 keys. -/
def State.heldLines (s : State) (m : LaneIx → Meet) (lanes : Mask) : List Nat :=
  ((Mask.lanes lanes).filterMap fun l => match m l with
    | .mem pa _ =>
      let k := l2Key (s.home pa) (pa / 256)
      if (s.l2.find k).isSome then some k else none
    | _ => none).dedup
/-- The checks of `CWB` and `CINV`: as a load's, with no alignment and no local addresses (03 R53; R125, R140). -/
def lineChk (word : Word) (a : Reg) : Chk := ⟨word, [⟨a, 2⟩], 1, 1, needRead, 0, false, false⟩
/-- CWB (R140): the group parks inside it until the controllers have accepted its lines. -/
def execCwb (o : A1a) (s : State) : Out :=
  s.withIssue fun x =>
    let n := s.stackOf x.g
    let k := lineChk (encode (.cwb o)) o.a
    let va := fun l => x.g.src2 n l o.a
    let part := x.part o.g
    let m := fun l => s.meet x n k l (va l)
    let ok := maskOf fun l => Mask.has part l && (match m l with
      | .mem _ _ => true
      | _ => false)
    let walks := maskOf fun l => Mask.has part l && m l == .walk
    let owes := (Mask.lanes ok).any fun l => match m l with
      | .mem pa _ => s.laneOwes x.gid l (pa / 256)
      | _ => false
    let finish := s.reachOp x n k part va (fun _ _ => false) fun _ _ s => s
    if x.g.pending n x.act k.srcs then .next s
    else match x.g.wait with
      | .writeBack [] => finish
      | .writeBack _ => .next s
      | _ =>
        if owes then .next s
        else if (s.heldLines m ok).isEmpty then finish
        else
          let p := ((s.partOf x.g)).getD 0
          let s := (Mask.lanes walks).foldl (fun s l => s.startWalk x.gid (coreOf x.gid) p l (va l)) s
          .next (s.updGrp x.gid fun g =>
            { g with pin := some ⟨x.act &&& ~~~walks, k.word⟩, wait := .writeBack (s.heldLines m ok) })
/-- CONTROLLER_ACCEPTS_WRITE: the write-backs of a parked `CWB` have reached their controllers and are accepted (R140; 04
R76). -/
def execControllerAcceptsWrite (gid : Nat) (s : State) : Out :=
  match (s.grp gid).map Group.wait with
  | some (.writeBack ls) =>
    if ls.all s.backOpen then
      .next ((ls.foldl (fun s k => s.writeBack k) s).updGrp gid fun g => { g with wait := .writeBack [] })
    else .next s
  | _ => .next s
/-- CINV (R140). -/
def execCinv (o : A1a) (s : State) : Out :=
  s.withIssue fun x =>
    let n := s.stackOf x.g
    let k := lineChk (encode (.cinv o)) o.a
    if x.g.pending n x.act k.srcs then .next s
    else s.reachOp x n k (x.part o.g) (fun l => x.g.src2 n l o.a) (fun _ _ => false) fun m done s =>
      (Mask.lanes done).foldl (fun s l => match m l with
        | .mem pa _ => s.l1Evict (s.memberOf (coreOf x.gid) x.g.team (pa / 128)) (pa / 128)
        | _ => s) s

/-- The home records a core as a sharer (R118). -/
def State.addSharer (s : State) (pa c : Nat) : State :=
  let k := l2Key (s.home pa) (pa / 256)
  match s.l2.find k with
  | none => s
  | some l => if l.sharers.contains c then s else { s with l2 := s.l2.put k { l with sharers := c :: l.sharers } }
/-- A home records a core as a sharer and sends it a line as it stands, on the path that later updates take, unless it has a
version of the reading team or the core is a control core, which has no L1 (R118; 07 R147; 12 R263; log 8). Only L1s on the home's die mark words unsettled. Answers whether it
sends. -/
def State.sendFill (s : State) (rid c tid part pa key : Nat) : State × Bool :=
  if 256 ≤ c || (s.verOf tid (s.home pa) (pa / 256) key).isSome then (s, false)
  else
    let a := pa / 128 * 128
    let home := s.home pa
    let (s, bs, _) := s.readHome a key 128
    let p := ((s.l2.find (l2Key home (a / 256))).map L2Line.poison).getD 0
    let un := if home / 64 = c / 64 then
        (s.unsettledAt a 128).map fun r => (r, (s.reqs.find r).elim [] fun q => wordsAt q.pa (match q.kind with
          | .store b => b.length
          | _ => 4))
      else []
    let clk := (wordsAt a 128).foldl (fun (t : Tab Clk) w => t.setD {} w (s.wclk.getD {} w)) []
    ((s.addSharer pa c).sendUpd (s.packetPart part pa) 128
      { store := rid, core := c, src := Fin.ofNat 4 (home / 64), epoch := 0, cc := {}, line := pa / 128, cells := [], home
        isFill := true
        fill := some { key, data := putBytes [] 0 bs, poison := p.extractLsb' (2 * (pa / 128 % 2)) 2, unsettled := un, clk } },
      true)
/-- One lane's prefetch: a line that the L1 lacks is asked for as a load asks (R140). -/
def State.prefetchLane (s : State) (x : Issue) (l : LaneIx) (word : Word) (va : Dword) (pa key : Nat) : State :=
  let r := s.reqOf x l word .prefetch va pa key
  if s.l1Keyed r.member (pa / 128) key then s else (s.launch r).1
/-- PREF: fills the line as a load would, drops a failed translation, and never parks (R140). -/
def execPref (o : A1a) (s : State) : Out :=
  let srcs : List Operand := [⟨o.a, 2⟩]
  s.withIssue fun x =>
    let n := s.stackOf x.g
    let part := x.part o.g
    let va := fun l => x.g.src2 n l o.a
    let trap := fun l => (x.g.operandTrap n srcs l).or (match classify (va l) with
      | .global => none
      | _ => some { rank := 3, code := 0x13, info := encode (.pref o), addr := va l })
    if x.g.pending n x.act srcs then .next s
    else
      let wb := ((Mask.low x.act).map fun l => (x.g.lane l).wb).getD 0
      s.finish x part trap (fun done s =>
        (Mask.lanes done).foldl (fun s l =>
          let (s, lk) := match s.partOf x.g with
            | some p => s.lookNow (coreOf x.gid) p (va l) needRead
            | none => (s, s.lookCtrl (va l))
          match lk with
          | .at pa key => s.prefetchLane x l (encode (.pref o)) (va l) pa key
          | _ => s) (s.updGrp x.gid fun g => g.scrub n wb part srcs)) x.seq

end Sys2Proof.Machine
end

