-- ==== Sys2Proof/Machine/Flags.lean ====
section
/-! DEFINITION. The guard predicate `gp`, compare outcomes (10 R219, R224) and the FP event counters (09 R200, R201): the
part keeps no other flags (10 R211). With them the shape shared by every instruction that computes a synchronous value in
each lane. -/

namespace Sys2Proof.Machine

/-- Sets the `gp` bits of the lanes of a mask. -/
def setGp (gp m : Mask) (b : LaneIx → Bool) : Mask :=
  (gp &&& ~~~m) ||| maskOf fun l => Mask.has m l && b l

/-- The group with the `gp` bits of the lanes of a mask set. -/
def Group.putGp (g : Group) (m : Mask) (b : LaneIx → Bool) : Group := { g with gp := setGp g.gp m b }

/-- A truth value as a word (10 R219). -/
def ofBool (b : Bool) : Word := if b then 1#32 else 0#32

/-- Adds to an FP event counter of a grid, saturating (09 R201). -/
def bumpFp (t : Tab Nat) (i : Nat) : Tab Nat := t.setD 0 i (min (t.getD 0 i + 1) 0xFFFFFFFF)

/-- Counts FP events of a group: only unchecked teams and primary runs count (09 R201). -/
def State.countFp (s : State) (g : Group) (evs : List Nat) : State :=
  match s.team g.team with
  | none => s
  | some t => if t.role ≤ 1 then s.updGrid t.grid fun n => { n with fp := evs.foldl bumpFp n.fp } else s

/-- What a completing lane produces: the words of its result, its new `gp` bit if the instruction sets it, and the FP
events it meets, each at most once (09 R200). -/
structure LaneRes where
  words : List Word
  gp : Option Bool := none
  ev : List Nat := []
  deriving DecidableEq, Repr

/-- The FP events of a list of results, each counted at most once (09 R200). -/
def onceEach (evs : List Nat) : List Nat := evs.eraseDups

/-- Every instruction that computes a synchronous value in each participating lane (10 R208 to R211): it waits for its
operands (a d that nw leaves unwritten is none of them: log 46), takes the poisoned-operand and uncorrectable traps and then its
own (`trap`), and writes, pushes and folds its result. `wide` are sources awaited in every lane of the group (10 R229); `f` gets the
participating lanes. -/
def State.valueOp (s : State) (guard nw : Bool) (srcs wide : List Operand) (dst : Option Operand)
    (trap : Issue → Nat → Mask → LaneIx → Option TrapC) (f : Issue → Nat → Mask → LaneIx → LaneRes) : Out :=
  s.withIssue fun x =>
    let n := s.stackOf x.g
    let part := x.part guard
    let waits := srcs ++ (if nw then [] else dst.toList)
    if x.g.pending n x.act waits || x.g.pending n 0xFFFFFFFF#32 wide then .next s
    else
      let wb := ((Mask.low x.act).map fun l => (x.g.lane l).wb).getD 0
      let eff := fun (done : Mask) (s : State) =>
        let s := s.updGrp x.gid fun g =>
          let g := g.scrub n wb part (srcs ++ wide)
          let g := match dst with
            | none => g
            | some d => g.writeSync n done nw d fun l => (f x n part l).words
          let m := maskOf fun l => Mask.has done l && (f x n part l).gp.isSome
          g.putGp m fun l => ((f x n part l).gp).getD false
        s.countFp x.g ((Mask.lanes done).flatMap fun l => onceEach (f x n part l).ev)
      s.finish x part (trap x n part) eff x.seq

/-- The traps of an instruction whose only traps are poisoned operand and register uncorrectable (10 R211). -/
def plainTrap (srcs : List Operand) : Issue → Nat → Mask → LaneIx → Option TrapC :=
  fun x n _ l => x.g.operandTrap n srcs l

/-- A lane-wise instruction of one result: word sources `srcs`, result `f` of the lane's source words (10 R211). -/
def State.laneOp (s : State) (guard nw : Bool) (srcs : List Operand) (dst : Operand)
    (f : List Word → List Word) : Out :=
  s.valueOp guard nw srcs [] (some dst) (plainTrap srcs) fun x n _ l =>
    { words := f (srcs.flatMap (x.g.srcs n l)) }

/-- A compare: 1 or 0 to d and to the lane's `gp` bit (10 R219). -/
def State.cmpOp (s : State) (guard nw : Bool) (srcs : List Operand) (dst : Operand) (f : List Word → Bool) : Out :=
  s.valueOp guard nw srcs [] (some dst) (plainTrap srcs) fun x n _ l =>
    let t := f (srcs.flatMap (x.g.srcs n l))
    { words := [ofBool t], gp := some t }

end Sys2Proof.Machine
end

