-- ==== Sys2Proof/Machine/Alu.lean ====
section
/-! DEFINITION. The integer, constant, compare and select instructions (10 R212 to R220). -/

namespace Sys2Proof.Machine

/-- The shift amount n = b[7:0] (10 R213, R216). -/
def shAmt (b : Word) : Nat := (b.extractLsb' 0 8).toNat
/-- a ≪ n, 0 from 32 on. -/
def shl32 (a : Word) (n : Nat) : Word := if n < 32 then a <<< n else 0#32
/-- a ≫ n, 0 from 32 on. -/
def shr32 (a : Word) (n : Nat) : Word := if n < 32 then a >>> n else 0#32
/-- a shifted right n with copies of a[31]; 32 copies of it from 32 on. -/
def sra32 (a : Word) (n : Nat) : Word := a.sshiftRight (min n 31)
/-- The number of leading zero bits (10 R214). -/
def clz32 (a : Word) : Word :=
  BitVec.ofNat 32 (((List.range 32).find? fun i => a.getLsbD (31 - i)).getD 32)
/-- The number of set bits (10 R214). -/
def popc32 (a : Word) : Word := BitVec.ofNat 32 ((List.range 32).countP fun i => a.getLsbD i)
/-- Byte i moved to byte 3 − i (10 R214). -/
def bswap32 (a : Word) : Word :=
  a.extractLsb' 0 8 ++ a.extractLsb' 8 8 ++ a.extractLsb' 16 8 ++ a.extractLsb' 24 8
/-- The mask of a field of width min(b[13:8], 32) (10 R215). -/
def fieldMask (b : Word) : Word :=
  let wid := min (b.extractLsb' 8 6).toNat 32
  if wid = 32 then 0xFFFFFFFF#32 else (1#32 <<< wid) - 1#32
/-- The extracted field (10 R215). -/
def bfx (a b : Word) : Word := (a >>> (b.extractLsb' 0 5).toNat) &&& fieldMask b
/-- d with a in the field (10 R215). -/
def bfi (a b d : Word) : Word :=
  let pos := (b.extractLsb' 0 5).toNat
  let m := fieldMask b <<< pos
  (d &&& ~~~m) ||| ((a <<< pos) &&& m)

/-- A function of two words. -/
def fn2 (f : Word → Word → Word) : List Word → List Word
  | [a, b] => [f a b]
  | _ => [0#32]
/-- A function of three words, the third being d (10 R211). -/
def fn3 (f : Word → Word → Word → Word) : List Word → List Word
  | [a, b, d] => [f a b d]
  | _ => [0#32]
/-- A function of one word. -/
def fn1 (f : Word → Word) : List Word → List Word
  | [a] => [f a]
  | _ => [0#32]
/-- A predicate of two words. -/
def pr2 (f : Word → Word → Bool) : List Word → Bool
  | [a, b] => f a b
  | _ => false
/-- A predicate of one word. -/
def pr1 (f : Word → Bool) : List Word → Bool
  | [a] => f a
  | _ => false
/-- A pair result, low word first. -/
def two (d : Dword) : List Word := [d.lo, d.hi]
/-- A pair function of two pairs. -/
def fn22 (f : Dword → Dword → Dword) : List Word → List Word
  | [a0, a1, b0, b1] => two (f (Word.pair a1 a0) (Word.pair b1 b0))
  | _ => [0#32, 0#32]
/-- A pair function of two words. -/
def fn11 (f : Word → Word → Dword) : List Word → List Word
  | [a, b] => two (f a b)
  | _ => [0#32, 0#32]
/-- A pair function of a pair and a word. -/
def fn21 (f : Dword → Word → Dword) : List Word → List Word
  | [a0, a1, b] => two (f (Word.pair a1 a0) b)
  | _ => [0#32, 0#32]

/-- ADD (10 R212). -/
def execAdd (o : A3) (s : State) : Out :=
  s.laneOp o.g o.nw [⟨o.a, 1⟩, ⟨o.b, 1⟩] ⟨o.d, 1⟩ (fn2 fun a b => a + b)
/-- SUB (10 R212). -/
def execSub (o : A3) (s : State) : Out :=
  s.laneOp o.g o.nw [⟨o.a, 1⟩, ⟨o.b, 1⟩] ⟨o.d, 1⟩ (fn2 fun a b => a - b)
/-- MULLO (10 R212). -/
def execMullo (o : A3) (s : State) : Out :=
  s.laneOp o.g o.nw [⟨o.a, 1⟩, ⟨o.b, 1⟩] ⟨o.d, 1⟩ (fn2 fun a b => a * b)
/-- MULHS (10 R212). -/
def execMulhs (o : A3) (s : State) : Out :=
  s.laneOp o.g o.nw [⟨o.a, 1⟩, ⟨o.b, 1⟩] ⟨o.d, 1⟩ (fn2 fun a b => ((a.signExtend 64) * (b.signExtend 64)).extractLsb' 32 32)
/-- MULHN (10 R212). -/
def execMulhn (o : A3) (s : State) : Out :=
  s.laneOp o.g o.nw [⟨o.a, 1⟩, ⟨o.b, 1⟩] ⟨o.d, 1⟩ (fn2 fun a b => ((a.setWidth 64) * (b.setWidth 64)).extractLsb' 32 32)
/-- MINS (10 R212). -/
def execMins (o : A3) (s : State) : Out :=
  s.laneOp o.g o.nw [⟨o.a, 1⟩, ⟨o.b, 1⟩] ⟨o.d, 1⟩ (fn2 fun a b => if b.slt a then b else a)
/-- MINN (10 R212). -/
def execMinn (o : A3) (s : State) : Out :=
  s.laneOp o.g o.nw [⟨o.a, 1⟩, ⟨o.b, 1⟩] ⟨o.d, 1⟩ (fn2 fun a b => if b.ult a then b else a)
/-- MAXS (10 R212). -/
def execMaxs (o : A3) (s : State) : Out :=
  s.laneOp o.g o.nw [⟨o.a, 1⟩, ⟨o.b, 1⟩] ⟨o.d, 1⟩ (fn2 fun a b => if a.slt b then b else a)
/-- MAXN (10 R212). -/
def execMaxn (o : A3) (s : State) : Out :=
  s.laneOp o.g o.nw [⟨o.a, 1⟩, ⟨o.b, 1⟩] ⟨o.d, 1⟩ (fn2 fun a b => if a.ult b then b else a)
/-- AND (10 R212). -/
def execAnd (o : A3) (s : State) : Out :=
  s.laneOp o.g o.nw [⟨o.a, 1⟩, ⟨o.b, 1⟩] ⟨o.d, 1⟩ (fn2 fun a b => a &&& b)
/-- OR (10 R212). -/
def execOr (o : A3) (s : State) : Out :=
  s.laneOp o.g o.nw [⟨o.a, 1⟩, ⟨o.b, 1⟩] ⟨o.d, 1⟩ (fn2 fun a b => a ||| b)
/-- XOR (10 R212). -/
def execXor (o : A3) (s : State) : Out :=
  s.laneOp o.g o.nw [⟨o.a, 1⟩, ⟨o.b, 1⟩] ⟨o.d, 1⟩ (fn2 fun a b => a ^^^ b)
/-- ANDN (10 R212). -/
def execAndn (o : A3) (s : State) : Out :=
  s.laneOp o.g o.nw [⟨o.a, 1⟩, ⟨o.b, 1⟩] ⟨o.d, 1⟩ (fn2 fun a b => a &&& ~~~b)
/-- SHL (10 R213). -/
def execShl (o : A3) (s : State) : Out :=
  s.laneOp o.g o.nw [⟨o.a, 1⟩, ⟨o.b, 1⟩] ⟨o.d, 1⟩ (fn2 fun a b => shl32 a (shAmt b))
/-- SHR (10 R213). -/
def execShr (o : A3) (s : State) : Out :=
  s.laneOp o.g o.nw [⟨o.a, 1⟩, ⟨o.b, 1⟩] ⟨o.d, 1⟩ (fn2 fun a b => shr32 a (shAmt b))
/-- SRA (10 R213). -/
def execSra (o : A3) (s : State) : Out :=
  s.laneOp o.g o.nw [⟨o.a, 1⟩, ⟨o.b, 1⟩] ⟨o.d, 1⟩ (fn2 fun a b => sra32 a (shAmt b))
/-- ROTL (10 R213). -/
def execRotl (o : A3) (s : State) : Out :=
  s.laneOp o.g o.nw [⟨o.a, 1⟩, ⟨o.b, 1⟩] ⟨o.d, 1⟩ (fn2 fun a b => a.rotateLeft (shAmt b % 32))
/-- BFX (10 R215). -/
def execBfx (o : A3) (s : State) : Out :=
  s.laneOp o.g o.nw [⟨o.a, 1⟩, ⟨o.b, 1⟩] ⟨o.d, 1⟩ (fn2 fun a b => bfx a b)
/-- MACLO (10 R212). -/
def execMaclo (o : A3) (s : State) : Out :=
  s.laneOp o.g o.nw [⟨o.a, 1⟩, ⟨o.b, 1⟩, ⟨o.d, 1⟩] ⟨o.d, 1⟩ (fn3 fun a b d => d + a * b)
/-- BFI (10 R215). -/
def execBfi (o : A3) (s : State) : Out :=
  s.laneOp o.g o.nw [⟨o.a, 1⟩, ⟨o.b, 1⟩, ⟨o.d, 1⟩] ⟨o.d, 1⟩ (fn3 bfi)
/-- CLZ (10 R214). -/
def execClz (o : A2) (s : State) : Out :=
  s.laneOp o.g o.nw [⟨o.a, 1⟩] ⟨o.d, 1⟩ (fn1 fun a => clz32 a)
/-- POPC (10 R214). -/
def execPopc (o : A2) (s : State) : Out :=
  s.laneOp o.g o.nw [⟨o.a, 1⟩] ⟨o.d, 1⟩ (fn1 fun a => popc32 a)
/-- BREV (10 R214). -/
def execBrev (o : A2) (s : State) : Out :=
  s.laneOp o.g o.nw [⟨o.a, 1⟩] ⟨o.d, 1⟩ (fn1 fun a => a.reverse)
/-- BSWAP (10 R214). -/
def execBswap (o : A2) (s : State) : Out :=
  s.laneOp o.g o.nw [⟨o.a, 1⟩] ⟨o.d, 1⟩ (fn1 fun a => bswap32 a)
/-- MOV (10 R220). -/
def execMov (o : A2) (s : State) : Out :=
  s.laneOp o.g o.nw [⟨o.a, 1⟩] ⟨o.d, 1⟩ (fn1 fun a => a)
/-- CEQ (10 R219). -/
def execCeq (o : A3) (s : State) : Out :=
  s.cmpOp o.g o.nw [⟨o.a, 1⟩, ⟨o.b, 1⟩] ⟨o.d, 1⟩ (pr2 fun a b => a == b)
/-- CNE (10 R219). -/
def execCne (o : A3) (s : State) : Out :=
  s.cmpOp o.g o.nw [⟨o.a, 1⟩, ⟨o.b, 1⟩] ⟨o.d, 1⟩ (pr2 fun a b => a != b)
/-- CLTS (10 R219). -/
def execClts (o : A3) (s : State) : Out :=
  s.cmpOp o.g o.nw [⟨o.a, 1⟩, ⟨o.b, 1⟩] ⟨o.d, 1⟩ (pr2 fun a b => a.slt b)
/-- CLTN (10 R219). -/
def execCltn (o : A3) (s : State) : Out :=
  s.cmpOp o.g o.nw [⟨o.a, 1⟩, ⟨o.b, 1⟩] ⟨o.d, 1⟩ (pr2 fun a b => a.ult b)
/-- CLES (10 R219). -/
def execCles (o : A3) (s : State) : Out :=
  s.cmpOp o.g o.nw [⟨o.a, 1⟩, ⟨o.b, 1⟩] ⟨o.d, 1⟩ (pr2 fun a b => a.sle b)
/-- CLEN (10 R219). -/
def execClen (o : A3) (s : State) : Out :=
  s.cmpOp o.g o.nw [⟨o.a, 1⟩, ⟨o.b, 1⟩] ⟨o.d, 1⟩ (pr2 fun a b => a.ule b)
/-- ADDD (10 R216). -/
def execAddd (o : A3) (s : State) : Out :=
  s.laneOp o.g o.nw [⟨o.a, 2⟩, ⟨o.b, 2⟩] ⟨o.d, 2⟩ (fn22 fun a b => a + b)
/-- SUBD (10 R216). -/
def execSubd (o : A3) (s : State) : Out :=
  s.laneOp o.g o.nw [⟨o.a, 2⟩, ⟨o.b, 2⟩] ⟨o.d, 2⟩ (fn22 fun a b => a - b)
/-- MULW (10 R216). -/
def execMulw (o : A3) (s : State) : Out :=
  s.laneOp o.g o.nw [⟨o.a, 1⟩, ⟨o.b, 1⟩] ⟨o.d, 2⟩ (fn11 fun a b => (a.setWidth 64) * (b.setWidth 64))
/-- MULWS (10 R216). -/
def execMulws (o : A3) (s : State) : Out :=
  s.laneOp o.g o.nw [⟨o.a, 1⟩, ⟨o.b, 1⟩] ⟨o.d, 2⟩ (fn11 fun a b => (a.signExtend 64) * (b.signExtend 64))
/-- SHLD (10 R216). -/
def execShld (o : A3) (s : State) : Out :=
  s.laneOp o.g o.nw [⟨o.a, 2⟩, ⟨o.b, 1⟩] ⟨o.d, 2⟩ (fn21 fun a b => if shAmt b < 64 then a <<< shAmt b else 0#64)
/-- SHRD (10 R216). -/
def execShrd (o : A3) (s : State) : Out :=
  s.laneOp o.g o.nw [⟨o.a, 2⟩, ⟨o.b, 1⟩] ⟨o.d, 2⟩ (fn21 fun a b => if shAmt b < 64 then a >>> shAmt b else 0#64)
/-- SRAD (10 R216). -/
def execSrad (o : A3) (s : State) : Out :=
  s.laneOp o.g o.nw [⟨o.a, 2⟩, ⟨o.b, 1⟩] ⟨o.d, 2⟩ (fn21 fun a b => a.sshiftRight (min (shAmt b) 63))
/-- ADDI (10 R217). -/
def execAddi (o : AI) (s : State) : Out :=
  let imm : Word := o.imm.signExtend 32
  s.laneOp false o.nw [⟨o.a, 1⟩] ⟨o.d, 1⟩ (fn1 fun a => a + imm)
/-- ANDI (10 R217). -/
def execAndi (o : AI) (s : State) : Out :=
  let imm : Word := o.imm.signExtend 32
  s.laneOp false o.nw [⟨o.a, 1⟩] ⟨o.d, 1⟩ (fn1 fun a => a &&& imm)
/-- ORI (10 R217). -/
def execOri (o : AI) (s : State) : Out :=
  let imm : Word := o.imm.signExtend 32
  s.laneOp false o.nw [⟨o.a, 1⟩] ⟨o.d, 1⟩ (fn1 fun a => a ||| imm)
/-- XORI (10 R217). -/
def execXori (o : AI) (s : State) : Out :=
  let imm : Word := o.imm.signExtend 32
  s.laneOp false o.nw [⟨o.a, 1⟩] ⟨o.d, 1⟩ (fn1 fun a => a ^^^ imm)
/-- MULI (10 R217). -/
def execMuli (o : AI) (s : State) : Out :=
  let imm : Word := o.imm.signExtend 32
  s.laneOp false o.nw [⟨o.a, 1⟩] ⟨o.d, 1⟩ (fn1 fun a => a * imm)
/-- SHLI (10 R217). -/
def execShli (o : AIsh) (s : State) : Out :=
  let n := o.imm.toNat
  s.laneOp false o.nw [⟨o.a, 1⟩] ⟨o.d, 1⟩ (fn1 fun a => shl32 a n)
/-- SHRI (10 R217). -/
def execShri (o : AIsh) (s : State) : Out :=
  let n := o.imm.toNat
  s.laneOp false o.nw [⟨o.a, 1⟩] ⟨o.d, 1⟩ (fn1 fun a => shr32 a n)
/-- SRAI (10 R217). -/
def execSrai (o : AIsh) (s : State) : Out :=
  let n := o.imm.toNat
  s.laneOp false o.nw [⟨o.a, 1⟩] ⟨o.d, 1⟩ (fn1 fun a => sra32 a n)
/-- ROTLI (10 R217). -/
def execRotli (o : AIsh) (s : State) : Out :=
  let n := o.imm.toNat
  s.laneOp false o.nw [⟨o.a, 1⟩] ⟨o.d, 1⟩ (fn1 fun a => a.rotateLeft n)
/-- CEQI (10 R219). -/
def execCeqi (o : AI) (s : State) : Out :=
  let imm : Word := o.imm.signExtend 32
  s.cmpOp false o.nw [⟨o.a, 1⟩] ⟨o.d, 1⟩ (pr1 fun a => a == imm)
/-- CLTSI (10 R219). -/
def execCltsi (o : AI) (s : State) : Out :=
  let imm : Word := o.imm.signExtend 32
  s.cmpOp false o.nw [⟨o.a, 1⟩] ⟨o.d, 1⟩ (pr1 fun a => a.slt imm)
/-- CLTNI (10 R219). -/
def execCltni (o : AI) (s : State) : Out :=
  let imm : Word := o.imm.signExtend 32
  s.cmpOp false o.nw [⟨o.a, 1⟩] ⟨o.d, 1⟩ (pr1 fun a => a.ult imm)
/-- LIH (10 R218). -/
def execLih (o : AK) (s : State) : Out :=
  s.laneOp false false [⟨o.d, 1⟩] ⟨o.d, 1⟩ (fn1 fun d => o.imm ++ d.extractLsb' 0 16)
/-- LIL (10 R218). -/
def execLil (o : AK) (s : State) : Out :=
  s.laneOp false false [⟨o.d, 1⟩] ⟨o.d, 1⟩ (fn1 fun d => d.extractLsb' 16 16 ++ o.imm)
/-- LIS (10 R218). -/
def execLis (o : AK) (s : State) : Out :=
  s.laneOp false false [] ⟨o.d, 1⟩ fun _ => [o.imm.signExtend 32]
/-- ADPC: the PC is that of the instruction itself (10 R218, 02 R28). -/
def execAdpc (o : AK) (s : State) : Out :=
  s.valueOp false false [] [] (some ⟨o.d, 1⟩) (plainTrap []) fun x _ _ _ =>
    { words := [x.pc + 4#32 * o.imm.signExtend 32] }
/-- SEL: the choice reads `gp` as it stood before the issue (10 R220). -/
def execSel (o : A3) (s : State) : Out :=
  let srcs := [⟨o.a, 1⟩, ⟨o.b, 1⟩]
  s.valueOp o.g o.nw srcs [] (some ⟨o.d, 1⟩) (plainTrap srcs) fun x n _ l =>
    { words := [if Mask.has x.g.gp l then x.g.src n l o.a else x.g.src n l o.b] }
/-- GPRD (10 R220). -/
def execGprd (o : A1d) (s : State) : Out :=
  s.valueOp o.g o.nw [] [] (some ⟨o.d, 1⟩) (plainTrap []) fun x _ _ _ => { words := [x.g.gp] }
/-- GPWR: no register result (10 R220). -/
def execGpwr (o : A1a) (s : State) : Out :=
  s.valueOp o.g false [⟨o.a, 1⟩] [] none (plainTrap [⟨o.a, 1⟩]) fun x n _ l =>
    { words := [], gp := some (x.g.src n l o.a != 0#32) }

end Sys2Proof.Machine
end

