-- ==== Sys2Proof/Machine/Float.lean ====
section
/-! DEFINITION. Number formats: exact values, decoding, encoding with one rounding, NaN results, the mode register and the
FP events (09 R182 to R201). -/

namespace Sys2Proof.Machine

/-- An exact value: NaN, an infinity, or (−1)^neg × m × 2^e, with signed zeros (09 R198). -/
inductive Fp where
  | nan
  | inf (neg : Bool)
  | fin (neg : Bool) (m : Nat) (e : Int)
  deriving DecidableEq, Repr

/-- A rounding (09 R185, R196). -/
inductive Rnd where
  | rne | rtz | rdn | rup | rna
  deriving DecidableEq, Repr

/-- A format: K code bits, precision P, exponent bias, unsigned, with infinities, IEEE layout (09 R182, R188, R189). -/
structure Fmt where
  k : Nat
  p : Nat
  bias : Nat
  uns : Bool
  hasInf : Bool
  ieee : Bool
  deriving DecidableEq, Repr

def fp32 : Fmt := ⟨32, 24, 127, false, true, true⟩
def fp16 : Fmt := ⟨16, 11, 15, false, true, true⟩
def bf16 : Fmt := ⟨16, 8, 127, false, true, true⟩
/-- binaryKpP (09 R188, R189). -/
def narrowFmt (k p : Nat) (uns hasInf : Bool) : Fmt :=
  let w := if uns then k - p + 1 else k - p
  ⟨k, p, 2 ^ (w - 1), uns, hasInf, false⟩

/-- The smallest normal exponent, 1 − bias (09 R199). -/
def Fmt.emin (f : Fmt) : Int := 1 - (f.bias : Int)
/-- The code of +Inf without its sign (09 R182, R188, R189). -/
def Fmt.infMag (f : Fmt) : Nat :=
  if f.ieee then 2 ^ (f.k - 1) - 2 ^ (f.p - 1) else if f.uns then 2 ^ f.k - 2 else 2 ^ (f.k - 1) - 1
/-- The code of the largest finite value (09 R190). -/
def Fmt.maxMag (f : Fmt) : Nat :=
  if f.ieee then f.infMag - 1
  else (if f.uns then 2 ^ f.k - 2 else 2 ^ (f.k - 1) - 1) - (if f.hasInf then 1 else 0)
/-- The canonical NaN (09 R182), or the only one (R188, R189). -/
def Fmt.nanCode (f : Fmt) : Nat :=
  if f.ieee then f.infMag + 2 ^ (f.p - 2) else if f.uns then 2 ^ f.k - 1 else 2 ^ (f.k - 1)
/-- A magnitude code with a sign. -/
def Fmt.signed (f : Fmt) (neg : Bool) (mag : Nat) : Nat := if neg then 2 ^ (f.k - 1) + mag else mag

/-- The sign bit of a code. -/
def Fmt.neg (f : Fmt) (c : Nat) : Bool := !f.uns && c / 2 ^ (f.k - 1) % 2 == 1
/-- The code without its sign bit. -/
def Fmt.mag (f : Fmt) (c : Nat) : Nat := if f.uns then c % 2 ^ f.k else c % 2 ^ (f.k - 1)

/-- The exact value of a code (09 R182, R188, R189). -/
def Fmt.decode (f : Fmt) (c : Nat) : Fp :=
  let s := f.neg c
  let mag := f.mag c
  let special :=
    if f.ieee then
      if f.infMag < mag then some Fp.nan else if mag = f.infMag then some (Fp.inf s) else none
    else if f.uns then
      if mag = 2 ^ f.k - 1 then some Fp.nan else if f.hasInf && mag = f.infMag then some (Fp.inf false) else none
    else
      if s && mag = 0 then some Fp.nan else if f.hasInf && mag = f.infMag then some (Fp.inf s) else none
  match special with
  | some v => v
  | none =>
    let e := mag / 2 ^ (f.p - 1)
    let t := mag % 2 ^ (f.p - 1)
    if e = 0 then .fin s t (f.emin - (f.p - 1 : Nat))
    else .fin s (2 ^ (f.p - 1) + t) ((e : Int) - f.bias - (f.p - 1 : Nat))

/-- m × 2^e scaled by 2^n. -/
def Fp.scale (v : Fp) (n : Int) : Fp :=
  match v with
  | .fin s m e => .fin s m (e + n)
  | v => v

/-- m × 2^(e − q) rounded to an integer (09 R199). -/
def roundTo (neg : Bool) (m : Nat) (e q : Int) (rnd : Rnd) : Nat :=
  if q ≤ e then m * 2 ^ (e - q).toNat
  else
    let sh := (q - e).toNat
    let d := m / 2 ^ sh
    let r := m % 2 ^ sh
    let up := match rnd with
      | .rtz => false
      | .rdn => neg && r != 0
      | .rup => !neg && r != 0
      | .rna => 2 ^ sh ≤ 2 * r
      | .rne => 2 ^ sh < 2 * r || (2 * r = 2 ^ sh && d % 2 = 1)
    if up then d + 1 else d

/-- What encoding a value gives: its code, and whether the result overflows or is tiny (09 R199). -/
structure Enc where
  code : Nat
  ovf : Bool := false
  tiny : Bool := false
  deriving DecidableEq, Repr

/-- The code of an overflow of a sign (09 R199). -/
def Fmt.overflow (f : Fmt) (neg sat : Bool) : Nat :=
  if sat then f.signed neg f.maxMag else if f.hasInf then f.signed neg f.infMag else f.nanCode

/-- encode(x, F, RND, SAT), F carrying a scale exponent (09 R199). -/
def Fmt.encode (f : Fmt) (scale : Int) (rnd : Rnd) (sat : Bool) (x : Fp) : Enc :=
  match x with
  | .nan => { code := f.nanCode }
  | .inf s =>
    if f.uns && s then { code := if sat then 0 else f.nanCode }
    else { code := f.overflow s sat, ovf := sat || !f.hasInf }
  | .fin s m e0 =>
    if f.uns && s && m != 0 then { code := if sat then 0 else f.nanCode }
    else
      let zero := if f.ieee then f.signed s 0 else 0
      if m = 0 then { code := zero }
      else
        let e := e0 - scale
        let lg : Int := (Nat.log2 m : Int) + e
        let tiny := lg < f.emin
        let q := max lg f.emin - (f.p - 1 : Nat)
        let n := roundTo s m e q rnd
        let (n, q) := if n = 2 ^ f.p then (2 ^ (f.p - 1), q + 1) else (n, q)
        if n = 0 then { code := zero, tiny := tiny }
        else
          let mag := if n < 2 ^ (f.p - 1) then n
            else (q + (f.p - 1 : Nat) + f.bias).toNat * 2 ^ (f.p - 1) + (n - 2 ^ (f.p - 1))
          if f.maxMag < mag then
            let clip := rnd == .rtz || (rnd == .rdn && !s) || (rnd == .rup && s)
            { code := if clip then f.signed s f.maxMag else f.overflow s sat, ovf := true, tiny := tiny }
          else { code := f.signed s mag, tiny := tiny }

/-! ### The mode register (09 R184, R185) -/

/-- A captured `FMODE` (09 R185). -/
structure Mode where
  rnd : Rnd
  daz : Bool
  ftz : Bool
  cnan : Bool
  deriving DecidableEq, Repr

def modeOf (w : Word) : Mode :=
  { rnd := if w.extractLsb' 0 2 = 0#2 then .rne else if w.extractLsb' 0 2 = 1#2 then .rtz
      else if w.extractLsb' 0 2 = 2#2 then .rdn else .rup
    daz := w.getLsbD 2
    ftz := w.getLsbD 3
    cnan := w.getLsbD 4 }

/-- A code is a NaN of its format. -/
def Fmt.isNan (f : Fmt) (c : Nat) : Bool := f.decode c == .nan
/-- A code is an infinity. -/
def Fmt.isInf (f : Fmt) (c : Nat) : Bool :=
  match f.decode c with
  | .inf _ => true
  | _ => false
/-- An IEEE code with a zero exponent field and a nonzero trailing field. -/
def Fmt.isSub (f : Fmt) (c : Nat) : Bool := f.mag c != 0 && f.mag c < 2 ^ (f.p - 1)

/-- daz(x): a subnormal source reads as zero of its sign (09 R203). -/
def Mode.dazCode (m : Mode) (f : Fmt) (c : Nat) : Nat := if m.daz && f.isSub c then f.signed (f.neg c) 0 else c
/-- The exact value of a source under DAZ. -/
def Mode.val (m : Mode) (f : Fmt) (c : Nat) : Fp := f.decode (m.dazCode f c)

/-- A NaN of format `f` carried to format `t`: quieted, sign kept, the payload cut at its low end or extended with zeros
(09 R184). -/
def carryNan (f t : Fmt) (c : Nat) : Nat :=
  let pay := f.mag c % 2 ^ (f.p - 1)
  let pay := if t.p ≤ f.p then pay / 2 ^ (f.p - t.p) else pay * 2 ^ (t.p - f.p)
  let quiet := if pay / 2 ^ (t.p - 2) % 2 = 1 then pay else pay + 2 ^ (t.p - 2)
  t.signed (f.neg c) (t.infMag + quiet)

/-- The class of a format's events: 0 FP32, 1 FP16, 2 BF16, 3 narrow (09 R201). -/
def Fmt.cls (f : Fmt) : Nat := if f = fp32 then 0 else if f = fp16 then 1 else if f = bf16 then 2 else 3

/-- A result with the events it meets, as counter indices (09 R200, R201). -/
structure FRes where
  code : Nat
  ev : List Nat := []
  deriving DecidableEq, Repr

/-- fin(v, T): one rounding of an exact value under the mode (09 R203), with the NaN rules of R184 and the events of R200.
`nans` are the sources, in order, as (format, code). -/
def Mode.fin (m : Mode) (t : Fmt) (srcs : List (Fmt × Nat)) (v : Fp) : FRes :=
  match srcs.find? fun e => e.1.isNan e.2 with
  | some e => { code := if m.cnan then t.nanCode else carryNan e.1 t e.2 }
  | none =>
    match v with
    | .nan => { code := t.nanCode, ev := [4 * t.cls] }
    | v =>
      let r := t.encode 0 m.rnd false v
      let neg := match v with
        | .fin s _ _ => s
        | .inf s => s
        | .nan => false
      let code := if r.tiny && m.ftz then t.signed neg 0 else r.code
      let allFin := srcs.all fun e => !e.1.isInf e.2
      { code := code
        ev := (if t.isInf code && allFin then [4 * t.cls + 1] else []) ++ (if r.ovf then [4 * t.cls + 2] else []) ++
          (if r.tiny then [4 * t.cls + 3] else []) }

/-! ### Exact arithmetic (10 R221) -/

def Fp.isZero (v : Fp) : Bool :=
  match v with
  | .fin _ m _ => m == 0
  | _ => false
def Fp.negate (v : Fp) : Fp :=
  match v with
  | .nan => .nan
  | .inf s => .inf !s
  | .fin s m e => .fin (!s) m e
def Fp.isNeg (v : Fp) : Bool :=
  match v with
  | .nan => false
  | .inf s => s
  | .fin s _ _ => s

/-- The exact product, 0 × Inf being NaN; the sign is the XOR of the factors' signs (10 R221). -/
def Fp.mul (a b : Fp) : Fp :=
  match a, b with
  | .nan, _ => .nan
  | _, .nan => .nan
  | .inf s, .inf t => .inf (s != t)
  | .inf s, .fin t m _ => if m = 0 then .nan else .inf (s != t)
  | .fin s m _, .inf t => if m = 0 then .nan else .inf (s != t)
  | .fin s m e, .fin t n f => .fin (s != t) (m * n) (e + f)

/-- A finite value as an integer multiple of 2^q, q at most its exponent. -/
def Fp.units (v : Fp) (q : Int) : Int :=
  match v with
  | .fin s m e => let n : Int := (m * 2 ^ (e - q).toNat : Nat); if s then -n else n
  | _ => 0
def Fp.exp (v : Fp) : Int :=
  match v with
  | .fin _ _ e => e
  | _ => 0

/-- The exact sum: NaN with a NaN or opposing infinities, an infinity if there is one; an exact zero takes `zeroNeg` unless
every term is a zero of one sign (10 R221, R223). -/
def Fp.sum (terms : List Fp) (zeroNeg : Bool) : Fp :=
  let pos := terms.contains (.inf false)
  let neg := terms.contains (.inf true)
  if terms.contains .nan || (pos && neg) then .nan
  else if pos then .inf false
  else if neg then .inf true
  else
    let q := terms.foldl (fun q v => min q v.exp) ((terms.head?.map Fp.exp).getD 0)
    let n : Int := terms.foldl (fun (n : Int) v => n + v.units q) 0
    if n = 0 then
      if terms.all fun v => v.isZero && v.isNeg then .fin true 0 0
      else if terms.all fun v => v.isZero && !v.isNeg then .fin false 0 0
      else .fin zeroNeg 0 0
    else .fin (n < 0) n.natAbs q

/-- The sign of an exactly zero sum: minus under RDN (10 R221). -/
def Mode.zeroNeg (m : Mode) : Bool := m.rnd == .rdn

/-- `FADD` of two codes of a format (10 R221). -/
def Mode.add (m : Mode) (f : Fmt) (a b : Nat) : FRes :=
  m.fin f [(f, a), (f, b)] (Fp.sum [m.val f a, m.val f b] m.zeroNeg)
/-- `FSUB`: x + (−y). -/
def Mode.sub (m : Mode) (f : Fmt) (a b : Nat) : FRes :=
  m.fin f [(f, a), (f, b)] (Fp.sum [m.val f a, (m.val f b).negate] m.zeroNeg)
/-- `FMUL`. -/
def Mode.mul (m : Mode) (f : Fmt) (a b : Nat) : FRes :=
  m.fin f [(f, a), (f, b)] ((m.val f a).mul (m.val f b))
/-- `FMA`: one rounding of the exact x × y + d. -/
def Mode.fma (m : Mode) (f : Fmt) (a b d : Nat) : FRes :=
  m.fin f [(f, a), (f, b), (f, d)] (Fp.sum [(m.val f a).mul (m.val f b), m.val f d] m.zeroNeg)

/-- Order of codes with −0 below +0 (10 R222). -/
def Fmt.ord (f : Fmt) (c : Nat) : Int := if f.neg c then -(f.mag c : Int) - 1 else f.mag c
/-- Order of codes with −0 equal to +0 (10 R224). -/
def Fmt.ordz (f : Fmt) (c : Nat) : Int := if f.neg c then -(f.mag c : Int) else f.mag c

/-- `FMIN` and `FMAX`: a choice without rounding (10 R222). -/
def Mode.choose (m : Mode) (f : Fmt) (larger : Bool) (a b : Nat) : FRes :=
  let x := m.dazCode f a
  let y := m.dazCode f b
  if f.isNan x && f.isNan y then { code := if m.cnan then f.nanCode else carryNan f f x }
  else
    let c := if f.isNan x then y else if f.isNan y then x
      else if larger then (if f.ord x < f.ord y then y else x) else (if f.ord y < f.ord x then y else x)
    { code := if m.ftz && f.isSub c then f.signed (f.neg c) 0 else c
      ev := if f.isSub c then [4 * f.cls + 3] else [] }

/-! ### Element descriptors and format words (09 R194 to R197) -/

/-- The format and scale an element descriptor names; meaningful when it is valid (09 R194). -/
def edFmt (ed : BitVec 16) : Fmt :=
  let kind := (ed.extractLsb' 6 2).toNat
  if kind = 2 then bf16 else if kind = 3 then fp16
  else narrowFmt (if kind = 0 then 8 else 6) (ed.extractLsb' 0 3).toNat (ed.getLsbD 3) (ed.getLsbD 4)
def edScale (ed : BitVec 16) : Int := (ed.extractLsb' 8 8).toInt
/-- A narrow kind. -/
def edNarrow (ed : BitVec 16) : Bool := !ed.getLsbD 7
/-- The validity of an element descriptor (09 R195). -/
def edValid (ed : BitVec 16) : Bool :=
  let kind := (ed.extractLsb' 6 2).toNat
  let p := (ed.extractLsb' 0 3).toNat
  !ed.getLsbD 5 &&
    (if kind ≤ 1 then p != 0 && !(kind == 1 && 6 ≤ p) else ed.extractLsb' 0 5 == 0#5)
/-- The validity of a conversion word (09 R196). -/
def convValid (w : Word) : Bool :=
  edValid (w.extractLsb' 0 16) && (w.extractLsb' 16 3).toNat ≤ 4 && w.extractLsb' 20 12 == 0#12
/-- The validity of a matrix word (09 R197). -/
def matrixValid (w : Word) : Bool :=
  let a := w.extractLsb' 0 16
  let b := w.extractLsb' 16 16
  edValid a && edValid b && ((edNarrow a && edNarrow b) || (!edNarrow a && !edNarrow b && a.getLsbD 6 == b.getLsbD 6))
/-- The rounding of a conversion word (09 R196). -/
def convRnd (w : Word) : Rnd :=
  let r := (w.extractLsb' 16 3).toNat
  if r = 0 then .rne else if r = 1 then .rtz else if r = 2 then .rdn else if r = 3 then .rup else .rna
def convSat (w : Word) : Bool := w.getLsbD 19

/-- Decoding a code under an element descriptor (09 R198). -/
def edDecode (ed : BitVec 16) (c : Nat) : Fp := ((edFmt ed).decode (c % 2 ^ (edFmt ed).k)).scale (edScale ed)

/-- Encoding a value to a format under a format word's control, with the events of R200; `srcNan`, `srcFin` say whether the
source is NaN or finite. -/
def encodeEv (f : Fmt) (scale : Int) (rnd : Rnd) (sat : Bool) (v : Fp) : FRes :=
  let r := f.encode scale rnd sat v
  let srcFin := match v with
    | .fin _ _ _ => true
    | _ => false
  { code := r.code
    ev := (if f.isNan r.code && v != .nan then [4 * f.cls] else []) ++
      (if f.isInf r.code && srcFin then [4 * f.cls + 1] else []) ++
      (if r.ovf then [4 * f.cls + 2] else []) ++ (if r.tiny then [4 * f.cls + 3] else []) }

end Sys2Proof.Machine
end

