-- ==== Sys2Proof/Machine/Coherence.lean ====
section
/-! DEFINITION. What happens to accesses after their issue (06 R118 to R123, R135 to R138; 07 R147 to R153; 08 R170 to
R174): performing at the homes, updates of sharers, acknowledgements, asynchronous returns, epochs and markers, the
sequencer, page walks (03 R60), and the spill engine (08 R162 to R164). -/

namespace Sys2Proof.Machine

/-! ### At the home -/

/-- An access still to be performed. -/
def Req.waiting (r : Req) : Bool := r.stage == .sent || r.stage == .blocked || r.stage.isQueued
/-- What an access touches at its home: address and length; a load or prefetch may send its whole L1 line (06 R118). -/
def Req.extent (r : Req) : Nat × Nat :=
  match r.kind with
  | .load _ _ | .prefetch => (r.pa / 128 * 128, 128)
  | .store b => (r.pa, b.length)
  | _ => (r.pa, 4)
/-- The access has reached its home, and no earlier one of its core to the line, nor an earlier atomic of its core to the
slice, is still to be performed (06 R120, R137); a line pinned under another key, and a fill that cannot travel, are awaited (11
R245; 04 R76). -/
def State.atHome (s : State) (rid : Nat) (r : Req) : Bool :=
  r.waiting && !r.stage.isQueued && !s.inTransit (.req rid) && s.homeReady r.part r.extent.1 r.key r.extent.2 && s.reqs.all fun e =>
    rid ≤ e.1 || !e.2.waiting || e.2.core ≠ r.core ||
      (e.2.pa / 128 ≠ r.pa / 128 && !(e.2.home == r.home && (match e.2.kind, r.kind with
        | .atomic _ _ _, .atomic _ _ _ => true
        | _, _ => false)))
/-- The path of an access's reply or acknowledgement: from its home, or the task unit, to its core (04 R72; 06 R122; 17 R334). -/
def State.replyLegs (s : State) (r : Req) : List Leg :=
  match r.maker, r.kind with
  | .machine, _ => []
  | _, .tileRead _ _ | _, .seenRead => route (s.taskDie r.part) 64 (dieOfCore r.core) (stationOf r.core)
  | _, _ => if r.pa = noPa then [] else coreRoute r.home r.via ++ coreRoute r.via r.core
/-- Sends an access's reply or acknowledgement on its way (04 R72, R76). -/
def State.sendReply (s : State) (rid : Nat) (r : Req) : State :=
  s.send (s.packetPart r.part r.pa) 1 (s.replyLegs r) (.reply rid)
/-- The group of a lane's access. -/
def Req.gid? (r : Req) : Option Nat :=
  match r.maker with
  | .lane g _ => some g
  | _ => none
def State.setReq (s : State) (rid : Nat) (r : Req) : State := { s with reqs := s.reqs.put rid r }
/-- A group stops parking for held stores when none of its stores is without a way (12 R264). -/
def State.unblock (s : State) (gid : Nat) : State :=
  let b := s.reqs.any fun e => e.2.stage == .blocked && e.2.gid? == some gid
  s.updGrp gid fun g => { g with blocked := b, stalled := b }

/-- STORE_CURRENT_AT_HOME (06 R119; 12 R262 to R264, R274): a run's write is held in its way, with the release number current then,
or waits for a way; one that is held owes nothing more (07 R157). -/
def execStoreCurrentAtHome (rid : Nat) (s : State) : Out :=
  match s.reqs.find rid with
  | none => .next s
  | some r =>
    match r.kind with
    | .store bs =>
      if !s.atHome rid r then .next s
      else match r.held, s.team r.team with
        | some _, some t =>
          if !t.holds then
            let (s, e) := s.makeCurrent rid r.part r.pa r.key bs r.cc r.rel
            let s := s.setReq rid { r with stage := .current, epoch := e, held := none }
            .next (match r.gid? with
              | some g => s.unblock g
              | none => s)
          else if s.wayFree r.team t.grid r.home (r.pa / 256) r.key then
            let s := s.hold r.team t.grid t.cluster r.home r.pa r.key t.relNo r.cc (r.rel.isSome || t.relNo != 0) bs
            let s := { s with reqs := s.reqs.del rid }.paidOff r.core rid {}
            let s := match r.maker with
              | .engine c k => s.updCore c fun v => { v with copies := v.copies.upd k fun y => { y with stores := y.stores.erase rid } }
              | _ => s
            .next (match r.gid? with
              | some g => s.unblock g
              | none => s)
          else
            let s := s.setReq rid { r with stage := .blocked }
            .next (match r.gid? with
              | some g => s.updGrp g fun g => { g with blocked := true, stalled := true }
              | none => s)
        | _, _ =>
          let (s, e) := s.makeCurrent rid r.part r.pa r.key bs r.cc r.rel
          .next (s.setReq rid { r with stage := .current, epoch := e })
    | _ => .next s

/-- The new word of an atomic, none when it writes nothing (06 R135, R136). -/
def AtomOp.apply (op : AtomOp) (old b b1 : Word) : Option Word :=
  match op with
  | .add => some (old + b)
  | .and => some (old &&& b)
  | .or => some (old ||| b)
  | .xor => some (old ^^^ b)
  | .mins => some (if old.slt b then old else b)
  | .minn => some (if old.ult b then old else b)
  | .maxs => some (if old.slt b then b else old)
  | .maxn => some (if old.ult b then b else old)
  | .swap => some b
  | .cas => if old = b then some b1 else none
  | .fadd => some (BitVec.ofNat 32 (Mode.add ⟨.rne, false, false, true⟩ fp32 old.toNat b.toNat).code)
  | .ld => none
  | .st => some b

/-- ATOMIC_AT_HOME: one read and write of the word (06 R123, R138); one that writes nothing replies at once. -/
def execAtomicAtHome (rid : Nat) (s : State) : Out :=
  match s.reqs.find rid with
  | none => .next s
  | some r =>
    match r.kind with
    | .atomic op b b1 =>
      if !s.atHome rid r then .next s
      else
        let (s, bs, bad) := s.readHome r.pa r.key 4
        let old := wordOf bs
        let r := { r with
          found := s.rels.find (r.pa / 256), wclk := s.clockAt r.pa 4, unsettled := s.unsettledAt r.pa 4
          stage := .reply [old] bad }
        if bad then
          .next { (s.setReq rid r).sendReply rid r with
            suspectSlices := if s.suspectSlices.contains r.home then s.suspectSlices else r.home :: s.suspectSlices }
        else match op.apply old b b1 with
          | none => .next ((s.setReq rid r).sendReply rid r)
          | some v =>
            let (s, e) := s.makeCurrent rid r.part r.pa r.key (bytesOf v) r.cc r.rel
            .next (s.setReq rid { r with epoch := e })
    | _ => .next s

/-- LOAD_AT_HOME: a miss is performed at the home, which sends the line to the L1 that serves the core, and its value with it or
after it (06 R118, R122; 07 R147; 12 R263). A prefetch ends there (06 R140). -/
def execLoadAtHome (rid : Nat) (s : State) : Out :=
  match s.reqs.find rid with
  | none => .next s
  | some r =>
    match r.kind with
    | .load size sext =>
      if !s.atHome rid r then .next s
      else
        let (s, bs, bad) := s.readFor r.team r.pa r.key size
        let r := { r with
          stage := .reply (loadWords size sext bs) bad, unsettled := s.unsettledAt r.pa size, wclk := s.clockAt r.pa size }
        let (s, filled) := s.sendFill rid r.member r.team r.part r.pa r.key
        let s := (if r.folded || !s.isLive r then s else s.foldLoad r.team r.va bs).setReq rid r
        .next (if filled && r.member = r.core then s else s.sendReply rid r)
    | .prefetch =>
      if !s.atHome rid r then .next s
      else
        let (s, _) := s.sendFill rid r.member r.team r.part r.pa r.key
        .next { s with reqs := s.reqs.del rid }
    | _ => .next s

/-! ### Updates and acknowledgements (06 R119; 07 R147, R149) -/

/-- The condition of R119 on a write's acknowledgement: sharers on the home's die have applied it, the others received it. -/
def State.ackReady (s : State) (rid home : Nat) : Bool :=
  s.upds.all fun u => u.2.store ≠ rid || (u.2.core / 64 ≠ home / 64 && !s.inTransit (.upd u.1))
/-- A write is settled: its home returns its acknowledgement, its words are settled in every L1, and its epoch goes with the
acknowledgement (07 R147, R150). -/
def State.settleWrite (s : State) (rid : Nat) : State :=
  let line := fun (e : Nat × L1Line) =>
    (e.1, { e.2 with unsettled := e.2.unsettled.filter fun u => u.1 ≠ rid })
  let core := fun (e : Nat × Core) => (e.1, { e.2 with l1 := e.2.l1.map line })
  { s with
    reqs := s.reqs.upd rid fun r => { r with own := Clk.one (r.home / 64) r.epoch, epoch := 0 }
    cores := s.cores.map core }
/-- An acknowledgement has reached its issuer; an engine's or a commit's write counts for its grid's end flush (07 R150, R155,
R156). -/
def State.ackDone (s : State) (rid : Nat) : State :=
  match s.reqs.find rid with
  | none => s
  | some r =>
    let s := { s with reqs := s.reqs.del rid }
    match r.maker with
    | .lane gid _ => (s.updGrp gid fun g => if g.team = r.team then { g with vc := g.vc.join r.own } else g).paidOff r.core rid r.own
    | .engine core k => (s.updCore core fun v => { v with
        copies := v.copies.upd k fun y => { y with stores := y.stores.erase rid, wc := y.wc.join (r.cc.join r.own) } }).updGrid r.grid
          fun g => { g with vc := g.vc.join (r.cc.join r.own) }
    | .machine => s.updGrid r.grid fun g => { g with vc := g.vc.join (r.cc.join r.own) }
/-- STORE_ACK (06 R119; 07 R147, R150): the home returns the acknowledgement once its condition holds, and it reaches the issuer. -/
def execStoreAck (rid : Nat) (s : State) : Out :=
  match s.reqs.find rid with
  | none => .next s
  | some r =>
    match r.stage with
    | .current =>
      if !s.ackReady rid r.home then .next s
      else
        let s := s.settleWrite rid
        if (s.replyLegs r).isEmpty then .next (s.ackDone rid)
        else .next ({ s with reqs := s.reqs.upd rid fun r => { r with stage := .acked } }.sendReply rid r)
    | .acked => if s.inTransit (.reply rid) then .next s else .next (s.ackDone rid)
    | _ => .next s

/-- An update or fill has arrived and may be applied as far as its path goes: none sent before it from its home to its core is
still to be applied, a fill's order being that of its line (04 R73; 06 R118; 07 R149). -/
def State.updFirst (s : State) (uid : Nat) (u : Upd) : Bool :=
  !s.inTransit (.upd uid) && s.upds.all fun v =>
    uid ≤ v.1 || v.2.core ≠ u.core || v.2.home ≠ u.home || (v.2.line ≠ u.line && (u.isFill || v.2.isFill))
/-- A fill is applied: the L1 takes the line; of the words it brought unsettled those count that still are (06 R118; 07 R147). -/
def State.applyFill (s : State) (uid : Nat) (u : Upd) : State :=
  let s := { s with upds := s.upds.del uid }
  match u.fill with
  | none => s
  | some l =>
    s.l1Fill u.core u.line l.key (getBytes l.data 0 128) l.poison (l.unsettled.filter fun e => s.isUnsettled e.1) l.clk
/-- SHARER_UPDATE_APPLY: a received update is applied once the die has applied its causal past, in epoch order from each die
and in order on its path; a fill that no load awaits is applied in its order (06 R118; 07 R149). -/
def execSharerUpdateApply (uid : Nat) (s : State) : Out :=
  match s.upds.find uid with
  | none => .next s
  | some u =>
    if u.isFill then if s.updFirst uid u then .next (s.applyFill uid u) else .next s
    else
      let d := u.core / 64
      let a := s.applied d
      let causal := (List.range 4).all fun e => e == u.src.val || u.cc.get e ≤ a.get e
      let inEpoch := s.upds.all fun v => v.2.isFill || !(v.2.src == u.src && v.2.core / 64 == d && v.2.epoch < u.epoch)
      if !s.updFirst uid u || !causal || !inEpoch then .next s
      else
        let s := { s with upds := s.upds.del uid }
        match (s.core u.core).l1.find u.line, u.cells with
        | some l, _ :: _ =>
          let ws := (u.cells.map fun c => c.1 / 4).dedup
          let clk := u.cc.join (Clk.one u.src.val u.epoch)
          let l := l.poke u.line u.cells
          let l := { l with
            clk := ws.foldl (fun t w => t.setD {} w clk) l.clk
            unsettled := if u.src.val = d && s.isUnsettled u.store then (u.store, ws) :: l.unsettled else l.unsettled }
          .next (s.updCore u.core fun k => { k with l1 := k.l1.put u.line l })
        | _, _ => .next s

/-! ### Asynchronous returns (08 R170, R171, R174) -/

/-- Both teams lie in the other's scope (07 R141, R151). -/
def inScope (sc : Scope) (a b : RelRec) : Bool :=
  match sc with
  | .team => a.team == b.team
  | .cluster => a.team == b.team || (a.grid == b.grid && a.cluster == b.cluster)
  | _ => true
/-- Writes a returned value to its destination and clears its pending bits (08 R171, R174). -/
def Group.deliver (g : Group) (l : LaneIx) (dst : Dst) (ws : List Word) (bad : Bool) : Group :=
  match dst with
  | .none => g
  | .slots ss =>
    let v := g.lane l
    g.setLane l { v with stack := (ss.zip ws).foldl (fun t e => t.setD {} e.1 { val := e.2, pois := bad }) v.stack }
  | .sregs rs => { g with s := (rs.zip ws).foldl (fun t e => t.setD {} e.1 { val := e.2, pois := bad }) g.s }
/-- Folds a returned value into the places kept for it (12 R271). -/
def Group.foldReturn (g : Group) (l : LaneIx) (fold : Option Nat) (ws : List Word) : Group :=
  match fold with
  | none => g
  | some p => g.setLane l ((ws.zipIdx).foldl (fun (v : Lane) e => v.foldAt (p + e.2) e.1) (g.lane l))
/-- What an acquire does with the record it met; `own` is what a release of the group would leave (07 R151, R152). -/
def Group.acquire (g : Group) (own : RelRec) (r : Req) : Group :=
  if !r.order.acquires then g
  else match r.found with
    | none => g
    | some rec =>
      if inScope rec.scope rec own && inScope r.scope own rec then { g with vc := g.vc.join r.wclk, acq := g.acq || r.scope.wide }
      else g.setStatus 1#32
/-- Counts a dropped return (08 R171, R176). -/
def State.dropReturn (s : State) (core : Nat) : State :=
  s.updCore core fun k => { k with dropCnt := if k.dropCnt = 0xFFFFFFFF#32 then k.dropCnt else k.dropCnt + 1 }
/-- A read of the scoreboard that has reached the task unit gets its value, and with it every lane of its issue that names the
same tile; a grid that has gone delivers poison (17 R334, R338; 08 R174). -/
def State.serveTaskRead (s : State) (rid : Nat) : State :=
  match s.reqs.find rid with
  | none => s
  | some r =>
    let grid := ((s.team r.team).map Team.grid).getD 0
    if r.stage ≠ .sent || s.inTransit (.req rid) then s
    else match r.kind with
      | .tileRead tile issue =>
        let st : Stage := match s.boardRead grid tile with
          | some ws => .reply ws false
          | none => .reply [0, 0] true
        let same := s.reqs.filter fun e => e.2.kind == .tileRead tile issue && e.2.stage == .sent
        same.foldl (fun s e => (s.setReq e.1 { e.2 with stage := st }).sendReply e.1 e.2) s
      | .seenRead =>
        let st : Stage := match (s.boardRead grid none), r.maker with
          | some _, .lane gid _ => .reply [((s.grp gid).map Group.seen).getD 0] false
          | _, _ => .reply [0] true
        (s.setReq rid { r with stage := st }).sendReply rid r
      | _ => s
/-- The fill that travels with a load's value, if it is still to be applied (06 R118). -/
def State.fillOf (s : State) (rid : Nat) : Option (Nat × Upd) := s.upds.find? fun u => u.2.isFill && u.2.store == rid
/-- An acquire that met a record whose scope or whose own scope leaves the other out: it waits for nothing (07 R151). -/
def State.mismatched (s : State) (r : Req) : Bool :=
  r.order.acquires && (match r.found, r.gid?.bind s.grp with
    | some rec, some g => let own := s.relRec g r.scope; !(inScope rec.scope rec own && inScope r.scope own rec)
    | _, _ => false)
/-- A returned value may be written: it has arrived, its fill can be applied, and an acquire's word is settled, unless scopes leave the
acquire nothing to wait for (06 R118; 07 R147, R151). -/
def State.returnReady (s : State) (rid : Nat) (r : Req) : Bool :=
  !s.inTransit (.reply rid) && (s.fillOf rid).all (fun u => s.updFirst u.1 u.2) &&
    (!r.order.acquires || s.mismatched r || r.unsettled.all fun u => !s.isUnsettled u)
/-- A value that has come back is written to its destination, or dropped and counted when its allocation has gone or its group has
been killed (08 R171; 19 R369). -/
def State.returnValue (s : State) (rid : Nat) (r : Req) (gid ln : Nat) (ws : List Word) (bad : Bool) : State :=
  let s := match s.fillOf rid with
    | some u => s.applyFill u.1 u.2
    | none => s
  let un := r.unsettled.filter s.isUnsettled
  let s := (({ s with reqs := s.reqs.del rid }).paidOff r.core rid r.own).readBack r.core rid un r.wclk
  match s.grp gid with
  | none => s.dropReturn r.core
  | some g =>
    if g.tag ≠ r.tag || g.team ≠ r.team then s.dropReturn r.core
    else if r.dead then (s.updGrp gid fun g => { g with vc := g.vc.join r.own }).dropReturn r.core
    else
      let l : LaneIx := Fin.ofNat 32 ln
      let s := s.updGrp gid fun g =>
        let g := (g.deliver l r.dst ws bad).foldReturn l r.fold ws
        { g with obs := g.obs.join r.wclk, vc := g.vc.join r.own, readFrom := (un ++ g.readFrom).dedup }
      let s := s.updGrp gid fun g => g.acquire (s.relRec g r.scope) r
      match r.logIx with
      | none => s
      | some i => (ws.zipIdx).foldl (fun s e => s.logFill g.team g.grpix (i + e.2) e.1) s
/-- ASYNC_RETURN: a value returns (08 R171). The reply of an atomic that wrote is also its acknowledgement: its home sends it once
that condition holds (06 R123); an acquire waits until its word is settled (07 R147). -/
def execAsyncReturn (rid : Nat) (s : State) : Out :=
  let s := s.serveTaskRead rid
  match s.reqs.find rid with
  | none => .next s
  | some r =>
    match r.stage, r.maker with
    | .reply ws bad, .lane gid ln =>
      if r.epoch ≠ 0 then
        if !s.ackReady rid r.home then .next s
        else
          let s := (s.settleWrite rid).sendReply rid r
          let r := { r with own := Clk.one (r.home / 64) r.epoch, epoch := 0 }
          .next (if s.returnReady rid r then s.returnValue rid r gid ln ws bad else s)
      else if s.returnReady rid r then .next (s.returnValue rid r gid ln ws bad)
      else .next s
    | _, _ => .next s

/-! ### Epochs and the sequencer (07 R149, R153) -/

/-- EPOCH_CLOSE. -/
def execEpochClose (die : Die) (s : State) : Out := .next (s.closeEpoch die.val)
/-- CLOSE_MARKER_ARRIVE: the next marker of a die has come over its links, behind every update of its epoch (R149). -/
def execCloseMarkerArrive (dst src : Die) (s : State) : Out :=
  let n := (s.die dst.val).markers.get src.val + 1
  let behind := s.upds.all fun u =>
    u.2.isFill || !(u.2.src == src && u.2.core / 64 == dst.val && u.2.epoch ≤ n) || !s.inTransit (.upd u.1)
  if src ≠ dst && n < (s.die src.val).epoch && behind && !s.inTransit (.marker src dst n) then
    .next (s.updDie dst.val fun k => { k with markers := k.markers.set src.val n })
  else .next s
/-- SEQUENCER_SERVE: one request closes every die's epoch and takes the four closed numbers (R153). -/
def execSequencerServe (s : State) : Out :=
  match s.scq with
  | [] => .next s
  | q :: rest =>
    let vec := (List.range 4).foldl (fun (c : Clk) d => c.set d (s.die d).epoch) {}
    let s := (List.range 4).foldl (fun s d => s.closeEpoch d) { s with scq := rest }
    .next (s.updGrp q.gid fun g => match g.wait with
      | .sequencer none => { g with wait := .sequencer (some vec) }
      | _ => g)

/-! ### Upsets of stored data (03 R52; 08 R168, R173) -/

/-- An error that cannot be corrected in a register entry or an `s` register (08 R173). -/
def RCell.upset (c : RCell) : RCell := { c with unc := true }
/-- What an upset does: a register's or a saved latch's check bits fail from now on, a latch's parity error marks it poisoned, which
counts against its core, a cached sector becomes poisoned, a stored one reads back as uncorrectable, a corrected error is counted (08 R168, R173; 03 R52). -/
def State.upset (s : State) (m : Move) : State :=
  match m with
  | .upsetReg gid ln slot => s.updGrp gid fun g =>
    let l : LaneIx := Fin.ofNat 32 ln
    g.setLane l { (g.lane l) with stack := (g.lane l).stack.setD {} slot ((g.lane l).stack.getD {} slot).upset }
  | .upsetSreg gid r => s.updGrp gid fun g =>
    if 97 ≤ r && r ≤ 119 then { g with s := g.s.setD {} r (g.s.getD {} r).upset } else g
  | .upsetLatch gid ln ix =>
    let l : LaneIx := Fin.ofNat 32 ln
    let s := match s.grp gid with
      | some g => if ((g.lane l).fw.get ix).pois then s else s.updCore (coreOf gid) fun k => { k with poisoned := k.poisoned + 1 }
      | none => s
    s.updGrp gid fun g => g.setLane l { (g.lane l) with fw := (g.lane l).fw.set ix { ((g.lane l).fw.get ix) with pois := true } }
  | .upsetSaved key tid pix ln ix =>
    let l : LaneIx := Fin.ofNat 32 ln
    let hit := fun (g : Group) => g.setLane l { (g.lane l) with fw := (g.lane l).fw.set ix ((g.lane l).fw.get ix).upset }
    { s with streams := s.streams.upd key fun st => { st with teams := st.teams.map fun v =>
        if v.tid = tid then { v with groups := v.groups.map fun e => if e.1 = pix then (e.1, hit e.2) else e } else v } }
  | .upsetSector home ln i =>
    match s.l2.find (l2Key home ln) with
    | none => s
    | some l =>
      if l.valid.getLsbD i then
        { s with
          l2 := s.l2.put (l2Key home ln) { l with poison := l.poison ||| (1#4 <<< i) }
          suspectSlices := if s.suspectSlices.contains home then s.suspectSlices else home :: s.suspectSlices }
      else s
  | .upsetDram sn => if s.dramBad.contains sn then s else { s with dramBad := sn :: s.dramBad }
  | .corrected c => s.updCore c fun k => { k with corrected := k.corrected + 1 }
  | .correctedSlice h => { s with sliceCorrected := s.sliceCorrected.setD 0 h (s.sliceCorrected.getD 0 h + 1) }
  | .upsetL1 c ln7 half => s.updCore c fun k =>
    { k with l1 := k.l1.upd ln7 fun l => { l with poison := l.poison ||| (1#2 <<< half) } }
  | _ => s

/-! ### Page walks (03 R57 to R60) -/

/-- TRANSLATION_WALK_DONE: one of the 64 walks in service ends, unless it waits for a line of the tables (11 R245); its
lanes become issuable and find the entry in their TLB, or trap (R58, R60; 06 R126). -/
def execTranslationWalkDone (die : Die) (n : Nat) (s : State) : Out :=
  match ((s.die die.val).walks.take 64).find? fun w => w.id == n with
  | none => .next s
  | some w =>
    let (s', r) := s.walkTables false die.val w.part (BitVec.ofNat 64 (w.vpage * 2 ^ 13))
    if r == .wait then .next s
    else
    let s := s'.updDie die.val fun k => { k with walks := k.walks.filter fun v => v.id ≠ n }
    .next (w.waiters.foldl (fun s e =>
      let (gid, ln, va) := e
      let s := match r with
        | .leaf t => s.tlbAdd (coreOf gid) t
        | _ => s
      s.updGrp gid fun g =>
        let g := { g with walk := Mask.drop g.walk (Fin.ofNat 32 ln) }
        match r with
        | .leaf _ | .wait => g
        | .absent lv => { g with walkFail := (ln, va, lv) :: g.walkFail }) s)

/-! ### The spill engine (08 R161 to R164) -/

/-- The address of a lane's 32-entry block in the spill frame of a slot whose group is of a partition (R161). -/
def State.frameVa (s : State) (part : Option Nat) (gid lane entry : Nat) : Dword :=
  let p := part.bind s.part
  let base := (p.map Part.poolBase).getD 0
  let f := (p.map Part.frame).getD 0
  base + BitVec.ofNat 64 (f * (32 * coreOf gid + slotOf gid) + lane * (f / 32) + 4 * entry)
/-- The same of a group that is resident. -/
def State.blockVa (s : State) (gid lane entry : Nat) : Dword := s.frameVa ((s.grp gid).bind s.partOf) gid lane entry
/-- The next lane of a window move that needs a spill (or a fill), and its target (R162). -/
def Group.nextMove (g : Group) (stackS : Nat) (spill : Bool) : Option (LaneIx × Nat) :=
  match g.wait with
  | .window ms failed =>
    (ms.find? fun t =>
      let l : LaneIx := Fin.ofNat 32 t.lane
      !Mask.has failed l && (if spill then (g.lane l).wlo + stackS < t.wb + 96 else t.wb < (g.lane l).wlo)).map
      fun t => (Fin.ofNat 32 t.lane, t.wb)
  | _ => none
/-- A lane's frame access failed translation or protection (R162). -/
def Group.moveFailed (g : Group) (l : LaneIx) : Group :=
  match g.wait with
  | .window ms failed => { g with wait := .window ms (Mask.add failed l) }
  | _ => g
/-- Poisons the sector of an address in its line, which counts against its slice (R164; 03 R52; 12 R280). -/
def State.poisonSector (s : State) (pa : Nat) : State :=
  let home := s.home pa
  { s with
    l2 := s.l2.upd (l2Key home (pa / 256)) fun l => { l with poison := l.poison ||| (1#4 <<< (pa / 64 % 4)) }
    suspectSlices := if s.suspectSlices.contains home then s.suspectSlices else home :: s.suspectSlices }
/-- SPILL_BLOCK: writes entries wlo to wlo + 31 of one lane to the frame once none is pending; words whose error cannot be corrected
are marked poisoned and counted (R162, R164, R173). -/
def execSpillBlock (gid : Nat) (s : State) : Out :=
  match s.grp gid with
  | none => .next s
  | some g =>
    let n := s.stackOf g
    match g.nextMove n true with
    | none => .next s
    | some (l, _) =>
      let v := g.lane l
      let cell := fun i => (v.stack.getD {} ((v.wlo + i) % n)).scrub
      if (List.range 32).any fun i => (cell i).pend then .next s
      else
        let va := s.blockVa gid l.val v.wlo
        let (s, lk) := s.lookNow (coreOf gid) ((s.partOf g).getD 0) va needWrite
        match classify va, lk with
        | .global, .walk => .next s
        | .global, .at pa key =>
          if !s.engineReady (coreOf gid) ((s.partOf g).getD 31) pa key 128 then .next s
          else
          let found := (List.range 32).countP fun i => (v.stack.getD {} ((v.wlo + i) % n)).unc
          let s := if found = 0 then s else s.updCore (coreOf gid) fun k => { k with poisoned := k.poisoned + found }
          let bs := (List.range 32).flatMap fun i => bytesOf (cell i).val
          let s := (s.machineWrite ((s.partOf g).getD 31) pa key va bs g.cc none).1
          let s := (List.range 2).foldl (fun s h =>
            if (List.range 16).any fun i => (cell (16 * h + i)).pois then s.poisonSector (pa + 64 * h) else s) s
          .next (s.updGrp gid fun g => g.setLane l { v with wlo := v.wlo + 32 })
        | _, _ => .next (s.updGrp gid fun g => g.moveFailed l)
/-- FILL_BLOCK: reads entries back from the frame; a poisoned sector poisons its own 16 entries (R162, R164). -/
def execFillBlock (gid : Nat) (s : State) : Out :=
  match s.grp gid with
  | none => .next s
  | some g =>
    let n := s.stackOf g
    match g.nextMove n false with
    | none => .next s
    | some (l, _) =>
      let v := g.lane l
      let lo := v.wlo - 32
      let va := s.blockVa gid l.val lo
      let (s, lk) := s.lookNow (coreOf gid) ((s.partOf g).getD 0) va needRead
      match classify va, lk with
      | .global, .walk => .next s
      | .global, .at pa key =>
        if !s.engineReady (coreOf gid) ((s.partOf g).getD 31) pa key 128 then .next s
        else
        let (s, b0, p0) := s.readHome pa key 64
        let (s, b1, p1) := s.readHome (pa + 64) key 64
        let ws := wordsOf (b0 ++ b1)
        let st := (ws.zipIdx).foldl (fun t e =>
          t.setD {} ((lo + e.2) % n) { val := e.1, pois := if e.2 < 16 then p0 else p1 }) v.stack
        .next (s.updGrp gid fun g => g.setLane l { v with stack := st, wlo := lo })
      | _, _ => .next (s.updGrp gid fun g => g.moveFailed l)

end Sys2Proof.Machine
end

