-- ==== Sys2Proof/Machine/Special.lean ====
section
/-! DEFINITION. The special functions (10 R226, R227): the exact cases, the correctly rounded square root, and for the rest
a choice among the FP32 values within the error bound of an approximation computed to far more digits than FP32 holds. -/

namespace Sys2Proof.Machine

/-- ⌊√n⌋ for n below 2^(2 × bits). -/
def isqrt (bits n : Nat) : Nat :=
  (List.range bits).reverse.foldl (fun r i => if (r + 2 ^ i) * (r + 2 ^ i) ≤ n then r + 2 ^ i else r) 0

/-- π × 2^320, rounded down. -/
def piFix : Nat := 0x3243f6a8885a308d313198a2e03707344a4093822299f31d0082efa98ec4e6c89452821e638d01377
/-- ln 2 × 2^160, rounded down. -/
def ln2Fix : Nat := 0xb17217f7d1cf79abc9e3b39803f2f6af40f34326

/-- 1 / (m × 2^e). -/
def recipApprox (m : Nat) (e : Int) : Fp := .fin false (2 ^ 200 / m) (-e - 200)
/-- 1 / √(m × 2^e). -/
def rsqrtApprox (m : Nat) (e : Int) : Fp :=
  let odd := e % 2 != 0
  let m := if odd then 2 * m else m
  let e := if odd then e - 1 else e
  .fin false (isqrt 201 (2 ^ 400 / m)) (-200 - e / 2)
/-- √(m × 2^e) with a last bit that is 1 when the root is not exact, so that one rounding of it is the rounding of the
root. -/
def sqrtExact (m : Nat) (e : Int) : Fp :=
  let odd := e % 2 != 0
  let m := (if odd then 2 * m else m) * 2 ^ 80
  let e := (if odd then e - 1 else e) - 80
  let r := isqrt 60 m
  .fin false (if r * r = m then 2 * r else 2 * r + 1) (e / 2 - 1)
/-- 2^(x ÷ 2^160): the integer part moves the exponent, and the fraction's power is the exponential series. -/
def exp2Approx (x : Int) : Fp :=
  let n := x / 2 ^ 160
  let f := (x % 2 ^ 160).toNat
  let z := f * ln2Fix / 2 ^ 160
  let sum := (List.range 45).foldl (fun (acc : Nat × Nat) k => (acc.1 + acc.2, acc.2 * z / 2 ^ 160 / (k + 1))) (0, 2 ^ 160)
  .fin false sum.1 (n - 160)
/-- log2 (m × 2^e), by 100 squarings. -/
def log2Approx (m : Nat) (e : Int) : Fp :=
  let lg := Nat.log2 m
  let r := (List.range 100).foldl (fun (acc : Nat × Nat) _ =>
    let y := acc.1 * acc.1 / 2 ^ 160
    if 2 ^ 161 ≤ y then (y / 2, 2 * acc.2 + 1) else (y, 2 * acc.2)) (m * 2 ^ (160 - lg), 0)
  let v : Int := (e + lg) * 2 ^ 100 + r.2
  .fin (v < 0) v.natAbs (-100)
/-- sin (π x) for x = n ÷ 2^320. -/
def sinPiApprox (n : Int) : Fp :=
  let r := (n % 2 ^ 321).toNat
  let neg := 2 ^ 320 ≤ r
  let r := r % 2 ^ 320
  let r := if 2 ^ 319 < r then 2 ^ 320 - r else r
  let t := r * piFix / 2 ^ 320
  let sq := t * t / 2 ^ 320
  let sum := (List.range 40).foldl (fun (acc : Int × Nat) k =>
    (acc.1 + (if k % 2 = 0 then (acc.2 : Int) else -(acc.2 : Int)), acc.2 * sq / 2 ^ 320 / ((2 * k + 2) * (2 * k + 3)))) (0, t)
  .fin neg sum.1.natAbs (-320)

/-- The FP32 code at a place of the order in which −0 precedes +0. -/
def codeAt (n : Int) : Nat := if n < 0 then 2 ^ 31 + (-n - 1).toNat else n.toNat

/-- The distance of two finite values is at most k × 2^u. -/
def within (a b : Fp) (k : Nat) (u : Int) : Bool :=
  let q := min u (min a.exp b.exp)
  (a.units q - b.units q).natAbs ≤ k * 2 ^ (u - q).toNat

/-- The exponent of one ulp at an exact result (10 R226). -/
def ulpExp (v : Fp) : Int :=
  match v with
  | .fin _ m e => max ((Nat.log2 m : Int) + e) (-126) - 23
  | _ => -149

/-- The finite FP32 codes within k ulp of a value. -/
def candidates (v : Fp) (k : Nat) : List Nat :=
  let c := fp32.ord (fp32.encode 0 .rtz false v).code
  (((List.range 9).map fun (i : Nat) => c + (i : Int) - 4).map codeAt).filter fun c =>
    match fp32.decode c with
    | .fin s m e => within (.fin s m e) v k (ulpExp v)
    | _ => false

/-- A value free within k ulp of `v`, the same whatever RND is; a result in the subnormal range is flushed when FTZ is set and counts underflow (10
R226). -/
def freeWithin (m : Mode) (fn src mode : Nat) (v : Fp) (k : Nat) : FRes :=
  let cs := candidates v k
  let c := (cs[Config.specialChoice fn src (mode / 4 * 4) % cs.length]?).getD 0
  let small := match v with
    | .fin _ n e => n != 0 && (Nat.log2 n : Int) + e < -126
    | _ => false
  if small || fp32.isSub c then { code := if m.ftz then fp32.signed v.isNeg 0 else c, ev := [3] } else { code := c }

/-- An exact result of a special function: rounded (it is representable), flushed and counted by the common rule. -/
def exactRes (m : Mode) (a : Nat) (v : Fp) : FRes := m.fin fp32 [(fp32, a)] v

/-- The exponent n when m × 2^e is 2^n. -/
def pow2Exp (m : Nat) (e : Int) : Option Int := if m = 2 ^ Nat.log2 m then some ((Nat.log2 m : Int) + e) else none

/-- `FRCP` (10 R226, R227). -/
def frcpRes (w : Word) (a : Nat) : FRes :=
  let m := modeOf w
  match m.val fp32 a with
  | .nan => exactRes m a .nan
  | .inf s => { code := fp32.signed s 0 }
  | .fin s n e =>
    if n = 0 then { code := fp32.signed s fp32.infMag, ev := [1] }
    else if (Nat.log2 n : Int) + e < -128 || (n = 2 ^ Nat.log2 n && (Nat.log2 n : Int) + e = -128) then
      { code := fp32.signed s fp32.infMag, ev := [1, 2] }
    else match pow2Exp n e with
      | some p => if -126 ≤ p && p ≤ 126 then exactRes m a (.fin s 1 (-p))
        else freeWithin m 0 a w.toNat (if s then (recipApprox n e).negate else recipApprox n e) 1
      | none => freeWithin m 0 a w.toNat (if s then (recipApprox n e).negate else recipApprox n e) 1

/-- `FRSQ` (10 R226, R227). -/
def frsqRes (w : Word) (a : Nat) : FRes :=
  let m := modeOf w
  match m.val fp32 a with
  | .nan => exactRes m a .nan
  | .inf s => if s then exactRes m a .nan else { code := 0 }
  | .fin s n e =>
    if n = 0 then { code := fp32.signed s fp32.infMag, ev := [1] }
    else if s then exactRes m a .nan
    else match pow2Exp n e with
      | some p => if p % 2 = 0 then exactRes m a (.fin false 1 (-(p / 2))) else freeWithin m 1 a w.toNat (rsqrtApprox n e) 1
      | none => freeWithin m 1 a w.toNat (rsqrtApprox n e) 1

/-- `FSQRT`, correctly rounded under RND (10 R226, R227). -/
def fsqrtRes (w : Word) (a : Nat) : FRes :=
  let m := modeOf w
  match m.val fp32 a with
  | .nan => exactRes m a .nan
  | .inf s => if s then exactRes m a .nan else { code := fp32.infMag }
  | .fin s n e =>
    if n = 0 then { code := fp32.signed s 0 } else if s then exactRes m a .nan else exactRes m a (sqrtExact n e)

/-- A finite value as a multiple of 2^-q when its exponent allows, rounded down. -/
def Fp.fix (v : Fp) (q : Nat) : Int := v.units (-(q : Int))

/-- `FEX2` (10 R226, R227). -/
def fex2Res (w : Word) (a : Nat) : FRes :=
  let m := modeOf w
  match m.val fp32 a with
  | .nan => exactRes m a .nan
  | .inf s => { code := if s then 0 else fp32.infMag }
  | .fin s n e =>
    let x := (Fp.fin s n e).fix 160
    if n = 0 then { code := 0x3F800000 }
    else if 128 * 2 ^ 160 ≤ x then { code := fp32.infMag, ev := [1, 2] }
    else if x < -150 * 2 ^ 160 then { code := 0, ev := [3] }
    else if x % 2 ^ 160 = 0 && -149 * 2 ^ 160 ≤ x then exactRes m a (.fin false 1 (x / 2 ^ 160))
    else freeWithin m 3 a w.toNat (exp2Approx x) 2

/-- `FLG2` (10 R226, R227). -/
def flg2Res (w : Word) (a : Nat) : FRes :=
  let m := modeOf w
  match m.val fp32 a with
  | .nan => exactRes m a .nan
  | .inf s => if s then exactRes m a .nan else { code := fp32.infMag }
  | .fin s n e =>
    if n = 0 then { code := fp32.signed true fp32.infMag, ev := [1] }
    else if s then exactRes m a .nan
    else match pow2Exp n e with
      | some p => exactRes m a (.fin (p < 0) p.natAbs 0)
      | none => freeWithin m 4 a w.toNat (log2Approx n e) 2

/-- A value is a whole number of halves: its number of halves. -/
def halves (n : Nat) (e : Int) : Option Nat :=
  if -1 ≤ e then some (n * 2 ^ (e + 1).toNat)
  else if n % 2 ^ (-1 - e).toNat = 0 then some (n / 2 ^ (-1 - e).toNat) else none

/-- `FSINPI` (10 R226, R227). -/
def fsinpiRes (w : Word) (a : Nat) : FRes :=
  let m := modeOf w
  match m.val fp32 a with
  | .nan => exactRes m a .nan
  | .inf _ => exactRes m a .nan
  | .fin s n e =>
    match halves n e with
    | some h =>
      if h % 2 = 0 then { code := fp32.signed s 0 }
      else { code := fp32.signed ((h % 4 = 3) != s) 0x3F800000 }
    | none => freeWithin m 5 a w.toNat (sinPiApprox ((Fp.fin s n e).fix 320)) 2

/-- `FCOSPI` (10 R226, R227). -/
def fcospiRes (w : Word) (a : Nat) : FRes :=
  let m := modeOf w
  match m.val fp32 a with
  | .nan => exactRes m a .nan
  | .inf _ => exactRes m a .nan
  | .fin s n e =>
    match halves n e with
    | some h => if h % 2 = 1 then { code := 0 } else { code := fp32.signed (h % 4 = 2) 0x3F800000 }
    | none => freeWithin m 6 a w.toNat (sinPiApprox ((Fp.fin s n e).fix 320 + 2 ^ 319)) 2

end Sys2Proof.Machine
end

