-- ==== Sys2Proof/Machine/Fp.lean ====
section
/-! DEFINITION. The floating-point instructions: arithmetic, compares, bit operations, special functions and rounding to
integral (10 R221 to R228). -/

namespace Sys2Proof.Machine

/-- The format of an element type (09 R183). -/
def fmtOf (t : FType) : Fmt := match t with
  | .f32 => fp32
  | .f16x2 => fp16
  | .bf16x2 => bf16

/-- Element i of a packed word (09 R183). -/
def half (w : Word) (i : Nat) : Nat := (w.extractLsb' (16 * i) 16).toNat

/-- Applies an operation to each element of its sources (10 R221). -/
def perElement (t : FType) (op : Fmt → List Nat → FRes) (ws : List Word) : LaneRes :=
  match t with
  | .f32 => let r := op fp32 (ws.map BitVec.toNat); { words := [BitVec.ofNat 32 r.code], ev := r.ev }
  | t =>
    let r0 := op (fmtOf t) (ws.map fun w => half w 0)
    let r1 := op (fmtOf t) (ws.map fun w => half w 1)
    { words := [BitVec.ofNat 16 r1.code ++ BitVec.ofNat 16 r0.code], ev := r0.ev ++ r1.ev }

/-- An FP instruction under the captured `FMODE` (10 R221, 09 R187). -/
def State.fpOp (s : State) (g nw : Bool) (srcs : List Operand) (d : Reg) (f : Mode → List Word → LaneRes) : Out :=
  s.valueOp g nw srcs [] (some ⟨d, 1⟩) (plainTrap srcs) fun x n _ l =>
    f (modeOf x.g.fmode) (srcs.flatMap (x.g.srcs n l))

/-- A two-source operation on codes. -/
def op2 (f : Fmt → Nat → Nat → FRes) (t : Fmt) : List Nat → FRes
  | [a, b] => f t a b
  | _ => { code := 0 }
/-- A three-source operation on codes. -/
def op3 (f : Fmt → Nat → Nat → Nat → FRes) (t : Fmt) : List Nat → FRes
  | [a, b, d] => f t a b d
  | _ => { code := 0 }

/-- FADD (10 R221). -/
def execFadd (o : AF) (s : State) : Out :=
  s.fpOp o.g o.nw [⟨o.a, 1⟩, ⟨o.b, 1⟩] o.d fun m ws => perElement o.ty (op2 m.add) ws
/-- FSUB (10 R221). -/
def execFsub (o : AF) (s : State) : Out :=
  s.fpOp o.g o.nw [⟨o.a, 1⟩, ⟨o.b, 1⟩] o.d fun m ws => perElement o.ty (op2 m.sub) ws
/-- FMUL (10 R221). -/
def execFmul (o : AF) (s : State) : Out :=
  s.fpOp o.g o.nw [⟨o.a, 1⟩, ⟨o.b, 1⟩] o.d fun m ws => perElement o.ty (op2 m.mul) ws
/-- FMA: d is the third source (10 R221). -/
def execFma (o : AF) (s : State) : Out :=
  s.fpOp o.g o.nw [⟨o.a, 1⟩, ⟨o.b, 1⟩, ⟨o.d, 1⟩] o.d fun m ws => perElement o.ty (op3 m.fma) ws
/-- FMIN (10 R222). -/
def execFmin (o : AF) (s : State) : Out :=
  s.fpOp o.g o.nw [⟨o.a, 1⟩, ⟨o.b, 1⟩] o.d fun m ws => perElement o.ty (op2 fun t => m.choose t false) ws
/-- FMAX (10 R222). -/
def execFmax (o : AF) (s : State) : Out :=
  s.fpOp o.g o.nw [⟨o.a, 1⟩, ⟨o.b, 1⟩] o.d fun m ws => perElement o.ty (op2 fun t => m.choose t true) ws

/-- `FDOT2`: the exact sum of two products and d, rounded once to FP32 (10 R223). -/
def dot2 (f : Fmt) (m : Mode) (ws : List Word) : LaneRes :=
  match ws with
  | [a, b, d] =>
    let v := Fp.sum [(m.val f (half a 0)).mul (m.val f (half b 0)), (m.val f (half a 1)).mul (m.val f (half b 1)),
      m.val fp32 d.toNat] m.zeroNeg
    let r := m.fin fp32 [(f, half a 0), (f, half a 1), (f, half b 0), (f, half b 1), (fp32, d.toNat)] v
    { words := [BitVec.ofNat 32 r.code], ev := r.ev }
  | _ => { words := [0#32] }
/-- FDOT2.f16x2 (10 R223). -/
def execFdot2F16x2 (o : A3) (s : State) : Out :=
  s.fpOp o.g o.nw [⟨o.a, 1⟩, ⟨o.b, 1⟩, ⟨o.d, 1⟩] o.d (dot2 fp16)
/-- FDOT2.bf16x2 (10 R223). -/
def execFdot2Bf16x2 (o : A3) (s : State) : Out :=
  s.fpOp o.g o.nw [⟨o.a, 1⟩, ⟨o.b, 1⟩, ⟨o.d, 1⟩] o.d (dot2 bf16)

/-! ### Compares (10 R224) -/

/-- An FP compare after daz; `f` sees whether an operand is NaN and the ordering keys, equal for −0 and +0. -/
def State.fpCmp (s : State) (o : A3) (f : Bool → Int → Int → Bool) : Out :=
  let srcs : List Operand := [⟨o.a, 1⟩, ⟨o.b, 1⟩]
  s.fpOp o.g o.nw srcs o.d fun m ws =>
    match ws with
    | [a, b] =>
      let x := m.dazCode fp32 a.toNat
      let y := m.dazCode fp32 b.toNat
      let t := f (fp32.isNan x || fp32.isNan y) (fp32.ordz x) (fp32.ordz y)
      { words := [ofBool t], gp := some t }
    | _ => { words := [0#32] }
/-- FCEQ (10 R224). -/
def execFceq (o : A3) (s : State) : Out := s.fpCmp o fun nan x y => !nan && x == y
/-- FCLT (10 R224). -/
def execFclt (o : A3) (s : State) : Out := s.fpCmp o fun nan x y => !nan && x < y
/-- FCLE (10 R224). -/
def execFcle (o : A3) (s : State) : Out := s.fpCmp o fun nan x y => !nan && x ≤ y
/-- FCUN (10 R224). -/
def execFcun (o : A3) (s : State) : Out := s.fpCmp o fun nan _ _ => nan

/-! ### Bit operations (10 R225) -/

/-- FABS (10 R225). -/
def execFabs (o : A2) (s : State) : Out := s.laneOp o.g o.nw [⟨o.a, 1⟩] ⟨o.d, 1⟩ (fn1 fun a => a &&& 0x7FFFFFFF#32)
/-- FNEG (10 R225). -/
def execFneg (o : A2) (s : State) : Out := s.laneOp o.g o.nw [⟨o.a, 1⟩] ⟨o.d, 1⟩ (fn1 fun a => a ^^^ 0x80000000#32)
/-- FCPSGN (10 R225). -/
def execFcpsgn (o : A3) (s : State) : Out :=
  s.laneOp o.g o.nw [⟨o.a, 1⟩, ⟨o.b, 1⟩] ⟨o.d, 1⟩ (fn2 fun a b => (a &&& 0x7FFFFFFF#32) ||| (b &&& 0x80000000#32))
/-- The class bit of an FP32 pattern (10 R225). -/
def fclassBit (a : Word) : Nat :=
  let neg := a.getLsbD 31
  let e := (a.extractLsb' 23 8).toNat
  let t := (a.extractLsb' 0 23).toNat
  if e = 255 then if t = 0 then (if neg then 0 else 7) else if a.getLsbD 22 then 9 else 8
  else if e = 0 then if t = 0 then (if neg then 3 else 4) else (if neg then 2 else 5)
  else if neg then 1 else 6
/-- FCLASS (10 R225). -/
def execFclass (o : A2) (s : State) : Out :=
  s.laneOp o.g o.nw [⟨o.a, 1⟩] ⟨o.d, 1⟩ (fn1 fun a => 1#32 <<< fclassBit a)

/-! ### Special functions (10 R226, R227) -/

/-- A special function of the `FMODE` word and the source. -/
def State.specialOp (s : State) (o : A2) (f : Word → Nat → FRes) : Out :=
  let srcs : List Operand := [⟨o.a, 1⟩]
  s.valueOp o.g o.nw srcs [] (some ⟨o.d, 1⟩) (plainTrap srcs) fun x n _ l =>
    let r := f x.g.fmode (x.g.src n l o.a).toNat
    { words := [BitVec.ofNat 32 r.code], ev := r.ev }
/-- FRCP (10 R226). -/
def execFrcp (o : A2) (s : State) : Out := s.specialOp o frcpRes
/-- FRSQ (10 R226). -/
def execFrsq (o : A2) (s : State) : Out := s.specialOp o frsqRes
/-- FSQRT (10 R226). -/
def execFsqrt (o : A2) (s : State) : Out := s.specialOp o fsqrtRes
/-- FEX2 (10 R226). -/
def execFex2 (o : A2) (s : State) : Out := s.specialOp o fex2Res
/-- FLG2 (10 R226). -/
def execFlg2 (o : A2) (s : State) : Out := s.specialOp o flg2Res
/-- FSINPI (10 R226). -/
def execFsinpi (o : A2) (s : State) : Out := s.specialOp o fsinpiRes
/-- FCOSPI (10 R226). -/
def execFcospi (o : A2) (s : State) : Out := s.specialOp o fcospiRes

/-! ### Rounding to integral (10 R228) -/

/-- The integral FP32 value chosen: a zero takes the sign of a; zeros, infinities and magnitudes of 2^23 or more are
unchanged; no event is counted (10 R228). -/
def toIntegral (m : Mode) (rnd : Rnd) (a : Nat) : Nat :=
  if fp32.isNan a then (if m.cnan then fp32.nanCode else carryNan fp32 fp32 a)
  else
    let x := m.dazCode fp32 a
    match fp32.decode x with
    | .fin s n e =>
      if n = 0 || 0 ≤ e then x else (fp32.encode 0 .rne false (.fin s (roundTo s n e 0 rnd) 0)).code
    | _ => x
/-- FRINT: nearest under RND (10 R228). -/
def execFrint (o : A2) (s : State) : Out :=
  s.fpOp o.g o.nw [⟨o.a, 1⟩] o.d fun m ws => { words := fn1 (fun a => BitVec.ofNat 32 (toIntegral m m.rnd a.toNat)) ws }
/-- FFLOOR (10 R228). -/
def execFfloor (o : A2) (s : State) : Out :=
  s.fpOp o.g o.nw [⟨o.a, 1⟩] o.d fun m ws => { words := fn1 (fun a => BitVec.ofNat 32 (toIntegral m .rdn a.toNat)) ws }
/-- FCEIL (10 R228). -/
def execFceil (o : A2) (s : State) : Out :=
  s.fpOp o.g o.nw [⟨o.a, 1⟩] o.d fun m ws => { words := fn1 (fun a => BitVec.ofNat 32 (toIntegral m .rup a.toNat)) ws }
/-- FTRUNC (10 R228). -/
def execFtrunc (o : A2) (s : State) : Out :=
  s.fpOp o.g o.nw [⟨o.a, 1⟩] o.d fun m ws => { words := fn1 (fun a => BitVec.ofNat 32 (toIntegral m .rtz a.toNat)) ws }

end Sys2Proof.Machine
end

