-- ==== Sys2Proof/Machine/Convert.lean ====
section
/-! DEFINITION. The conversion instructions (09 R202 to R207). -/

namespace Sys2Proof.Machine

/-- The traps of a conversion that takes a format word in `w`: the operands' own, then invalid format word where the lane's
word is invalid or, for the pack and unpack forms (`narrow`), names a BF16 or FP16 kind (09 R207). -/
def formatTrap (srcs : List Operand) (w : Reg) (narrow : Bool) : Issue → Nat → Mask → LaneIx → Option TrapC :=
  fun x n _ l =>
    match x.g.operandTrap n srcs l with
    | some t => some t
    | none =>
      let b := x.g.src n l w
      if convValid b && (!narrow || edNarrow (b.extractLsb' 0 16)) then none else some { rank := 2, code := 0x07, info := b }

/-- A conversion under the captured `FMODE` (09 R203). -/
def State.modeConv (s : State) (g nw : Bool) (srcs : List Operand) (d : Reg) (f : Mode → List Word → FRes) : Out :=
  s.fpOp g nw srcs d fun m ws => let r := f m ws; { words := [BitVec.ofNat 32 r.code], ev := r.ev }

/-- The first source word. -/
def w0 (ws : List Word) : Word := ws.getD 0 0
/-- The second source word. -/
def w1 (ws : List Word) : Word := ws.getD 1 0

/-- The signed value of an exact value rounded to an integer, clamped to 32 bits (09 R203). -/
def toInt32 (m : Mode) (v : Fp) : Word :=
  match v with
  | .nan => 0#32
  | .inf s => if s then 0x80000000#32 else 0x7FFFFFFF#32
  | .fin s n e =>
    let r : Int := roundTo s n e 0 m.rnd
    let r := if s then -r else r
    BitVec.ofInt 32 (max (-2 ^ 31) (min r (2 ^ 31 - 1)))

/-- CVTFI: FP32 to int32, counting nothing (09 R203, R200). -/
def execCvtfi (o : A2) (s : State) : Out :=
  s.fpOp o.g o.nw [⟨o.a, 1⟩] o.d fun m ws => { words := [toInt32 m (m.val fp32 (w0 ws).toNat)] }
/-- CVTIF: int32 to FP32 (09 R203). -/
def execCvtif (o : A2) (s : State) : Out :=
  s.modeConv o.g o.nw [⟨o.a, 1⟩] o.d fun m ws =>
    let i := (w0 ws).toInt
    m.fin fp32 [] (.fin (i < 0) i.natAbs 0)
/-- CVTHF: FP16 to FP32 (09 R203). -/
def execCvthf (o : A2) (s : State) : Out :=
  s.modeConv o.g o.nw [⟨o.a, 1⟩] o.d fun m ws => m.fin fp32 [(fp16, half (w0 ws) 0)] (m.val fp16 (half (w0 ws) 0))
/-- CVTBF: BF16 to FP32 (09 R203). -/
def execCvtbf (o : A2) (s : State) : Out :=
  s.modeConv o.g o.nw [⟨o.a, 1⟩] o.d fun m ws => m.fin fp32 [(bf16, half (w0 ws) 0)] (m.val bf16 (half (w0 ws) 0))

/-- FP32 narrowed into one half of a word whose other half is b's (09 R203). -/
def State.narrowConv (s : State) (o : A3) (t : Fmt) (high : Bool) : Out :=
  s.fpOp o.g o.nw [⟨o.a, 1⟩, ⟨o.b, 1⟩] o.d fun m ws =>
    let r := m.fin t [(fp32, (w0 ws).toNat)] (m.val fp32 (w0 ws).toNat)
    let c := BitVec.ofNat 16 r.code
    let b := w1 ws
    { words := [if high then c ++ b.extractLsb' 0 16 else b.extractLsb' 16 16 ++ c], ev := r.ev }
/-- CVTFHL (09 R203). -/
def execCvtfhl (o : A3) (s : State) : Out := s.narrowConv o fp16 false
/-- CVTFHH (09 R203). -/
def execCvtfhh (o : A3) (s : State) : Out := s.narrowConv o fp16 true
/-- CVTFBL (09 R203). -/
def execCvtfbl (o : A3) (s : State) : Out := s.narrowConv o bf16 false
/-- CVTFBH (09 R203). -/
def execCvtfbh (o : A3) (s : State) : Out := s.narrowConv o bf16 true

/-- Encoding a value under a conversion word (09 R204). -/
def convEncode (w : Word) (v : Fp) : FRes :=
  encodeEv (edFmt (w.extractLsb' 0 16)) (edScale (w.extractLsb' 0 16)) (convRnd w) (convSat w) v
/-- Decoding a code under a conversion word and encoding it in an IEEE format (09 R204, R205). -/
def convDecode (w : Word) (t : Fmt) (c : Nat) : FRes :=
  encodeEv t 0 (convRnd w) (convSat w) (edDecode (w.extractLsb' 0 16) c)

/-- An instruction that takes a format word in `w` (09 R204, R205): `f` of the lane's source words and its word. -/
def State.wordConv (s : State) (g nw : Bool) (srcs : List Operand) (w : Reg) (narrow : Bool) (dst : Operand)
    (f : Word → List Word → LaneRes) : Out :=
  s.valueOp g nw srcs [] (some dst) (formatTrap srcs w narrow) fun x n _ l =>
    f (x.g.src n l w) (srcs.flatMap (x.g.srcs n l))

/-- CVTFN: FP32 to a code (09 R204). -/
def execCvtfn (o : A3) (s : State) : Out :=
  s.wordConv o.g o.nw [⟨o.a, 1⟩, ⟨o.b, 1⟩] o.b false ⟨o.d, 1⟩ fun w ws =>
    let r := convEncode w (fp32.decode (w0 ws).toNat)
    { words := [BitVec.ofNat 32 r.code], ev := r.ev }
/-- CVTNF: a code to FP32 (09 R204). -/
def execCvtnf (o : A3) (s : State) : Out :=
  s.wordConv o.g o.nw [⟨o.a, 1⟩, ⟨o.b, 1⟩] o.b false ⟨o.d, 1⟩ fun w ws =>
    let r := convDecode w fp32 (w0 ws).toNat
    { words := [BitVec.ofNat 32 r.code], ev := r.ev }

/-- Byte i of a word. -/
def byteOf (w : Word) (i : Nat) : Nat := (w.extractLsb' (8 * i) 8).toNat
/-- A word of four bytes, byte 0 lowest. -/
def ofBytes4 (c : List Nat) : Word :=
  BitVec.ofNat 8 (c.getD 3 0) ++ BitVec.ofNat 8 (c.getD 2 0) ++ BitVec.ofNat 8 (c.getD 1 0) ++
    BitVec.ofNat 8 (c.getD 0 0)
/-- Element i of a quad of FP32 or a pair of halves (09 R205). -/
def element (t : Fmt) (ws : List Word) (i : Nat) : Nat :=
  if t = fp32 then (ws.getD i 0).toNat else half (ws.getD (i / 2) 0) (i % 2)

/-- PACK8 and its forms: four elements encoded into one word (09 R205). -/
def State.pack (s : State) (o : A3) (t : Fmt) : Out :=
  let a : Operand := ⟨o.a, if t = fp32 then 4 else 2⟩
  s.wordConv o.g o.nw [a, ⟨o.b, 1⟩] o.b true ⟨o.d, 1⟩ fun w ws =>
    let rs := (List.range 4).map fun i => convEncode w (t.decode (element t ws i))
    { words := [ofBytes4 (rs.map FRes.code)], ev := rs.flatMap FRes.ev }
/-- UNPK8 and its forms: four codes decoded (09 R205). -/
def State.unpack (s : State) (o : A3) (t : Fmt) : Out :=
  s.wordConv o.g o.nw [⟨o.a, 1⟩, ⟨o.b, 1⟩] o.b true ⟨o.d, if t = fp32 then 4 else 2⟩ fun w ws =>
    let rs := (List.range 4).map fun i => convDecode w t (byteOf (w0 ws) i)
    let c := fun i => (rs.map FRes.code).getD i 0
    { words := if t = fp32 then (List.range 4).map fun i => BitVec.ofNat 32 (c i)
        else [BitVec.ofNat 16 (c 1) ++ BitVec.ofNat 16 (c 0), BitVec.ofNat 16 (c 3) ++ BitVec.ofNat 16 (c 2)]
      ev := rs.flatMap FRes.ev }
/-- PACK8 (09 R205). -/
def execPack8 (o : A3) (s : State) : Out := s.pack o fp32
/-- PACK8H (09 R205). -/
def execPack8h (o : A3) (s : State) : Out := s.pack o fp16
/-- PACK8B (09 R205). -/
def execPack8b (o : A3) (s : State) : Out := s.pack o bf16
/-- UNPK8 (09 R205). -/
def execUnpk8 (o : A3) (s : State) : Out := s.unpack o fp32
/-- UNPK8H (09 R205). -/
def execUnpk8h (o : A3) (s : State) : Out := s.unpack o fp16
/-- UNPK8B (09 R205). -/
def execUnpk8b (o : A3) (s : State) : Out := s.unpack o bf16

/-- The largest FP32 magnitude, NaN if any source is (09 R206). -/
def amax (ws : List Word) : Word :=
  if ws.any fun w => fp32.isNan w.toNat then 0x7FC00000#32
  else BitVec.ofNat 32 (ws.foldl (fun m w => max m (fp32.mag w.toNat)) 0)
/-- AMAX4 (09 R206). -/
def execAmax4 (o : A3) (s : State) : Out :=
  s.laneOp o.g o.nw [⟨o.a, 4⟩, ⟨o.b, 1⟩] ⟨o.d, 1⟩ fun ws => [amax ws]
/-- FMTCHK (09 R206). -/
def execFmtchk (o : A2) (s : State) : Out :=
  let srcs : List Operand := [⟨o.a, 1⟩]
  s.valueOp o.g o.nw srcs [] (some ⟨o.d, 1⟩) (plainTrap srcs) fun x n part l =>
    let a := x.g.src n l o.a
    let same := (Mask.lanes part).all fun k => x.g.src n k o.a == a
    { words := [ofBool (convValid a) ||| (ofBool (convValid a && edNarrow (a.extractLsb' 0 16)) <<< 1) |||
        (ofBool (matrixValid a) <<< 2) ||| (ofBool same <<< 3)] }

end Sys2Proof.Machine
end

