-- ==== Sys2Proof/Machine/CrossLane.lean ====
section
/-! DEFINITION. The cross-lane instructions: shuffles, votes, reductions and scans (10 R229 to R233). -/

namespace Sys2Proof.Machine

/-- The operand traps of a shuffle: the lane's own distance or index b, and the value it receives from lane j (10 R229).
TINFO names a's field first. -/
def shuffleTrap (a : Reg) (own : List Operand) (j : Issue → Nat → LaneIx → LaneIx) :
    Issue → Nat → Mask → LaneIx → Option TrapC :=
  fun x n _ l =>
    match x.g.operandTrap n [⟨a, 1⟩] (j x n l), x.g.operandTrap n own l with
    | some t, some u => if u.before t then some u else some t
    | some t, none => some t
    | none, u => u

/-- The words that an issue has read in some lanes, at their own windows and latches, are checked too (08 R173; 10 R229). -/
def Group.scrubLanes (g : Group) (stackS : Nat) (m : Mask) (a : Reg) : Group :=
  let r := a.toNat
  g.mapOn m fun _ v => { v with
    stack := if r < 96 then v.stack.setD {} (v.slot stackS r) (v.stack.getD {} (v.slot stackS r)).scrub else v.stack
    fw := if 120 ≤ r && r ≤ 123 then v.fw.set (r - 120) (v.fw.get (r - 120)).scrub else v.fw }
/-- An issue that has read a in the lanes `read` leaves those of their words that failed marked poisoned, if it has not waited (08 R173;
10 R229). -/
def State.thenScrub (s : State) (a : Reg) (read : Issue → Nat → Mask) (o : Out) : Out :=
  match s.issue, o with
  | some x, .next t =>
    if t.grp x.gid = s.grp x.gid then .next t else .next (t.updGrp x.gid fun g => g.scrubLanes (s.stackOf x.g) (read x (s.stackOf x.g)) a)
  | _, o => o
/-- A shuffle: lane l receives a of lane j, every read before any write (10 R230). -/
def State.shuffle (s : State) (g nw : Bool) (d a : Reg) (own : List Operand) (j : Issue → Nat → LaneIx → LaneIx) : Out :=
  s.thenScrub a (fun x n => maskOf fun k => allLanes.any fun l => Mask.has (x.part g) l && j x n l == k)
    (s.valueOp g nw own [⟨a, 1⟩] (some ⟨d, 1⟩) (shuffleTrap a own j) fun x n _ l =>
      { words := [x.g.src n (j x n l) a] })

/-- A lane from a number below 32. -/
def laneOf (n : Nat) : LaneIx := Fin.ofNat 32 n

/-- SHFX (10 R230). -/
def execShfx (o : A3) (s : State) : Out :=
  s.shuffle o.g o.nw o.d o.a [⟨o.b, 1⟩] fun x n l => laneOf (l.val ^^^ ((x.g.src n l o.b).extractLsb' 0 5).toNat)
/-- SHFUP: outside 0..31 the lane's own a (10 R230). -/
def execShfup (o : A3) (s : State) : Out :=
  s.shuffle o.g o.nw o.d o.a [⟨o.b, 1⟩] fun x n l =>
    let k := shAmt (x.g.src n l o.b)
    if k ≤ l.val then laneOf (l.val - k) else l
/-- SHFDN (10 R230). -/
def execShfdn (o : A3) (s : State) : Out :=
  s.shuffle o.g o.nw o.d o.a [⟨o.b, 1⟩] fun x n l =>
    let k := shAmt (x.g.src n l o.b)
    if l.val + k < 32 then laneOf (l.val + k) else l
/-- SHFIX (10 R230). -/
def execShfix (o : A3) (s : State) : Out :=
  s.shuffle o.g o.nw o.d o.a [⟨o.b, 1⟩] fun x n l => laneOf ((x.g.src n l o.b).extractLsb' 0 5).toNat
/-- BCASTI (10 R230). -/
def execBcasti (o : AIsh) (s : State) : Out := s.shuffle false o.nw o.d o.a [] fun _ _ _ => laneOf o.imm.toNat
/-- SHFXI (10 R230). -/
def execShfxi (o : AIsh) (s : State) : Out := s.shuffle false o.nw o.d o.a [] fun _ _ l => laneOf (l.val ^^^ o.imm.toNat)

/-- The traps of an instruction whose every result depends on a of every participating lane: one poisoned value traps
them all (10 R229). -/
def collectiveTrap (a : Reg) : Issue → Nat → Mask → LaneIx → Option TrapC :=
  fun x n part _ => (firstTrap part (x.g.operandTrap n [⟨a, 1⟩])).map Prod.fst

/-- A vote, reduction or scan: `f` of the participating lanes and their values (10 R231 to R233). -/
def State.collective (s : State) (o : A2) (f : Word → Mask → (LaneIx → Word) → LaneIx → LaneRes) : Out :=
  s.valueOp o.g o.nw [] [⟨o.a, 1⟩] (some ⟨o.d, 1⟩) (collectiveTrap o.a) fun x n part l =>
    f x.g.fmode part (fun k => x.g.src n k o.a) l

/-- The participating lanes whose a is nonzero (10 R231). -/
def voters (part : Mask) (a : LaneIx → Word) : Mask := maskOf fun k => Mask.has part k && a k != 0#32

/-- VALL (10 R231). -/
def execVall (o : A2) (s : State) : Out := s.collective o fun _ p a _ => { words := [ofBool (voters p a == p)] }
/-- VANY (10 R231). -/
def execVany (o : A2) (s : State) : Out := s.collective o fun _ p a _ => { words := [ofBool (voters p a != 0#32)] }
/-- VBAL (10 R231). -/
def execVbal (o : A2) (s : State) : Out := s.collective o fun _ p a _ => { words := [voters p a] }
/-- VCNT (10 R231). -/
def execVcnt (o : A2) (s : State) : Out := s.collective o fun _ p a _ => { words := [popc32 (voters p a)] }

/-- Combines the values of the lanes of a mask, ascending. -/
def reduce (p : Mask) (a : LaneIx → Word) (f : Word → Word → Word) : Word :=
  match Mask.lanes p with
  | [] => 0#32
  | l :: ls => ls.foldl (fun v k => f v (a k)) (a l)

/-- REDADD (10 R232). -/
def execRedadd (o : A2) (s : State) : Out := s.collective o fun _ p a _ => { words := [reduce p a (· + ·)] }
/-- REDMIN (10 R232). -/
def execRedmin (o : A2) (s : State) : Out :=
  s.collective o fun _ p a _ => { words := [reduce p a fun x y => if y.slt x then y else x] }
/-- REDMAX (10 R232). -/
def execRedmax (o : A2) (s : State) : Out :=
  s.collective o fun _ p a _ => { words := [reduce p a fun x y => if x.slt y then y else x] }
/-- The lanes of a mask up to lane l. -/
def upTo (p : Mask) (l : LaneIx) : Mask := maskOf fun k => Mask.has p k && k.val ≤ l.val
/-- SCANADD (10 R232). -/
def execScanadd (o : A2) (s : State) : Out := s.collective o fun _ p a l => { words := [reduce (upTo p l) a (· + ·)] }

/-- One level of the tree: adjacent nodes joined, a lone one passed up unchanged; daz applies to the leaves alone (10 R233). -/
def joinNodes (m : Mode) : List (Option FRes) → List (Option FRes)
  | some a :: some b :: t =>
    let r := { m with daz := false }.add fp32 a.code b.code
    some { code := r.code, ev := a.ev ++ b.ev ++ r.ev } :: joinNodes m t
  | some a :: none :: t => some a :: joinNodes m t
  | none :: b :: t => b :: joinNodes m t
  | t => t

/-- The events of a lane's own result (10 R233): NaN and Inf as the result itself meets them, overflow and underflow when
any addition of its tree met them. -/
def treeEvents (m : Mode) (p : Mask) (a : LaneIx → Word) (r : FRes) : List Nat :=
  let srcs := (Mask.lanes p).map fun l => m.dazCode fp32 (a l).toNat
  (if fp32.isNan r.code && srcs.all (fun c => !fp32.isNan c) then [0] else []) ++
    (if fp32.isInf r.code && srcs.all (fun c => !fp32.isNan c && !fp32.isInf c) then [1] else []) ++
    r.ev.filter fun e => e == 2 || e == 3

/-- The fixed tree over a set of lanes (10 R233). -/
def tree (m : Mode) (p : Mask) (a : LaneIx → Word) : LaneRes :=
  let leaves := allLanes.map fun l => if Mask.has p l then some ({ code := m.dazCode fp32 (a l).toNat } : FRes) else none
  match (List.range 5).foldl (fun ns _ => joinNodes m ns) leaves with
  | some r :: _ => { words := [BitVec.ofNat 32 r.code], ev := treeEvents m p a r }
  | _ => { words := [0#32] }
/-- FREDADD (10 R233). -/
def execFredadd (o : A2) (s : State) : Out := s.collective o fun w p a _ => tree (modeOf w) p a
/-- FSCANADD (10 R233). -/
def execFscanadd (o : A2) (s : State) : Out := s.collective o fun w p a l => tree (modeOf w) (upTo p l) a

end Sys2Proof.Machine
end

