-- ==== Sys2Proof/Machine/Control.lean ====
section
/-! DEFINITION. Control flow: branches, jumps, calls and returns with their window moves, rejoin masks, team barriers, exits,
software traps and `SIGX` (13 R286 to R300; 08 R162, R165; 12 R272). -/

namespace Sys2Proof.Machine

/-- The shape of an issue that computes no lane-wise value: it waits for its operands, and each participating lane traps
or completes; `stay` names the completing lanes that `eff` has made wait or exit. -/
def State.stepOp (s : State) (guard : Bool) (srcs : List Operand) (trap : Issue → Nat → LaneIx → Option TrapC)
    (eff : Issue → Nat → Mask → State → State) (stay : Issue → Mask → Mask) (next : Issue → Nat → LaneIx → Word) : Out :=
  s.withIssue fun x =>
    let n := s.stackOf x.g
    let part := x.part guard
    if x.g.pending n x.act srcs then .next s
    else
      let wb := ((Mask.low x.act).map fun l => (x.g.lane l).wb).getD 0
      s.finishStay x part (trap x n)
        (fun done s => eff x n done (s.updGrp x.gid fun g => g.scrub n wb part srcs)) (stay x) (next x n)

/-- No lane stays. -/
def noStay : Issue → Mask → Mask := fun _ _ => 0#32
/-- The operand traps alone. -/
def opTrap (srcs : List Operand) : Issue → Nat → LaneIx → Option TrapC := fun x n l => x.g.operandTrap n srcs l
/-- No effect beyond the PCs. -/
def noEff : Issue → Nat → Mask → State → State := fun _ _ _ s => s
/-- Every lane goes on at PC + 4. -/
def seqPc : Issue → Nat → LaneIx → Word := fun x _ => x.seq

/-! ### Branches and jumps (13 R286, R287) -/

/-- A branch taken in the lanes whose two sources satisfy the condition (13 R286). -/
def State.branch (s : State) (o : AB) (c : Word → Word → Bool) : Out :=
  let srcs : List Operand := [⟨o.a, 1⟩, ⟨o.b, 1⟩]
  s.stepOp false srcs (opTrap srcs) noEff noStay fun x n l =>
    if c (x.g.src n l o.a) (x.g.src n l o.b) then x.pc + 4#32 * o.off.signExtend 32 else x.pc + 4#32
/-- BEQ (13 R286). -/
def execBeq (o : AB) (s : State) : Out := s.branch o fun a b => a == b
/-- BNE (13 R286). -/
def execBne (o : AB) (s : State) : Out := s.branch o fun a b => a != b
/-- BLTS (13 R286). -/
def execBlts (o : AB) (s : State) : Out := s.branch o BitVec.slt
/-- BLTN (13 R286). -/
def execBltn (o : AB) (s : State) : Out := s.branch o BitVec.ult
/-- BGES (13 R286). -/
def execBges (o : AB) (s : State) : Out := s.branch o fun a b => !a.slt b
/-- BGEN (13 R286). -/
def execBgen (o : AB) (s : State) : Out := s.branch o fun a b => !a.ult b

/-- JMP (13 R287). -/
def execJmp (off : BitVec 18) (s : State) : Out :=
  s.stepOp false [] (opTrap []) noEff noStay fun x _ _ => x.pc + 4#32 * off.signExtend 32

/-- The misaligned trap of a jump target (13 R287, R288; 19 R365). -/
def targetTrap (w t : Word) : Option TrapC :=
  if t.extractLsb' 0 2 = 0#2 then none else some { rank := 2, code := 0x03, info := w, addr := t.setWidth 64 }

/-- JMPR: each lane to its own a (13 R287). -/
def execJmpr (a : Reg) (s : State) : Out :=
  let srcs : List Operand := [⟨a, 1⟩]
  s.stepOp false srcs (fun x n l => (x.g.operandTrap n srcs l).or (targetTrap (encode (.jmpr a)) (x.g.src n l a)))
    noEff noStay fun x n l => x.g.src n l a

/-! ### Window moves (08 R162) -/

/-- Entries a lane can spill: F ÷ 128 of the partition's frame size; a control core has no frame (08 R161). -/
def State.spillCap (s : State) (g : Group) : Nat :=
  (((s.partOf g).bind fun p => s.part p).map fun p => p.frame / 128).getD 0

/-- The register-stack-exhausted trap of a window move to `new` (08 R162). -/
def windowTrap (stackS cap : Nat) (new : Int) : Option TrapC :=
  if new < 0 then some { rank := 3, code := 0x0C, info := 1#32 }
  else if (stackS + cap : Nat) < new + 96 then some { rank := 3, code := 0x0C, info := 0#32 } else none

/-- Every entry of the window at `new` is resident: nothing to spill or fill (08 R159, R162). -/
def Lane.resident (v : Lane) (stackS new : Nat) : Bool := new + 96 ≤ v.wlo + stackS && v.wlo ≤ new

/-- The end of a window move, once every entry of the new windows is resident: the links go to `v94` and `v95` of the new
window, and lanes whose frame access failed trap with TINFO 2 (08 R162; 13 R288). -/
def State.windowEnd (s : State) (x : Issue) (n : Nat) (srcs : List Operand) (tr : LaneIx → Option TrapC)
    (moves : List WinMove) (links : Option (Word × Word)) : Out :=
  let wb := ((Mask.low x.act).map fun l => (x.g.lane l).wb).getD 0
  let move := fun (l : LaneIx) => moves.find? fun m => m.lane == l.val
  s.finish x x.act tr (fun done s => s.updGrp x.gid fun g =>
    (g.scrub n wb x.act srcs).mapOn done fun l v =>
      let v := { v with wb := ((move l).map WinMove.wb).getD v.wb }
      match links with
      | none => v
      | some (k94, k95) =>
        let st := (v.stack.setD {} (v.slot n 94) { val := k94 }).setD {} (v.slot n 95) { val := k95 }
        ({ v with stack := st }.fold k94).fold k95) fun l => ((move l).map WinMove.pc).getD x.pc

/-- An instruction that moves the window: `delta` per lane, `trap` its conditions ahead of the move's, `links` what it
writes to `v94` and `v95` of the new window, `next` the PC. What it reads, it reads before the move; the group parks inside
it while the spill engine works (08 R162; 13 R288). `w` is its word. -/
def State.windowOp (s : State) (w : Word) (srcs : List Operand) (trap : Issue → Nat → LaneIx → Option TrapC)
    (delta : Issue → Nat → LaneIx → Int) (links : Option (Issue → Word × Word))
    (next : Issue → Nat → LaneIx → Word) : Out :=
  s.withIssue fun x =>
    let n := s.stackOf x.g
    let there := fun (ms : List WinMove) (failed : Mask) =>
      ms.all fun m => Mask.has failed (Fin.ofNat 32 m.lane) || (x.g.lane (Fin.ofNat 32 m.lane)).resident n m.wb
    let k := links.map fun f => f x
    let new := fun l => ((x.g.lane l).wb : Int) + delta x n l
    let tr := fun l => (trap x n l).or (windowTrap n (s.spillCap x.g) (new l))
    match x.g.wait with
    | .window moves failed =>
      if there moves failed then
        s.windowEnd x n srcs (fun l =>
          if moves.any fun m => m.lane == l.val then
            if Mask.has failed l then some { rank := 4, code := 0x0C, info := 2#32 } else none
          else tr l) moves k
      else .next s
    | _ =>
      let linkPend := links.isSome && (Mask.lanes x.act).any fun l =>
        let v := x.g.lane l
        let e := (new l).toNat
        (v.stack.getD {} ((e + 94) % n)).pend || (v.stack.getD {} ((e + 95) % n)).pend
      if x.g.pending n x.act srcs || linkPend then .next s
      else
        let moves := ((Mask.lanes x.act).filter fun l => (tr l).isNone).map fun l =>
          { lane := l.val, wb := (new l).toNat, pc := next x n l : WinMove }
        if there moves 0#32 then s.windowEnd x n srcs tr moves k
        else .next (s.updGrp x.gid fun g => { g with pin := some ⟨x.act, w⟩, wait := .window moves 0#32 })

/-- WADJ (08 R165). -/
def execWadj (imm : BitVec 10) (s : State) : Out :=
  s.windowOp (encode (.wadj imm)) [] (opTrap []) (fun _ _ _ => imm.toInt) none seqPc

/-- CALL (13 R288). -/
def execCall (k : Reg) (off : BitVec 18) (s : State) : Out :=
  s.windowOp (encode (.call k off)) [] (opTrap []) (fun _ _ _ => k.toNat)
    (some fun x => (k.setWidth 32, x.pc + 4#32)) fun x _ _ => x.pc + 4#32 * off.signExtend 32

/-- CALLR (13 R288). -/
def execCallr (k a : Reg) (s : State) : Out :=
  let srcs : List Operand := [⟨a, 1⟩]
  s.windowOp (encode (.callr k a)) srcs
    (fun x n l => (x.g.operandTrap n srcs l).or (targetTrap (encode (.callr k a)) (x.g.src n l a)))
    (fun _ _ _ => k.toNat) (some fun x => (k.setWidth 32, x.pc + 4#32)) fun x n l => x.g.src n l a

/-- The two link registers `RET` reads, `v94` and `v95` (13 R288). -/
def linkRegs : List Operand := [⟨94#7, 1⟩, ⟨95#7, 1⟩]

/-- RET (13 R288). -/
def execRet (s : State) : Out :=
  s.windowOp (encode .ret) linkRegs
    (fun x n l => (x.g.operandTrap n linkRegs l).or (targetTrap (encode .ret) (x.g.src n l 95#7)))
    (fun x n l => -((x.g.src n l 94#7).toNat : Int)) none fun x n l => x.g.src n l 95#7

/-! ### Rejoin masks (13 R289, R290) -/

/-- A group that Breakwater has marked parks after a boundary instruction (20 R402). -/
def Group.shedPoint (g : Group) : Group := { g with shed := if g.shed = .marked then .parked else g.shed }
/-- A boundary instruction of both kinds: besides, a group asked to stop stops (19 R375). -/
def Group.boundary (g : Group) : Group := { g.shedPoint with stopped := g.stopped || g.stopping }

/-- RJEN (13 R290). -/
def execRjen (k : BitVec 3) (s : State) : Out :=
  s.stepOp false [] (opTrap []) (fun x _ _ s => s.updGrp x.gid fun g =>
    { g with rj := Vector.ofFn fun j => if j.val = k.toNat then g.rj.get j ||| x.act else g.rj.get j }) noStay seqPc
/-- RJWAIT: the active lanes whose bit is set wait, the others go on (13 R290). -/
def execRjwait (k : BitVec 3) (s : State) : Out :=
  let waits := fun (x : Issue) => x.act &&& x.g.rj.get (Fin.ofNat 8 k.toNat)
  s.stepOp false [] (opTrap []) (fun x _ _ s => s.updGrp x.gid fun g =>
    (g.mapOn (waits x) fun _ v => { v with st := .rejoin k.toNat }).boundary) (fun x _ => waits x) seqPc
/-- RJDROP (13 R290). -/
def execRjdrop (k : BitVec 3) (s : State) : Out :=
  s.stepOp false [] (opTrap []) (fun x _ _ s => s.updGrp x.gid fun g =>
    { g with rj := Vector.ofFn fun j => if j.val = k.toNat then g.rj.get j &&& ~~~x.act else g.rj.get j }) noStay seqPc
/-- RJCLR: the mask is empty, so its waiting lanes are released at the end of the issue (13 R289, R290). -/
def execRjclr (k : BitVec 3) (s : State) : Out :=
  s.stepOp false [] (opTrap []) (fun x _ _ s => s.updGrp x.gid fun g =>
    { g with rj := Vector.ofFn fun j => if j.val = k.toNat then 0#32 else g.rj.get j }) noStay seqPc

/-! ### Team barriers (13 R296) -/

/-- The lanes that an opening of barrier n has let go and that await their release wave: they belong to the instance that opened (13
R296; 18 R359). -/
def Group.openedAt (g : Group) (n : Nat) : Mask := g.opened.foldl (fun m e => if e.1 = n then m ||| e.2.2 else m) 0#32
/-- A group has arrived at barrier n: every lane that has not exited waits there or is marked there, and one at least is (13 R296). -/
def Group.arrivedAt (g : Group) (n : Nat) : Bool :=
  g.live != 0#32 && (Mask.lanes g.live).all fun l =>
    ((g.lane l).st == .barrier n && !(g.lane l).second && !Mask.has (g.openedAt n) l) || (g.lane l).marks.getLsbD n

/-- BAR: the active lanes wait at barrier n. A lane of a group that has already arrived waits for the opening and is then
counted for the next (13 R296). -/
def execBar (n : BitVec 4) (s : State) : Out :=
  s.stepOp false [] (opTrap []) (fun x _ _ s => s.updGrp x.gid fun g =>
    (g.mapOn x.act fun _ v => { v with st := .barrier n.toNat, second := x.g.arrivedAt n.toNat }).boundary)
    (fun x _ => x.act) seqPc
/-- BARA: the active lanes are marked arrived and go on; of a group that has already arrived they wait (13 R296). Not
a stop of 19 R375. -/
def execBara (n : BitVec 4) (s : State) : Out :=
  s.stepOp false [] (opTrap []) (fun x _ _ s => s.updGrp x.gid fun g =>
    (if x.g.arrivedAt n.toNat then
      g.mapOn x.act fun _ v => { v with st := .barrier n.toNat, second := true }
    else g.mapOn x.act fun _ v => { v with marks := v.marks ||| (1#16 <<< n.toNat) }).shedPoint)
    (fun x _ => if x.g.arrivedAt n.toNat then x.act else 0#32) seqPc

/-! ### NOP, YIELD, TRAPC, BRK, EXIT, SIGX (13 R297, R300; 12 R272) -/

/-- NOP (13 R297). -/
def execNop (s : State) : Out := s.stepOp false [] (opTrap []) noEff noStay seqPc
/-- YIELD: a boundary (13 R297). -/
def execYield (s : State) : Out :=
  s.stepOp false [] (opTrap []) (fun x _ _ s => s.updGrp x.gid Group.boundary) noStay seqPc
/-- TRAPC: the software trap with TINFO = a (13 R297). -/
def execTrapc (o : A1a) (s : State) : Out :=
  let srcs : List Operand := [⟨o.a, 1⟩]
  s.stepOp o.g srcs (fun x n l =>
    (x.g.operandTrap n srcs l).or (some { rank := 2, code := 0x11, info := x.g.src n l o.a })) noEff noStay seqPc
/-- BRK: the breakpoint trap (13 R297). -/
def execBrk (g : Bool) (s : State) : Out :=
  s.stepOp g [] (fun _ _ _ => some { rank := 2, code := 0x10 }) noEff noStay seqPc
/-- EXIT; what it completes happens at the end of the issue (13 R300). -/
def execExit (g : Bool) (s : State) : Out :=
  s.stepOp g [] (opTrap []) (fun x _ done s => s.updGrp x.gid fun g => g.leaveLanes done) (fun _ done => done) seqPc
/-- SIGX: folds a into the register signature (12 R272). -/
def execSigx (o : A1a) (s : State) : Out :=
  let srcs : List Operand := [⟨o.a, 1⟩]
  s.stepOp o.g srcs (opTrap srcs) (fun x n done s => s.updGrp x.gid fun g =>
    g.mapOn done fun l v => v.fold (x.g.src n l o.a)) noStay seqPc

end Sys2Proof.Machine
end

