-- ==== Sys2Proof/Machine/Barrier.lean ====
section
/-! DEFINITION. Opening team barriers and releasing their groups in waves (13 R296; 18 R359). -/

namespace Sys2Proof.Machine

/-- Barrier 15 of a gang grid's launch teams is the grid barrier (18 R354). -/
def State.isGridBar (s : State) (t : Team) (n : Nat) : Bool :=
  n == 15 && t.kind == .launch && ((s.grid t.grid).map Grid.gang).getD false
/-- A group's arrival at barrier n goes on, from the moment the group arrives: its release, at team scope, at device scope at the grid
barrier, waits for the stores and atomics issued before it and at team scope for the full clock, and is then performed (13 R296; 18
R354; 07 R148, R152). -/
def State.arriveAt (s : State) (gid n : Nat) : State :=
  match s.grp gid with
  | none => s
  | some g =>
    match (g.arr.find n).or (if g.arrivedAt n then some { owed := s.laneReqs gid ReqKind.writes } else none) with
    | none => s
    | some a =>
      if a.done then s
      else
        let a := if a.owed.all fun r => (s.reqs.find r).isNone then { a with clk := a.clk.or (some g.vc) } else a
        let wide := (s.team g.team).any fun t => s.isGridBar t n
        if a.clk.any fun c => wide || c.le (s.applied (dieOf gid)) then
          (s.updGrp gid fun g => { g with arr := g.arr.put n { a with done := true, rel := g.vc } }).releasePoint gid none
        else s.updGrp gid fun g => { g with arr := g.arr.put n a }
/-- A group's arrival at barrier n has been performed. -/
def Group.here (g : Group) (n : Nat) : Bool := (g.arr.find n).any Arrival.done
/-- The groups of a team in GRPIX order. -/
def State.byGrpix (s : State) (tid : Nat) : List (Nat × Group) :=
  sortBy (fun a b => a.2.grpix ≤ b.2.grpix) (s.groupsOf tid)
/-- Barrier n opens for a group: its arrival is over and its marks clear; at a grid barrier it takes the clocks that the arrivals
released (13 R296; 18 R354). -/
def Group.openAt (g : Group) (n : Nat) (clk : Clk) : Group :=
  { (g.mapLanes fun _ v => { v with marks := v.marks &&& ~~~(1#16 <<< n) }) with arr := g.arr.del n, vc := g.vc.join clk }
/-- A group lets go of barrier n; if lanes wait it joins its domain's release queue (13 R296; 18 R354, R359). -/
def State.openGroup (s : State) (gid n : Nat) (grid : Bool) (clk : Clk) : State :=
  match s.grp gid with
  | none => s
  | some g =>
    let w := g.inState (.barrier n)
    let s := s.setGrp gid { (g.openAt n clk) with opened := if w = 0#32 then g.opened else g.opened ++ [(n, grid, w)] }
    if w = 0#32 then s else s.updDomain (domainOf (coreOf gid)) fun d => { d with relq := d.relq ++ [gid] }
/-- Opens a team barrier, or the grid barrier for a team: its instance count rises and its groups are appended in GRPIX order (13 R296,
18 R354, R359). -/
def State.openTeam (s : State) (tid n : Nat) (grid : Bool) (clk : Clk) : State :=
  (s.byGrpix tid).foldl (fun s e => s.openGroup e.1 n grid clk)
    (s.updTeam tid fun t => { t with bars := t.bars.setD 0 n (t.bars.getD 0 n + 1), gridArr := t.gridArr && !grid })
/-- The teams of a grid that are saved, and a change of those of one. -/
def State.savedOf (s : State) (gn : Nat) : List SavedTeam :=
  (((s.grid gn).map Grid.saved).getD []).flatMap fun k => ((s.streams.find k).map Stream.teams).getD []
def State.mapSaved (s : State) (gn : Nat) (f : SavedTeam → SavedTeam) : State :=
  let mine := ((s.grid gn).map Grid.saved).getD []
  { s with streams := s.streams.map fun e => if mine.contains e.1 then (e.1, { e.2 with teams := e.2.teams.map f }) else e }
/-- Releases lanes of a group that wait at barrier n: they go on at PC + 4; those that had arrived a second time count for the next
instance; the group performs a team-scope acquire, or a device-scope one (13 R296, 18 R354). -/
def Group.releaseBar (g : Group) (n : Nat) (grid : Bool) (m : Mask) : Group :=
  let w := g.inState (.barrier n) &&& m
  let again := maskOf fun l => Mask.has w l && (g.lane l).second
  let g := { g with acq := g.acq || grid }
  let g := g.mapOn w fun _ v => { v with second := false, starve := 0 }
  let g := (Mask.lanes w).foldl (fun g l => g.moveLane l (g.lane l).pc ((g.lane l).pc + 4#32)) g
  (g.mapOn again fun _ v => { v with marks := v.marks ||| (1#16 <<< n) }).settle
/-- The openings of a group's barriers are carried out, as its record holds it (18 R360). -/
def Group.releaseAll (g : Group) : Group :=
  { (g.opened.foldl (fun g e => g.releaseBar e.1 e.2.1 e.2.2) g) with opened := [] }
/-- A saved team whose arrival stands: the opening releases its groups where they are saved (18 R354, R360). -/
def SavedTeam.openGrid (v : SavedTeam) (clk : Clk) : SavedTeam :=
  if v.team.kind == .launch && v.team.gridArr then
    { v with
      team := { v.team with gridArr := false, bars := v.team.bars.setD 0 15 (v.team.bars.getD 0 15 + 1) }
      groups := v.groups.map fun e => (e.1, (e.2.openAt 15 clk).releaseBar 15 true 0xFFFFFFFF#32) }
  else v
/-- Every launch team of a grid that has not retired has arrived at the grid barrier, and one at least has; saved teams count (18
R354). -/
def State.gridArrived (s : State) (gn : Nat) : Bool :=
  let ts := (((s.teamsOf gn).map Prod.snd) ++ (s.savedOf gn).map SavedTeam.team).filter fun t => t.kind == .launch
  !ts.isEmpty && ts.all Team.gridArr
/-- Opens the grid barrier: clusters are admitted in ascending (c − i) mod C, teams by rank; saved teams are released where they are
saved (18 R354, R359, R360). -/
def State.openGrid (s : State) (gn : Nat) : State :=
  match s.grid gn with
  | none => s
  | some g =>
    let ts := (s.teamsOf gn).filter fun e => e.2.kind == .launch
    let c := g.recd.x * g.recd.y * g.recd.z / max 1 (g.recd.w * g.recd.h)
    let pos := fun (e : Nat × Team) => (e.2.cluster + c - g.barInst % max 1 c) % max 1 c * 64 + e.2.rank
    let s := s.mapSaved gn fun v => v.openGrid g.barClk
    (sortBy (fun a b => pos a ≤ pos b) ts).foldl (fun s e => s.openTeam e.1 15 true g.barClk)
      (s.updGrid gn fun g => { g with barInst := g.barInst + 1, barClk := {} })
/-- What the arrivals of groups at barrier n released. -/
def arrivalClk (gs : List (Nat × Group)) (n : Nat) : Clk :=
  gs.foldl (fun (c : Clk) e => c.join (((e.2.arr.find n).map Arrival.rel).getD {})) {}
/-- Opens barrier n of a team when every group of it that has not retired has arrived (13 R296); at a grid barrier the team has
then arrived (18 R354). -/
def State.openBarrier (s : State) (tid n : Nat) : State :=
  match s.team tid with
  | none => s
  | some t =>
    let gs := s.groupsOf tid
    let grid := s.isGridBar t n
    if !gs.isEmpty && !(grid && t.gridArr) && gs.all fun e => e.2.here n then
      if grid then
        (s.updTeam tid fun t => { t with gridArr := true }).updGrid t.grid fun g => { g with barClk := g.barClk.join (arrivalClk gs n) }
      else s.openTeam tid n false {}
    else s
/-- The barrier numbers at which lanes of a group wait or are marked, or at which it has arrived. -/
def Group.barriers (g : Group) : List Nat :=
  (List.range 16).filter fun n =>
    (g.arr.find n).isSome || allLanes.any fun l => (g.lane l).st == .barrier n || (g.lane l).marks.getLsbD n
/-- Every group's arrivals go on (13 R296). -/
def State.arrivals (s : State) : State :=
  s.groups.foldl (fun s e => (e.2.barriers).foldl (fun s n => s.arriveAt e.1 n) s) s
/-- Opens every barrier that is ready: after the team barriers, the grid barriers at which the last team has arrived, or the last team
that had not has retired (18 R354). A control core is a team of its own (log 8). -/
def State.openBarriers (s : State) : State :=
  let s := s.groups.foldl (fun s e => (e.2.barriers).foldl (fun s n =>
    if e.2.priv then
      s.updGrp e.1 fun g => if g.here n then (g.openAt n {}).releaseBar n false 0xFFFFFFFF#32 else g
    else s.openBarrier e.2.team n) s) s
  s.grids.foldl (fun s e => if e.2.gang && s.gridArrived e.1 then s.openGrid e.1 else s) s
/-- A group whose wave comes: it is no longer shed, and the lanes of its earliest opening are released. One whose class is shed
leaves the queue and its lanes stay waiting (18 R359, R360; 20 R406). -/
def State.releaseGroup (s : State) (gid : Nat) : State :=
  match s.grp gid with
  | none => s
  | some g =>
    if g.pclass < (s.domain (domainOf (coreOf gid))).allowed then s
    else
      let g := { g with shed := .running }
      s.setGrp gid (match g.opened with
        | (n, grid, m) :: rest => { (g.releaseBar n grid m) with opened := rest }
        | [] => g)

/-- Groups in one wave: ISLOPE[7:0] (18 R359). -/
def Domain.gpw (d : Domain) : Nat := (d.islope.extractLsb' 0 8).toNat
/-- RELEASE_WAVE: the first GPW groups of a domain's release queue are released (18 R359). -/
def execReleaseWave (dom : Nat) (s : State) : Out :=
  let wave := (s.domain dom).relq.take (max 1 (s.domain dom).gpw)
  let s := s.updDomain dom fun d => { d with relq := d.relq.drop wave.length }
  .next (wave.foldl (fun s gid => s.releaseGroup gid) s)

end Sys2Proof.Machine
end

