-- ==== Sys2Proof/Machine/Fetch.lean ====
section
/-! DEFINITION. Fetching instruction words: the instruction caches and loop buffers (13 R295, R298), `LOOP`, `IFENCE` and
`ICINV` (13 R291, R292, R298), and the end of an instruction-cache miss. -/

namespace Sys2Proof.Machine

/-- The code base of a group; a control core's is 0 (log 8). -/
def State.codeBase (s : State) (g : Group) : Dword := ((s.gridOf g).map fun n => n.recd.codeBase).getD 0
/-- The fetch address of a PC, in 64 bits (03 R56). -/
def State.fetchVa (s : State) (g : Group) (pc : Word) : Dword := s.codeBase g + pc.setWidth 64
/-- The partition number that keys a group's instruction lines; 64 stands for a control core. -/
def State.fetchPart (s : State) (g : Group) : Nat := (s.partOf g).getD 64
/-- Key of an instruction-cache line: partition and virtual line (log 9). -/
def ilineKey (part : Nat) (va : Dword) : Nat := part * 2 ^ 57 + va.toNat % 2 ^ 57 / 128
/-- A word in a core's instruction cache. -/
def State.ilineWord (s : State) (core part : Nat) (va : Dword) : Option Word :=
  ((s.core core).ilines.find (ilineKey part va)).map fun l => l.words.getD (va.toNat % 128 / 4) 0
/-- The answer to a fetch: what was asked for, no such code, or a wait for a line that is pinned under another key or for a path
(11 R245; 04 R76). -/
inductive Fetched (α : Type) where
  | got (a : α)
  | fails
  | waits
  deriving DecidableEq, Repr
/-- A core's instruction cache takes a line; at 512 lines some line leaves (log 9). -/
def State.addIline (s : State) (core key : Nat) (bs : List Byte) : State :=
  s.updCore core fun c => { c with
    ilines := (if c.ilines.length < 512 then c.ilines else c.ilines.drop 1).put key ⟨wordsOf bs⟩ }
/-- Reads a line at its home slice with execute permission into the instruction cache (13 R298; 03 R56).
A control core fetches the firmware image at the offset that its PC is (21 R417, R418; log 8). -/
def State.fetchLine (s : State) (core : Nat) (part : Option Nat) (va : Dword) : State × Fetched Unit :=
  if classify va ≠ .global then (s, .fails)
  else if part.isNone && va.toNat < s.fw.size then
    (s.addIline core (ilineKey 64 va) (getBytes s.fw.image (va.toNat / 128 * 128) 128), .got ())
  else
    let (s, lk) := match part with
      | some p => s.lookNow core p va needFetch
      | none => (s, s.lookCtrl va)
    match lk with
    | .at pa key =>
      if !s.engineReady core (part.getD 31) (pa / 128 * 128) key 128 then (s, .waits)
      else
        let (s, bs, _) := s.readHome (pa / 128 * 128) key 128
        (s.addIline core (ilineKey (part.getD 64) va) bs, .got ())
    | .walk => (s, .waits)
    | _ => (s, .fails)

/-- The barrel of a group on its core. -/
def barrelOf (gid : Nat) : Nat := slotOf gid / 8
/-- The body that a loop buffer of the group's barrel holds at a code address (13 R295). -/
def State.bodyAt (s : State) (gid part va len : Nat) : Option Body :=
  ((s.core (coreOf gid)).loopBuf.getD [] (barrelOf gid)).find? fun b => b.part == part && b.va == va && b.words.length == len
/-- The word of a loop body that the group issues from its loop buffer (13 R295, R298). -/
def State.loopWord (s : State) (gid : Nat) (g : Group) (wb : Nat) (pc : Word) : Option Word :=
  (g.levels.reverse.find? fun (lv : Level) =>
    lv.buffered && lv.wbn == wb && lv.start.toNat ≤ pc.toNat && pc.toNat ≤ lv.stop.toNat).bind fun lv =>
      let len := (lv.stop.toNat - lv.start.toNat) / 4 + 1
      (s.bodyAt gid (s.fetchPart g) (s.fetchVa g lv.start).toNat len).bind fun b =>
        b.words[(pc.toNat - lv.start.toNat) / 4]?
/-- The word at a PC as a group fetches it now: from the loop buffer or the instruction cache; none on a miss. -/
def State.fetchAt (s : State) (gid : Nat) (g : Group) (wb : Nat) (pc : Word) : Option Word :=
  (s.loopWord gid g wb pc).or (s.ilineWord (coreOf gid) (s.fetchPart g) (s.fetchVa g pc))
/-- The word that an issue fetches; inside an instruction it is that instruction's. -/
def State.fetchWord (s : State) (x : Issue) : Option Word :=
  match x.g.pin with
  | some p => some p.word
  | none =>
    let wb := ((Mask.low x.act).map fun l => (x.g.lane l).wb).getD 0
    s.fetchAt x.gid x.g wb x.pc

/-- ICACHE_FILL: the miss of a group's next issue ends, with the current line or a code fetch fault of its lanes (13 R298;
03 R56, R59). -/
def execIcacheFill (gid : Nat) (s : State) : Out :=
  match (s.grp gid).bind (issueOf gid) with
  | none => .next s
  | some x =>
    if (s.fetchWord x).isSome then .next s
    else
      let va := s.fetchVa x.g x.pc
      match s.fetchLine (coreOf gid) (s.partOf x.g) va with
      | (s, .fails) => s.trapAll x 0x12 0 va
      | (s, _) => .next s

/-! ### LOOP (13 R291, R292, R295) -/

/-- The words of a body as the group would fetch them, filling lines that miss. -/
def State.fetchBody (s : State) (gid : Nat) (g : Group) (wb : Nat) (pc : Word) : Nat → State × Fetched (List Word)
  | 0 => (s, .got [])
  | len + 1 =>
    let (s, first) : State × Fetched Word := match s.fetchAt gid g wb pc with
      | some w => (s, .got w)
      | none => match s.fetchLine (coreOf gid) (s.partOf g) (s.fetchVa g pc) with
        | (s, .got _) => (s, ((s.fetchAt gid g wb pc).map Fetched.got).getD .fails)
        | (s, .fails) => (s, .fails)
        | (s, .waits) => (s, .waits)
    match first with
    | .got w => match State.fetchBody s gid g wb (pc + 4#32) len with
      | (s, .got ws) => (s, .got (w :: ws))
      | r => r
    | .fails => (s, .fails)
    | .waits => (s, .waits)
/-- Holds a body in the barrel's loop buffer of 256 instructions if there is room, or reuses one held at its address
(13 R295). Answers whether the level issues from the buffer. -/
def State.bufferBody (s : State) (gid : Nat) (g : Group) (wb : Nat) (start : Word) (len : Nat) : State × Fetched Bool :=
  let part := s.fetchPart g
  let va := (s.fetchVa g start).toNat
  if (s.bodyAt gid part va len).isSome then (s, .got true)
  else
    let held := (s.core (coreOf gid)).loopBuf.getD [] (barrelOf gid)
    if 256 < (held.map fun b => b.words.length).sum + len then (s, .got false)
    else match s.fetchBody gid g wb start len with
      | (s, .got ws) =>
        (s.updCore (coreOf gid) fun c => { c with
          loopBuf := c.loopBuf.setD [] (barrelOf gid) (held ++ [⟨part, va, ws⟩]) }, .got true)
      | (s, .fails) => (s, .got false)
      | (s, .waits) => (s, .waits)
/-- The last word of a body: of a body already held that the level would reuse, otherwise as the group would fetch it (13 R292,
R295). -/
def State.lastWord (s : State) (gid : Nat) (g : Group) (wb : Nat) (start stop : Word) (len : Nat) : State × Fetched (List Word) :=
  match s.bodyAt gid (s.fetchPart g) (s.fetchVa g start).toNat len with
  | some b => (s, .got (b.words.drop (len - 1)))
  | none => s.fetchBody gid g wb stop 1
/-- The opcode is one that may not end a loop body (13 R292 reason 4). -/
def endsBadly (w : Word) : Bool := 0x40 ≤ (w.extractLsb' 0 7).toNat && (w.extractLsb' 0 7).toNat ≤ 0x49
/-- LOOP (13 R291, R292): it reads its count in the lowest active lane only. -/
def execLoop (a : Reg) (len : BitVec 10) (s : State) : Out :=
  s.withIssue fun x =>
    match Mask.low x.act with
    | none => .next s
    | some l0 =>
      let n := s.stackOf x.g
      let o : List Operand := [⟨a, 1⟩]
      let one := Mask.add 0#32 l0
      let wb := (x.g.lane l0).wb
      if x.g.pending n one o then .next s
      else
        let s := s.updGrp x.gid fun g => g.scrub n wb one o
        match x.g.operandTrap n o l0 with
        | some c => s.trapAll x c.code c.info 0
        | none =>
          let c := x.g.src n l0 a
          let start := x.pc + 4#32
          let stop := x.pc + 4#32 * len.setWidth 32
          let depth := x.g.levels.length
          let joins := x.g.levels.getLast?.any fun lv => lv.opener == x.pc && lv.wbn == wb
          if len.toNat = 0 || 256 < len.toNat then s.trapAll x 0x0B 1 0
          else if c = 0#32 then s.finish x x.act (fun _ => none) (fun _ s => s) fun _ => stop + 4#32
          else if joins then
            s.finish x x.act (fun _ => none) (fun done s => s.updGrp x.gid fun g =>
              g.updLevel (depth - 1) fun lv => { lv with members := lv.members ||| done }) x.seq
          else if 3 ≤ depth then s.trapAll x 0x0B 2 0
          else if x.g.levels.any fun lv => lv.wbn == wb && !(lv.start.toNat ≤ start.toNat && stop.toNat ≤ lv.stop.toNat) then
            s.trapAll x 0x0B 3 0
          else
            let opens := fun (s : State) => match s.bufferBody x.gid x.g wb start len.toNat with
              | (s, .waits) => .next s
              | (s, buf) => s.finish x x.act (fun _ => none) (fun done s => s.updGrp x.gid fun g =>
                { g with
                  lc := Vector.ofFn fun k => if k.val = depth then c else g.lc.get k
                  levels := g.levels ++ [⟨start, stop, wb, x.pc, done, 0#32, buf == .got true⟩] }) x.seq
            match s.lastWord x.gid x.g wb start stop len.toNat with
            | (s, .waits) => .next s
            | (s, .fails) => opens s
            | (s, .got ws) => if ws.any endsBadly then s.trapAll x 0x0B 4 0 else opens s

/-! ### After an issue (13 R281; 08 R173) -/

/-- A word of a register that the issue found uncorrectable and marked poisoned. -/
def RCell.found (a b : RCell) : Bool := a.unc && !b.unc && b.pois
/-- How many words of a group an issue has marked poisoned: entries, saved latches and `s` registers (08 R173). -/
def Group.foundIn (g h : Group) : Nat :=
  (allLanes.map fun l =>
    ((g.lane l).stack.filter fun e => e.2.found ((h.lane l).stack.getD {} e.1)).length +
      ((List.range 4).filter fun i => ((g.lane l).fw.get i).found ((h.lane l).fw.get i)).length).sum +
    (g.s.filter fun e => e.2.found (h.s.getD {} e.1)).length
/-- The registers whose pending bits alone make a transfer wait that can leave its group as it found it by going to itself. -/
def Instr.loops (i : Instr) : Option (List Operand) :=
  match i with
  | .beq o | .bne o | .blts o | .bltn o | .bges o | .bgen o => some [⟨o.a, 1⟩, ⟨o.b, 1⟩]
  | .jmp _ => some []
  | .jmpr a => some [⟨a, 1⟩]
  | .call k _ => if k = 0 then some linkRegs else none
  | .callr k a => if k = 0 then some (⟨a, 1⟩ :: linkRegs) else none
  | .ret => some linkRegs
  | _ => none
/-- A state after a move, where the move gives one. -/
def thenDo (o : Out) (f : State → State) : Out :=
  match o with
  | .next s => .next (f s)
  | .fault r => .fault r
  | .refused r => .refused r
/-- What follows an issue. The words it marked poisoned are counted against the core; and an issue that has left its group as it
was has not been performed: its lanes are parked inside it, and no other lane of the group issues until it is (13 R281; 06 R127). -/
def State.afterIssue (s : State) (i : Instr) (w : Word) (x : Issue) : State :=
  match s.grp x.gid with
  | none => s
  | some g =>
    let n := x.g.foundIn g
    let s := if n = 0 then s else s.updCore (coreOf x.gid) fun c => { c with poisoned := c.poisoned + n }
    if g = x.g && g.pin.isNone && (Instr.loops i).all (x.g.pending (s.stackOf x.g) x.act) then
      s.updGrp x.gid fun g => { g with pin := some ⟨x.act, w⟩ }
    else s

/-! ### IFENCE and ICINV (13 R298) -/

/-- IFENCE: every `ICINV` completes at its issue; open loops issue through the instruction cache from now on (13 R298). -/
def execIfence (s : State) : Out :=
  s.stepOp false [] (opTrap []) (fun x _ _ s => s.updGrp x.gid fun g =>
    { g with levels := g.levels.map fun (lv : Level) => { lv with buffered := false } }) noStay seqPc
/-- A body holds words of a virtual line. -/
def Body.meets (b : Body) (part line : Nat) : Bool :=
  b.part == part && b.va / 128 ≤ line && line ≤ (b.va + 4 * b.words.length - 1) / 128
/-- Removes a code line from a core's instruction cache and the bodies that hold words of it (13 R298). -/
def Core.dropCode (c : Core) (part : Nat) (va : Dword) : Core :=
  { c with
    ilines := c.ilines.del (ilineKey part va)
    loopBuf := (c.loopBuf.map fun (e : Nat × List Body) =>
      (e.1, e.2.filter fun b => !b.meets part (va.toNat / 128))).filter fun e => !e.2.isEmpty }
/-- ICINV (13 R298). -/
def execIcinv (a : Reg) (s : State) : Out :=
  let srcs : List Operand := [⟨a, 1⟩]
  s.stepOp false srcs (opTrap srcs) (fun x n done s =>
    (Mask.lanes done).foldl (fun s l =>
      s.updCore (coreOf x.gid) fun c => c.dropCode (s.fetchPart x.g) (s.fetchVa x.g (x.g.src n l a))) s) noStay seqPc

end Sys2Proof.Machine
end

