-- ==== Sys2Proof/Machine/System.lean ====
section
/-! DEFINITION. Illegal and privileged words (02 R31 to R34). -/

namespace Sys2Proof

/-- Selectors that exist only in privileged mode (08 R176). -/
def privSelector (sel : Nat) : Bool := 0x100 ≤ sel && sel ≤ 0x107
/-- Selectors that `PUTS` may write in a mode: RW or W1C there; a register that is RO for a control core is none of them (08 R176;
02 R31; log 21). -/
def writableIn (sel : Nat) (priv : Bool) : Bool :=
  sel == 0x020 || (0x028 ≤ sel && sel ≤ 0x02F) || (0x030 ≤ sel && sel ≤ 0x032) || sel == 0x040 || sel == 0x050 ||
    sel == 0x0A0 || (priv && (sel == 0x053 || sel == 0x080 || sel == 0x093 || sel == 0x101 || sel == 0x106))
/-- The trap that the issuing mode raises for a legal word, if any (02 R31, R33). -/
def Instr.modeTrap (i : Instr) (priv : Bool) : Option Nat :=
  match i with
  | .gets _ x => if privSelector x.toNat && !priv then some 0x02 else none
  | .puts x _ =>
    if privSelector x.toNat && !priv then some 0x02 else if writableIn x.toNat priv then none else some 0x01
  | .dwrd _ _ | .dwwr _ _ _ | .tret _ | .halt _ => if priv then none else some 0x02
  | _ => none
/-- The cause of a word that traps at decode: illegal before privilege (02 R34). -/
def issueTrap (w : Word) (priv : Bool) : Nat :=
  match decode w with
  | .error _ => 0x01
  | .ok i => (i.modeTrap priv).getD 0x01

end Sys2Proof

namespace Sys2Proof.Machine

/-- ILLEGAL_WORD_ISSUE: every active lane traps at decode with no other effect (02 R32, R33). -/
def execIllegalWordIssue (w : Word) (s : State) : Out :=
  s.withIssue fun x => s.trapAll x (issueTrap w x.g.priv) w 0

end Sys2Proof.Machine
end

