-- ==== Sys2Proof/Machine/Engine.lean ====
section
/-! DEFINITION. Barrier objects, the copy engine and `PUT` (05). A copy moves in pieces that end at multiples of 64 in its
destination (log 19); each is read by COPY_READ_RETURN and landed by COPY_LANDING. -/

namespace Sys2Proof.Machine

/-! ### Barrier objects (R102 to R105, R107) -/

/-- A stored scratchpad word. -/
def Core.word (k : Core) (a : Nat) : Word := wordOf (getBytes k.scratch a 4)
def Core.setWord (k : Core) (a : Nat) (w : Word) : Core := { k with scratch := putBytes k.scratch a (bytesOf w) }
/-- An object whose expected, arrived and status words these are is open (R105). -/
def objOpen (expected arrived status : Word) : Bool := expected.ule arrived || status.getLsbD 31
/-- The object at a byte of a core's scratchpad is open. -/
def Core.isOpen (k : Core) (a : Nat) : Bool := objOpen (k.word a) (k.word (a + 4)) (k.word (a + 8))
/-- A granule is marked (R90). -/
def Core.marked (k : Core) (a : Nat) : Bool := k.marks.contains (a / 16)
/-- Applies an error to a status word (R104). -/
def statusErr (st : Word) (code : Nat) : Word :=
  let st := st ||| 0x80000000#32
  let st := if st.extractLsb' 8 8 = 0#8 then st ||| (BitVec.ofNat 32 code <<< 8) else st
  if st.extractLsb' 0 8 = 0xFF#8 then st else st + 1#32
/-- The first byte of a team's scratchpad block on its core. -/
def State.locBase (s : State) (tid : Nat) : Nat := ((s.team tid).map Team.locBlk).getD 0
/-- The core a team is on. -/
def State.coreOfTeam (s : State) (tid : Nat) : Nat := ((s.team tid).map Team.core).getD 0
/-- A team's offset names a marked granule (R96, R107, R110). -/
def State.objMarked (s : State) (tid off : Nat) : Bool :=
  off % 16 = 0 && (match s.team tid with
    | none => false
    | some t => off < t.locSize && (s.core t.core).marked (t.locBlk + off))
/-- The written-clocks that the counts of the object at a team's offset have brought (07 R156). -/
def State.objClock (s : State) (tid off : Nat) : Clk := ((s.team tid).map fun t => t.objClk.getD {} off).getD {}
/-- A release event of the object at a team's offset: the generation rises and every lane parked on it is released with the
status and the clocks it finds (R105, R109, R111; 07 R156). -/
def State.releaseObj (s : State) (tid off : Nat) : State :=
  let c := s.coreOfTeam tid
  let a := s.locBase tid + off
  let s := s.updCore c fun k => k.setWord (a + 12) (k.word (a + 12) + 1#32)
  let st := (s.core c).word (a + 8)
  let clk := s.objClock tid off
  (s.groupsOf tid).foldl (fun s e => s.updGrp e.1 fun g => match g.wait with
    | .object ws => { g with wait := .object (ws.map fun w =>
        if w.off = off && w.status.isNone then { w with status := some st, clk } else w) }
    | _ => g) s
/-- Applies an error to the object at a team's offset; one that finds no mark is discarded (R104, R107). -/
def State.objError (s : State) (tid off code : Nat) : State :=
  let c := s.coreOfTeam tid
  let a := s.locBase tid + off
  if s.objMarked tid off then
    (s.updCore c fun k => k.setWord (a + 8) (statusErr (k.word (a + 8)) code)).releaseObj tid off
  else s
/-- Changes the expected or arrived word and releases when the object becomes open (R105). -/
def State.objChange (s : State) (tid off : Nat) (f : Core → Nat → Core) : State :=
  let c := s.coreOfTeam tid
  let a := s.locBase tid + off
  let was := (s.core c).isOpen a
  let s := s.updCore c fun k => f k a
  if !was && (s.core c).isOpen a then s.releaseObj tid off else s
/-- Adds to arrived, saturating with the count-overflow error, which is applied before the release of an object that the count
opens (R104, R105, R109). -/
def State.objAdd (s : State) (tid off n : Nat) : State :=
  let c := s.coreOfTeam tid
  let a := s.locBase tid + off
  let old := ((s.core c).word (a + 4)).toNat
  let add := fun (k : Core) (a : Nat) => k.setWord (a + 4) (BitVec.ofNat 32 (min (old + n) 0xFFFFFFFF))
  if 0xFFFFFFFF < old + n then
    let was := (s.core c).isOpen a
    let s := (s.updCore c fun k => add k a).objError tid off 0x07
    if was then s else s.releaseObj tid off
  else s.objChange tid off add
/-- A count arrives with the written-clock it brings, which a release by it has with it; answers whether the granule was marked (R107;
07 R156). -/
def State.objCount (s : State) (tid off n : Nat) (clk : Clk) : State × Bool :=
  if s.objMarked tid off then
    ((s.updTeam tid fun t => { t with objClk := t.objClk.setD {} off ((t.objClk.getD {} off).join clk) }).objAdd tid off n, true)
  else (s, false)

/-! ### Checks shared by descriptors and barrier instructions (R96, R101, R110) -/

/-- The descriptor-error trap (R96). -/
def descErr (reason : Nat) : TrapC := { rank := 5, code := 0x0F, info := BitVec.ofNat 32 reason }
/-- Alignment and bounds of a local operand of n bytes (R101, R110). -/
def localTrap (word : Word) (off n locSize : Nat) : Option TrapC :=
  if off % 16 ≠ 0 then some { rank := 2, code := 0x03, info := word, addr := BitVec.ofNat 64 off }
  else if locSize < off + n then some { rank := 3, code := 0x0E, addr := BitVec.ofNat 64 off }
  else none
/-- A barrier instruction's conditions: `init` for `BINIT`, which needs an unmarked granule (R110). -/
def State.objTrap (s : State) (x : Issue) (n : Nat) (word : Word) (srcs : List Operand) (init : Bool) (l : LaneIx)
    (off : Word) : Option TrapC :=
  let (blk, size, _) := s.locOf x.g
  (x.g.operandTrap n srcs l).or ((localTrap word off.toNat 16 size).or
    (let m := (s.core (coreOf x.gid)).marked (blk + off.toNat)
     if init && m then some { rank := 4, code := 0x08, info := word, addr := off.setWidth 64 }
     else if !init && !m then some (descErr 0x08) else none))

/-- A synchronous instruction whose values a primary logs and a replaying run takes from its log (12 R265, R268). -/
def State.inputOp (s : State) (x : Issue) (n : Nat) (part : Mask) (srcs : List Operand) (trap : LaneIx → Option TrapC)
    (key : LaneIx → LogKey) (nw : Bool) (dst : Operand) (folds : Bool) (eff : Mask → State → State)
    (val : LaneIx → Word) : Out :=
  let lanes := (Mask.lanes part).filter fun l => (trap l).isNone
  match s.logged x lanes key with
  | .stop s => .next s
  | lg =>
    let v := fun l => ((lg.values l).bind List.head?).getD (val l)
    let wb := ((Mask.low x.act).map fun l => (x.g.lane l).wb).getD 0
    (lg.onState s).finish x part trap (fun done s =>
      let s := eff done (s.updGrp x.gid fun g => (g.scrub n wb part srcs).writeSync n done nw dst (fun l => [v l]) folds)
      match lg with
      | .log _ => (Mask.lanes done).foldl (fun s l =>
          (s.logAppend x.gid { kind := (key l).kind, lane := l.val, grpix := 0, value := v l, operand := (key l).operand,
                               addr := (key l).addr }).1) s
      | .replay _ => s.consumed x.gid (Mask.lanes done).length
      | _ => s) x.seq

/-! ### Barrier instructions (R108 to R111) -/

/-- BINIT, BARV, BKILL and BEXP: the lanes' effects one after another (R109). `again` is what a lane meets whose object an
earlier lane of the issue has initialised or killed. -/
def State.objOp (s : State) (guard : Bool) (word : Word) (srcs : List Operand) (a : Reg) (init : Bool)
    (again : Word → Option TrapC) (f : Issue → Nat → LaneIx → Nat → State → State) : Out :=
  s.withIssue fun x =>
    let n := s.stackOf x.g
    let part := x.part guard
    let off := fun l => x.g.src n l a
    let trap := fun l =>
      let earlier := (Mask.lanes part).any fun k => k.val < l.val && off k == off l &&
        (s.objTrap x n word srcs init k (off k)).isNone
      (s.objTrap x n word srcs init l (off l)).or
        (if earlier then again (off l) else none)
    let absent := init && (Mask.lanes part).any fun l => (trap l).isNone &&
      (s.core (coreOf x.gid)).anyAbsent ((s.locOf x.g).1 + (off l).toNat) 16
    if x.g.pending n x.act srcs || absent then .next s
    else
      let wb := ((Mask.low x.act).map fun l => (x.g.lane l).wb).getD 0
      s.finish x part trap (fun done s =>
        (Mask.lanes done).foldl (fun s l => f x n l (off l).toNat s) (s.updGrp x.gid fun g => g.scrub n wb part srcs)) x.seq
/-- BINIT (R109). -/
def execBinit (o : A2ab) (s : State) : Out :=
  s.objOp o.g (encode (.binit o)) [⟨o.a, 1⟩, ⟨o.b, 1⟩] o.a true
    (fun off => some { rank := 4, code := 0x08, info := encode (.binit o), addr := off.setWidth 64 }) fun x n l off s =>
    let a := (s.locOf x.g).1 + off
    let bs := bytesOf (x.g.src n l o.b) ++ List.replicate 12 0
    (s.updCore (coreOf x.gid) fun k =>
      { (k.scrWrite (s.locOf x.g).2.2 a bs) with marks := (a / 16) :: k.marks }).updTeam x.g.team fun t =>
        { t with objClk := t.objClk.del off }
/-- BARV (R109). -/
def execBarv (o : A2ab) (s : State) : Out :=
  s.objOp o.g (encode (.barv o)) [⟨o.a, 1⟩, ⟨o.b, 1⟩] o.a false (fun _ => none) fun x n l off s =>
    s.objAdd x.g.team off (x.g.src n l o.b).toNat
/-- BEXP (R109). -/
def execBexp (o : A2ab) (s : State) : Out :=
  s.objOp o.g (encode (.bexp o)) [⟨o.a, 1⟩, ⟨o.b, 1⟩] o.a false (fun _ => none) fun x n l off s =>
    s.objChange x.g.team off fun k a => k.setWord a (k.word a + x.g.src n l o.b)
/-- BKILL: one release event, then the granule is unmarked (R105, R109). -/
def execBkill (o : A1a) (s : State) : Out :=
  s.objOp o.g (encode (.bkill o)) [⟨o.a, 1⟩] o.a false (fun _ => some (descErr 0x08)) fun x _ _ off s =>
    let a := (s.locOf x.g).1 + off
    let s := s.updCore (coreOf x.gid) fun k => k.setWord (a + 8) (k.word (a + 8) ||| 0x40000000#32)
    (s.objError x.g.team off 0x06).updCore (coreOf x.gid) fun k => { k with marks := k.marks.filter (· ≠ a / 16) }
/-- BTEST (R109, R111). -/
def execBtest (o : A2) (s : State) : Out :=
  s.withIssue fun x =>
    let n := s.stackOf x.g
    let srcs : List Operand := [⟨o.a, 1⟩]
    let dst : Operand := ⟨o.d, 1⟩
    let w := encode (.btest o)
    let k := s.core (coreOf x.gid)
    let at_ := fun l => (s.locOf x.g).1 + (x.g.src n l o.a).toNat
    if x.g.pending n x.act (srcs ++ if o.nw then [] else [dst]) then .next s
    else s.inputOp x n (x.part o.g) srcs (fun l => s.objTrap x n w srcs false l (x.g.src n l o.a))
      (fun _ => { kind := 5, operand := w, addr := 0 }) o.nw dst true (fun _ s => s)
      fun l => ofBool (k.isOpen (at_ l)) ||| (if (k.word (at_ l + 8)).getLsbD 31 then 2#32 else 0#32)

/-- The status of each lane of a `BWAIT` at its release. -/
def waitStatus (ws : List ObjWait) (l : LaneIx) : Word :=
  ((ws.find? fun w => w.lane == l.val).bind ObjWait.status).getD 0#32
/-- The written-clocks that the awaited objects had been brought at their releases (R111; 07 R156). -/
def waitClocks (ws : List ObjWait) : Clk := ws.foldl (fun (c : Clk) w => c.join w.clk) {}
/-- BWAIT ends for its lanes: values written, clocks joined (R109, R111; 07 R156). A replaying run whose own status differs
from the logged one diverges (12 R268). `first` says that it
ends at its issue, which is then the boundary of 20 R402. -/
def State.waitDone (s : State) (x : Issue) (n : Nat) (o : A2) (part : Mask) (srcs : List Operand)
    (trap : LaneIx → Option TrapC) (ws : List ObjWait) (first : Bool) : Out :=
  let clk := waitClocks ws
  let wb := ((Mask.low x.act).map fun l => (x.g.lane l).wb).getD 0
  let join := fun (s : State) => s.updGrp x.gid fun g =>
    { (if first then g.boundary.scrub n wb part srcs else g) with vc := g.vc.join clk }
  let w := encode (.bwait o)
  if o.d = Reg.z then s.finish x part trap (fun _ s => join s) x.seq
  else
    let key := fun (_ : LaneIx) => { kind := 5, operand := w, addr := 0 : LogKey }
    let lanes := (Mask.lanes part).filter fun l => (trap l).isNone
    match s.logged x lanes key with
    | .stop s => .next s
    | lg =>
      let differs := lanes.any fun l => ((lg.values l).bind List.head?).any fun v => v != waitStatus ws l
      if differs then .next (s.diverge x.g.team)
      else s.inputOp x n part srcs trap key o.nw ⟨o.d, 1⟩ true (fun _ s => join s) (waitStatus ws)
/-- The issue goes on as a wait inside the instruction `w` for the lanes that meet no trap; the others trap. -/
def State.pinWait (s : State) (x : Issue) (n : Nat) (part : Mask) (srcs : List Operand) (trap : LaneIx → Option TrapC)
    (w : Word) (k : Wait) : Out :=
  let out := maskOf fun l => Mask.has part l && (trap l).isSome
  let wb := ((Mask.low x.act).map fun l => (x.g.lane l).wb).getD 0
  let s := s.updGrp x.gid fun g =>
    { (g.scrub n wb part srcs) with pin := some ⟨x.act &&& ~~~out, w⟩, wait := k }
  match firstTrap part trap with
  | none => .next s
  | some (_, lanes) =>
    let c := ((Mask.low lanes).bind trap).getD ⟨0, 0, 0, 0⟩
    .next (s.takeTrap x.gid ⟨c.code, x.pc, lanes, c.info, c.addr, false⟩)
/-- BWAIT (R109 to R111). -/
def execBwait (o : A2) (s : State) : Out :=
  s.withIssue fun x =>
    let n := s.stackOf x.g
    let srcs : List Operand := [⟨o.a, 1⟩]
    let w := encode (.bwait o)
    let part := x.part o.g
    let core := s.core (coreOf x.gid)
    let blk := (s.locOf x.g).1
    match x.g.wait with
    | .object ws =>
      if ws.all fun v => v.status.isSome then s.waitDone x n o part srcs (fun _ => none) ws false else .next s
    | _ =>
      if x.g.pending n x.act (srcs ++ if o.nw || o.d = Reg.z then [] else [⟨o.d, 1⟩]) then .next s
      else
        let trap := fun l => s.objTrap x n w srcs false l (x.g.src n l o.a)
        let ok := (Mask.lanes part).filter fun l => (trap l).isNone
        let ws := ok.map fun l =>
          let off := (x.g.src n l o.a).toNat
          let st := if core.isOpen (blk + off) then some (core.word (blk + off + 8)) else none
          { lane := l.val, off, gen := core.word (blk + off + 12), status := st
            clk := if st.isSome then s.objClock x.g.team off else {} : ObjWait }
        if ws.all fun v => v.status.isSome then s.waitDone x n o part srcs trap ws true
        else (s.updGrp x.gid Group.boundary).pinWait x n part srcs trap w (.object ws)

/-! ### Copies (R92 to R101) -/

/-- A copy descriptor as read at issue (R92, R93). -/
structure CopyDesc where
  src : Dword
  dst : Dword
  rowBytes : Nat
  rows : Nat
  srcStride : Nat
  dstStride : Nat
  obj : Nat
  ctrl : Word
  resv : Dword
  deriving DecidableEq, Repr
/-- Reads 48 bytes as a copy descriptor. -/
def CopyDesc.ofBytes (b : List Byte) : CopyDesc :=
  let n := fun o k => natOfBytes ((b.drop o).take k)
  { src := BitVec.ofNat 64 (n 0 8), dst := BitVec.ofNat 64 (n 8 8), rowBytes := n 16 4, rows := n 20 4, srcStride := n 24 4
    dstStride := n 28 4, obj := n 32 4, ctrl := BitVec.ofNat 32 (n 36 4), resv := BitVec.ofNat 64 (n 40 8) }
/-- CONV, ACQ, REL, SCOPE and KEEP of a control word (R93). -/
def convOf (c : Word) : Nat := (c.extractLsb' 0 8).toNat % 16
def ctrlAcq (c : Word) : Bool := c.getLsbD 8
def ctrlRel (c : Word) : Bool := c.getLsbD 9
def ctrlScope (c : Word) : Scope :=
  let k := (c.extractLsb' 10 2).toNat
  if k = 0 then .team else if k = 1 then .cluster else if k = 2 then .device else .system
def ctrlKeep (c : Word) : Bool := c.getLsbD 12
/-- Destination bytes of a row (R94). -/
def dstRowBytes (conv n : Nat) : Nat := if conv = 1 then n / 3 * 4 else if conv = 2 then n / 4 * 3 else n
/-- The last row of a local range that does not leave the aperture ends at or before LOCSIZE; a range without a byte has no last
byte (R96, R99). -/
def rangeOk (off n rows stride locSize : Nat) : Bool :=
  rows = 0 || n = 0 || (off + n ≤ locSize &&
    (let r := if stride = 0 then 0 else min (rows - 1) ((2 ^ 32 - off - n) / stride)
     off + r * stride + n ≤ locSize))
/-- The places of a local range's rows that stay in the aperture. -/
def rowsIn (off n rows stride : Nat) : List Nat :=
  (List.range rows).filterMap fun r => if off + r * stride + n ≤ 2 ^ 32 then some (off + r * stride) else none

/-- The reason of a copy descriptor's first failing check (R96). -/
def State.copyReason (s : State) (tid : Nat) (d : CopyDesc) : Option Nat :=
  let conv := convOf d.ctrl
  if d.resv ≠ 0#64 || d.ctrl.extractLsb' 13 19 ≠ 0#19 || d.ctrl.extractLsb' 4 4 ≠ 0#4 then some 0x01
  else if 3 ≤ conv then some 0x02
  else if (conv = 1 && d.rowBytes % 3 ≠ 0) || (conv = 2 && d.rowBytes % 4 ≠ 0) then some 0x03
  else if d.rowBytes = 0 || 16777216 < d.rowBytes || d.rows = 0 || 1048576 < d.rows then some 0x04
  else if !s.objMarked tid d.obj then some 0x05
  else match classify d.dst with
    | .localAp off =>
      let n := dstRowBytes conv d.rowBytes
      if (rowsIn off n d.rows d.dstStride).any fun o =>
        (s.core (s.coreOfTeam tid)).anyMarked (s.locBase tid + o) n then some 0x06 else none
    | _ => none
/-- Bounds of a descriptor's local ranges, then aperture misuse of its bases (R96, R101). -/
def copyRangeTrap (word : Word) (d : CopyDesc) (locSize : Nat) : Option TrapC :=
  let bad := fun (va : Dword) (n stride : Nat) => match classify va with
    | .localAp off => if rangeOk off n d.rows stride locSize then none else some off
    | _ => none
  let mis := fun (va : Dword) => classify va == .misuse
  match (bad d.src d.rowBytes d.srcStride).or (bad d.dst (dstRowBytes (convOf d.ctrl) d.rowBytes) d.dstStride) with
  | some off => some { rank := 3, code := 0x0E, addr := BitVec.ofNat 64 off }
  | none =>
    if mis d.src then some { rank := 4, code := 0x13, info := word, addr := d.src }
    else if mis d.dst then some { rank := 4, code := 0x13, info := word, addr := d.dst }
    else none
/-- Reads bytes at a team's offset as its groups do (03 R66). -/
def State.locBytes (s : State) (g : Group) (core off n : Nat) : List Byte :=
  let (blk, _, owner) := s.locOf g
  (s.core core).scrRead owner (blk + off) n
/-- The traps of a descriptor's own place: operand, alignment, bounds (R101). -/
def State.descTrap (s : State) (x : Issue) (n : Nat) (word : Word) (srcs : List Operand) (size : Nat) (l : LaneIx)
    (off : Word) : Option TrapC :=
  (x.g.operandTrap n srcs l).or (localTrap word off.toNat size (s.locOf x.g).2.1)
/-- The ticket of the i-th copy of an issue (R97). -/
def ticketOf (g : Group) (i : Nat) : Word := (BitVec.ofNat 16 g.grpix ++ (g.copySeq + BitVec.ofNat 16 i))
/-- The lane's place among the lanes of a mask. -/
def rankIn (done : Mask) (l : LaneIx) : Nat := (Mask.lanes done).idxOf l
/-- CPY, PUT and PUTM: descriptors read at issue, one slot a lane, tickets in lane order (R91, R97, R101, R114). -/
def State.copyOp (s : State) (guard nw : Bool) (word : Word) (d a : Reg) (size : Nat)
    (trap : Issue → List Byte → Option TrapC) (start : Issue → LaneIx → Word → List Byte → State → State)
    (key : Option (LaneIx → LogKey)) : Out :=
  s.withIssue fun x =>
    let n := s.stackOf x.g
    let srcs : List Operand := [⟨a, 1⟩]
    let dst : Operand := ⟨d, 1⟩
    let part := x.part guard
    let core := coreOf x.gid
    let off := fun l => x.g.src n l a
    let bytes := fun l => s.locBytes x.g core (off l).toNat size
    let place := fun l => s.descTrap x n word srcs size l (off l)
    let tr := fun l => (place l).or (trap x (bytes l))
    let ok := (Mask.lanes part).filter fun l => (tr l).isNone
    let absent := (Mask.lanes part).any fun l =>
      (place l).isNone && (s.core core).anyAbsent ((s.locOf x.g).1 + (off l).toNat) size
    if x.g.pending n x.act (srcs ++ if nw then [] else [dst]) || absent then .next s
    else if 128 < (s.core core).copies.length + ok.length then .next s
    else match (key.map fun k => s.logged x ok k).getD .plain with
      | .stop s => .next s
      | lg =>
        let wb := ((Mask.low x.act).map fun l => (x.g.lane l).wb).getD 0
        (lg.onState s).finish x part tr (fun done s =>
          let tk := fun l => ticketOf x.g (rankIn done l)
          let s := s.updGrp x.gid fun g =>
            { ((g.scrub n wb part srcs).writeSync n done nw dst fun l => [tk l]) with
              copySeq := g.copySeq + BitVec.ofNat 16 (Mask.lanes done).length }
          (Mask.lanes done).foldl (fun s l => start x l (tk l) (bytes l) s) s) x.seq

/-- A started copy with the clocks of its issuing group (07 R156). -/
def Copy.ofIssue (s : State) (x : Issue) (kind : CopyKind) (ticket : Word) (ctrl : Word) (obj : Nat) : Copy :=
  { kind, team := x.g.team, gid := x.gid, ticket, src := 0, dst := 0, rowBytes := 0, rows := 0, srcStride := 0,
    dstStride := 0, obj, ctrl, vc := x.g.vc, obs := x.g.obs, cc := x.g.cc
    acq := if ctrlAcq ctrl then s.acqWait x.gid x.g else {} }
/-- Starts a copy: the destination lines lose their presence unless KEEP is set (R91, R101). -/
def State.startCopy (s : State) (x : Issue) (ticket : Word) (d : CopyDesc) : State :=
  let (cid, s) := s.fresh
  let n := dstRowBytes (convOf d.ctrl) d.rowBytes
  let absent := match classify d.dst with
    | .localAp off =>
      if ctrlKeep d.ctrl then []
      else ((rowsIn off n d.rows d.dstStride).flatMap fun o =>
        (piecesOf 128 ((s.locOf x.g).1 + o) n).map fun p => p.2.1 / 128).dedup
    | _ => []
  s.updCore (coreOf x.gid) fun k => { k with copies := k.copies.put cid { Copy.ofIssue s x .copy ticket d.ctrl d.obj with
    src := d.src, dst := d.dst, rowBytes := d.rowBytes, rows := d.rows, srcStride := d.srcStride
    dstStride := d.dstStride, absent } }
/-- CPY (R101). -/
def execCpy (o : A2) (s : State) : Out :=
  let w := encode (.cpy o)
  s.copyOp o.g o.nw w o.d o.a 48
    (fun x b =>
      let d := CopyDesc.ofBytes b
      (copyRangeTrap w d (s.locOf x.g).2.1).or ((s.copyReason x.g.team d).map descErr))
    (fun x _ tk b s => s.startCopy x tk (CopyDesc.ofBytes b)) none

/-- A ticket of the team names a copy in flight (R101). -/
def State.inFlight (s : State) (core tid : Nat) (ticket : Word) : Bool :=
  (s.core core).copies.any fun c => c.2.team == tid && c.2.ticket == ticket
/-- The traps of a ticket operand (R96 reason 0x07, R101). -/
def ticketTrap (x : Issue) (n : Nat) (srcs : List Operand) (l : LaneIx) (t : Word) : Option TrapC :=
  (x.g.operandTrap n srcs l).or (if t.extractLsb' 21 11 = 0#11 then none else some (descErr 0x07))
/-- CPYWAIT: parks until no participating lane's ticket names a copy in flight (R101). -/
def execCpywait (o : A1a) (s : State) : Out :=
  s.withIssue fun x =>
    let n := s.stackOf x.g
    let srcs : List Operand := [⟨o.a, 1⟩]
    let part := x.part o.g
    let trap := fun l => ticketTrap x n srcs l (x.g.src n l o.a)
    let waits := (Mask.lanes part).any fun l =>
      (trap l).isNone && s.inFlight (coreOf x.gid) x.g.team (x.g.src n l o.a)
    if x.g.pending n x.act srcs || waits then .next s
    else
      let wb := ((Mask.low x.act).map fun l => (x.g.lane l).wb).getD 0
      s.finish x part trap (fun _ s => s.updGrp x.gid fun g => g.scrub n wb part srcs) x.seq
/-- CPYST (R101). -/
def execCpyst (o : A2) (s : State) : Out :=
  s.withIssue fun x =>
    let n := s.stackOf x.g
    let srcs : List Operand := [⟨o.a, 1⟩]
    let dst : Operand := ⟨o.d, 1⟩
    if x.g.pending n x.act (srcs ++ if o.nw then [] else [dst]) then .next s
    else s.inputOp x n (x.part o.g) srcs (fun l => ticketTrap x n srcs l (x.g.src n l o.a))
      (fun _ => { kind := 5, operand := encode (.cpyst o), addr := 0 }) o.nw dst true (fun _ s => s)
      fun l => ofBool (!s.inFlight (coreOf x.gid) x.g.team (x.g.src n l o.a))

/-! ### Running copies (R94, R95, R98, R99) -/

/-- Breakwater suspends the engine operations of a shed group, those of a group that has retired by its team's class (20
R403, R406). -/
def State.suspended (s : State) (core gid tid : Nat) : Bool :=
  match s.grp gid with
  | some g => if g.team = tid then g.shed != .running
      else ((s.team tid).map Team.pclass).getD 7 < (s.domain (domainOf core)).allowed
  | none => ((s.team tid).map Team.pclass).getD 7 < (s.domain (domainOf core)).allowed
/-- Changes a copy in flight. -/
def State.updCopy (s : State) (core cid : Nat) (f : Copy → Copy) : State :=
  s.updCore core fun k => { k with copies := k.copies.upd cid f }
/-- A copy leaves flight; the lines it kept absent are released (R91, R97). -/
def State.endCopy (s : State) (core cid : Nat) : State := s.updCore core fun k => { k with copies := k.copies.del cid }
/-- A copy ends on an error, applied to its object (R99, R104). -/
def State.failCopy (s : State) (core cid : Nat) (c : Copy) (code : Nat) : State :=
  (s.endCopy core cid).objError c.team c.obj code
/-- Start of a row (R94). -/
def rowStart (base : Dword) (row stride : Nat) : Dword := base + BitVec.ofNat 64 (row * stride)
/-- Both ends of a row lie in its base's class, without wrapping (R99). -/
def rowInClass (base start : Dword) (n : Nat) : Bool :=
  let same := fun (va : Dword) => match classify base, classify va with
    | .localAp _, .localAp _ => true
    | .global, .global => true
    | _, _ => false
  same start && same (start + BitVec.ofNat 64 (n - 1)) && start.toNat + n ≤ 2 ^ 64
/-- The pieces of a row in the destination: place in the row, address, length. -/
def Copy.pieces (c : Copy) (row : Nat) : List (Nat × Nat × Nat) :=
  piecesOf 64 (rowStart c.dst row c.dstStride).toNat (dstRowBytes (convOf c.ctrl) c.rowBytes)
/-- The source bytes that a piece at `lo` of length n needs: place in the row and length (R95). -/
def srcRange (conv lo n : Nat) : Nat × Nat :=
  if conv = 1 then (lo / 4 * 3, ((lo + n - 1) / 4 - lo / 4 + 1) * 3)
  else if conv = 2 then (lo / 3 * 4, ((lo + n - 1) / 3 - lo / 3 + 1) * 4)
  else (lo, n)
/-- expand6 of one 24-bit group, and compact6 of four codes (R95). -/
def expand6 (g : Nat) : List Byte := (List.range 4).map fun i => BitVec.ofNat 8 (g / 64 ^ i % 64)
def compact6 (bs : List Byte) : List Byte :=
  bytesOfNat 3 (((List.range 4).map fun i => (bs.getD i 0).toNat % 64 * 64 ^ i).sum)
/-- The converted bytes of a piece from the source bytes of its groups. -/
def convertPiece (conv lo n : Nat) (bs : List Byte) : List Byte :=
  if conv = 1 then
    let all := (List.range (bs.length / 3)).flatMap fun i => expand6 (natOfBytes ((bs.drop (3 * i)).take 3))
    (all.drop (lo % 4)).take n
  else if conv = 2 then
    let all := (List.range (bs.length / 4)).flatMap fun i => compact6 ((bs.drop (4 * i)).take 4)
    (all.drop (lo % 3)).take n
  else bs

/-- Every piece of every row has landed. -/
def Copy.allIn (c : Copy) : Bool :=
  (List.range c.rows).all fun row => (List.range (c.pieces row).length).all fun i => c.landed.contains (row, i)
/-- How an engine's read of a range ends: the bytes with their written-clocks, or the error of its operation (R99; 03 R52). -/
inductive EngineRead where
  | ok (bs : List Byte) (clk : Clk)
  | wait
  | err (code : Nat)
  deriving DecidableEq, Repr
/-- The error of an engine's failed translation (R104). -/
def Look.engineErr : Look → Nat
  | .protect _ => 0x02
  | _ => 0x01
/-- An engine of a team reads bytes: local ones as they stand, global ones at their homes after the core's earlier stores and
atomics to the lines (R91, R99; 07 R156; 12 R263). -/
def State.engineRead (s : State) (core tid cid : Nat) (va : Dword) (n : Nat) : State × EngineRead :=
  let g : Group := { team := tid }
  match classify va with
  | .localAp off => (s, .ok (s.locBytes g core off n) {})
  | .misuse => (s, .err 0x0C)
  | .global =>
    let part := (s.partOf g).getD 0
    (piecesOf 64 va.toNat n).foldl (fun (acc : State × EngineRead) p =>
      match acc with
      | (s, .ok bs clk) =>
        match s.lookNow core part (BitVec.ofNat 64 p.2.1) needRead with
        | (s, .walk) => (s, .wait)
        | (s, .at pa key) =>
          if !s.engineReady core part pa key p.2.2 || s.reqs.any fun e => e.1 < cid && e.2.core == core &&
              e.2.pa / 128 == pa / 128 && (match e.2.maker, e.2.kind with
              | .lane _ _, .store _ => true
              | .lane _ _, .atomic _ _ _ => true
              | _, _ => false) then (s, .wait)
          else
            let (s, b, bad) := s.readFor tid pa key p.2.2
            if bad then (s, .err 0x03) else (s, .ok (bs ++ b) (clk.join (s.clockAt pa p.2.2)))
        | (s, lk) => (s, .err lk.engineErr)
      | r => r) (s, .ok [] {})

/-- The acquire that ACQ asks for before the first read: as an acquire fence of the issuing group at SCOPE, it waits for what the
group's earlier loads return to be settled, and at device or system scope for the clocks to be applied (R98; 07 R147, R152,
R156). -/
def State.engineAcquired (s : State) (core : Nat) (ctrl : Word) (acq : AcqWait) (vc obs : Clk) : Bool :=
  !ctrlAcq ctrl || (s.acqMet acq && (!(ctrlScope ctrl).wide || (vc.join obs).le (s.applied (dieOfCore core))))
/-- COPY_READ_RETURN (R94, R95, R98, R99; 20 R403). -/
def execCopyReadReturn (core cid row piece : Nat) (s : State) : Out :=
  match (s.core core).copies.find cid with
  | none => .next s
  | some c =>
    let conv := convOf c.ctrl
    match (c.pieces row)[piece]? with
    | none => .next s
    | some (lo, _, n) =>
      if c.kind ≠ .copy || c.rows ≤ row || s.suspended core c.gid c.team || !s.engineAcquired core c.ctrl c.acq c.vc c.obs ||
        c.landed.contains (row, piece) || c.buf.any fun b => b.1 == row && b.2.1 == piece then .next s
      else
        let start := rowStart c.src row c.srcStride
        if !rowInClass c.src start c.rowBytes then .next (s.failCopy core cid c 0x0C)
        else
          let (o, k) := srcRange conv lo n
          match s.engineRead core c.team cid (start + BitVec.ofNat 64 o) k with
          | (s, .ok bs clk) =>
            .next (s.updCopy core cid fun c =>
              { c with buf := (row, piece, convertPiece conv lo n bs) :: c.buf, wc := c.wc.join clk })
          | (s, .wait) => .next s
          | (s, .err code) => .next (s.failCopy core cid c code)

/-- Lands bytes at a team's offset, granule by granule: a marked granule's bytes are discarded (R107; 03 R66). `keep` says which
bytes, by place in the scratchpad, are written; all that land count. Answers how many landed and whether any were discarded. -/
def State.landLocal (s : State) (tid off : Nat) (bs : List Byte) (keep : Nat → Bool) : State × Nat × Bool :=
  match s.team tid with
  | none => (s, 0, false)
  | some t =>
    (piecesOf 16 off bs.length).foldl (fun (acc : State × Nat × Bool) p =>
      let a := t.locBlk + p.2.1
      let old := (acc.1.core t.core).scrRead t.owner a p.2.2
      let new := (((bs.drop p.1).take p.2.2).zip old).zipIdx.map fun e => if keep (a + e.2) then e.1.1 else e.1.2
      if (acc.1.core t.core).marked a then (acc.1, acc.2.1, true)
      else (acc.1.updCore t.core fun k => k.scrWrite t.owner a new, acc.2.1 + p.2.2, acc.2.2))
      (s, 0, false)

/-! ### Copies that write the same granule (R94) -/

/-- The bytes of its 16 B granule that n bytes at a place cover. -/
def granuleMask (a n : Nat) : BitVec 16 :=
  (List.range 16).foldl (fun (m : BitVec 16) i => if a % 16 ≤ i && i < a % 16 + n then m ||| (1#16 <<< i) else m) 0#16
/-- A byte that a later copy has taken. -/
def Copy.cedes (c : Copy) (scr : Bool) (a : Nat) : Bool :=
  c.ceded.any fun e => e.1 == scr && e.2.1 == a / 16 && e.2.2.getLsbD (a % 16)
/-- Two copies in flight that write one byte leave in it the later one's: when a copy lands bytes, every earlier copy still in flight
leaves them as they are. Bytes discarded at a marked granule are not landed (R94, R107; log 19). -/
def State.takeGranules (s : State) (core cid : Nat) (c : Copy) (scr : Bool) (place n : Nat) : State :=
  let gs := ((piecesOf 16 place n).filter fun p => !(scr && (s.core core).marked p.2.1)).map fun p =>
    (p.2.1 / 16, granuleMask p.2.1 p.2.2)
  let rival := fun (k : Nat) (e : Nat × Copy) => e.2.kind == .copy && e.1 < cid && !e.2.allIn &&
    (if scr then k == core else true) && (match classify e.2.dst with
      | .localAp _ => scr
      | _ => !scr) && (e.2.team == c.team || !((s.team c.team).any Team.holds || (s.team e.2.team).any Team.holds))
  let cede := fun (k : Nat) (e : Nat × Copy) =>
    if rival k e then (e.1, { e.2 with ceded := gs.map (fun g => (scr, g.1, g.2)) ++ e.2.ceded }) else e
  { s with cores := s.cores.map fun k =>
      if k.2.copies.any (rival k.1) then (k.1, { k.2 with copies := k.2.copies.map (cede k.1) }) else k }

/-- How an engine's write of one piece ends: made, with the error of a failed translation, waiting for its path, its line or its walk,
or without a version way (R99, R100; 12 R264). -/
inductive EngineWrite where
  | done (s : State)
  | err (s : State) (code : Nat)
  | wait (s : State)
  | noWay (home set : Nat)
  deriving DecidableEq, Repr
/-- An engine's write of one piece to memory: held for a run, otherwise current at its home, its acknowledgement owed (R100;
06 R119; 12 R262, R269). Bytes that a later copy has taken are left as they are (R94). -/
def State.engineStore (s : State) (core cid : Nat) (c : Copy) (va : Dword) (bs : List Byte) : EngineWrite :=
  let g : Group := { team := c.team }
  let part := (s.partOf g).getD 0
  match s.lookNow core part va needWrite with
  | (s, .walk) => .wait s
  | (s, .at pa key) =>
    match s.team c.team with
    | none => .done s
    | some t =>
      let runs := runsOf (((cellsAt pa bs).filter fun e => !c.cedes false e.1).map fun e => (e.1, e.2))
      if t.holds then
        if s.wayFree c.team t.grid (s.home pa) (pa / 256) key then
          let s := runs.foldl (fun s r =>
            s.hold c.team t.grid t.cluster (s.home pa) r.1 key t.relNo c.cc (t.relNo != 0) r.2) (s.takeGranules core cid c false pa bs.length)
          .done (s.updTeam c.team fun t => t.foldStore va bs)
        else .noWay (s.home pa) (setOf (pa / 256))
      else if !s.engineReady core part pa key bs.length then .wait s
      else
        .done (runs.foldl (fun s r =>
          let (rid, s) := s.fresh
          let (s, e) := s.makeCurrent rid part r.1 key r.2 c.cc none
          let home := s.home pa
          let q : Req := { maker := .engine core cid, core, team := c.team, grid := t.grid, part, kind := .store r.2
                           va := va + BitVec.ofNat 64 (r.1 - pa)
                           pa := r.1, key, home, member := 0, stage := .current, epoch := e, cc := c.cc }
          { s with reqs := s.reqs.put rid q }.updCopy core cid fun c => { c with
            stores := rid :: c.stores, wc := c.wc.join (c.cc.join (Clk.one (home / 64) e))
            dies := if c.dies.contains (home / 64) then c.dies else home / 64 :: c.dies }) (s.takeGranules core cid c false pa bs.length))
  | (s, lk) => .err s lk.engineErr
/-- The copy lines that every piece touching them has landed in (R91). -/
def Copy.filled (c : Copy) (blk : Nat) (line : Nat) : Bool :=
  (List.range c.rows).all fun row => ((c.pieces row).zipIdx).all fun e =>
    match classify (BitVec.ofNat 64 e.1.2.1) with
    | .localAp off => (blk + off) / 128 ≠ line || c.landed.contains (row, e.2)
    | _ => true
/-- A landed piece's count, and the end of the copy after its last one: with REL the count waits for the release (R94,
R98). -/
def State.copyLanded (s : State) (core cid count : Nat) : State :=
  match (s.core core).copies.find cid with
  | none => s
  | some c =>
    let blk := s.locBase c.team
    let c := { c with absent := c.absent.filter fun ln => !c.filled blk ln }
    let s := s.updCopy core cid fun _ => c
    if !c.allIn then (s.objCount c.team c.obj count c.wc).1
    else if ctrlRel c.ctrl then s.updCopy core cid fun c => { c with last := some count }
    else (s.endCopy core cid).objCount c.team c.obj count c.wc |>.1
/-- The end of a copy's release: its writes are acknowledged, a checked run's release number rises, and at a wide scope their dies'
epochs close; then the last count goes to the object (R98; 07 R143, R156; 12 R274). -/
def State.copyReleased (s : State) (core cid : Nat) (c : Copy) (count : Nat) : State :=
  let s := s.engineRel c.team (ctrlRel c.ctrl)
  let s := if (ctrlScope c.ctrl).wide then c.dies.foldl (fun s d => s.closeEpoch d) s else s
  ((s.endCopy core cid).objCount c.team c.obj count c.wc).1
/-- COPY_LANDING: one piece lands (a landing that meets marked granules applies one clobber error, log 44), or the last count of a
copy with REL reaches its object (R91, R94, R98 to R100, R107). -/
def execCopyLanding (core cid row piece : Nat) (s : State) : Out :=
  match ((s.core core).copies.find cid).filter fun c => !s.suspended core c.gid c.team with
  | none => .next s
  | some c =>
    match c.last with
    | some n => if c.stores.all fun r => (s.reqs.find r).isNone then .next (s.copyReleased core cid c n) else .next s
    | none =>
      match (c.pieces row)[piece]?, c.buf.find? fun b => b.1 == row && b.2.1 == piece with
      | some (_, a, _), some (_, _, bs) =>
        let va : Dword := BitVec.ofNat 64 a
        let landed := fun (s : State) => s.updCopy core cid fun c => { c with
          buf := c.buf.filter fun b => !(b.1 == row && b.2.1 == piece), landed := (row, piece) :: c.landed }
        if !rowInClass c.dst (rowStart c.dst row c.dstStride) (dstRowBytes (convOf c.ctrl) c.rowBytes) then
          .next (s.failCopy core cid c 0x0C)
        else match classify va with
          | .localAp off =>
            let s := s.takeGranules core cid c true (s.locBase c.team + off) bs.length
            let (s, n, clobber) := s.landLocal c.team off bs fun k => !c.cedes true k
            let s := if clobber then s.objError c.team c.obj 0x0A else s
            .next ((landed s).copyLanded core cid n)
          | _ =>
            match s.engineStore core cid c va bs with
            | .noWay h k => .next (s.updCopy core cid fun c => { c with blocked := some (h, k) })
            | .wait s => .next s
            | .err s code => .next (s.failCopy core cid c code)
            | .done s => .next ((landed (s.updCopy core cid fun c => { c with blocked := none, stallPosted := false })).copyLanded core cid bs.length)
      | _, _ => .next s

/-! ### PUT and PUTM (R112 to R117; 04 R77, R79, R87) -/

/-- A `PUT` descriptor as read at issue (R112). -/
structure PutDesc where
  src : Nat
  count : Nat
  dest : Word
  destOff : Nat
  robj : Nat
  sobj : Nat
  ctrl : Word
  resv : Word
  deriving DecidableEq, Repr
def PutDesc.ofBytes (b : List Byte) : PutDesc :=
  let n := fun o => natOfBytes ((b.drop o).take 4)
  { src := n 0, count := n 4, dest := BitVec.ofNat 32 (n 8), destOff := n 12, robj := n 16, sobj := n 20
    ctrl := BitVec.ofNat 32 (n 24), resv := BitVec.ofNat 32 (n 28) }
/-- Ranks of the sender's cluster (R113, R141). -/
def State.clusterSize (s : State) (tid : Nat) : Nat :=
  match s.team tid with
  | none => 1
  | some t => if t.kind = .launch then ((s.grid t.grid).map fun g => g.recd.w * g.recd.h).getD 1 else 1
/-- A valid team address word for a sender (R113, R114). -/
def State.teamWordOk (s : State) (tid : Nat) (w : Word) : Bool :=
  if w.getLsbD 31 then w.extractLsb' 4 27 = 0#27 && (w.extractLsb' 0 4).toNat < s.clusterSize tid
  else w.extractLsb' 0 9 = 0#9
/-- The reason of a `PUT` descriptor's first failing check (R96, R112, R114). -/
def State.putReason (s : State) (tid : Nat) (multi : Bool) (d : PutDesc) : Option Nat :=
  if d.resv ≠ 0#32 || d.ctrl.extractLsb' 12 20 ≠ 0#20 || d.ctrl.extractLsb' 0 9 ≠ 0#9 ||
    (multi && d.dest.extractLsb' 12 20 ≠ 0#20) then some 0x01
  else if d.count = 0 || 1048576 < d.count then some 0x04
  else if !s.objMarked tid d.sobj then some 0x05
  else if !multi && !s.teamWordOk tid d.dest then some 0x09
  else none
/-- The team address word of a team (R113). -/
def State.teamAddr (s : State) (t : Team) : Word :=
  BitVec.ofNat 32 (s.pkgId.toNat * 2 ^ 22 + t.core * 2 ^ 14 + t.tslot * 2 ^ 9)
/-- The core number that stands for a core of another package. -/
def remoteCore (pkg core : Nat) : Nat := 256 * (pkg + 1) + core
/-- The destination of a `PUT`: the team of a rank of the sender's cluster, or a core and team slot (R113). A rank whose team
has gone is no team's slot. -/
def State.putDest (s : State) (tid : Nat) (w : Word) : Nat × Nat :=
  if w.getLsbD 31 then
    let r := (w.extractLsb' 0 4).toNat
    match s.team tid with
    | none => (0, 33)
    | some t =>
      if t.rank = r then (t.core, t.tslot)
      else match s.teams.find? fun e => e.2.grid == t.grid && e.2.cluster == t.cluster && e.2.rank == r && e.2.kind == t.kind
          && e.2.role == t.role with
        | some e => (e.2.core, e.2.tslot)
        | none => (t.core, 33)
  else
    let pkg := (w.extractLsb' 22 9).toNat
    let core := (w.extractLsb' 14 8).toNat
    (if pkg = s.pkgId.toNat then core else remoteCore pkg core, (w.extractLsb' 9 5).toNat)
/-- Changes one destination of a transfer. -/
def Copy.setDest (c : Copy) (i : Nat) (f : PutDest → PutDest) : Copy :=
  { c with dests := c.dests.zipIdx.map fun e => if e.2 = i then f e.1 else e.1 }
/-- The number of the flow of a core to a core of another package, and of one to a core of this package (04 R87). -/
def flowKey (src dst : Nat) : Nat := src * 2 ^ 20 + dst
/-- A plane in place of one that is down: the next plane up; with every plane down its own (04 R87; log 40). -/
def State.planeFrom (s : State) (p : Nat) : Nat := if (s.link ⟨8 + p, false⟩).state = 3 then (s.nextPlane p).getD p else p
/-- The Rutik plane of a flow: the one it hashes to, or the next plane up while that one is down; with every plane down its own (04
R87; log 40). -/
def State.planeOf (s : State) (core dst : Nat) : Nat :=
  s.planeFrom (Config.rutikPlane core (dst / 256 - 1) (dst % 256) % 16)
/-- The path of a transfer from a core to a core of the package, or to another package over the flow's plane (04 R80, R87). -/
def State.putPath (s : State) (core dst : Nat) : List Leg :=
  if dst < 256 then route (core / 64) (core % 64) (dst / 64) (dst % 64)
  else loopLeg (core / 64) (core % 64) 71 ++ [.link ⟨4 + core / 64, false⟩, .link ⟨8 + s.planeOf core dst, false⟩]
/-- The path of what comes from another package over a plane to a core: through the I/O die nearest the core (04 R87). -/
def inPath (plane core : Nat) : List Leg :=
  [.link ⟨8 + plane, true⟩, .link ⟨4 + core / 64, true⟩] ++ loopLeg (core / 64) 71 (core % 64)
/-- The partition of a core's bias domain; die-wide traffic for none (18 R350; 04 R76). -/
def State.corePart (s : State) (core : Nat) : Nat :=
  ((s.parts.find? fun e => e.2.domains.getLsbD (domainOf core)).map Prod.fst).getD 31
/-- The error codes of a reply (R107, R115). -/
def PutDest.codes (d : PutDest) : List Nat := (if d.err = 0 then [] else [d.err]) ++ if d.noObj then [0x0B] else []
/-- A transfer leaves flight with its outcome at its sender object: the byte count, or the errors it has still to apply; a logged
one's value is filled in (R115, R116; 12 R265). -/
def State.putOutcome (s : State) (core cid : Nat) (c : Copy) (codes : List Nat) : State :=
  let s := (s.endCopy core cid).paidOff core cid {}
  let s := if codes.isEmpty && c.erred.isEmpty then (s.objCount c.team c.obj c.bytes.length {}).1
    else codes.foldl (fun s k => s.objError c.team c.obj k) s
  match c.logIx with
  | some i => s.logFill c.team (c.ticket.toNat / 2 ^ 16) i (BitVec.ofNat 32 ((c.erred ++ codes).headD 0))
  | none => s
/-- What a transfer's release waits for at issue: the group's stores and atomics, and at system scope its earlier transfers to other
packages (07 R148, R154). -/
def State.putOwes (s : State) (gid core : Nat) (ctrl : Word) : List Nat :=
  if !ctrlRel ctrl then []
  else s.laneReqs gid ReqKind.writes ++
    if ctrlScope ctrl == .system then
      ((s.core core).copies.filter fun e => e.2.kind != .copy && e.2.gid == gid && e.2.dests.any fun d => 256 ≤ d.core).map Prod.fst
    else []
/-- A transfer's release is met: what it waits for has come, and at team or cluster scope its die has applied the full clock (R115;
07 R148, R152, R154). -/
def State.putReleased (s : State) (core : Nat) (c : Copy) : Bool :=
  !ctrlRel c.ctrl || (c.owed.isEmpty && ((ctrlScope c.ctrl).wide || c.vc.le (s.applied (dieOfCore core))))
/-- Sends a transfer: to its destination, or from its core's station as the multicast entry says. A lookup that delivers nothing and a
down link end it at once, and so does a package outside the scale-up domain (R104, R115, R116; 04 R77, R79, R87). -/
def State.sendPut (s : State) (core cid : Nat) (c : Copy) : State :=
  let part := (s.partOf { team := c.team }).getD 0
  let s := (s.engineRel c.team (ctrlRel c.ctrl)).updCopy core cid fun c => { c with sent := true }
  if c.kind = .putm then
    match s.mcEntry (core / 64) (core % 64) c.destWord.toNat part with
    | none => s.putOutcome core cid c [0x04]
    | some e =>
      s.spread part core cid c.destWord.toNat (core / 64) (core % 64) [] e
  else
    let d := (c.dests.head?.map PutDest.core).getD core
    if 256 ≤ d && !Config.inDomain (d / 256 - 1) then s.putOutcome core cid c [0x05]
    else if s.pathDown (s.putPath core d) then s.putOutcome core cid c [0x05]
    else
      let k := flowKey core d
      let n := s.flowOut.getD 0 k
      let s := if d < 256 then s
        else { s with flowOut := s.flowOut.setD 0 k (n + 1) }.updCopy core cid fun c => c.setDest 0 fun v => { v with flow := n }
      s.sendAll part c.bytes.length (s.putPath core d) (.put core cid 0)
/-- Starts a transfer (R115, R116): it is sent once its release is met; a replaying run sends nothing and takes its logged outcome
(12 R268). -/
def State.startPut (s : State) (x : Issue) (l : LaneIx) (multi : Bool) (ticket : Word) (d : PutDesc) (word : Word) : State :=
  let core := coreOf x.gid
  let bs := s.locBytes x.g core d.src d.count
  let (cid, s) := s.fresh
  let s := s.updTeam x.g.team fun t => if t.role = 0 then t else t.foldPut d.destOff d.dest bs
  let base := { Copy.ofIssue s x (if multi then .putm else .put) ticket d.ctrl d.sobj with
    robj := d.robj, destWord := d.dest, destOff := d.destOff, bytes := bs, owed := s.putOwes x.gid core d.ctrl }
  match s.team x.g.team with
  | none => s
  | some t =>
    if t.replays then
      let e := ((s.logOf x.g)[((s.grp x.gid).map Group.replayed).getD 0]?).map LogE.value
      let s := (s.consumed x.gid 1).updCore core fun k => { k with copies := k.copies.put cid base }
      s.putOutcome core cid base (if e.getD 0 = 0#32 then [] else [(e.getD 0).toNat])
    else
      let (s, logIx) := if t.logs then
          let (s, i) := s.logAppend x.gid
            { kind := 7, lane := l.val, grpix := 0, value := 0, operand := word, addr := 0, filled := false }
          (s.updTeam x.g.team fun t => { t with acted := true }, some i)
        else (s, none)
      let r := s.putDest x.g.team d.dest
      let c := { base with logIx, dests := if multi then [] else [{ core := r.1, tslot := r.2 }] }
      let s := s.updCore core fun k => { k with copies := k.copies.put cid c }
      if s.putReleased core c then s.sendPut core cid c else s
/-- Bounds of the source range, then the reasons (R114). -/
def State.putTrap (s : State) (x : Issue) (multi : Bool) (b : List Byte) : Option TrapC :=
  let d := PutDesc.ofBytes b
  if d.count ≠ 0 && (s.locOf x.g).2.1 < d.src + d.count then some { rank := 3, code := 0x0E, addr := BitVec.ofNat 64 d.src }
  else (s.putReason x.g.team multi d).map descErr
/-- PUT (R114, R115). -/
def execPut (o : A2) (s : State) : Out :=
  let w := encode (.put o)
  s.copyOp o.g o.nw w o.d o.a 32 (fun x b => s.putTrap x false b)
    (fun x l tk b s => s.startPut x l false tk (PutDesc.ofBytes b) w) (some fun _ => { kind := 7, operand := w, addr := 0 })
/-- PUTM (R114, R116). -/
def execPutm (o : A2) (s : State) : Out :=
  let w := encode (.putm o)
  s.copyOp o.g o.nw w o.d o.a 32 (fun x b => s.putTrap x true b)
    (fun x l tk b s => s.startPut x l true tk (PutDesc.ofBytes b) w) (some fun _ => { kind := 7, operand := w, addr := 0 })

/-- What a receiver does with a transfer, and its reply: no code, or error codes (R107, R115). Of several teams of the sender's grid on
a core the first of the core's table takes a `PUTM` (R116; log 40). -/
def State.receivePut (s : State) (core tslot grid owner off robj : Nat) (bs : List Byte) (clk : Clk) : State × List Nat :=
  match s.teams.find? fun e => e.2.core == core && e.2.owner == owner &&
      (if tslot = gridSlot then e.2.grid == grid else e.2.tslot == tslot) with
  | none => (s, [0x08])
  | some (tid, t) =>
    if t.locSize < off + bs.length then (s, [0x09])
    else
      let (s, n, clobber) := s.landLocal tid off bs fun _ => true
      let (s, found) := s.objCount tid robj n clk
      (s, (if clobber then [0x0A] else []) ++ if found then [] else [0x0B])
/-- A destination has its reply's codes. -/
def PutDest.replied (d : PutDest) (codes : List Nat) : PutDest :=
  { d with stage := 1, err := codes.headD 0, noObj := (codes.drop 1).contains 0x0B }
/-- An earlier transfer of the same flow to another package has not left (04 R87). -/
def State.flowBehind (s : State) (core : Nat) (d : PutDest) : Bool :=
  (s.core core).copies.any fun e => e.2.sent && e.2.dests.any fun v => v.core == d.core && v.stage == 0 && decide (v.flow < d.flow)
/-- A transfer of another package reaches its core, in the order of its flow: it lands and counts, or is discarded as a duplicate, and
its reply starts back on the plane of its own flow (R115; 04 R87). -/
def State.receiveForeign (s : State) (id : Nat) : State :=
  match s.foreign.find id with
  | none => s
  | some f =>
    let k := flowKey (remoteCore f.pkg f.src) f.core
    let before := s.foreign.any fun e => e.2.pkg == f.pkg && e.2.src == f.src && e.2.core == f.core && e.2.codes.isNone &&
      decide (e.2.seq < f.seq)
    if f.codes.isSome || before || s.inTransit (.foreign id) then s
    else if f.seq < s.flowIn.getD 0 k then { s with foreign := s.foreign.del id }
    else
      let (s, codes) := s.receivePut f.core f.tslot 0 f.owner f.off f.robj f.bytes {}
      { s with
        flowIn := s.flowIn.setD 0 k (f.seq + 1), foreign := s.foreign.put id { f with codes := some codes }
      }.send (s.corePart f.core) 1 (s.putPath f.core (remoteCore f.pkg f.src)) (.foreignReply id)
/-- PUT_RECEIVE: a transfer whose release is met is sent; its data reaches its receiver, which lands, counts and replies; one that
leaves the package goes out on its plane with its place in its flow, and its reply, which comes back over the plane, has a free one of
the codes that a receiver gives. A core number of 256 and above names a transfer of another package (R115; 04 R87; log 3, log 40). -/
def execPutReceive (core cid dest : Nat) (s : State) : Out :=
  if 256 ≤ core then .next (s.receiveForeign cid)
  else match ((s.core core).copies.find cid).filter fun c => c.kind != .copy && !s.suspended core c.gid c.team with
  | none => .next s
  | some c =>
    let part := (s.partOf { team := c.team }).getD 0
    if !c.sent then .next (if s.putReleased core c then s.sendPut core cid c else s)
    else match c.dests[dest]? with
      | none => .next s
      | some d =>
        if d.stage ≠ 0 || s.putOut core cid dest then .next s
        else if 256 ≤ d.core then
          if s.flowBehind core d then .next s
          else
            let plane := s.planeOf core d.core
            let s := s.emit (.rutik plane (d.core / 256 - 1) core cid dest d.flow c.bytes)
            let codes := [[], [0x08], [0x09], [0x0A], [0x0B], [0x0A, 0x0B]].getD (Config.freeNat s.freeCtr % 6) []
            .next (({ s with freeCtr := s.freeCtr + 1 }.updCopy core cid fun c => c.setDest dest fun v => v.replied codes).send
              part 1 (inPath plane core) (.putReply core cid dest))
        else
          let owner := ((s.team c.team).map Team.owner).getD 0
          let grid := ((s.team c.team).map Team.grid).getD 0
          let clk := if ctrlRel c.ctrl then c.vc else c.cc
          let (s, e) := s.receivePut d.core d.tslot grid owner c.destOff c.robj c.bytes clk
          let s := s.updCopy core cid fun c => c.setDest dest fun v => v.replied e
          .next (s.send part 1 (coreRoute d.core core) (.putReply core cid dest))
/-- PUT_REPLY: a reply comes back; a `PUTM`'s error is applied at once, and after the last reply, with no copy still on its way, the
transfer leaves flight (R115, R116). -/
def execPutReply (core cid dest : Nat) (s : State) : Out :=
  match (s.core core).copies.find cid with
  | none => .next s
  | some c =>
    match c.dests[dest]? with
    | none => .next s
    | some d =>
      if d.stage ≠ 1 || s.inTransit (.putReply core cid dest) then .next s
      else
        let c := c.setDest dest fun v => { v with stage := 2 }
        if (c.dests.all fun v => v.stage == 2) && !s.mcastOut core cid then
          .next ((s.updCopy core cid fun _ => c).putOutcome core cid c d.codes)
        else
          let c := { c with erred := c.erred ++ d.codes }
          .next (d.codes.foldl (fun s k => s.objError c.team c.obj k) (s.updCopy core cid fun _ => c))

/-- What the surroundings do by themselves: upsets, the freeing of a link receiver's buffers (04 R84), containers and ejection
buffers of the loops (04 R74, R75), and a `PUT` from another package, which starts on its Rutik link (R115; 04 R87). -/
def State.surroundings (s : State) (m : Move) : State :=
  match m with
  | .upsetWindow l n => s.setLink l { (s.link l) with win := n }
  | .linkDrain l n => s.setLink l ((s.link l).drain n)
  | .inject pid c => s.injectInto pid c
  | .ejector k full => { s with ejFull := if full then k :: s.ejFull.erase k else s.ejFull.erase k }
  | .foreignPut pkg src seq core tslot owner off robj bytes =>
    let (id, s) := s.fresh
    let plane := s.planeFrom (Config.rutikPlane src s.pkgId.toNat core % 16)
    if 256 ≤ core then s
    else { s with foreign := s.foreign.put id { pkg, src, seq, core, tslot, owner, off, robj, bytes } }.sendAll
      (s.corePart core) bytes.length (inPath plane core) (.foreign id)
  | m => s.upset m

end Sys2Proof.Machine
end

