-- ==== Sys2Proof/Machine/Matrix.lean ====
section
/-! DEFINITION. The matrix engine (11): accumulator memory under its owner tags, `MMA`, `MMAS` and `MMAZ` with their checks,
operand reads, the product, cluster splits, and the accumulator instructions. -/

namespace Sys2Proof.Machine

/-! ### Accumulator memory (R234, R235) -/

/-- One accumulator as its owner reads it: a foreign unit reads +0. -/
def Core.accRead (k : Core) (owner i : Nat) : Word := if k.accTag.getD 0 (i / 1024) = owner then k.acc.getD 0 i else 0
/-- Writes one accumulator; a foreign unit is zeroed and retagged first. -/
def Core.accWrite (k : Core) (owner i : Nat) (v : Word) : Core :=
  if k.accTag.getD 0 (i / 1024) = owner then { k with acc := k.acc.setD 0 i v }
  else { k with
    accTag := k.accTag.setD 0 (i / 1024) owner
    acc := Tab.setD (k.acc.filter fun e => e.1 / 1024 ≠ i / 1024) 0 i v }

/-! ### Descriptors (R237 to R239) -/

/-- An MMA descriptor as read at issue. -/
structure MmaDesc where
  a : Dword
  b : Dword
  aStride : Nat
  bStride : Nat
  m : Nat
  n : Nat
  k : Nat
  accOff : Nat
  accStride : Nat
  obj : Nat
  ctrl : Word
  resv : Nat
  deriving DecidableEq, Repr
def MmaDesc.ofBytes (b : List Byte) : MmaDesc :=
  let n := fun o k => natOfBytes ((b.drop o).take k)
  { a := BitVec.ofNat 64 (n 0 8), b := BitVec.ofNat 64 (n 8 8), aStride := n 16 4, bStride := n 20 4, m := n 24 2, n := n 26 2
    k := n 28 2, accOff := n 32 4, accStride := n 36 4, obj := n 40 4, ctrl := BitVec.ofNat 32 (n 44 4)
    resv := n 30 2 + n 48 16 }
/-- ALOC, BLOC and BTR of a control word (R238). -/
def ctrlALoc (c : Word) : Bool := c.getLsbD 0
def ctrlBLoc (c : Word) : Bool := c.getLsbD 1
def ctrlBTr (c : Word) : Bool := c.getLsbD 2
/-- Bytes of an element under a matrix format word (R239). -/
def elemSize (fmt : Word) : Nat := if edNarrow (fmt.extractLsb' 0 16) then 1 else 2

/-- An operand as rows in memory: first byte, distance, number of rows, bytes of a row (R239). -/
structure Rows where
  base : Dword
  stride : Nat
  rows : Nat
  len : Nat
  deriving DecidableEq, Repr
/-- The rows of A of an operation, or of B. -/
def Mop.rows (o : Mop) (isB : Bool) : Rows :=
  let e := elemSize o.fmt
  if !isB then ⟨o.a, o.aStride, o.m, o.k * e⟩
  else if ctrlBTr o.ctrl then ⟨o.b, o.bStride, o.n, o.k * e⟩ else ⟨o.b, o.bStride, o.k, o.n * e⟩
/-- The operand is local. -/
def Mop.isLoc (o : Mop) (isB : Bool) : Bool := if isB then ctrlBLoc o.ctrl else ctrlALoc o.ctrl
/-- The n bytes at an address hold bytes of the operand. -/
def Rows.meets (r : Rows) (va : Dword) (n : Nat) : Bool :=
  (List.range r.rows).any fun i =>
    let start := r.base + BitVec.ofNat 64 (i * r.stride)
    (va - start).toNat < r.len || (start - va).toNat < n
/-- Every byte of a local operand lies below LOCSIZE (R242 step 6). -/
def Rows.inLocal (r : Rows) (locSize : Nat) : Bool :=
  r.base.lo.toNat + (r.rows - 1) * r.stride + r.len ≤ locSize

/-- The operation of a core's own tile: descriptor, cluster width and height, and the team's rank (R249, R250). -/
def MmaDesc.tile (d : MmaDesc) (fmt : Word) (w h rank : Nat) : Mop :=
  let m := d.m / h
  let n := d.n / w
  let row := rank / w
  let col := rank % w
  let e := elemSize fmt
  { id := 0, team := 0, gid := 0, row, col, m, n, k := d.k, aStride := d.aStride, bStride := d.bStride
    a := if ctrlALoc d.ctrl then d.a else d.a + BitVec.ofNat 64 (row * m * d.aStride)
    b := if ctrlBLoc d.ctrl then d.b
      else d.b + BitVec.ofNat 64 (if ctrlBTr d.ctrl then col * n * d.bStride else col * n * e)
    accOff := d.accOff, accStride := d.accStride, obj := d.obj, ctrl := d.ctrl, fmt }

/-! ### Checks at issue (R241, R242, R249) -/

/-- Step 4 for one operand: the misuse trap, or reason 0x12. -/
def operandReason (word : Word) (va : Dword) (stride : Nat) (loc : Bool) (e : Nat) : Option TrapC :=
  let odd := if e = 2 && (va.toNat % 2 ≠ 0 || stride % 2 ≠ 0) then some (descErr 0x12) else none
  match classify va, loc with
  | .localAp _, true => odd
  | _, true => some (descErr 0x12)
  | .global, false => odd
  | _, false => some { rank := 5, code := 0x13, info := word, addr := va }
/-- The first check of R242 that fails, for a team's split of w × h. -/
def State.mmaReason (s : State) (word : Word) (t : Nat × Team) (d : MmaDesc) (fmt : Word) (w h : Nat) : Option TrapC :=
  let o := d.tile fmt w h t.2.rank
  let bad := fun (v lim : Nat) => v = 0 || v % 32 ≠ 0 || lim < v
  if d.resv ≠ 0 || d.ctrl.extractLsb' 12 20 ≠ 0#20 || d.ctrl.extractLsb' 3 5 ≠ 0#5 then some (descErr 0x01)
  else if bad d.m 4096 || bad d.n 4096 || bad d.k 65504 || d.m % h ≠ 0 || d.n % w ≠ 0 || o.m % 32 ≠ 0 || o.n % 32 ≠ 0 ||
    131072 < o.m * o.n then some (descErr 0x11)
  else if !s.objMarked t.1 d.obj then some (descErr 0x05)
  else ((operandReason word d.a d.aStride (ctrlALoc d.ctrl) (elemSize fmt)).or
    (operandReason word d.b d.bStride (ctrlBLoc d.ctrl) (elemSize fmt))).or
    (if d.accStride < o.n || t.2.accSize / 4 ≤ d.accOff + (o.m - 1) * d.accStride + o.n - 1 then some (descErr 0x13)
     else if o.isLoc false && !(o.rows false).inLocal t.2.locSize then
       some { rank := 5, code := 0x0E, addr := d.a.lo.setWidth 64 }
     else if o.isLoc true && !(o.rows true).inLocal t.2.locSize then
       some { rank := 5, code := 0x0E, addr := d.b.lo.setWidth 64 }
     else none)

/-- The accumulator first-use trap of a team whose context does not own the memory (R255). -/
def State.firstUse (s : State) (t : Team) : Option TrapC :=
  if t.accCtx = (s.core t.core).acOwner then none
  else some { rank := 4, code := 0x0D, info := t.accCtx.setWidth 32, addr := BitVec.ofNat 64 t.accBlk }

/-- Steps 1 to 6 of R241. -/
def State.mmaVote (s : State) (x : Issue) (n : Nat) (word : Word) (a b : Reg) : Option TrapC :=
  let srcs : List Operand := [⟨a, 1⟩, ⟨b, 1⟩]
  match Mask.low x.act with
  | none => none
  | some l0 =>
    let off := x.g.src n l0 a
    let fmt := x.g.src n l0 b
    let differs := fun (r : Reg) => (Mask.lanes x.act).any fun l => x.g.src n l r != x.g.src n l0 r
    (x.g.jointTrap n srcs x.act).or
      (if differs b then some { rank := 2, code := 0x06, info := fmt }
       else if !matrixValid fmt then some { rank := 2, code := 0x07, info := fmt }
       else if differs a then some (descErr 0x10)
       else localTrap word off.toNat 64 (s.locOf x.g).2.1)

/-- Adds an operation to a core's matrix queue (R243). -/
def State.enqueue (s : State) (core : Nat) (o : Mop) : State := s.updCore core fun k => { k with mq := k.mq ++ [o] }
/-- A team's cluster as `MMAS` splits it: width and height (R249). -/
def State.clusterOf (s : State) (t : Team) : Nat × Nat :=
  if t.kind = .launch then ((s.grid t.grid).map fun g => (g.recd.w, g.recd.h)).getD (1, 1) else (1, 1)
/-- The number that a team's next `MMAS` takes: the lowest one given back, or the next (R251). -/
def Team.takeMmas (t : Team) : Nat × Team :=
  match t.mmasFree.min? with
  | some n => (n, { t with mmasFree := t.mmasFree.erase n })
  | none => (t.mmas, { t with mmas := t.mmas + 1 })

/-- MMA, MMAS and MMAZ (R240 to R243, R249, R251). -/
def State.mmaOp (s : State) (word : Word) (a b : Reg) (split zero : Bool) : Out :=
  s.withIssue fun x =>
    let n := s.stackOf x.g
    let core := coreOf x.gid
    let done := fun (s : State) => s.finish x x.act (fun _ => none) (fun _ s => s) x.seq
    match x.g.wait with
    | .mmas (some r) _ => s.trapAll x 0x0F (BitVec.ofNat 32 r) 0
    | .mmas none true => done s
    | .mmas none false => .next s
    | _ =>
      if x.g.pending n x.act [⟨a, 1⟩, ⟨b, 1⟩] then .next s
      else
        let wb := ((Mask.low x.act).map fun l => (x.g.lane l).wb).getD 0
        let s := s.updGrp x.gid fun g => g.scrub n wb x.act [⟨a, 1⟩, ⟨b, 1⟩]
        match s.mmaVote x n word a b with
        | some c => s.trapAll x c.code c.info c.addr
        | none =>
          match Mask.low x.act, s.team x.g.team with
          | some l0, some t =>
            let off := (x.g.src n l0 a).toNat
            let fmt := x.g.src n l0 b
            if (s.core core).anyAbsent (t.locBlk + off) 64 then .next s
            else
              let bs := s.locBytes x.g core off 64
              let d := MmaDesc.ofBytes bs
              let (w, h) := if split then s.clusterOf t else (1, 1)
              match (s.mmaReason word (x.g.team, t) d fmt w h).or (s.firstUse t) with
              | some c => s.trapAll x c.code c.info c.addr
              | none =>
                if 16 ≤ (s.core core).mq.length then .next s
                else if w * h = 1 then
                  let (id, s) := s.fresh
                  done (s.enqueue core { d.tile fmt 1 1 0 with
                    id, team := x.g.team, gid := x.gid, zero, vc := x.g.vc, obs := x.g.obs
                    acq := if ctrlAcq d.ctrl then s.acqWait x.gid x.g else {} })
                else
                  let (k, t) := t.takeMmas
                  let (id, s) := s.fresh
                  let s := { s with teams := s.teams.put x.g.team t }.updCore core fun c =>
                    { c with mwait := c.mwait.put x.gid ⟨k, id, bs, fmt⟩ }
                  .next (s.updGrp x.gid fun g => { g with pin := some ⟨x.act, word⟩, wait := .mmas none false })
          | _, _ => .next s
/-- MMA (R240). -/
def execMma (a b : Reg) (s : State) : Out := s.mmaOp (encode (.mma a b)) a b false false
/-- MMAS (R240, R249, R251). -/
def execMmas (a b : Reg) (s : State) : Out := s.mmaOp (encode (.mmas a b)) a b true false
/-- MMAZ (R240). -/
def execMmaz (a b : Reg) (s : State) : Out := s.mmaOp (encode (.mmaz a b)) a b false true

/-! ### Collective instances (R251) -/

/-- The group of a team that waits for its n-th `MMAS`. -/
def State.mmasOf (s : State) (t : Nat × Team) (n : Nat) : Option (Nat × MmasWait) :=
  (s.core t.2.core).mwait.find? fun e => e.2.n == n && ((s.grp e.1).map Group.team) == some t.1
/-- A waiting group leaves the instance with a reason and gives its number back. -/
def State.mmasTurnAway (s : State) (core gid reason : Nat) (e : MmasWait) : State :=
  let tid := ((s.grp gid).map Group.team).getD 0
  ((s.updCore core fun k => { k with mwait := k.mwait.del gid }).updGrp gid fun g =>
    { g with wait := .mmas (some reason) false }).updTeam tid fun t => { t with mmasFree := e.n :: t.mmasFree }
/-- What the descriptors of an instance must agree in: addresses, strides, M, N, K, control word, format word. -/
def MmasWait.common (e : MmasWait) : List Byte × List Byte × Word := (e.desc.take 30, (e.desc.drop 44).take 4, e.fmt)
/-- The teams of a grid that a save has taken from their cores and that wait to be placed again (19 R375, R376). -/
def State.savedTeams (s : State) (grid : Nat) : List Team :=
  (s.savedOf grid).map SavedTeam.team
/-- MMAS_INSTANCE_START: for the teams of one run of a cluster, an instance that all have reached is compared and enters
every queue, or is turned away; one that a retired team never issued is turned away, one that a saved team has not reached waits
(R251). -/
def execMmasInstanceStart (grid cluster : Nat) (s : State) : Out :=
  let (w, h) := ((s.grid grid).map fun g => (g.recd.w, g.recd.h)).getD (1, 1)
  let one := fun (s : State) (role : Nat) =>
    let ts := s.teams.filter fun e =>
      e.2.grid == grid && e.2.cluster == cluster && e.2.kind == .launch && e.2.role == role
    let away := (s.savedTeams grid).countP fun t => t.cluster == cluster && t.kind == .launch && t.role == role
    match ts with
    | [] => s
    | t0 :: _ =>
      let waits := fun (t : Nat × Team) => (s.core t.2.core).mwait.filter fun e => ((s.grp e.1).map Group.team) == some t.1
      if ts.length + away < w * h then
        ts.foldl (fun s t => (waits t).foldl (fun s e => s.mmasTurnAway t.2.core e.1 0x15 e.2) s) s
      else if ts.length < w * h then s
      else
        match (waits t0).find? fun e => ts.all fun t => (s.mmasOf t e.2.n).isSome with
        | none => s
        | some (_, e0) =>
          let members : List (Nat × Nat × Team × MmasWait) := ts.filterMap fun t =>
            (s.mmasOf t e0.n).map fun e => (e.1, t.1, t.2, e.2)
          if members.any fun e => e.2.2.2.common != e0.common then
            members.foldl (fun s e => s.mmasTurnAway e.2.2.1.core e.1 0x14 e.2.2.2) s
          else if members.any fun e => 16 ≤ (s.core e.2.2.1.core).mq.length then s
          else
            let (inst, s) := s.fresh
            members.foldl (fun s e =>
              let (gid, tid, t, v) := e
              let g := ((s.grp gid)).getD { team := tid }
              let o := { (MmaDesc.ofBytes v.desc).tile v.fmt w h t.rank with
                id := v.id, team := tid, gid, coll := some inst, vc := g.vc, obs := g.obs }
              let o := { o with acq := if ctrlAcq o.ctrl then s.acqWait gid g else {} }
              ((s.updCore t.core fun k => { k with mwait := k.mwait.del gid }).enqueue t.core o).updGrp gid fun g =>
                { g with wait := .mmas none true }) s
  .next ([0, 1, 2, 3].foldl one s)

/-! ### Running operations (R243 to R246) -/

/-- The operation of a core with a number. -/
def State.mop (s : State) (core op : Nat) : Option Mop := (s.core core).mq.find? fun o => o.id == op
/-- Changes an operation in a core's queue. -/
def State.updMop (s : State) (core op : Nat) (f : Mop → Mop) : State :=
  s.updCore core fun k => { k with mq := k.mq.map fun o => if o.id = op then f o else o }
/-- MMA_QUEUE_START: the first operation not yet started starts (R243). -/
def execMmaQueueStart (core : Nat) (s : State) : Out :=
  match (s.core core).mq.find? fun o => !o.started with
  | none => .next s
  | some o => if s.suspended core o.gid o.team then .next s else .next (s.updMop core o.id fun o => { o with started := true })

/-- The buffer of an operand. -/
def Mop.buf (o : Mop) (isB : Bool) : Tab (List Byte) := if isB then o.bufB else o.bufA
/-- Bytes of a piece of an operand: a 16 B granule of the scratchpad or a 64 B sector of memory (R244, R245). -/
def Mop.unit (o : Mop) (isB : Bool) : Nat := if o.isLoc isB then 16 else 64
/-- A piece is needed and not taken yet. -/
def Mop.lacks (o : Mop) (isB : Bool) (va : Dword) : Bool :=
  va.toNat % o.unit isB = 0 && (o.rows isB).meets va (o.unit isB) && ((o.buf isB).find (va.toNat / o.unit isB)).isNone
/-- Puts a piece into the buffer. -/
def Mop.take (o : Mop) (isB : Bool) (va : Dword) (bs : List Byte) : Mop :=
  let k := va.toNat / o.unit isB
  if isB then { o with bufB := o.bufB.put k bs } else { o with bufA := o.bufA.put k bs }
/-- The cores that the operand group of a collective operation's row or column joins: the one that reads the band, and those that
its entry drops at (R250; 04 R78). -/
def State.bandCores (s : State) (core : Nat) (o : Mop) (isB : Bool) : List Nat :=
  let root := core - (if isB then 8 * o.row else o.col)
  root :: (((s.team o.team).bind Team.band).bind fun k =>
    (s.mcast.find (mcKey (root / 64) (root % 64) (bandIdent k isB))).map (mcDrops (root / 64))).getD []
/-- Operations that use the same band as one: itself, and with `MMAS` those of its cluster row or column, which its operand group
joins (R250). As (core, operation). -/
def State.bandUsers (s : State) (core : Nat) (o : Mop) (isB : Bool) : List (Nat × Mop) :=
  if o.isLoc isB || o.coll.isNone then [(core, o)]
  else (s.bandCores core o isB).flatMap fun c => ((s.core c).mq.filter fun p =>
    p.coll == o.coll && (if isB then p.col == o.col else p.row == o.row)).map fun p => (c, p)
/-- A band's pieces can travel from the core that reads it to the others of its group (R250; 04 R76, R77). -/
def State.bandOpen (s : State) (part core : Nat) (o : Mop) (isB : Bool) : Bool :=
  o.isLoc isB || o.coll.isNone || (match s.bandCores core o isB with
    | root :: others => others.all fun c => s.pathOpen part (loopLeg (root / 64) (root % 64) (c % 64))
    | [] => true)
/-- The operation reads the band for its users: the one at column 0 or row 0, or the nearest to it that has not failed
(R250). -/
def State.readsBand (s : State) (core : Nat) (o : Mop) (isB : Bool) : Bool :=
  o.failed.isNone && (s.bandUsers core o isB).all fun e =>
    e.2.failed.isSome || (if isB then o.row ≤ e.2.row else o.col ≤ e.2.col)
/-- Every operation that takes the band has performed the acquire that its ACQ asks for (R238, R252; 07 R156). -/
def State.bandAcquired (s : State) (core : Nat) (o : Mop) (isB : Bool) : Bool :=
  (s.bandUsers core o isB).all fun e => e.2.failed.isSome || s.engineAcquired e.1 e.2.ctrl e.2.acq e.2.vc e.2.obs
/-- Releases a pin on a line (R245). -/
def State.unpin (s : State) (k : Nat) : State := { s with l2 := s.l2.upd k fun l => { l with pins := l.pins - 1 } }
/-- Releases every pin of an operation. -/
def State.unpinAll (s : State) (o : Mop) : State := o.pins.foldl (fun s p => s.unpin p.2.2) s
/-- A pin on a line may be taken: its set has fewer than eight pinned lines, or it is pinned already (R245). -/
def State.pinRoom (s : State) (k : Nat) : Bool :=
  ((s.l2.find k).any fun l => l.pins ≠ 0) ||
    (s.l2.countP fun e => e.1 / 2 ^ 32 == k / 2 ^ 32 && setOf (e.1 % 2 ^ 32) == setOf (k % 2 ^ 32) && e.2.pins != 0) < 8
/-- Pins a line for an operation, once for each operand. -/
def State.pinFor (s : State) (core : Nat) (o : Mop) (isB : Bool) (vline k : Nat) : State :=
  if o.pins.any fun p => p.1 == isB && p.2.1 == vline then s
  else { s with l2 := s.l2.upd k fun l => { l with pins := l.pins + 1 } }.updMop core o.id fun o =>
    { o with pins := (isB, vline, k) :: o.pins }
/-- Releases the pin of a line whose last needed piece has been taken. -/
def State.unpinDone (s : State) (core op : Nat) (isB : Bool) (vline : Nat) : State :=
  match s.mop core op with
  | none => s
  | some o =>
    if (List.range 4).any fun i => o.lacks isB (BitVec.ofNat 64 (256 * vline + 64 * i)) then s
    else
      let gone := o.pins.filter fun p => p.1 == isB && p.2.1 == vline
      (gone.foldl (fun s p => s.unpin p.2.2) s).updMop core op fun o =>
        { o with pins := o.pins.filter fun p => !gone.contains p }
/-- A band read fails: so does every operation that uses the band (R246, R250). -/
def State.failBand (s : State) (core : Nat) (o : Mop) (isB : Bool) (code : Nat) : State :=
  (s.bandUsers core o isB).foldl (fun s e =>
    (s.unpinAll e.2).updMop e.1 e.2.id fun o => { o with failed := o.failed.or (some code), pins := [] }) s

/-- MMA_OPERAND_READ: one piece of an operand is taken; a multicast band's read comes after the earlier stores of the core that reads it
(R244 to R246, R250; 07 R156; log 38). -/
def execMmaOperandRead (core op : Nat) (isB : Bool) (va : Dword) (s : State) : Out :=
  match s.mop core op with
  | none => .next s
  | some o =>
    if !o.started || s.suspended core o.gid o.team || !o.lacks isB va || !s.readsBand core o isB || !s.bandAcquired core o isB then
      .next s
    else
      let deliver := fun (s : State) (bs : List Byte) =>
        (s.bandUsers core o isB).foldl (fun s e => s.updMop e.1 e.2.id fun p => p.take isB va bs) s
      match classify va, o.isLoc isB with
      | .localAp off, true =>
        let a := s.locBase o.team + off
        if (s.core core).anyAbsent a 16 then .next s
        else .next (deliver s (s.locBytes { team := o.team } core off 16))
      | .global, false =>
        let part := (s.partOf { team := o.team }).getD 0
        match s.lookNow core part va needRead with
        | (_, .walk) => .next s
        | (s, .at pa _) =>
          let k := l2Key (s.home pa) (pa / 256)
          if !s.pinRoom k || !s.bandOpen part core o isB then .next s
          else match s.engineRead core o.team o.id va 64 with
            | (s, .ok bs _) =>
              let s := s.pinFor core o isB (va.toNat / 256) k
              .next ((deliver s bs).unpinDone core op isB (va.toNat / 256))
            | (s, .wait) => .next s
            | (s, .err code) => .next (s.failBand core o isB code)
        | (s, lk) => .next (s.failBand core o isB lk.engineErr)
      | _, _ => .next (s.failBand core o isB 0x0C)

/-! ### The product (R246, R247) -/

/-- A byte of an operand, if taken. -/
def Mop.byte (o : Mop) (isB : Bool) (va : Dword) : Option Byte :=
  ((o.buf isB).find (va.toNat / o.unit isB)).map fun bs => bs.getD (va.toNat % o.unit isB) 0
/-- The value of an element at an address under its element descriptor, if taken. -/
def Mop.elem (o : Mop) (isB : Bool) (va : Dword) : Option Fp :=
  let ed := if isB then o.fmt.extractLsb' 16 16 else o.fmt.extractLsb' 0 16
  match o.byte isB va, o.byte isB (va + 1) with
  | some l, some h => some (edDecode ed (if elemSize o.fmt = 1 then l.toNat else l.toNat + 256 * h.toNat))
  | some l, none => if elemSize o.fmt = 1 then some (edDecode ed l.toNat) else none
  | _, _ => none
/-- Element (i, k) of A and (k, j) of B (R239). -/
def Mop.elemA (o : Mop) (i k : Nat) : Option Fp :=
  o.elem false (o.a + BitVec.ofNat 64 (i * o.aStride + k * elemSize o.fmt))
def Mop.elemB (o : Mop) (k j : Nat) : Option Fp :=
  o.elem true (o.b + BitVec.ofNat 64 (if ctrlBTr o.ctrl then j * o.bStride + k * elemSize o.fmt
    else k * o.bStride + j * elemSize o.fmt))
/-- The exact sum of products of a chunk, exact zeros of A contributing none (R247). -/
def chunkSum (ps : List (Fp × Fp)) : Fp := Fp.sum ((ps.filter fun p => !p.1.isZero).map fun p => p.1.mul p.2) false
/-- chunk(i, j, c), if its elements have been taken. -/
def Mop.chunk (o : Mop) (i j c : Nat) : Option Fp :=
  ((List.range 32).mapM fun t => match o.elemA i (32 * c + t), o.elemB (32 * c + t) j with
    | some a, some b => some (a, b)
    | _, _ => none).map chunkSum
/-- One step of the sum order: an exact zero leaves the accumulator bit for bit, and so does a NaN in it (R247). -/
def accStep (acc : Word) (sum : Fp) : Word :=
  if sum.isZero || fp32.isNan acc.toNat then acc
  else BitVec.ofNat 32 (fp32.encode 0 .rne false (Fp.sum [fp32.decode acc.toNat, sum] false)).code
/-- The leading chunks of an element whose operands have been taken. -/
def Mop.chunks (o : Mop) (i j : Nat) : List Fp :=
  (((List.range (o.k / 32)).map fun c => o.chunk i j c).takeWhile Option.isSome).filterMap fun v => v
/-- Every needed piece has been taken. -/
def Mop.allRead (o : Mop) : Bool :=
  [false, true].all fun isB =>
    let r := o.rows isB
    (List.range r.rows).all fun i =>
      (piecesOf (o.unit isB) (r.base + BitVec.ofNat 64 (i * r.stride)).toNat r.len).all fun p =>
        !o.lacks isB (BitVec.ofNat 64 (p.2.1 / o.unit isB * o.unit isB))
/-- An accumulator index lies in the operation's tile (R237). -/
def Mop.covers (o : Mop) (x : Nat) : Bool :=
  o.accOff ≤ x && (x - o.accOff) / o.accStride < o.m && (x - o.accOff) % o.accStride < o.n
/-- Two tiles share an accumulator. -/
def Mop.overlaps (o p : Mop) : Bool :=
  (List.range o.m).any fun i => (List.range p.m).any fun j =>
    let a := o.accOff + i * o.accStride
    let b := p.accOff + j * p.accStride
    a < b + p.n && b < a + o.n
/-- The operations that a team has issued on a core and that are not complete: queued, running, or waiting for their collective
instance (R236, R251). -/
def State.teamMops (s : State) (core tid : Nat) : List Mop :=
  ((s.core core).mq.filter fun o => o.team == tid) ++
    ((s.core core).mwait.filter fun e => ((s.grp e.1).map Group.team) == some tid).map fun e =>
      let t := (s.team tid).getD { grid := 0, core }
      let (w, h) := s.clusterOf t
      { (MmaDesc.ofBytes e.2.desc).tile e.2.fmt w h t.rank with id := e.2.id, team := tid, gid := e.1 }
/-- No earlier operation of the team that is not complete shares an accumulator (R236). -/
def State.mopFirst (s : State) (core : Nat) (o : Mop) : Bool :=
  (s.teamMops core o.team).all fun p => o.id ≤ p.id || !p.overlaps o
/-- An operation's accumulators take their values; a failed one's stop after a free number of the chunks whose operands it had
taken (R246, R247; log 3). -/
def State.mopResult (s : State) (core : Nat) (o : Mop) (t : Team) : State :=
  let k := (List.range (o.m * o.n)).foldl (fun (k : Core) e =>
    let i := e / o.n
    let j := e % o.n
    let x := t.accBlk / 4 + o.accOff + i * o.accStride + j
    let cs := o.chunks i j
    let cs := if o.failed.isNone then cs else cs.take (Config.freeNat (s.freeCtr + e) % (cs.length + 1))
    k.accWrite t.owner x (cs.foldl accStep (if o.zero then 0#32 else k.accRead t.owner x))) (s.core core)
  { s.setCore core k with freeCtr := if o.failed.isNone then s.freeCtr else s.freeCtr + o.m * o.n }
/-- MMA_COMPLETE: the operation leaves the engine; a complete one performs its release and counts 1 at its object, a failed one applies
its error (R246, R252; 12 R274). -/
def execMmaComplete (core op : Nat) (s : State) : Out :=
  match s.mop core op with
  | none => .next s
  | some o =>
    if !o.started || s.suspended core o.gid o.team || !s.mopFirst core o || !(o.failed.isSome || o.allRead) then .next s
    else match s.team o.team with
      | none => .next s
      | some t =>
        let s := (s.mopResult core o t).updCore core fun k => { k with mq := k.mq.filter fun p => p.id != op }
        .next (match o.failed with
          | none => ((s.engineRel o.team (ctrlRel o.ctrl)).objCount o.team o.obj 1 {}).1
          | some code => s.objError o.team o.obj code)

/-! ### Accumulator instructions (R256, R257) -/

/-- What an accumulator instruction's lane meets: operands, its own condition, bounds of its indices, ownership (R257). -/
def State.accTrap (s : State) (x : Issue) (n : Nat) (srcs : List Operand) (own : LaneIx → Option TrapC)
    (idx : LaneIx → Nat × Nat) (l : LaneIx) : Option TrapC :=
  let size := ((s.team x.g.team).map Team.accSize).getD 0
  let (lo, k) := idx l
  ((x.g.operandTrap n srcs l).or (own l)).or
    (if k ≠ 0 && size / 4 < lo + k then
      some { rank := 3, code := 0x0E, info := 0x20, addr := BitVec.ofNat 64 (max lo (size / 4)) }
     else (s.team x.g.team).bind s.firstUse)
/-- An MMA of the team that is not complete covers one of k indices from `lo` on (R236). -/
def State.accBusy (s : State) (core tid lo k : Nat) : Bool :=
  (s.teamMops core tid).any fun o => (List.range k).any fun i => o.covers (lo + i)
/-- The shape of an accumulator instruction: it waits for operands and for MMAs that cover its indices, then each lane traps
or acts, in ascending order (R236, R256, R257). `idx` is a lane's first index and how many. -/
def State.accOp (s : State) (guard : Bool) (srcs : List Operand) (dst : Option Operand) (own : Issue → Nat → LaneIx → Option TrapC)
    (idx : Issue → Nat → LaneIx → Nat × Nat) (eff : Issue → Nat → Mask → State → State) : Out :=
  s.withIssue fun x =>
    let n := s.stackOf x.g
    let part := x.part guard
    let trap := s.accTrap x n srcs (own x n) (idx x n)
    let busy := (Mask.lanes part).any fun l =>
      (trap l).isNone && s.accBusy (coreOf x.gid) x.g.team (idx x n l).1 (idx x n l).2
    if x.g.pending n x.act (srcs ++ dst.toList) || busy then .next s
    else
      let wb := ((Mask.low x.act).map fun l => (x.g.lane l).wb).getD 0
      s.finish x part trap (fun done s => eff x n done (s.updGrp x.gid fun g => g.scrub n wb part srcs)) x.seq
/-- The accumulator at an index of a group's team. -/
def State.accAt (s : State) (g : Group) (i : Nat) : Word :=
  match s.team g.team with
  | none => 0
  | some t => (s.core t.core).accRead t.owner (t.accBlk / 4 + i)
/-- Writes an accumulator of a group's team. -/
def State.setAcc (s : State) (g : Group) (i : Nat) (v : Word) : State :=
  match s.team g.team with
  | none => s
  | some t => s.updCore t.core fun k => k.accWrite t.owner (t.accBlk / 4 + i) v
/-- The asynchronous value of `ACRD` and `ACCVT`: read at issue, on its way to d (R236, R256). -/
def State.accReturn (s : State) (x : Issue) (n : Nat) (word : Word) (nw : Bool) (dst : Operand) (done : Mask) (l : LaneIx)
    (v : Word) : State :=
  let (s, fold) := if foldsIn done nw dst l then
      let (s, p) := s.reserve x.gid l 1
      (s, some p)
    else (s, none)
  let r := s.reqOf x l word .acc 0 noPa 0
  (s.launch { r with dst := dstOf x.g n done nw dst l, fold, stage := .reply [v] false }).1
/-- ACRD (R256). -/
def execAcrd (o : A2) (s : State) : Out :=
  let dst : Operand := ⟨o.d, 1⟩
  s.accOp o.g [⟨o.a, 1⟩] (if o.nw then none else some dst) (fun _ _ _ => none)
    (fun x n l => ((x.g.src n l o.a).toNat + l.val, 1)) fun x n done s =>
    (Mask.lanes done).foldl (fun s l =>
      s.accReturn x n (encode (.acrd o)) o.nw dst done l (s.accAt x.g ((x.g.src n l o.a).toNat + l.val)))
      (s.updGrp x.gid fun g => g.setPend n done o.nw dst)
/-- ACWR (R256). -/
def execAcwr (o : A2s) (s : State) : Out :=
  s.accOp o.g [⟨o.a, 1⟩, ⟨o.d, 1⟩] none (fun _ _ _ => none)
    (fun x n l => ((x.g.src n l o.a).toNat + l.val, 1)) fun x n done s =>
    (Mask.lanes done).foldl (fun s l => s.setAcc x.g ((x.g.src n l o.a).toNat + l.val) (x.g.src n l o.d)) s
/-- ACZ (R256). -/
def execAcz (o : A2ab) (s : State) : Out :=
  s.accOp o.g [⟨o.a, 1⟩, ⟨o.b, 1⟩] none (fun _ _ _ => none)
    (fun x n l => ((x.g.src n l o.a).toNat, (x.g.src n l o.b).toNat)) fun x n done s =>
    (Mask.lanes done).foldl (fun s l =>
      (List.range (x.g.src n l o.b).toNat).foldl (fun s i => s.setAcc x.g ((x.g.src n l o.a).toNat + i) 0) s) s
/-- ACCVT (R256, R257; 09 R205): counts its events as `PACK8` does. -/
def execAccvt (o : A3) (s : State) : Out :=
  let dst : Operand := ⟨o.d, 1⟩
  s.accOp o.g [⟨o.a, 1⟩, ⟨o.b, 1⟩] (if o.nw then none else some dst)
    (fun x n l =>
      let w := x.g.src n l o.b
      if convValid w && edNarrow (w.extractLsb' 0 16) then none else some { rank := 2, code := 0x07, info := w })
    (fun x n l => ((x.g.src n l o.a).toNat + 4 * l.val, 4)) fun x n done s =>
    let res := fun (l : LaneIx) => (List.range 4).map fun i =>
      convEncode (x.g.src n l o.b) (fp32.decode (s.accAt x.g ((x.g.src n l o.a).toNat + 4 * l.val + i)).toNat)
    (Mask.lanes done).foldl (fun s l =>
      (s.accReturn x n (encode (.accvt o)) o.nw dst done l (ofBytes4 ((res l).map FRes.code))).countFp x.g
        (onceEach ((res l).flatMap FRes.ev)))
      (s.updGrp x.gid fun g => g.setPend n done o.nw dst)

end Sys2Proof.Machine
end

