-- ==== Sys2Proof/Machine/Place.lean ====
section
/-! DEFINITION. Where work goes and how it starts: selection for checking (12 R258), the allocators (18 R352 to R355), reserved
slots (12 R261), and the first state of a team's groups (13 R305, R306; 17 R324, R333). -/

namespace Sys2Proof.Machine

/-! ### Selection (12 R258) -/

/-- mix32 of R258. -/
def mix32 (x : Word) : Word :=
  let x := (x ^^^ (x >>> 16)) * 0x7FEB352D#32
  let x := (x ^^^ (x >>> 15)) * 0x846CA68B#32
  x ^^^ (x >>> 16)
/-- The work of number x is selected at a redundancy level (R258). -/
def selected (level : Nat) (seed x : Word) : Bool :=
  if level = 0 then false else if level = 7 then true else (mix32 (x ^^^ seed)).toNat / 2 ^ (25 + level) = 0

/-! ### Allocators (18 R352, R353, R355; 08 R160) -/

/-- The allocation of n bytes: rounded up to a power of two of at least 4 KiB; none for 0. -/
def roundBlock (n : Nat) : Nat := if n = 0 then 0 else (((List.range 21).map (2 ^ ·)).find? fun b => 4096 ≤ b && n ≤ b).getD 0
/-- The lowest aligned free block of a size in a pool with blocks in use (address, size). -/
def lowestFree (pool size : Nat) (used : List (Nat × Nat)) : Option Nat :=
  ((List.range (pool / size)).map (· * size)).find? fun a => used.all fun u => a + size ≤ u.1 || u.1 + u.2 ≤ a
/-- Bytes of a group's register block (08 R160). -/
def regBytes (stackS : Nat) : Nat := 128 * stackS
/-- The resident stack size of a stack code (08 R159). -/
def stackSize (code : Nat) : Nat := 128 * 2 ^ code
/-- The teams on a core. -/
def State.teamsOn (s : State) (core : Nat) : List (Nat × Team) := s.teams.filter fun e => e.2.core = core
def State.regUsed (s : State) (core : Nat) : List (Nat × Nat) :=
  (s.teamsOn core).flatMap fun e => e.2.regBlks.map fun a => (a, regBytes e.2.stackS)
def State.locUsed (s : State) (core : Nat) : List (Nat × Nat) :=
  (s.teamsOn core).filterMap fun e => if e.2.locSize = 0 then none else some (e.2.locBlk, roundBlock e.2.locSize)
def State.accUsed (s : State) (core : Nat) : List (Nat × Nat) :=
  (s.teamsOn core).filterMap fun e => if e.2.accSize = 0 then none else some (e.2.accBlk, roundBlock e.2.accSize)
/-- The free slots of a core. -/
def State.freeSlots (s : State) (core : Nat) : List Nat := (List.range 32).filter fun k => (s.grp (32 * core + k)).isNone
/-- Gives slots one at a time: the barrel with the most free slots, its lowest slot (R353). -/
def pickSlots (free : List Nat) : Nat → Option (List Nat)
  | 0 => some []
  | n + 1 =>
    let left := fun b => free.countP fun k => k / 8 == b
    let b := (List.range 4).foldl (fun best b => if left best < left b then b else best) 0
    match free.find? fun k => k / 8 == b with
    | none => none
    | some k => (pickSlots (free.erase k) n).map (k :: ·)
/-- Register blocks for n groups. -/
def pickRegs (size : Nat) (used : List (Nat × Nat)) : Nat → Option (List Nat)
  | 0 => some []
  | n + 1 => (lowestFree 1048576 size used).bind fun a => (pickRegs size ((a, size) :: used) n).map (a :: ·)

/-- What a team needs of a core. -/
structure Need where
  groups : Nat
  stackS : Nat
  loc : Nat
  acc : Nat
  deriving DecidableEq, Repr
/-- The slots and blocks a team takes (R352 to R355). -/
structure Alloc where
  slots : List Nat
  regs : List Nat
  loc : Nat
  acc : Nat
  deriving DecidableEq, Repr
def LaunchRec.need (r : LaunchRec) (groups : Nat) : Need := ⟨groups, stackSize r.stack, r.locBytes, r.accBytes⟩
/-- A block of n bytes in a pool; address 0 when none is needed. -/
def pickBlock (pool n : Nat) (used : List (Nat × Nat)) : Option Nat :=
  if n = 0 then some 0 else lowestFree pool (roundBlock n) used
/-- Slots and blocks for a team on a core, as they stand (R352). -/
def State.allocOn (s : State) (core : Nat) (n : Need) : Option Alloc :=
  match pickSlots (s.freeSlots core) n.groups, pickRegs (regBytes n.stackS) (s.regUsed core) n.groups,
    pickBlock 1048576 n.loc (s.locUsed core), pickBlock 524288 n.acc (s.accUsed core) with
  | some a, some b, some c, some d => some ⟨a, b, c, d⟩
  | _, _, _, _ => none
/-- The clusters of a grid fuse their L1s (06 R122). -/
def Grid.fuses (g : Grid) : Bool := g.recd.flags.getLsbD 7 && 1 < g.recd.w * g.recd.h
/-- The core of a cluster's rank 0, by one of its teams. -/
def Team.base (t : Team) (w : Nat) : Nat := t.core - (8 * (t.rank / w) + t.rank % w)
/-- The cores of a rectangle by rank. -/
def rectCores (origin w h : Nat) : List Nat := (List.range (w * h)).map (clusterCore origin w)
/-- A core lies in a fused cluster of another grid; a cluster is resident while any rank of it is (06 R122; 18 R352). -/
def State.fusedAt (s : State) (grid core : Nat) : Bool :=
  s.teams.any fun e => e.2.kind == .launch && e.2.grid != grid && (s.grid e.2.grid).any fun h =>
    h.fuses && (rectCores (e.2.base h.recd.w) h.recd.w h.recd.h).contains core
/-- Placement may use a core for a grid's work on n cores: in the partition, not fenced, not idle, not vacated for it, in no fused
cluster of another grid, and for a fused cluster, whose L1s serve it alone, without teams of another grid (06 R122; R352; 19 R374; 20
R390). -/
def State.coreOk (s : State) (grid n : Nat) (core : Nat) : Bool :=
  match s.grid grid with
  | none => false
  | some g =>
    (s.coresOf g.part (core / 64)).contains core && !(s.core core).fenced && (s.domain (domainOf core)).st != 3 &&
      !g.vacated.contains core && !s.fusedAt grid core && (!(g.fuses && 1 < n) || (s.teamsOn core).all fun e => e.2.grid == grid)
/-- Refinement grid numbers that a partition's grids do not use (17 R329). -/
def State.freeNums (s : State) (part : Nat) : List Nat :=
  (List.range 8).filter fun n => !s.grids.any fun g => g.2.part == part && g.2.refine.any fun r => r.num == n
/-- Every core of a partition, ascending. -/
def State.partCores (s : State) (part : Nat) : List Nat := (List.range 4).flatMap fun d => s.coresOf part d

/-! ### Reserved slots (12 R261) -/

/-- Slots a grid's reservation still keeps from other work: those its shadow and third runs do not occupy. -/
def State.reservedLeft (s : State) (n : Nat) (g : Grid) : Nat :=
  if g.reserved then
    g.slots - s.groups.countP fun e => !e.2.priv && ((s.team e.2.team).any fun t => t.grid == n && 2 ≤ t.role)
  else 0
/-- Free slots of a partition. -/
def State.partFree (s : State) (part : Nat) : Nat := ((s.partCores part).map fun c => (s.freeSlots c).length).sum
/-- Work of a grid may take k slots: shadow and third runs also take the grid's own reserved ones. -/
def State.slotsOpen (s : State) (n part : Nat) (rerun : Bool) (k : Nat) : Bool :=
  let kept := ((s.grids.filter fun e => e.2.part = part && !(rerun && e.1 = n)).map fun e => s.reservedLeft e.1 e.2).sum
  k + kept ≤ s.partFree part

/-! ### The first state of a team (13 R305, R306; 17 R324, R333; 07 R155) -/

/-- A unit of work that is placed as a whole: a cluster of a grid, the tasks of a bin, or a fired tile run. -/
inductive Work where
  | cluster (idx : Nat)
  | bin (seq : Nat) (tasks : List Task)
  | tile (f : Fired)
  deriving DecidableEq, Repr

/-- Clusters of a grid: along x, along y, and in all. -/
def LaunchRec.clusters (r : LaunchRec) : Nat × Nat × Nat := (r.x / r.w, r.y / r.h, r.x / r.w * (r.y / r.h) * r.z)
/-- Ranks of a unit of work. -/
def Work.ranks (k : Work) (r : LaunchRec) : Nat :=
  match k with
  | .cluster _ => r.w * r.h
  | _ => 1
/-- Groups of each team of a unit. -/
def Work.groups (k : Work) (r : LaunchRec) : Nat :=
  match k with
  | .cluster _ => r.groups
  | _ => 1
/-- The cluster number of a bin's or tile's team: apart from every launch cluster (log 8). -/
def soloCluster (tid : Nat) : Nat := 2 ^ 40 + tid
/-- The epochs that a die has closed (R155). -/
def State.closedAt (s : State) (die : Nat) : Clk := (s.die die).markers.set die ((s.die die).epoch - 1)
/-- The team of a rank of a unit, before it has a place. -/
def Work.team (k : Work) (grid : Nat) (g : Grid) (tid rank : Nat) : Team :=
  let r := g.recd
  let t : Team := { grid, core := 0, owner := r.owner, stackS := stackSize r.stack, locSize := r.locBytes
                    accSize := r.accBytes, pclass := (r.flags.extractLsb' 4 3).toNat }
  match k with
  | .cluster c =>
    let (cx, cy, _) := r.clusters
    let x := c % cx * r.w + rank % r.w
    let y := c / cx % cy * r.h + rank / r.w
    let z := c / cx / cy
    { t with lin := x + r.x * (y + r.y * z), x, y, z, rank, cluster := c, groups := r.groups }
  | .bin seq _ => { t with kind := .bin seq, cluster := soloCluster tid }
  | .tile f =>
    { t with kind := .tile f.tile, cluster := soloCluster tid, firing := f.num, pclass := (g.refine.map fun q => q.bandClass f.ver).getD 0 }
/-- Initial `s` registers: argument block, index, group index, groups, rank (R306). -/
def startRegs (args : Dword) (lin i n rank : Nat) : Tab RCell :=
  [(98, args.lo), (99, args.hi), (100, BitVec.ofNat 32 lin), (101, BitVec.ofNat 32 i), (102, BitVec.ofNat 32 n),
    (103, BitVec.ofNat 32 rank)].foldl (fun t e => t.setD {} e.1 { val := e.2 }) []
/-- Lanes at an entry PC with given register words from slot 0 on. -/
def startLanes (entry : Word) (words : LaneIx → List Word) (on : LaneIx → Bool) : Vector Lane 32 :=
  Vector.ofFn fun l =>
    let st := ((words l).zipIdx).foldl (fun (t : Tab RCell) e => t.setD {} e.2 { val := e.1 }) []
    if on l then { pc := entry, stack := st } else { st := .exited }
/-- Group i of a rank's team as it starts, with the acquire that a group start is, behind the writes before its grid's launch (R306; 07
R143, R155; 17 R324, R329, R333). -/
def Work.group (k : Work) (g : Grid) (t : Team) (tid i : Nat) (closed : Clk) : Group :=
  let r := g.recd
  let base : Group := { team := tid, grpix := i, pclass := t.pclass, gridid := BitVec.ofNat 32 ((g.refine.map Refine.num).getD 0)
                        mustSee := g.startClk }
  match k with
  | .cluster _ =>
    { base with
      lanes := startLanes r.entry (fun l => [BitVec.ofNat 32 (32 * i + l.val)]) fun _ => true
      s := startRegs r.args t.lin i t.groups t.rank
      vc := closed, obs := closed, cc := closed, acq := true }
  | .bin seq ts =>
    let clk := ts.foldl (fun (c : Clk) t => c.join t.vc) {}
    { base with
      lanes := startLanes ((ts.head?.map Task.entry).getD 0) (fun l => (ts[l.val]?.map Task.args).getD []) fun l =>
        l.val < ts.length
      s := startRegs r.args (seq % 2 ^ 30) 0 1 0
      vc := clk, obs := clk, cc := clk, acq := true }
  | .tile f =>
    let clk := closed.join f.clk
    let (entry, xy) := (g.refine.map fun q => (q.entry, q.coord f.tile)).getD (0, 0)
    { base with
      lanes := startLanes entry (fun l => [BitVec.ofNat 32 l.val]) fun _ => true
      s := startRegs r.args f.tile 0 1 0
      tilexy := xy, tilever := BitVec.ofNat 32 f.ver, seen := BitVec.ofNat 32 f.seen
      vc := clk, obs := clk, cc := clk, acq := true }

/-- The access returns a value to a register allocation of a core (08 R170). -/
def Req.returnsTo (r : Req) (core : Nat) : Bool :=
  r.core == core && (match r.maker, r.kind with
    | .lane _ _, .store _ => false
    | .lane _ _, .prefetch => false
    | .lane _ _, _ => true
    | _, _ => false)
/-- The next generation tag of a core: the counter goes on past tags that returns in flight carry (08 R171). -/
def State.nextTag (s : State) (core : Nat) : BitVec 8 :=
  let c := (s.core core).tagCtr
  let busy := (s.reqs.filter fun e => e.2.returnsTo core).map fun e => e.2.tag
  (((List.range 256).map fun i => c + BitVec.ofNat 8 (i + 1)).find? fun t => !busy.contains t).getD (c + 1)
/-- Puts a team and its groups into a core's slots and blocks (R352, R353; 08 R171; 03 R66). -/
def State.settle (s : State) (tid : Nat) (t : Team) (core : Nat) (a : Alloc) (groups : List Group) : State :=
  let tag := s.nextTag core
  let t := { t with core, tslot := a.slots.headD 0, regBlks := a.regs, locBlk := a.loc, accBlk := a.acc }
  let units := a.regs.flatMap fun b => (List.range (regBytes t.stackS / 8192)).map fun i => b / 8192 + i
  let s := { s with teams := s.teams.put tid t }.updCore core fun c =>
    { c with tagCtr := tag, regTag := units.foldl (fun m u => m.setD 0 u t.owner) c.regTag }
  let s := s.updDomain (domainOf core) fun d => { d with idleSoFar := false }
  (groups.zip a.slots).foldl (fun s e => s.setGrp (32 * core + e.2) { e.1 with tag }) s
/-- The number that selects a unit for checking (12 R258). -/
def Work.selector (k : Work) (lin num : Nat) : Word :=
  match k with
  | .cluster _ => BitVec.ofNat 32 lin
  | .bin seq _ => BitVec.ofNat 32 (2 ^ 30 + seq % 2 ^ 30)
  | .tile f => BitVec.ofNat 32 (2 ^ 31 + num * 2 ^ 24 + f.tile * 2 ^ 8 + f.runs % 256)
/-- Places a unit's teams by rank on cores. A first run is selected or not (12 R258, R259); `check` gives a later run, of its grid's
class, its unit and role (12 R279). A cluster's operand groups are written (04 R78). -/
def State.placeUnit (s : State) (grid : Nat) (k : Work) (check : Option (Nat × Nat)) (places : List (Nat × Alloc)) : State :=
  match s.grid grid with
  | none => s
  | some g =>
    let tids := (List.range places.length).map (s.nextId + ·)
    let s := { s with nextId := s.nextId + places.length }
    let lin0 := (k.team grid g 0 0).lin
    let num := (g.refine.map Refine.num).getD 0
    let pick := check.isNone && selected g.recd.redund g.recd.seed (k.selector lin0 num)
    let (n, s) := if pick then s.fresh else (0, s)
    let s := if pick then
        let c0 := k.team grid g (tids.headD 0) 0
        let c : Check := {
          grid, kind := c0.kind, lin := lin0, cluster := c0.cluster, ranks := places.length, teams1 := tids
          tasks := (match k with
            | .bin _ ts => ts
            | _ => [])
          fired := (match k with
            | .tile f => some f
            | _ => none) }
        (({ s with checks := s.checks.put n c }).countGrid grid fun c => { c with checked := c.checked + 1 }).fynilInc 0
      else match check with
        | some (m, role) => s.updCheck m fun c => if role = 2 then { c with teams2 := tids, phase := .shadow }
            else { c with teams3 := tids, phase := .third }
        | none => s
    let (w, h) := if 1 < places.length then (g.recd.w, g.recd.h) else (1, 1)
    let base := (places.head?.map Prod.fst).getD 0
    let band := if w * h = 1 then none else some (s.freeBand (rectCores base w h))
    let s := band.elim s fun k => s.writeBands g.part base w h k
    ((tids.zip places).zipIdx).foldl (fun s e =>
      let tid := e.1.1
      let core := e.1.2.1
      let t := { k.team grid g tid e.2 with band }
      let t := if check.any fun c => 2 ≤ c.2 then { t with pclass := (g.recd.flags.extractLsb' 4 3).toNat } else t
      let t := if pick then { t with role := 1, check := some n } else match check with
        | some (m, role) => { t with role, check := some m }
        | none => t
      s.settle tid t core e.1.2.2
        ((List.range t.groups).map fun i => k.group g t tid i (s.closedAt (core / 64)))) s

/-- Gives a saved cluster, of which a rank of a team goes to a core, its operand groups there: those it had elsewhere are cleared, unless
other ranks of it are resident and use them (04 R78; 11 R250; 19 R376). -/
def State.moveBands (s : State) (g : Grid) (t : Team) (core : Nat) : State × Option Nat :=
  let (w, h) := (g.recd.w, g.recd.h)
  let base := { t with core }.base w
  let mates := (s.teamsOf t.grid).any fun e => e.2.cluster == t.cluster && e.2.kind == t.kind && e.2.role == t.role
  if t.kind ≠ .launch || w * h = 1 then (s, none)
  else if t.band.isSome && (mates || base = t.base w) then (s, t.band)
  else
    let s := t.band.elim s fun k => s.clearBands (t.base w) w h k
    let k := s.freeBand (rectCores base w h)
    (s.writeBands g.part base w h k, some k)

/-! ### Choosing cores (12 R260; 18 R352) -/

/-- Allocations of a unit's ranks on a rectangle's cores. -/
def State.allocAll (s : State) (grid : Nat) (n : Need) (cores : List Nat) : Option (List (Nat × Alloc)) :=
  cores.mapM fun c => if s.coreOk grid cores.length c then (s.allocOn c n).map fun a => (c, a) else none
/-- The origins of rectangles of w × h cores, in ascending (die, y, x). -/
def origins (w h : Nat) : List Nat :=
  (List.range 256).filter fun c => c % 8 + w ≤ 8 && c % 64 / 8 + h ≤ 8
/-- Where a unit's first run goes: the fitting core or rectangle with the most free slots (R352). -/
def State.placeFirst (s : State) (grid : Nat) (n : Need) (w h : Nat) : Option (List (Nat × Alloc)) :=
  ((origins w h).foldl (fun (best : Option (Nat × List (Nat × Alloc))) o =>
    match s.allocAll grid n (rectCores o w h) with
    | none => best
    | some p =>
      let free := ((rectCores o w h).map fun c => (s.freeSlots c).length).sum
      match best with
      | some b => if b.1 < free then some (free, p) else best
      | none => some (free, p)) none).map Prod.snd
/-- How far a core is from the cores of earlier runs: another die, another domain, or the same domain (12 R260). -/
def farness (earlier : List Nat) (c : Nat) : Nat :=
  if earlier.all fun e => e / 64 ≠ c / 64 then 0 else if earlier.all fun e => domainOf e ≠ domainOf c then 1 else 2
/-- Where a shadow or third run goes (12 R260): the first eligible place of the farthest kind, sharing no core with earlier
runs. -/
def State.placeAgain (s : State) (grid : Nat) (n : Need) (w h : Nat) (earlier : List Nat) : Option (List (Nat × Alloc)) :=
  [0, 1, 2].findSome? fun far => ((origins w h).filter fun o =>
    (rectCores o w h).all fun c => !earlier.contains c && far = (rectCores o w h).foldl (fun m c => max m (farness earlier c)) 0).findSome?
    fun o => s.allocAll grid n (rectCores o w h)

end Sys2Proof.Machine
end

