-- ==== Sys2Proof/Machine/Finish.lean ====
section
/-! DEFINITION. How work ends: retirement (13 R301), verdicts, commits, demerits and holds (12 R273 to R279), killing and
faulting (19 R369), events on host queues (18 R346) and completion records (18 R349). -/

namespace Sys2Proof.Machine

/-! ### Host queues' event blocks (18 R344 to R346) -/

/-- Fields of a host queue descriptor. -/
def HQueue.en (q : HQueue) : Bool := q.desc.getLsbD 0
def HQueue.gang (q : HQueue) : Bool := q.desc.getLsbD 3
def HQueue.level (q : HQueue) : Nat := (q.desc.extractLsb' 4 3).toNat
def HQueue.size (q : HQueue) : Nat := 2 ^ (q.desc.extractLsb' 7 5).toNat
def HQueue.ring (q : HQueue) : Dword := q.desc.extractLsb' 12 52 ++ 0#12
def HQueue.nqp (q : HQueue) : Nat := (q.desc.extractLsb' 96 24).toNat
/-- Address of the event block. -/
def HQueue.block (q : HQueue) : Dword := q.ring + BitVec.ofNat 64 (64 * q.size)
/-- The partition's record of a queue. -/
def State.hqueue (s : State) (part queue : Nat) : HQueue := (((s.part part).map Part.queues).getD []).getD {} queue
def State.updQueue (s : State) (part queue : Nat) (f : HQueue → HQueue) : State :=
  s.updPart part fun p => { p with queues := p.queues.setD {} queue (f (p.queues.getD {} queue)) }
/-- Writes the first 16 bytes of a queue's event block: HEAD, the stop word, and zeros (R346). -/
def State.writeHead (s : State) (part queue : Nat) : State :=
  let q := s.hqueue part queue
  s.ownWrite part q.block (bytesOf q.head ++ bytesOf (BitVec.ofNat 32 (q.stopped.toNat + 256 * q.err)) ++ List.replicate 8 0#8)
/-- Posts an event: its three words as one write, then the SEND (18 R346). -/
def State.post (s : State) (part queue kind : Nat) (detail : Word) (seq : Nat) : State :=
  let q := s.hqueue part queue
  let n := min (q.events.getD 0 kind + 1) 0xFFFFFFFF
  let bs := bytesOf (BitVec.ofNat 32 n) ++ bytesOf detail ++ bytesOfNat 8 seq
  let s := s.updQueue part queue fun q => { q with events := q.events.setD 0 kind n }
  s.ownWrite part (q.block + BitVec.ofNat 64 (16 + 16 * kind)) bs (if q.nqp = 0 then none else some (.send q.nqp queue kind bs))
/-- Posts an event of a grid to its host queue. -/
def State.postGrid (s : State) (grid kind : Nat) (detail : Word) : State :=
  match s.grid grid with
  | none => s
  | some g => s.post g.part g.evQueue kind detail g.seq
/-- A queue stops with an error code (18 R345, R346). -/
def State.stopQueue (s : State) (part queue err : Nat) : State :=
  let s := s.updQueue part queue fun q => { q with stopped := true, err }
  (s.writeHead part queue).post part queue 5 (BitVec.ofNat 32 err) 0

/-! ### Completion records (18 R349) -/

/-- The bytes after the status word: queue, sequence number, counts, FP event counters. -/
def completionBody (queue seq : Nat) (c : Counts) (fp : Tab Nat) : List Byte :=
  bytesOfNat 4 queue ++ bytesOfNat 8 seq ++
    ([c.checked, c.matched, c.votes, c.unstable, c.unchecked, c.uncontained].flatMap fun n => bytesOfNat 4 (min n 0xFFFFFFFF)) ++
    List.replicate 24 0 ++ (List.range 16).flatMap fun i => bytesOfNat 4 (fp.getD 0 i)
/-- Writes a completion record, the status word last and at system scope; none when its place cannot be written (R348, R349). -/
def State.writeCompletion (s : State) (part : Nat) (va : Dword) (status : Word) (body : List Byte) (cc : Clk) : State :=
  if s.partCan part va 4 needWrite && s.partCan part (va + 4) body.length needWrite then
    ((s.partWrite part (va + 4) body cc none).1.partWrite part va (bytesOf status) cc (some ⟨.system, 0, 0, 0⟩)).1
  else s

/-! ### Killing and faulting (19 R369) -/

/-- Pre-emptions whose last team has gone, and completed cuts whose teams have all been saved, are over; a pre-emption's request is
complete (19 R374, R375, R380; 21 R424). -/
def State.pruneStops (s : State) : State :=
  let left := fun (p : Preempt) => { p with teams := p.teams.filter fun t => (s.team t).isSome }
  let done := (s.preempts.map left).filter fun p => p.teams.isEmpty
  let busy := fun (k : Cut) => !k.complete || s.teams.any fun e => k.grids.contains e.2.grid
  let s := { s with
    preempts := (s.preempts.map left).filter fun p => !p.teams.isEmpty
    cuts := s.cuts.filter busy }
  done.foldl (fun s p => s.alert 2 p.req.id 0 0x40 0) s
/-- A group is killed: its lanes exit; returns owed to it will be dropped and counted when they come, its stores and atomics go on
(08 R171). -/
def State.killGroup (s : State) (gid : Nat) : State :=
  match s.grp gid with
  | none => s
  | some g =>
    let mine := fun (r : Req) => match r.maker with
      | .lane k _ => k == gid && r.team == g.team && r.tag == g.tag
      | _ => false
    let kill := fun (e : Nat × Req) => if mine e.2 then (e.1, { e.2 with dead := true }) else e
    { s with reqs := s.reqs.map kill }.endGroup gid
/-- One group is killed by `TRET` (12 R279; 19 R369): a primary is released unchecked, another run of it diverges. -/
def State.killOne (s : State) (gid : Nat) : State :=
  match (s.grp gid).bind fun g => s.team g.team with
  | none => s.killGroup gid
  | some t =>
    let tid := ((s.grp gid).map Group.team).getD 0
    let s := s.killGroup gid
    match t.check with
    | none => s
    | some n =>
      if t.role = 1 then
        let runs := s.runOf tid
        runs.foldl (fun s r => s.mapTeam r id fun g => g.setStatus 2#32) (s.releaseUnchecked n)
      else s.diverge tid
/-- Nothing of a refinement grid is fired or pending any more. -/
def Refine.clear (r : Refine) : Refine :=
  let tiles : Tab Tile := r.tiles.map fun (e : Nat × Tile) => (e.1, { e.2 with queued := false })
  { r with fired := [], ev := [], arrived := [], tiles }
/-- A grid stands ended; the first reason stays. -/
def Grid.close (g : Grid) (how : GridEnd) : Grid :=
  { g with ended := (if g.ended = .running then how else g.ended), saved := [], refine := g.refine.map Refine.clear }
/-- Changes the group of a saved team with a GRPIX. -/
def SavedTeam.updGroup (v : SavedTeam) (pix : Nat) (f : Group → Group) : SavedTeam :=
  { v with groups := v.groups.map fun e => if e.1 == pix then (e.1, f e.2) else e }
/-- A value comes to a group of a saved team: it is written, folded, logged and acquired as it would have been had it come before
the save (19 R381; 08 R171; 12 R265; 07 R152). -/
def State.replayValue (s : State) (v : SavedTeam) (r : Req) (ws : List Word) (bad : Bool) : State × SavedTeam :=
  let pix := (r.gid?).getD 0
  let l : LaneIx := match r.maker with
    | .lane _ l => Fin.ofNat 32 l
    | _ => 0
  let take := fun (g : Group) =>
    let g := (g.deliver l r.dst ws bad).foldReturn l r.fold ws
    ({ g with obs := g.obs.join r.wclk, vc := g.vc.join r.own, readFrom := (r.unsettled ++ g.readFrom).dedup } : Group).acquire
      ⟨r.scope, v.tid, v.team.grid, v.team.cluster⟩ r
  let v := v.updGroup pix take
  match r.logIx with
  | none => (s, v)
  | some ix => (ws.zipIdx).foldl (fun (a : State × SavedTeam) w =>
    match (a.2.groups.find? fun e => e.1 == pix).bind fun e => e.2.log[ix + w.2]? with
    | none => a
    | some e =>
      let e := { e with value := w.1, filled := true }
      (a.1.logStore (v.team.check.getD 0) v.team.rank e,
        a.2.updGroup pix fun g => { g with log := g.log.set (ix + w.2) e })) (s, v)
/-- A held request is delivered at the home of its address in a partition (19 R381): a store becomes current, or is held as a
version, an atomic is performed and a load reads; the context takes their values and clocks. A request whose page has gone writes
nothing and returns zero with poison (log 11). -/
def State.replayRequest (s : State) (part : Nat) (v : SavedTeam) (r : Req) : State × SavedTeam :=
  match s.lookPart (s.taskDie part) part r.va 0 with
  | (s, .at pa key) =>
    let d := s.home pa / 64
    let own := Clk.one d (s.die d).epoch
    match r.kind with
    | .store bs =>
      if r.held.isSome && v.team.check.isSome then
        (s.hold v.tid v.team.grid v.team.cluster (s.home pa) pa key v.team.relNo r.cc (r.rel.isSome || v.team.relNo != 0) bs, v)
      else
        ((s.machineWrite part pa key r.va bs r.cc r.rel v.team.grid).1,
          v.updGroup ((r.gid?).getD 0) fun g => { g with vc := g.vc.join own })
    | .atomic op b b1 =>
      let (s, bs, bad) := s.readHome pa key 4
      let r := { r with found := s.rels.find (pa / 256), wclk := s.clockAt pa 4 }
      match if bad then none else op.apply (wordOf bs) b b1 with
      | none => s.replayValue v r [wordOf bs] bad
      | some w => (s.machineWrite part pa key r.va (bytesOf w) r.cc r.rel v.team.grid).1.replayValue v { r with own } [wordOf bs] bad
    | .load size sext =>
      let (s, bs, bad) := s.readFor v.tid pa key size
      s.replayValue v { r with wclk := s.clockAt pa size, unsettled := s.unsettledAt pa size } (loadWords size sext bs) bad
    | _ => (s, v)
  | (s, _) => match r.kind with
    | .load size _ => s.replayValue v r (List.replicate (max 1 (size / 4)) 0#32) true
    | .atomic _ _ _ => s.replayValue v r [0#32] true
    | _ => (s, v)
/-- Delivers one held packet of a saved team: a request to the home of its address, a reply or acknowledgement to the context, an
update to its core, which only the package it was held in has (19 R381). -/
def State.replayOne (s : State) (part : Nat) (v : SavedTeam) (c : Chan) : State × SavedTeam :=
  match c with
  | .update u => if v.moved then (s, v) else
    let (uid, s) := s.fresh
    ({ s with upds := s.upds.put uid u }, v)
  | .access r => match r.stage with
    | .reply ws bad => s.replayValue v r ws bad
    | .acked | .current => (s, v.updGroup ((r.gid?).getD 0) fun g => { g with vc := g.vc.join r.own })
    | _ => s.replayRequest part v r
/-- Delivers the channel state of saved teams, in the order in which the packets were held, before any group of their job issues (19
R381). -/
def State.replayTeams (s : State) (part : Nat) (vs : List SavedTeam) : State × List SavedTeam :=
  let items := sortBy (fun a b => a.2.1 ≤ b.2.1) (vs.flatMap fun v => v.channel.map fun c => (v.tid, c))
  items.foldl (fun (a : State × List SavedTeam) it => match a.2.find? fun v => v.tid == it.1 with
    | none => a
    | some v =>
      let (s, v') := a.1.replayOne part v it.2.2
      (s, a.2.map fun w => if w.tid = it.1 then v' else w)) (s, vs.map fun v => { v with channel := [] })
/-- A saved team's channel state can be delivered now: no line is pinned under another key, no path is closed, and a held write has
its way (11 R245; 04 R76; 12 R264). -/
def State.replayReady (s : State) (part : Nat) (v : SavedTeam) : Bool :=
  v.channel.all fun c => match c.2 with
    | .update _ => true
    | .access r => !(r.stage == .sent || r.stage == .blocked) || (s.partReady part r.va 1 0 &&
        match (s.lookPart (s.taskDie part) part r.va 0).2 with
        | .at pa key => r.held.isNone || v.team.check.isNone || s.wayFree v.tid v.team.grid (s.home pa) (pa / 256) key
        | _ => true)
/-- A queue without the tasks of ended grids that stand at its head; one further back goes when the head comes to it, so that every
other task keeps its place in the queue's memory (17 R323; log 32). -/
def Overflow.dropDead (q : Overflow) (dead : Nat → Bool) : Overflow :=
  let n := (q.tasks.takeWhile fun t => dead t.grid).length
  { q with tasks := q.tasks.drop n, head := (q.head + n) % max 1 q.room }
/-- Queued tasks of ended grids are discarded (19 R369). -/
def State.dropDeadTasks (s : State) (now : Nat → Bool) : State :=
  let dead := fun n => now n || (s.grid n).all fun g => g.ended != .running
  { s with dies := s.dies.map fun e => (e.1, { e.2 with overflow := e.2.overflow.map fun o => (o.1, o.2.dropDead dead) }) }
/-- A grid is killed or faulted: its groups die, its queued work and held versions are discarded; what its lanes had issued is
completed, where a cut had saved it too, and what its saved teams had written counts for its end flush (07 R155). -/
def State.endGrid (s : State) (grid : Nat) (how : GridEnd) : State :=
  let tids := (s.teamsOf grid).map Prod.fst
  let s := (s.groups.filter fun e => tids.contains e.2.team && !e.2.priv).foldl (fun s e => s.killGroup e.1) s
  let s := (s.checks.filter fun e => e.2.grid = grid).foldl (fun s e =>
    let s := s.freeLog e.1
    { s with checks := s.checks.del e.1 }) s
  let noBin := fun (e : Nat × Core) => (e.1, { e.2 with bins := e.2.bins.filter fun b => b.2.grid ≠ grid })
  let s := { s with cores := s.cores.map noBin }
  let gone := ((s.grid grid).map Grid.saved).getD []
  let s := s.releaseHeld grid
  let part := ((s.grid grid).map Grid.part).getD 0
  let (s, vs) := s.replayTeams part (s.savedOf grid)
  let s := s.updGrid grid fun g => { g with vc := (vs.flatMap SavedTeam.groups).foldl (fun c e => c.join e.2.vc) g.vc }
  let s := s.dropDeadTasks fun n => n = grid
  { s with
    vers := s.vers.filter fun v => v.grid ≠ grid
    streams := s.streams.filter fun e => !(gone.contains e.1 && e.2.grid == grid) }.updGrid grid fun g => g.close how
/-- A grid faults with a cause, which its host queue is told (18 R346; 19 R369). -/
def State.faultGrid (s : State) (grid code : Nat) : State :=
  (s.endGrid grid (.faulted code)).postGrid grid 4 (BitVec.ofNat 32 code)

/-! ### Verdicts (12 R273, R274, R276, R277, R280) -/

/-- The triples of a unit's run of a role, by rank. -/
def Check.sigs (k : Check) (role : Nat) : List (Nat × Triple) := if role = 1 then k.sig1 else if role = 2 then k.sig2 else k.sig3
/-- The run of a role diverged in some rank. -/
def Check.div (k : Check) (role : Nat) : Bool := (role = 2 && k.div2) || (role = 3 && k.div3)
/-- The triple of a rank. -/
def Check.at (k : Check) (role rank : Nat) : Option Triple := ((k.sigs role).find? fun e => e.1 == rank).map Prod.snd
/-- Two ranks' signatures are equal. -/
def sameSig (a b : Option Triple) : Bool :=
  match a, b with
  | some a, some b => a.sh == b.sh && a.sl == b.sl && a.rs == b.rs
  | _, _ => false
def sameLs (a b : Option Triple) : Bool :=
  match a, b with
  | some a, some b => a.ls == b.ls
  | _, _ => false
/-- Two runs match (R273). -/
def Check.agree (k : Check) (p q : Nat) : Bool :=
  !k.div p && !k.div q && (List.range k.ranks).all fun r => sameSig (k.at p r) (k.at q r)
/-- Two runs saw the same inputs in every rank. -/
def Check.sameInputs (k : Check) (p q : Nat) : Bool := (List.range k.ranks).all fun r => sameLs (k.at p r) (k.at q r)
/-- The demerits of a core that have not expired: fewer than W teams have retired on its die since (R277). -/
def State.liveDemerits (s : State) (core : Nat) : List Nat :=
  (s.core core).demerits.filter fun d => (s.die (core / 64)).retired < d + s.demeritW
/-- A core whose live demerits reach the threshold is fenced at once (R277). -/
def State.fenceCheck (s : State) (core : Nat) : State :=
  if s.demeritT ≤ (s.liveDemerits core).length && !(s.core core).fenced then
    (s.updCore core fun c => { c with fenced := true }).emit (.firmware "core fenced" core)
  else s
/-- A core earns a demerit (R277). -/
def State.demerit (s : State) (core : Nat) : State :=
  let now := (s.die (core / 64)).retired
  (s.updCore core fun c => { c with demerits := c.demerits ++ [now] }).fenceCheck core
/-- A unit is finished: its run's end is told, its log freed, what did not commit discarded. -/
def State.finishCheck (s : State) (n : Nat) : State :=
  match s.check n with
  | none => s
  | some k =>
    let s := (s.commitEnd n).sendRunEnd n
    let s := (k.teams1 ++ k.teams2 ++ k.teams3).foldl (fun s t => s.discardRun t) s
    let s := (s.freeLog n).updGrid k.grid fun g => { g with vc := g.vc.join k.clk }
    { s with checks := s.checks.del n }
/-- The release numbers of a run that are still to commit, versions and publications. -/
def State.owedNums (s : State) (k : Check) (run : Nat) : List Nat :=
  (sortBy (fun a b => a ≤ b) (s.verNums run ++ (k.pubs.filter fun e => e.1 = run).map fun e => e.2.num)).dedup
/-- Nothing of the committing run is left. -/
def State.commitDone (s : State) (n : Nat) : Bool :=
  match s.check n with
  | none => false
  | some k => match k.phase with
    | .commit role => (k.runs role).all fun t => (s.owedNums k t).isEmpty
    | _ => false
/-- A run wins: the other runs' versions and publications are discarded and its own commit. -/
def State.startCommit (s : State) (n role : Nat) : State :=
  match s.check n with
  | none => s
  | some k =>
    let lose := (k.teams1 ++ k.teams2 ++ k.teams3).filter fun t => !(k.runs role).contains t
    let s := lose.foldl (fun s t => s.discardRun t) s
    let s := s.updCheck n fun k => { k with phase := .commit role, pubs := k.pubs.filter fun e => !lose.contains e.1 }
    if s.commitDone n then s.finishCheck n else s
/-- A vote is lost by a role's run: demerits for ranks whose triple differs though they saw the same inputs; with none the
homes of the run's versions are suspect (R273, R277, R280). A unit of one rank that diverged lost the vote whatever its triple. -/
def State.loseVote (s : State) (k : Check) (loser winner : Nat) : State :=
  let bad := (List.range k.ranks).filter fun r =>
    (!sameSig (k.at loser r) (k.at winner r) || (k.ranks == 1 && k.div loser)) && sameLs (k.at loser r) (k.at winner r) &&
      sameLs (k.at 3 r) (k.at winner r)
  let cores := bad.filterMap fun r => (k.at loser r).map Triple.core
  if cores.isEmpty then
    let homes := ((s.vers.filter fun v => (k.runs loser).contains v.run).map Ver.home).dedup
    { s with suspectSlices := homes.foldl (fun l h => if l.contains h then l else h :: l) s.suspectSlices }
  else cores.foldl (fun s c => s.demerit c) s
/-- The verdict of a unit whose latest run has retired (R273, R276). -/
def State.verdict (s : State) (n : Nat) : State :=
  match s.check n with
  | none => s
  | some k =>
    match k.phase with
    | .shadow =>
      if k.agree 1 2 then
        (((s.countGrid k.grid fun c => { c with matched := c.matched + 1 }).fynilInc 1)).startCommit n 1
      else s.updCheck n fun k => { k with phase := .queueThird }
    | .third =>
      let unstable := !(k.sameInputs 1 2 && k.sameInputs 1 3 && k.sameInputs 2 3)
      let s := s.countGrid k.grid fun c =>
        { c with votes := c.votes + 1, unstable := c.unstable + unstable.toNat }
      let s := if unstable then s.fynilInc 5 else s
      if k.agree 1 3 then (((s.loseVote k 2 1).fynilInc 2)).startCommit n 1
      else if k.agree 2 3 then
        let s := (s.loseVote k 1 2).fynilInc 3
        let s := if k.acted then
            (((s.postGrid k.grid 3 (BitVec.ofNat 32 k.lin)).emit (.firmware "uncontained" k.lin)).fynilInc 6).countGrid k.grid
              fun c => { c with uncontained := c.uncontained + 1 }
          else s
        s.startCommit n 3
      else
        let s := ((s.postGrid k.grid 2 (BitVec.ofNat 32 k.lin)).emit (.firmware "uncorrectable mismatch" k.lin)).fynilInc 4
        s.faultGrid k.grid 0
    | _ => s
/-- The lowest release number that the ranks of a committing run have still to commit (R274). -/
def State.nextNum (s : State) (k : Check) : Option Nat :=
  match k.phase with
  | .commit role => ((k.runs role).flatMap fun t => s.owedNums k t).min?
  | _ => none
/-- COMMIT: the versions and publications of a rank of the winner become current when their release number is the run's lowest
uncommitted one; after the last the unit is finished (R274; 17 R341). Versions whose lines are pinned under another key wait (11
R245). -/
def execCommit (run n : Nat) (s : State) : Out :=
  match s.checks.find? fun e => match e.2.phase with
    | .commit role => (e.2.runs role).contains run
    | _ => false with
  | none => .next s
  | some (m, k) =>
    if s.nextNum k = some n && (s.vers.filter fun v => v.run == run && v.num == n).all s.verReady then
      let s := s.commitNumber m run n
      let s := s.sendPubs m ((k.pubs.filter fun e => e.1 = run && e.2.num = n).map Prod.snd)
      let s := s.updCheck m fun k => { k with pubs := k.pubs.filter fun e => !(e.1 = run && e.2.num = n) }
      .next (if s.commitDone m then s.finishCheck m else s)
    else .next s

/-! ### Retirement (13 R301) -/

/-- GROUP_RETIRE. -/
def execGroupRetire (gid : Nat) (s : State) : Out :=
  match s.grp gid with
  | none => .next s
  | some g =>
    let owed := s.reqs.any fun e => (!e.2.dead || e.2.kind.writes) && (match e.2.maker with
      | .lane k _ => k == gid && e.2.team == g.team
      | _ => false)
    if g.priv || g.live ≠ 0#32 || owed || g.trap.isSome then .next s
    else match s.team g.team with
      | none => .next (s.delGrp gid)
      | some t =>
        let short := t.replays && g.replayed < (s.logOf g).length
        let s := (s.delGrp gid).updTeam g.team fun t => { t with rs := t.rs + g.rsTerm, diverged := t.diverged || short }
        let s := s.updGrid t.grid fun q => { q with vc := q.vc.join g.vc }
        let s := match t.check with
          | some n => if t.role = 1 then s.updCheck n fun k => { k with logs := k.logs.put (32 * t.rank + g.grpix) g.log } else s
          | none => s
        .next ((if (s.groupsOf g.team).isEmpty then s.updTeam g.team fun t => { t with ending := true } else s).updDomain
          (domainOf (coreOf gid)) fun d => { d with relq := d.relq.filter (· ≠ gid) })
/-- A checked run's team leaves its results with its unit; the last rank of a run brings the next phase (12 R260, R273). A
run that its unit no longer knows leaves nothing. -/
def State.judge (s : State) (tid : Nat) (t : Team) (n : Nat) : State :=
  match s.check n with
  | none => s.discardRun tid
  | some k =>
    if !(k.runs t.role).contains tid then s.discardRun tid
    else
      let e := (t.rank, (⟨t.sh, t.sl, t.rs, t.ls, t.core⟩ : Triple))
      let k := { k with acted := k.acted || t.acted, pubs := k.pubs ++ t.held.map fun p => (tid, p) }
      let k := if t.role = 1 then { k with sig1 := k.sig1 ++ [e] }
        else if t.role = 2 then { k with sig2 := k.sig2 ++ [e], div2 := k.div2 || t.diverged }
        else { k with sig3 := k.sig3 ++ [e], div3 := k.div3 || t.diverged }
      let s := { s with checks := s.checks.put n k }
      if (k.sigs t.role).length < k.ranks then s
      else if t.role = 1 then
        let (when_, s) := s.fresh
        s.updCheck n fun k => { k with phase := .queueShadow, retiredAt := when_ }
      else s.verdict n
/-- The team's engine work is done (R301). -/
def State.engineIdle (s : State) (t : Nat × Team) : Bool :=
  let c := s.core t.2.core
  (c.copies.all fun e => e.2.team ≠ t.1) && (c.mq.all fun o => o.team ≠ t.1)
/-- The operand groups of a cluster are cleared when its last team has retired (04 R78). -/
def State.freeBands (s : State) (t : Team) : State :=
  match s.grid t.grid with
  | none => s
  | some g =>
    let mine := fun (v : Team) => v.cluster == t.cluster && v.kind == t.kind && v.role == t.role
    if (s.teamsOf t.grid).any (fun e => mine e.2) || (s.savedTeams t.grid).any mine then s
    else t.band.elim s fun k => s.clearBands (t.base g.recd.w) g.recd.w g.recd.h k
/-- TEAM_RETIRE (13 R301; 05 R90; 12 R260). -/
def execTeamRetire (tid : Nat) (s : State) : Out :=
  match s.team tid with
  | none => .next s
  | some t =>
    if !t.ending || !(s.groupsOf tid).isEmpty || !s.engineIdle (tid, t) then .next s
    else
      let s := s.updCore t.core fun c => { c with marks := c.marks.filter fun m =>
        !(t.locBlk ≤ 16 * m && 16 * m < t.locBlk + roundBlock t.locSize) }
      let s := s.updDie (t.core / 64) fun d => { d with retired := d.retired + 1 }
      let s := { s with teams := s.teams.del tid }.freeBands t
      let s := match t.check, t.kind with
        | some n, _ => s.judge tid t n
        | none, .tile i => if t.role ≤ 1 then s.sendTask t.core t.grid (.runEnd i) else s
        | none, _ => s
      .next s.pruneStops
/-- An FP event counter has reached the grid's threshold and its event has not been posted (09 R201). -/
def Grid.fpDue (g : Grid) (i : Nat) : Bool :=
  g.recd.fpThreshold != 0 && g.recd.fpThreshold ≤ g.fp.getD 0 i && !g.fpPosted.getLsbD i
/-- A write of the grid is not acknowledged: the end flush waits for it (01 R16; 07 R155). -/
def State.owesWrites (s : State) (n : Nat) : Bool := s.reqs.any fun e => e.2.grid == n && e.2.kind.writes
/-- Every part of a grid has ended (R301, R275; 17 R342; 19 R369), its writes are acknowledged (01 R16), and its threshold events have
been posted (09 R201). A refinement grid whose tiles are due to fire has not ended (17 R331). -/
def State.gridDone (s : State) (n : Nat) (g : Grid) : Bool :=
  (s.teamsOf n).isEmpty && (s.checks.all fun e => e.2.grid ≠ n) && !s.owesWrites n && ((List.range 16).all fun i => !g.fpDue i) &&
    (g.ended != .running ||
      ((g.recd.clusters.2.2 ≤ g.nextCluster) && g.saved.isEmpty &&
        (s.cores.all fun c => c.2.bins.all fun b => b.2.grid ≠ n) &&
        (s.dies.all fun d => d.2.overflow.all fun o => o.2.tasks.all fun t => t.grid ≠ n) &&
        ((g.refine.map fun r => r.ev.isEmpty && r.all.all fun i => !r.active i && !r.fires 0 i).getD true)))
/-- The status word of a grid's completion record. -/
def Grid.status (g : Grid) : Word :=
  match g.ended with
  | .running => 1#32
  | .killed => 9#32
  | .faulted _ => 5#32
/-- GRID_END: the end flush, then the completion record; the grid's reservations and its number are free (R301; 12 R261,
R275; 18 R349). -/
def execGridEnd (grid : Nat) (s : State) : Out :=
  match s.grid grid with
  | none => .next s
  | some g =>
    if s.gridDone grid g && s.partReady g.part g.recd.complAddr 128 needWrite then
      let s := s.writeCompletion g.part g.recd.complAddr g.status (completionBody g.queue g.seq g.counts g.fp) g.vc
      .next { s with grids := s.grids.del grid }
    else .next s

/-! ### Holds, demerits, thresholds (12 R267, R277 to R279; 09 R201) -/

/-- A unit whose primary has retired and has no verdict yet. -/
def Check.retired (k : Check) : Bool :=
  match k.phase with
  | .queueShadow | .shadow | .queueThird | .third => true
  | _ => false
/-- The oldest of the units that satisfy a condition. -/
def State.oldest (s : State) (p : Check → Bool) : Option Nat :=
  ((s.checks.filter fun e => e.2.retired && p e.2).foldl (fun (b : Option (Nat × Nat)) e => match b with
    | none => some (e.1, e.2.retiredAt)
    | some v => if e.2.retiredAt < v.2 then some (e.1, e.2.retiredAt) else b) none).map Prod.fst
/-- A shadow or third run is cancelled and queued again from its start (12 R279). -/
def State.cancelRun (s : State) (n role : Nat) : State :=
  match s.check n with
  | none => s
  | some k =>
    let ts := k.runs role
    let s := (s.groups.filter fun e => ts.contains e.2.team && !e.2.priv).foldl (fun s e => s.killGroup e.1) s
    let s := (ts.foldl (fun s t => s.discardRun t) s).dropSaved ts
    s.updCheck n fun k =>
      let k := { k with pubs := k.pubs.filter fun e => !ts.contains e.1 }
      if role = 2 then { k with teams2 := [], sig2 := [], div2 := false, phase := .queueShadow }
      else { k with teams3 := [], sig3 := [], div3 := false, phase := .queueThird }
/-- Whom policy 1 releases for a set of a slice in which a write of a unit finds no way, or for log blocks of a partition: the oldest
retired primary that holds some there, else the waiting unit (R267, R278). -/
def State.holdVictim (s : State) (set? : Option (Nat × Nat)) (part own : Nat) : Nat :=
  (match set? with
    | some (home, set) => s.oldest fun k =>
        s.vers.any fun v => k.teams1.contains v.run && v.home == home && setOf v.ln == set
    | none => s.oldest fun k => !k.blocks.isEmpty && ((s.grid k.grid).map Grid.part) == some part).getD own
/-- A landing of a group's copy that has waited for a version way beyond the hold timeout meets the hold policy as a store does (05
R100; R278). -/
def State.copyHold (s : State) (gid : Nat) : State :=
  match (s.core (coreOf gid)).copies.find? fun c => c.2.gid == gid && c.2.blocked.isSome with
  | none => s
  | some (cid, c) =>
    match s.team c.team with
    | none => s
    | some t =>
      match t.check with
      | none => s
      | some own =>
        if !((s.grid t.grid).any fun q => q.recd.flags.getLsbD 3) then
          if c.stallPosted then s
          else (s.updCopy (coreOf gid) cid fun c => { c with stallPosted := true }).emit (.firmware "hold stall" gid)
        else
          let n := s.holdVictim c.blocked (((s.grid t.grid).map Grid.part).getD 0) own
          if !s.releasable n then s
          else ((s.releaseUnchecked n).updCopy (coreOf gid) cid fun c => { c with blocked := none }).updGrp gid fun g =>
            if g.team = c.team then g.setStatus 2#32 else g
/-- HOLD_TIMEOUT: a group, or a copy of it, has waited beyond its partition's hold timeout for a version way or for log space, or is a
shadow or third run that Breakwater has kept parked (R267, R278, R279; 05 R100). -/
def execHoldTimeout (gid : Nat) (s : State) : Out :=
  match s.grp gid with
  | none => .next (s.copyHold gid)
  | some g =>
    match s.team g.team with
    | none => .next (s.copyHold gid)
    | some t =>
      let policy1 := ((s.grid t.grid).map fun q => q.recd.flags.getLsbD 3).getD false
      match t.check with
      | none => .next (s.copyHold gid)
      | some own =>
        if t.replays && g.shed = .parked && policy1 then .next (s.cancelRun own t.role)
        else if !g.stalled then .next (s.copyHold gid)
        else if !policy1 then
          if g.stallPosted then .next (s.copyHold gid)
          else .next ((s.updGrp gid fun g => { g with stallPosted := true }).emit (.firmware "hold stall" gid))
        else
          let set? := (s.reqs.find? fun e => e.2.stage == .blocked && e.2.gid? == some gid).map fun e =>
            (e.2.home, setOf (e.2.pa / 256))
          let n := s.holdVictim set? ((s.partOf g).getD 0) own
          if !s.releasable n then .next s
          else .next ((s.releaseUnchecked n).updGrp gid fun g => { (g.setStatus 2#32) with stalled := g.blocked })
/-- DEMERIT_EXPIRE (R277). -/
def execDemeritExpire (core n : Nat) (s : State) : Out :=
  match (s.core core).demerits[n]? with
  | none => .next s
  | some d =>
    if d + s.demeritW ≤ (s.die (core / 64)).retired then .next (s.updCore core fun c => { c with demerits := c.demerits.eraseIdx n })
    else .next s
/-- FP_THRESHOLD_EVENT: once per counter (09 R201). -/
def execFpThresholdEvent (grid counter : Nat) (s : State) : Out :=
  match s.grid grid with
  | none => .next s
  | some g =>
    if counter < 16 && g.fpDue counter then
      .next ((s.postGrid grid 1 (BitVec.ofNat 32 counter)).updGrid grid fun g =>
        { g with fpPosted := g.fpPosted ||| (1#16 <<< counter) })
    else .next s

end Sys2Proof.Machine
end

