-- ==== Sys2Proof/Machine/Tasks.lean ====
section
/-! DEFINITION. Launch records and their checks (13 R302 to R304; 17 R329), task bins and overflow queues, `LAUNCH`, and the
instructions of refinement grids (17). -/

namespace Sys2Proof

/-- Byte i of the 64 bytes that a task takes in an overflow queue's memory, by its grid, entry and arguments: the spec fixes no layout
(17 R323; log 32). -/
opaque Config.taskByte : Nat → Word → List Word → Nat → Byte
/-- The entry, or an argument, of the task that other bytes in that memory stand for (17 R323; log 32). -/
opaque Config.taskField : List Byte → Nat → Word

end Sys2Proof

namespace Sys2Proof.Machine

/-! ### Launch records (13 R302 to R304) -/

def LaunchRec.ofBytes (b : List Byte) : LaunchRec :=
  let n := fun o k => natOfBytes ((b.drop o).take k)
  { entry := BitVec.ofNat 32 (n 0 4), flags := BitVec.ofNat 32 (n 4 4), codeBase := BitVec.ofNat 64 (n 8 8)
    args := BitVec.ofNat 64 (n 16 8), x := n 24 4, y := n 28 2, z := n 30 2, groups := n 32 1, w := n 33 1, h := n 34 1
    stack := n 35 1, locBytes := n 36 4, accBytes := n 40 4, owner := n 44 2, resv := n 46 2
    complAddr := BitVec.ofNat 64 (n 48 8), fpThreshold := n 56 4, seed := BitVec.ofNat 32 (n 60 4) }
/-- CLASS, GRID, KILLST and RESTART of the flags (R303). -/
def LaunchRec.cls (r : LaunchRec) : Nat := (r.flags.extractLsb' 4 3).toNat
def LaunchRec.isGrid (r : LaunchRec) : Bool := r.flags.getLsbD 8
def LaunchRec.killst (r : LaunchRec) : Bool := r.flags.getLsbD 9
def LaunchRec.restart (r : LaunchRec) : Bool := r.flags.getLsbD 10
/-- A global address that is a multiple of n. -/
def globalMult (va : Dword) (n : Nat) : Bool := classify va == .global && va.toNat % n == 0
/-- The record passes R304, the alignment of its code base apart. -/
def LaunchRec.ok (r : LaunchRec) : Bool :=
  let range := fun (v lo hi : Nat) => decide (lo ≤ v ∧ v ≤ hi)
  r.entry.toNat % 4 == 0 && r.flags.extractLsb' 11 21 == 0#21 && classify r.codeBase == .global && globalMult r.args 8 &&
    range r.x 1 0xFFFFFFFF && range r.y 1 0xFFFF && range r.z 1 0xFFFF && range r.groups 1 32 && range r.w 1 8 &&
    range r.h 1 8 && range (r.w * r.h) 1 16 && range r.stack 0 3 && r.locBytes % 4096 == 0 && range r.locBytes 0 1048576 &&
    r.accBytes % 4096 == 0 && range r.accBytes 0 524288 && range r.owner 1 4095 && r.resv == 0 &&
    globalMult r.complAddr 64 && !(r.killst && !r.restart) && !((r.restart || r.killst) && !r.isGrid) &&
    range (r.x * r.y * r.z) 1 (2 ^ 32) && r.x % r.w == 0 && r.y % r.h == 0
/-- A grid descriptor as read (17 R329): the scoreboard it declares, if it is within its limits. -/
def gridDesc (b : List Byte) : Option Refine :=
  let n := fun o k => natOfBytes ((b.drop o).take k)
  let w := n 0 2
  let h := n 2 2
  let st : Word := BitVec.ofNat 32 (n 4 4)
  let cls : Word := BitVec.ofNat 32 (n 12 4)
  if 1 ≤ w && w ≤ 256 && 1 ≤ h && h ≤ 256 && st.extractLsb' 25 7 = 0#7 && n 8 4 % 4 = 0 && cls.extractLsb' 12 20 = 0#20 &&
    n 16 16 = 0 then
    some { num := 0, w, h, stencil := st, entry := BitVec.ofNat 32 (n 8 4), classes := cls }
  else none
/-- The first refusal reason of a record up to its grid descriptor, or the scoreboard it declares (18 R348). -/
def State.checkRecord (s : State) (part : Nat) (r : LaunchRec) : State × (Nat ⊕ Option Refine) :=
  if !r.ok then (s, .inl 0x01)
  else if r.codeBase.toNat % 8192 ≠ 0 then (s, .inl 0x02)
  else if r.isGrid then
    match s.partRead part r.args 32 with
    | (s, none) => (s, .inl 0x07)
    | (s, some b) => match gridDesc b with
      | none => (s, .inl 0x03)
      | some q => (s, .inr (some q))
  else (s, .inr none)

/-- The grid descriptor that a record's check reads can be read now (`partReady`). -/
def State.descReady (s : State) (part : Nat) (r : LaunchRec) : Bool :=
  !(r.ok && r.isGrid) || s.partReady part r.args 32 needRead

/-! ### SPAWN and SFLUSH (17 R321 to R323, R326, R328) -/

/-- Marks a primary that has acted outside its versions (12 R276). -/
def State.markActed (s : State) (tid : Nat) : State :=
  s.updTeam tid fun t => if t.logs then { t with acted := true } else t
/-- The open bin of a core for a key (R322). -/
def Core.openBin (k : Core) (grid : Nat) (entry : Word) : Option Nat :=
  (k.bins.find? fun e => !e.2.triggered && e.2.grid == grid && e.2.entry == entry).map Prod.fst
/-- The bytes of a task in its queue's memory (R323). -/
def Task.image (t : Task) : List Byte := (List.range 64).map (Config.taskByte t.grid t.entry t.args)
/-- Where the i-th task from the head lies (R323). -/
def Overflow.place (q : Overflow) (i : Nat) : Dword := q.base + BitVec.ofNat 64 (64 * ((q.head + i) % max 1 q.room))
/-- A task is appended at the tail of a die's overflow queue and written to its memory (R323; 03 R68). -/
def State.enqueueTask (s : State) (die part : Nat) (q : Overflow) (t : Task) : State :=
  (s.updDie die fun d => { d with overflow := d.overflow.put part { q with tasks := q.tasks ++ [t] } }).ownWrite part
    (q.place q.tasks.length) t.image none t.vc
/-- The i-th task from the head as its memory holds it: as it was appended while its bytes stand, otherwise as the bytes say (R323;
log 32). -/
def State.storedTask (s : State) (part : Nat) (q : Overflow) (i : Nat) (t : Task) : Task :=
  match (s.partRead part (q.place i) 64).2 with
  | none => t
  | some bs =>
    if bs = t.image then t
    else { t with entry := alignPc (Config.taskField bs 0), args := (List.range 8).map fun i => Config.taskField bs (i + 1) }
/-- One task is enqueued; its outcome (R321). -/
def State.spawnOne (s : State) (g : Group) (core : Nat) (t : Task) : State × Word :=
  let k := s.core core
  let timer := ((s.team g.team).map fun v => max 1 v.binTimer.toNat).getD 1
  let put := fun (s : State) (b : Nat) (v : Bin) =>
    s.updCore core fun k => { k with bins := k.bins.put b { v with tasks := v.tasks ++ [t], triggered := v.tasks.length = 31 } }
  match k.openBin t.grid t.entry with
  | some b => match k.bins.find b with
    | some v => (put s b v, 0)
    | none => (s, 2)
  | none => match (List.range 16).find? fun b => (k.bins.find b).isNone with
    | some b =>
      let s := put s b ⟨t.grid, t.entry, [], timer, false⟩
      ((s.fetchLine core (s.partOf g) (s.fetchVa g t.entry)).1, 0)
    | none =>
      let part := (s.partOf g).getD 0
      match (s.die (dieOfCore core)).overflow.find part with
      | some q =>
        if q.tasks.length < q.room then (s.enqueueTask (dieOfCore core) part q t, 1) else (s, 2)
      | none => (s, 2)
/-- Runs an operation of each lane in order, keeping the lanes' results. -/
def State.perLane (s : State) (lanes : List LaneIx) (f : LaneIx → State → State × Word) : State × List (LaneIx × Word) :=
  lanes.foldl (fun (acc : State × List (LaneIx × Word)) l =>
    let (s, w) := f l acc.1
    (s, acc.2 ++ [(l, w)])) (s, [])
/-- A lane's result. -/
def laneWord (rs : List (LaneIx × Word)) (l : LaneIx) : Word := ((rs.find? fun e => e.1 == l).map Prod.snd).getD 0
/-- An operation of the task unit or the dispatcher that each lane performs once and whose outcome is logged as kind 6; a
replaying run performs nothing (R321, R327; 12 R265, R268, R276). It is a release when some lane's outcome is one that `rel` names
(R155). -/
def State.outcomeOp (s : State) (guard nw : Bool) (word : Word) (srcs : List Operand) (d : Reg) (scope : Scope) (rel : Word → Bool)
    (trap : Issue → Nat → LaneIx → Option TrapC) (wait : Issue → Nat → Bool)
    (f : Issue → Nat → LaneIx → State → State × Word) : Out :=
  s.withIssue fun x =>
    let n := s.stackOf x.g
    let part := x.part guard
    let dst : Operand := ⟨d, 1⟩
    let ok := (Mask.lanes part).filter fun l => (trap x n l).isNone
    let replays := (s.team x.g.team).any Team.replays
    let run := fun (s : State) => s.perLane ok (f x n)
    let key := fun (_ : LaneIx) => ({ kind := 6, operand := word, addr := 0 } : LogKey)
    let lg := s.logged x ok key
    let words := if replays then [] else (run s).2
    let releases := ok.any fun l => rel (((lg.values l).bind List.head?).getD (laneWord words l))
    if x.g.pending n x.act (srcs ++ if nw then [] else [dst]) || wait x n ||
      (releases && !s.releaseReady x.gid x.g scope) then .next s
    else
      s.inputOp x n part srcs (trap x n) key nw dst true
        (fun done s =>
          let s := if releases && done != 0#32 then s.releasePoint x.gid none else s
          if replays || done = 0#32 then s else (run s).1.markActed x.g.team) (laneWord words)
/-- The operands of `SPAWN`: a and the eight argument registers (R321, R328). -/
def spawnSrcs (a : Reg) (b : Reg) : List Operand := [⟨a, 1⟩, ⟨b, 8⟩]
/-- SPAWN (R321 to R323, R328). -/
def execSpawn (o : A3) (s : State) : Out :=
  let w := encode (.spawn o)
  let srcs := spawnSrcs o.a o.b
  s.outcomeOp o.g o.nw w srcs o.d .team (fun _ => true)
    (fun x n l =>
      let pc := x.g.src n l o.a
      (x.g.operandTrap n srcs l).or
        (if pc.toNat % 4 = 0 then none else some { rank := 2, code := 0x03, info := w, addr := pc.setWidth 64 }))
    (fun _ _ => false) fun x n l s =>
      let grid := ((s.team x.g.team).map Team.grid).getD 0
      let vc := ((s.grp x.gid).map Group.vc).getD {}
      s.spawnOne x.g (coreOf x.gid) { grid, entry := x.g.src n l o.a, args := x.g.srcs n l ⟨o.b, 8⟩, vc }
/-- SFLUSH (R326). -/
def execSflush (o : A1a) (s : State) : Out :=
  let srcs : List Operand := [⟨o.a, 1⟩]
  s.stepOp o.g srcs (opTrap srcs) (fun x n done s =>
    match s.team x.g.team with
    | none => s
    | some t =>
      if t.replays then s
      else
        let names := (Mask.lanes done).map fun l => x.g.src n l o.a
        let f := fun (e : Nat × Bin) =>
          (e.1, { e.2 with triggered := e.2.triggered || (e.2.grid == t.grid && names.contains e.2.entry) })
        s.updCore (coreOf x.gid) fun k => { k with bins := k.bins.map f })
    noStay seqPc
/-- BIN_TIMER_EXPIRE (R322). -/
def execBinTimerExpire (core bin : Nat) (s : State) : Out :=
  .next (s.updCore core fun k => { k with bins := k.bins.upd bin fun b => { b with triggered := true } })

/-! ### LAUNCH (17 R327) -/

/-- One lane's launch; its outcome. -/
def State.launchOne (s : State) (g : Group) (bs : List Byte) : State × Word :=
  let r := LaunchRec.ofBytes bs
  match s.partOf g, s.gridOf g with
  | some part, some parent =>
    match s.checkRecord part r with
    | (s, .inl _) => (s, 1)
    | (s, .inr _) =>
      if r.owner ≠ parent.recd.owner then (s, 2)
      else if 256 ≤ (((s.part part).map Part.devq).getD []).length then (s, 3)
      else (s.updPart part fun p => { p with devq := p.devq ++ [{ recd := r, evQueue := parent.evQueue, clk := p.clk }] }, 0)
  | _, _ => (s, 1)
/-- LAUNCH: acceptance is a device-scope release (R327, R328). -/
def execLaunch (o : A2) (s : State) : Out :=
  let w := encode (.launch o)
  let srcs : List Operand := [⟨o.a, 1⟩]
  s.outcomeOp o.g o.nw w srcs o.d .device (· == 0#32)
    (fun x n l => s.descTrap x n w srcs 64 l (x.g.src n l o.a))
    (fun x n => (Mask.lanes (x.part o.g)).any fun l =>
      (s.descTrap x n w srcs 64 l (x.g.src n l o.a)).isNone &&
        ((s.core (coreOf x.gid)).anyAbsent ((s.locOf x.g).1 + (x.g.src n l o.a).toNat) 64 ||
          !s.descReady ((s.partOf x.g).getD 0) (LaunchRec.ofBytes (s.locBytes x.g (coreOf x.gid) (x.g.src n l o.a).toNat 64))))
    fun x n l s => s.launchOne x.g (s.locBytes x.g (coreOf x.gid) (x.g.src n l o.a).toNat 64)

/-! ### Refinement instructions (17 R334 to R341) -/

/-- The scoreboard of a group's grid. -/
def State.refineOf (s : State) (g : Group) : Option Refine := (s.gridOf g).bind Grid.refine
/-- The conditions of R340: no refinement grid, no such tile. -/
def State.tileTrap (s : State) (x : Issue) (n : Nat) (srcs : List Operand) (tile : LaneIx → Option Word) (l : LaneIx) :
    Option TrapC :=
  (x.g.operandTrap n srcs l).or (match s.refineOf x.g with
    | none => some { rank := 2, code := 0x0F, info := 0x30 }
    | some r => (tile l).bind fun c =>
      if (r.index c).isSome then none else some { rank := 3, code := 0x0F, info := 0x31 })
/-- The distinct tiles that lanes name, in the order of the lowest lane naming each (R334). -/
def distinctTiles (lanes : List LaneIx) (c : LaneIx → Word) : List Word := (lanes.map c).eraseDups
/-- The publications that a team's run holds, of all its ranks (R341). -/
def State.heldOf (s : State) (tid : Nat) : List HeldPub :=
  match (s.team tid).bind fun t => t.check.bind s.check with
  | some k => s.heldPubs k (s.runOf tid)
  | none => ((s.team tid).map Team.held).getD []
/-- The value a checked run's held publication returns (R341). -/
def Refine.heldValue (r : Refine) (held : List HeldPub) (i : Nat) : Word :=
  BitVec.ofNat 32 (min ((r.tile i).version + held.countP (fun p => p.tile == i) + 1) 65535)
/-- VPUB and VFIN (R334, R335, R341): a device-scope release; the group waits for the task unit's replies, or as a checked run
holds its publications. -/
def State.publishOp (s : State) (o : A2) (word : Word) (fin : Bool) : Out :=
  let srcs : List Operand := [⟨o.a, 1⟩]
  let dst : Operand := ⟨o.d, 1⟩
  s.withIssue fun x =>
    let n := s.stackOf x.g
    let part := x.part o.g
    let core := coreOf x.gid
    let tile := fun l => x.g.src n l o.a
    let trap := s.tileTrap x n srcs fun l => some (tile l)
    let ok := (Mask.lanes part).filter fun l => (trap l).isNone
    let wb := ((Mask.low x.act).map fun l => (x.g.lane l).wb).getD 0
    match x.g.wait, s.refineOf x.g, s.team x.g.team with
    | .taskUnit ans owed, _, _ =>
      if ans.length < owed then .next s
      else s.finish x part (fun _ => none) (fun done s => s.updGrp x.gid fun g =>
        g.writeSync n done o.nw dst fun l =>
          [((ans.find? fun e => e.1 == (tile l).toNat).map Prod.snd).getD 0]) x.seq
    | _, some r, some t =>
      if x.g.pending n x.act (srcs ++ if o.nw then [] else [dst]) || !s.releaseReady x.gid x.g .device then .next s
      else
        let idx := fun (c : Word) => (r.index c).getD 0
        let tiles := distinctTiles ok tile
        if t.holds then
          s.inputOp x n part srcs trap (fun _ => { kind := 6, operand := word, addr := 0 }) o.nw dst true
            (fun done s =>
              if done = 0#32 then s
              else (s.releasePoint x.gid none).updTeam x.g.team fun t =>
                { t with held := t.held ++ tiles.map fun c => { tile := idx c, fin, num := t.relNo, clk := x.g.vc, core } })
            fun l => r.heldValue (s.heldOf x.g.team) (idx (tile l))
        else if tiles.isEmpty then s.finish x part trap (fun _ s => s.updGrp x.gid fun g => g.scrub n wb part srcs) x.seq
        else
          let s := s.releasePoint x.gid none
          let clk := ((s.grp x.gid).map Group.cc).getD {}
          let s := tiles.foldl (fun s c => s.sendTask core t.grid (.pub (idx c) fin (some x.gid) clk)) s
          s.pinWait x n part srcs trap word (.taskUnit [] tiles.length)
    | _, _, _ =>
      if x.g.pending n x.act srcs then .next s
      else s.finish x part trap (fun _ s => s.updGrp x.gid fun g => g.scrub n wb part srcs) x.seq
/-- VPUB (R334, R335). -/
def execVpub (o : A2) (s : State) : Out := s.publishOp o (encode (.vpub o)) false
/-- VFIN (R334, R335). -/
def execVfin (o : A2) (s : State) : Out := s.publishOp o (encode (.vfin o)) true
/-- VSTOP: performed once, by no replaying run (R337). -/
def execVstop (o : A1a) (s : State) : Out :=
  let srcs : List Operand := [⟨o.a, 1⟩]
  s.stepOp o.g srcs (fun x n l => s.tileTrap x n srcs (fun l => some (x.g.src n l o.a)) l) (fun x n done s =>
    match s.refineOf x.g, s.team x.g.team with
    | some r, some t =>
      if t.replays then s
      else (distinctTiles (Mask.lanes done) fun l => x.g.src n l o.a).foldl (fun s c =>
        s.sendTask (coreOf x.gid) t.grid (.stop ((r.index c).getD 0))) s
    | _, _ => s) noStay seqPc
/-- VSTALE (R336, R341): in kill mode a marked run's lanes exit and nothing is written. -/
def execVstale (o : A1d) (s : State) : Out :=
  let dst : Operand := ⟨o.d, 1⟩
  s.withIssue fun x =>
    let n := s.stackOf x.g
    let part := x.part o.g
    let word := encode (.vstale o)
    let trap := s.tileTrap x n [] fun _ => none
    let key := fun (_ : LaneIx) => { kind := 6, operand := word, addr := 0 : LogKey }
    let lanes := (Mask.lanes part).filter fun l => (trap l).isNone
    let killst := ((s.gridOf x.g).map fun g => g.recd.killst).getD false
    if x.g.pending n x.act (if o.nw then [] else [dst]) then .next s
    else match s.logged x lanes key with
      | .stop s => .next s
      | lg =>
        let mine := ofBool x.g.stale
        let hit := (lanes.head?.map fun l => ((lg.values l).bind List.head?).getD mine).getD 0 = 1#32
        let mark := fun (s : State) => if hit then s.updGrp x.gid fun g => g.setStatus 4#32 else s
        if hit && killst then
          (lg.onState s).finishStay x part trap (fun done s =>
            let s := (mark s).updGrp x.gid fun g => g.leaveLanes done
            match lg with
            | .log _ => (Mask.lanes done).foldl (fun s l =>
                (s.logAppend x.gid { kind := 6, lane := l.val, grpix := 0, value := 1, operand := word, addr := 0 }).1) s
            | .replay _ => s.consumed x.gid (Mask.lanes done).length
            | _ => s) (fun done => done) x.seq
        else s.inputOp x n part [] trap key o.nw dst true (fun _ s => mark s) fun _ => mine

/-- The requests of an asynchronous read of the scoreboard, one for each lane, logged or replayed like every result of the task
unit (R334, R341). -/
def State.boardOp (s : State) (guard nw : Bool) (word : Word) (srcs : List Operand) (dst : Operand) (kind : LaneIx → Nat → ReqKind)
    (trap : Issue → Nat → LaneIx → Option TrapC) : Out :=
  s.withIssue fun x =>
    let n := s.stackOf x.g
    let part := x.part guard
    let core := coreOf x.gid
    let lanes := (Mask.lanes part).filter fun l => (trap x n l).isNone
    if x.g.pending n x.act (srcs ++ if nw then [] else [dst]) then .next s
    else match s.logged x lanes (fun _ => { kind := 6, operand := word, addr := 0, count := dst.w }) with
      | .stop s => .next s
      | lg =>
        let wb := ((Mask.low x.act).map fun l => (x.g.lane l).wb).getD 0
        (lg.onState s).finish x part (trap x n) (fun done s =>
          let (issue, s) := s.fresh
          let s := s.updGrp x.gid fun g => (g.scrub n wb part srcs).setPend n done nw dst
          (Mask.lanes done).foldl (fun s l =>
            let (s, fold) := if foldsIn done nw dst l then
                let (s, p) := s.reserve x.gid l dst.w
                (s, some p)
              else (s, none)
            let r := { s.reqOf x l word (kind l issue) 0 noPa 0 with dst := dstOf x.g n done nw dst l, fold }
            match lg.values l with
            | some vs => ((s.consumed x.gid dst.w).launch { r with stage := .reply vs false }).1
            | none =>
              let (s, logIx) := match lg with
                | .log _ =>
                  let e : LogE := { kind := 6, lane := l.val, grpix := 0, value := 0, operand := word, addr := 0, filled := false }
                  let (s, ix) := s.logAppend x.gid e
                  ((List.range (dst.w - 1)).foldl (fun (s : State) _ => (s.logAppend x.gid e).1) s, some ix)
                | _ => (s, none)
              let (rid, s) := s.fresh
              { s with reqs := s.reqs.put rid { r with logIx } }.send r.part 1
                (route (dieOfCore core) (stationOf core) (s.taskDie r.part) 64) (.req rid)) s) x.seq
/-- VRD (R338). -/
def execVrd (o : A2) (s : State) : Out :=
  let srcs : List Operand := [⟨o.a, 1⟩]
  s.withIssue fun x =>
    let n := s.stackOf x.g
    let c := fun l => x.g.src n l o.a
    let r := s.refineOf x.g
    s.boardOp o.g o.nw (encode (.vrd o)) srcs ⟨o.d, 2⟩ (fun l issue => .tileRead (r.bind fun r => r.index (c l)) issue)
      (fun x n l => s.tileTrap x n srcs (fun l => if c l = 0xFFFFFFFF#32 then none else some (c l)) l)
/-- VSEEN (R338). -/
def execVseen (o : A1d) (s : State) : Out :=
  s.boardOp o.g o.nw (encode (.vseen o)) [] ⟨o.d, 1⟩ (fun _ _ => .seenRead)
    (fun x n l => s.tileTrap x n [] (fun _ => none) l)
/-- VSLACK (R339, R340): parks until the grid is at slack water; a boundary. -/
def execVslack (s : State) : Out :=
  s.withIssue fun x =>
    let n := s.stackOf x.g
    let trap := s.tileTrap x n [] fun _ => none
    let slack := ((s.refineOf x.g).map Refine.slack).getD true || (s.team x.g.team).any Team.replays
    let bound := fun (s : State) => s.updGrp x.gid Group.boundary
    if slack then s.finish x x.act trap (fun _ s => bound s) x.seq
    else .next ((bound s).updGrp x.gid fun g => { g with pin := some ⟨x.act, encode .vslack⟩, wait := .slack })

/-! ### The task unit's clock (17 R332, R336, R337) -/

/-- A group's publication is answered. -/
def State.answer (s : State) (a : Nat × Word × Word) : State :=
  s.updGrp a.1 fun g => match g.wait with
    | .taskUnit ans owed => { g with wait := .taskUnit (ans ++ [(a.2.1.toNat, a.2.2)]) owed }
    | _ => g
/-- Marks the running runs of tiles stale, those that are saved too (R336, R342). -/
def State.markStale (s : State) (grid : Nat) (tiles : List Nat) : State :=
  let stale := fun (t : Team) => t.grid == grid && t.role ≤ 1 && (match t.kind with
    | .tile i => tiles.contains i
    | _ => false)
  let mark := fun (e : Nat × Group) => (e.1, { e.2 with stale := true })
  let saved := fun (v : SavedTeam) => if stale v.team then { v with groups := v.groups.map mark } else v
  { s with
    groups := s.groups.map fun e => if !e.2.priv && (s.team e.2.team).any stale then mark e else e
    streams := s.streams.map fun e => if e.2.grid = grid then (e.1, { e.2 with teams := e.2.teams.map saved }) else e }
/-- TASK_UNIT_CLOCK: the events that have reached the task unit are applied; under RESTART running runs whose inputs have moved
or whose tile was stopped become stale in the same clock (R332, R336, R337). -/
def execTaskUnitClock (grid : Nat) (s : State) : Out :=
  match s.grid grid with
  | none => .next s
  | some g =>
    match g.refine with
    | none => .next s
    | some r =>
      let here := r.arrived.filterMap fun n => (r.ev.find n).map fun e => (n, e)
      let allowed := (s.domain (((s.part g.part).map Part.lowDomain).getD 0)).allowed
      let allowed := if g.ended = .running then allowed else 8
      let (q, ans) := ({ r with ev := r.ev.filter fun e => !here.contains e, arrived := [] }).clock (here.map Prod.snd) allowed
      let s := s.updGrid grid fun g => { g with refine := some q }
      let s := ans.foldl (fun s a => s.answer a) s
      let moved := q.all.filter fun i => (q.tile i).running && ((q.tile i).seen < q.sum i || (q.tile i).stopped)
      .next (if g.recd.restart then s.markStale grid moved else s)

end Sys2Proof.Machine
end

