-- ==== Sys2Proof/Machine/Privileged.lean ====
section
/-! DEFINITION. System registers, `GETS` and `PUTS` (08 R176 to R181; 11 R255), the debug window, and the control core's
instructions `DWRD`, `DWWR`, `TRET` and `HALT` (19 R366 to R372). -/

namespace Sys2Proof.Machine

/-! ### System registers (08 R176 to R179) -/

/-- DWSEL's fields (19 R370). -/
def DieSt.dwSpace (d : DieSt) : Nat := (d.dwsel.extractLsb' 28 4).toNat
def DieSt.dwCore (d : DieSt) : Nat := (d.dwsel.extractLsb' 16 6).toNat
def DieSt.dwSlot (d : DieSt) : Nat := (d.dwsel.extractLsb' 6 5).toNat
def DieSt.dwLane (d : DieSt) : Nat := (d.dwsel.extractLsb' 0 5).toNat
/-- The core whose core- and domain-held registers a unit reaches: its own, and for a control core the one that DWSEL names
(R176; 19 R370; log 8). -/
def State.regCore (s : State) (gid : Nat) : Nat :=
  if gid < 8192 then coreOf gid else 64 * dieOf gid + (s.die (dieOf gid)).dwCore
/-- COREID of a core (R178). -/
def coreId (c : Nat) : Word := BitVec.ofNat 32 (domainOf c * 1024 + c / 64 * 256 + c)
/-- COREID as a unit reads it; outside DIE a control core's is not stated (log 8). -/
def coreIdOf (gid : Nat) : Word :=
  if gid < 8192 then coreId (coreOf gid)
  else BitVec.ofNat 32 (dieOf gid * 256) ||| (Config.ctrlCoreId (dieOf gid) &&& 0x00003CFF#32)
/-- CLSHAPE of a team (R178). -/
def State.clShape (s : State) (t : Team) : Word :=
  match t.kind, s.grid t.grid with
  | .launch, some g => BitVec.ofNat 32 (g.recd.w + 16 * g.recd.h)
  | _, _ => 0x11#32
/-- The registers that a team holds; a control core has no team and reads 0 (R176). -/
def State.teamReg (s : State) (t : Team) (sel : Nat) : Word :=
  let n := BitVec.ofNat 32
  match sel with
  | 0x010 => n t.x
  | 0x011 => n t.y
  | 0x012 => n t.z
  | 0x014 => n t.groups
  | 0x015 => n t.rank
  | 0x016 => s.clShape t
  | 0x017 => n t.lin
  | 0x018 => s.teamAddr t
  | 0x019 => n t.locSize
  | 0x060 => n t.role
  | 0x061 => t.sl
  | 0x062 => t.sh
  | 0x081 => n t.accBlk
  | 0x082 => n t.accSize
  | 0x0A0 => t.binTimer.setWidth 32
  | _ => 0#32
/-- The registers that a group or a lane of it holds (R176). -/
def State.groupReg (s : State) (x : Issue) (l : LaneIx) (sel : Nat) : Word :=
  let g := x.g
  let n := BitVec.ofNat 32
  let ident := fun (w : Word) => if g.priv then 0#32 else w
  match sel with
  | 0x013 => ident (n g.grpix)
  | 0x020 => g.gp
  | 0x021 => x.act
  | 0x022 => n (g.lane l).wb
  | 0x023 => n (g.lane l).wlo
  | 0x024 => n (s.stackOf g)
  | 0x033 => n g.levels.length
  | 0x040 => g.fmode
  | 0x050 => g.status
  | 0x052 => g.cychi
  | 0x063 => ident (g.lane l).rsig
  | 0x070 => ident g.tilexy
  | 0x071 => ident g.tilever
  | 0x072 => ident g.gridid
  | 0x090 => ident (n g.pclass)
  | k =>
    if 0x028 ≤ k && k ≤ 0x02F then g.rj.get (Fin.ofNat 8 (k - 0x028))
    else if 0x030 ≤ k && k ≤ 0x032 then g.lc.get (Fin.ofNat 3 (k - 0x030))
    else 0#32
/-- The registers of the package, a core, a bias domain or a die (R176, R179; 19 R364). -/
def State.unitReg (s : State) (gid sel : Nat) : Word :=
  let core := s.core (s.regCore gid)
  let dom := s.domain (domainOf (s.regCore gid))
  let die := s.die (dieOf gid)
  let n := BitVec.ofNat 32
  match sel with
  | 0x000 => coreIdOf gid
  | 0x001 => s.pkgId.setWidth 32
  | 0x051 => dom.clk.lo
  | 0x053 => core.dropCnt
  | 0x080 => core.acOwner.setWidth 32
  | 0x091 => n s.power.permits
  | 0x092 => n dom.st
  | 0x093 => dom.islope
  | 0x100 => die.tcause
  | 0x101 => die.tpc
  | 0x102 => die.tlanes
  | 0x103 => die.taddr.lo
  | 0x104 => die.taddr.hi
  | 0x105 => die.tgroup
  | 0x106 => die.dwsel
  | 0x107 => die.tinfo
  | _ => 0#32
/-- Selectors held by a team. -/
def teamHeld : List Nat := [0x010, 0x011, 0x012, 0x014, 0x015, 0x016, 0x017, 0x018, 0x019, 0x060, 0x061, 0x062, 0x081, 0x082, 0x0A0]
/-- Selectors held by a package, core, bias domain or die. -/
def unitHeld : List Nat :=
  [0x000, 0x001, 0x051, 0x053, 0x080, 0x091, 0x092, 0x093, 0x100, 0x101, 0x102, 0x103, 0x104, 0x105, 0x106, 0x107]
/-- A lane's value of a selector (R176). -/
def State.sysReg (s : State) (x : Issue) (l : LaneIx) (sel : Nat) : Word :=
  if unitHeld.contains sel then s.unitReg x.gid sel
  else if teamHeld.contains sel then ((s.team x.g.team).map fun t => s.teamReg t sel).getD 0#32
  else s.groupReg x l sel
/-- The log kind of a `GETS` (12 R265). -/
def getsKind (sel : Nat) : Option Nat :=
  if [0x051, 0x052, 0x053, 0x091, 0x092, 0x050, 0x080].contains sel then some 3
  else if [0x000, 0x001, 0x015, 0x018].contains sel then some 4 else none

/-- A read of `RUNROLE` or of a signature is not folded into the register signature (12 R271). -/
def getsFolds (sel : Nat) : Bool := ! List.contains [0x060, 0x061, 0x062, 0x063] sel

/-- A domain's counter as a read of it finds it: it has counted on by some number of clocks since the last read, unless the domain
is idle (R179; 20 R390; log 14). -/
def State.tickClk (s : State) (dom : Nat) : State :=
  if (s.domain dom).st = 3 then s
  else { s with freeCtr := s.freeCtr + 1 }.updDomain dom fun d => { d with clk := d.clk + BitVec.ofNat 64 (Config.freeNat s.freeCtr) }
/-- A read of a system register; one of CYCLO captures the high half of the counter (R179, R180; 12 R265). -/
def State.getsOp (s : State) (d : Reg) (sel : BitVec 10) : Out :=
  s.withIssue fun x =>
    match (Instr.gets d sel).modeTrap x.g.priv with
    | some c => s.trapAll x c (encode (.gets d sel)) 0
    | none =>
      let n := s.stackOf x.g
      let dst : Operand := ⟨d, 1⟩
      let k := sel.toNat
      let dom := domainOf (s.regCore x.gid)
      let s' := if k = 0x051 then s.tickClk dom else s
      let val := fun l => s'.sysReg x l k
      let hi := (s'.domain dom).clk.hi
      let capture := fun (s : State) => if k = 0x051 then s.updGrp x.gid fun g => { g with cychi := hi } else s
      if x.g.pending n x.act [dst] then .next s
      else match getsKind k with
        | some kind =>
          s'.inputOp x n x.act [] (fun _ => none) (fun _ => { kind, operand := sel.setWidth 32, addr := 0 }) false dst true
            (fun _ s => capture s) val
        | none =>
          s.finish x x.act (fun _ => none) (fun done s => s.updGrp x.gid fun g =>
            g.writeSync n done false dst (fun l => [val l]) (getsFolds k)) x.seq
/-- GETS (R180). -/
def execGets (d : Reg) (sel : BitVec 10) (s : State) : Out := s.getsOp d sel
/-- CYCLO_READ: what `GETS d, CYCLO` does (R179). -/
def execCycloRead (d : Reg) (s : State) : Out := s.getsOp d 0x051#10

/-- The new contents of a system register (R177, R181): STATUS is cleared by ones, the others are replaced with their
reserved bits kept at zero. -/
def State.putSys (s : State) (gid sel : Nat) (v : Word) : State :=
  let die := dieOf gid
  let grp := fun (f : Group → Group) => s.updGrp gid f
  match sel with
  | 0x020 => grp fun g => { g with gp := v }
  | 0x040 => grp fun g => { g with fmode := v &&& 0x1F#32 }
  | 0x050 => grp fun g => { g with status := g.status &&& ~~~v }
  | 0x053 => s.updCore (s.regCore gid) fun c => { c with dropCnt := v }
  | 0x093 => s.updDomain (domainOf (s.regCore gid)) fun d => { d with islope := v &&& 0x00FFFFFF#32 }
  | 0x0A0 => match s.grp gid with
    | some g => if g.priv then s else s.updTeam g.team fun t => { t with binTimer := v.setWidth 16 }
    | none => s
  | 0x101 => s.updDie die fun d => { d with tpc := v }
  | 0x106 => s.updDie die fun d => { d with dwsel := v &&& 0xF03F07DF#32 }
  | k =>
    if 0x028 ≤ k && k ≤ 0x02F then
      grp fun g => { g with rj := Vector.ofFn fun j => if j.val = k - 0x028 then v else g.rj.get j }
    else if 0x030 ≤ k && k ≤ 0x032 then
      grp fun g => { g with lc := Vector.ofFn fun j => if j.val = k - 0x030 then v else g.lc.get j }
    else s
/-- The value that a `PUTS` writes: a of the lowest lane that completes (R181). -/
def putsValue (x : Issue) (n : Nat) (a : Reg) (done : Mask) : Word := ((Mask.low done).map fun l => x.g.src n l a).getD 0#32

/-- The poisoned-operand trap that every active lane takes when a is poisoned in any of them; an uncorrectable word traps in its own
lane (R173, R181; log 44). -/
def Group.poisonedIn (g : Group) (stackS : Nat) (srcs : List Operand) (m : Mask) : Option TrapC :=
  firstOf m fun l => (g.operandTrap stackS srcs l).filter fun c => c.code == 0x09
/-- The state with the words that an issue reads checked (R173). -/
def State.scrubbed (s : State) (x : Issue) (n : Nat) (srcs : List Operand) : State :=
  s.updGrp x.gid fun g => g.scrub n (((Mask.low x.act).map fun l => (x.g.lane l).wb).getD 0) x.act srcs
/-- A write of ACOWNER: the control core parks inside it until CTX has taken the value (11 R255). -/
def State.acownerOp (s : State) (word : Word) (a : Reg) : Out :=
  s.withIssue fun x =>
    match (Instr.puts 0x080#10 a).modeTrap x.g.priv with
    | some c => s.trapAll x c word 0
    | none =>
      let n := s.stackOf x.g
      let srcs : List Operand := [⟨a, 1⟩]
      let trap := x.g.operandTrap n srcs
      let poison := x.g.poisonedIn n srcs x.act
      let ok := maskOf fun l => Mask.has x.act l && (trap l).isNone
      match x.g.wait with
      | .acowner _ _ true => s.finish x x.act (fun _ => none) (fun _ s => s) x.seq
      | .acowner _ _ false => .next s
      | _ =>
        if x.g.pending n x.act srcs then .next s
        else if let some c := poison then (s.scrubbed x n srcs).trapAll x c.code c.info c.addr
        else if ok = 0#32 then (s.scrubbed x n srcs).finish x x.act trap (fun _ s => s) x.seq
        else s.pinWait x n x.act srcs trap word (.acowner (s.regCore x.gid) (putsValue x n a ok) false)
/-- ACOWNER_WRITE (11 R255). -/
def execAcownerWrite (a : Reg) (s : State) : Out := s.acownerOp (encode (.puts 0x080#10 a)) a
/-- PUTS (R181). -/
def execPuts (sel : BitVec 10) (a : Reg) (s : State) : Out :=
  if sel = 0x080#10 then s.acownerOp (encode (.puts sel a)) a
  else s.withIssue fun x =>
    match (Instr.puts sel a).modeTrap x.g.priv with
    | some c => s.trapAll x c (encode (.puts sel a)) 0
    | none =>
      let n := s.stackOf x.g
      let srcs : List Operand := [⟨a, 1⟩]
      if x.g.pending n x.act srcs then .next s
      else
        let s := s.scrubbed x n srcs
        match x.g.poisonedIn n srcs x.act with
        | some c => s.trapAll x c.code c.info c.addr
        | none => s.finish x x.act (x.g.operandTrap n srcs)
          (fun done s => if done = 0#32 then s else s.putSys x.gid sel.toNat (putsValue x n a done)) x.seq

/-- No matrix operation and no accumulator instruction of the old owner's teams is left on a core (11 R255). -/
def State.ownerIdle (s : State) (core : Nat) : Bool :=
  let old := fun (tid : Nat) => (s.team tid).any fun t => t.accCtx == (s.core core).acOwner
  ((s.core core).mq.all fun o => !old o.team) && s.reqs.all fun e => !(e.2.core == core && e.2.kind == .acc && old e.2.team)
/-- ACOWNER_CHANGE: CTX takes the value that the die's control core waits to write (11 R255). -/
def execAcownerChange (die : Die) (s : State) : Out :=
  match (s.grp (ctrlGid die.val)).map Group.wait with
  | some (.acowner core v false) =>
    if s.ownerIdle core then
      .next ((s.updCore core fun c => { c with acOwner := v.setWidth 16 }).updGrp (ctrlGid die.val) fun g =>
        { g with wait := .acowner core v true })
    else .next s
  | _ => .next s

/-! ### The debug window (19 R370 to R372; 10 R210) -/

/-- How an access through the debug window ends: a value, or not yet. -/
inductive Dw where
  | value (w status : Word)
  | wait
  deriving DecidableEq, Repr

/-- A refusal (R372): the value register takes 0. -/
def Dw.no (status : Word) : Dw := .value 0#32 status
/-- The group that DWSEL names (R370). -/
def dwGid (die : Nat) (d : DieSt) : Nat := 32 * (64 * die + d.dwCore) + d.dwSlot
/-- A group is stopped: parked on a queued or loaded trap, or saved in place (R372). -/
def Group.dwStopped (g : Group) : Bool := g.trap.isSome || g.stopped
/-- Lane state as item 3 of space 4 (R371). -/
def LaneSt.word : LaneSt → Word
  | .eligible => 0#32
  | .rejoin k => BitVec.ofNat 32 (1 + 256 * k)
  | .held n => BitVec.ofNat 32 (2 + 256 * n)
  | .barrier n => BitVec.ofNat 32 (3 + 256 * n)
  | .exited => 4#32
/-- The lane state a word names, if one does. -/
def LaneSt.ofWord (w : Word) (depth : Nat) : Option LaneSt :=
  let k := (w.extractLsb' 8 4).toNat
  match (w.extractLsb' 0 3).toNat with
  | 0 => some .eligible
  | 1 => if k < 8 then some (.rejoin k) else none
  | 2 => if k < depth then some (.held k) else none
  | 3 => some (.barrier k)
  | 4 => some .exited
  | _ => none
/-- Some lane of a group can ever issue: after every release that is due, a lane is eligible or waits at a barrier that the
group has arrived at or whose opening has come (10 R210; 13 R289, R294, R296). -/
def Group.canIssue (g : Group) : Bool :=
  let g := g.settle
  g.inState .eligible != 0#32 || !g.opened.isEmpty || (List.range 16).any fun n => g.arrivedAt n
/-- The group words of space 5 (R371). -/
def Group.word (g : Group) (accCtx : BitVec 16) (i : Nat) : Word :=
  if i = 0 then g.gp
  else if i ≤ 8 then g.rj.get (Fin.ofNat 8 (i - 1))
  else if i ≤ 11 then g.lc.get (Fin.ofNat 3 (i - 9))
  else if i = 12 then BitVec.ofNat 32 g.levels.length
  else if i = 13 then g.fmode
  else if i = 14 then g.status
  else if i = 15 then BitVec.ofNat 32 g.pclass
  else accCtx.setWidth 32
/-- Sets a group word of space 5 that is held in the group. -/
def Group.setWord (g : Group) (i : Nat) (v : Word) : Group :=
  if i = 0 then { g with gp := v }
  else if i ≤ 8 then { g with rj := Vector.ofFn fun j => if j.val = i - 1 then v else g.rj.get j }
  else if i ≤ 11 then { g with lc := Vector.ofFn fun j => if j.val = i - 9 then v else g.lc.get j }
  else if i = 13 then { g with fmode := v &&& 0x1F#32 }
  else if i = 14 then { g with status := v &&& 7#32 }
  else g
/-- The entry that an index names in spaces 0 to 3 and 6: what it reads as, and the group with it changed. -/
def Group.dwEntry (g : Group) (stackS : Nat) (l : LaneIx) (space i : Nat) : Option (RCell × (RCell → Group)) :=
  let v := g.lane l
  let slot := if space = 1 then i else v.slot stackS i
  if space = 0 || space = 6 then
    if i < 96 then some (v.stack.getD {} slot, fun c => g.setLane l { v with stack := v.stack.setD {} slot c }) else none
  else if space = 1 then
    if i < stackS then some (v.stack.getD {} slot, fun c => g.setLane l { v with stack := v.stack.setD {} slot c }) else none
  else if space = 2 then
    if 1 ≤ i && i ≤ 23 then some (g.s.getD {} (96 + i), fun c => { g with s := g.s.setD {} (96 + i) c }) else none
  else if i < 4 then some (v.fw.get i, fun c => g.setLane l { v with fw := v.fw.set i c }) else none
/-- The accumulator units that a running operation of a core updates include a unit (R372). -/
def State.accUpdating (s : State) (core unit : Nat) : Bool :=
  (s.core core).mq.any fun o => o.started && (s.team o.team).any fun t =>
    (List.range o.m).any fun i =>
      let a := t.accBlk / 4 + o.accOff + i * o.accStride
      a / 1024 ≤ unit && unit ≤ (a + o.n - 1) / 1024
/-- Number of items of a space that needs a stopped group, other than the entries of `dwEntry` (R371). -/
def spaceRange (space loc : Nat) : Nat := if space = 4 then 5 else if space = 5 then 17 else loc / 4
/-- `DWRD` of an item (R371, R372). -/
def State.dwRead (s : State) (die i : Nat) : Dw :=
  let d := s.die die
  let core := 64 * die + d.dwCore
  let sp := d.dwSpace
  if 10 ≤ sp then .no 6
  else if sp = 9 then
    match i with
    | 0 => .value d.ctx.addr.lo 0
    | 1 => .value d.ctx.addr.hi 0
    | 2 => .value d.ctx.command 0
    | 3 => .value d.ctx.status 0
    | _ => .no 3
  else if sp = 7 then if i < 131072 then .value ((s.core core).acc.getD 0 i) 0 else .no 3
  else match s.grp (dwGid die d) with
    | none => .no 1
    | some g =>
      if !g.dwStopped then .no 2
      else
        let n := s.stackOf g
        let l : LaneIx := Fin.ofNat 32 d.dwLane
        if sp ≤ 3 || sp = 6 then
          match g.dwEntry n l sp i with
          | none => .no 3
          | some (c, _) => .value (if sp = 6 then BitVec.ofNat 32 (c.pend.toNat + 2 * c.pois.toNat) else c.val) 0
        else if spaceRange sp (s.locOf g).2.1 ≤ i then .no 3
        else if sp = 4 then
          let v := g.lane l
          .value (if i = 0 then v.pc else if i = 1 then BitVec.ofNat 32 v.wb else if i = 2 then BitVec.ofNat 32 v.wlo
            else if i = 3 then v.st.word else BitVec.ofNat 32 v.starve) 0
        else if sp = 5 then .value (g.word (((s.team g.team).map Team.accCtx).getD 0) i) 0
        else
          let a := (s.locOf g).1 + 4 * i
          if (s.core core).anyAbsent a 4 then .wait else .value (wordOf (getBytes (s.core core).scratch a 4)) 0
/-- A group as changed by a write of space 4 or 5, with the rejoin masks it satisfies released at once, unless no lane of it
could ever issue (R372 status 5; 10 R210; 13 R289). An instruction that only waits to be performed issues afresh (06 R127). -/
def State.dwGroup (s : State) (gid : Nat) (g : Group) : State × Dw :=
  let g := if g.wait = Wait.none || g.wait = Wait.slack then { g with pin := none, wait := Wait.none } else g
  if g.live != 0#32 && g.canIssue then (s.setGrp gid g.settle, .value 0 0) else (s, .no 5)
/-- A lane put into a state by the window: one held at a loop end has arrived there, an exited one leaves as by `EXIT` (R371;
13 R294, R300; log 30). -/
def Group.putState (g : Group) (l : LaneIx) (st : LaneSt) : Group :=
  let g := { g with levels := g.levels.map fun (lv : Level) => { lv with arrived := Mask.drop lv.arrived l } }
  match st with
  | .exited => g.exitLanes (1#32 <<< l.val)
  | .held k => (g.updLevel k fun lv => { lv with arrived := Mask.add lv.arrived l, members := Mask.add lv.members l }).setLane l
      { (g.lane l) with st }
  | _ => g.setLane l { (g.lane l) with st }
/-- The window moves a lane's PC, whose bits [1:0] are zero in any PC: outside a level's body the lane leaves the level, but for one
held at its end (02 R19; 13 R293; log 30). -/
def Group.putPc (g : Group) (l : LaneIx) (pc : Word) : Group :=
  let v := g.lane l
  let held := match v.st with
    | .held _ => true
    | _ => false
  { (g.setLane l { v with pc }) with
    levels := g.levels.map fun lv => if !held && lv.leaves v.wb pc then { lv with members := Mask.drop lv.members l } else lv }
/-- A write of the context unit's items (R371 to R373). -/
def State.dwCtx (s : State) (die i : Nat) (v : Word) : State × Dw :=
  let d := s.die die
  match i with
  | 0 => (s.updDie die fun k => { k with ctx := { k.ctx with addr := Word.pair k.ctx.addr.hi v } }, .value 0 0)
  | 1 => (s.updDie die fun k => { k with ctx := { k.ctx with addr := Word.pair v k.ctx.addr.lo } }, .value 0 0)
  | 2 =>
    if d.ctx.running || (v ≠ 1#32 && v ≠ 2#32) then (s, .no 7)
    else
      (s.updDie die fun k => { k with ctx := { k.ctx with
        command := v, status := 1, running := true, core := 64 * die + d.dwCore, slot := d.dwSlot, via := none } }, .value 0 0)
  | 3 => (s, .no 4)
  | _ => (s, .no 3)
/-- `DWWR` of an item: the state and its status (R371, R372). -/
def State.dwWrite (s : State) (die i : Nat) (v : Word) : State × Dw :=
  let d := s.die die
  let core := 64 * die + d.dwCore
  let sp := d.dwSpace
  let gid := dwGid die d
  if 10 ≤ sp then (s, .no 6)
  else if sp = 9 then s.dwCtx die i v
  else match s.grp gid with
    | none => (s, .no 1)
    | some g =>
      let owner := (s.locOf g).2.2
      if sp = 7 then
        if 131072 ≤ i then (s, .no 3)
        else if s.accUpdating core (i / 1024) then (s, .wait)
        else (s.updCore core fun k => k.accWrite owner i v, .value 0 0)
      else if !g.dwStopped then (s, .no 2)
      else
        let n := s.stackOf g
        let l : LaneIx := Fin.ofNat 32 d.dwLane
        if sp ≤ 3 || sp = 6 then
          match g.dwEntry n l sp i with
          | none => (s, .no 3)
          | some (c, put) =>
            let c' : RCell := if sp = 6 then { c with pois := v.getLsbD 1 } else { val := v, pend := c.pend }
            (s.setGrp gid (put c'), .value 0 0)
        else if spaceRange sp (s.locOf g).2.1 ≤ i then (s, .no 3)
        else if sp = 4 then
          if i = 0 then s.dwGroup gid (g.putPc l (alignPc v))
          else if i = 3 then
            match LaneSt.ofWord v g.levels.length with
            | none => (s, .no 5)
            | some st => s.dwGroup gid (g.putState l st)
          else (s, .no 4)
        else if sp = 5 then
          if i = 12 || i = 15 then (s, .no 4)
          else if i = 16 then (s.updTeam g.team fun t => { t with accCtx := v.setWidth 16 }, .value 0 0)
          else s.dwGroup gid (g.setWord i v)
        else
          let a := (s.locOf g).1 + 4 * i
          if (s.core core).anyAbsent a 4 then (s, .wait)
          else (s.updCore core fun k => k.scrWrite owner a (bytesOf v), .value 0 0)

/-! ### DWRD, DWWR, TRET, HALT (19 R366 to R369, R372) -/

/-- The shape of the four: privileged mode, operands, then a synchronous result of the lanes that complete. -/
def State.ctrlOp (s : State) (i : Instr) (srcs : List Operand) (dst : Operand)
    (run : Issue → Nat → List LaneIx → State → Option (State × (LaneIx → List Word))) : Out :=
  s.withIssue fun x =>
    match i.modeTrap x.g.priv with
    | some c => s.trapAll x c (encode i) 0
    | none =>
      let n := s.stackOf x.g
      if x.g.pending n x.act (dst :: srcs) then .next s
      else
        let trap := x.g.operandTrap n srcs
        let ok := (Mask.lanes x.act).filter fun l => (trap l).isNone
        match run x n ok s with
        | none => .next s
        | some (s, vals) =>
          let wb := ((Mask.low x.act).map fun l => (x.g.lane l).wb).getD 0
          s.finish x x.act trap (fun done s => s.updGrp x.gid fun g =>
            (g.scrub n wb x.act srcs).writeSync n done false dst vals) x.seq
/-- Runs window accesses of the lanes in order; none when one must wait. -/
def dwLanes (s : State) (lanes : List LaneIx) (f : LaneIx → State → State × Dw) : Option (State × List (LaneIx × Word × Word)) :=
  lanes.foldl (fun acc l => acc.bind fun (s, rs) => match f l s with
    | (s, .value w st) => some (s, rs ++ [(l, w, st)])
    | (_, .wait) => none) (some (s, []))
/-- A lane's answer. -/
def dwOf (rs : List (LaneIx × Word × Word)) (l : LaneIx) : Word × Word :=
  ((rs.find? fun e => e.1 == l).map Prod.snd).getD (0#32, 0#32)
/-- DWRD (R372). -/
def execDwrd (d a : Reg) (s : State) : Out :=
  s.ctrlOp (.dwrd d a) [⟨a, 1⟩] ⟨d, 2⟩ fun x n lanes s =>
    (dwLanes s lanes fun l s => (s, s.dwRead (dieOf x.gid) (x.g.src n l a).toNat)).map fun (s, rs) =>
      (s, fun l => [(dwOf rs l).1, (dwOf rs l).2])
/-- DWWR (R372). -/
def execDwwr (d a b : Reg) (s : State) : Out :=
  s.ctrlOp (.dwwr d a b) [⟨a, 1⟩, ⟨b, 1⟩] ⟨d, 1⟩ fun x n lanes s =>
    (dwLanes s lanes fun l s => s.dwWrite (dieOf x.gid) (x.g.src n l a).toNat (x.g.src n l b)).map fun (s, rs) =>
      (s, fun l => [(dwOf rs l).2])
/-- `TRET` waits before it kills a group of a primary until the versions that this releases can become current (R369; 12 R279; 11
R245). -/
def State.tretWaits (s : State) (die : Nat) (a : Word) : Bool :=
  let d := s.die die
  d.loaded && a.extractLsb' 0 2 == 1#2 &&
    (((s.grp (loadedGid die d)).bind fun g => s.team g.team).bind fun t => if t.role = 1 then t.check else none).any fun n =>
      !s.releasable n
/-- What `TRET` does to the loaded trap's group or grid (R368). -/
def State.tretOp (s : State) (die : Nat) (a : Word) : State :=
  let d := s.die die
  let gid := loadedGid die d
  let mine := ((s.grp gid).bind Group.trap).any Trap.loaded
  let grid := (((s.grp gid).bind fun g => s.team g.team).map Team.grid).getD 0
  if !d.loaded then s
  else
    (match (a.extractLsb' 0 2).toNat with
      | 0 => s.resumeTrap die
      | 1 => if mine then s.killOne gid else s
      | 2 => if mine then s.faultGrid grid d.tcause.toNat else s
      | _ => if mine then s.endGrid grid .killed else s).clearLoaded die
/-- TRET (R368). -/
def execTret (a : Reg) (s : State) : Out :=
  s.ctrlOp (.tret a) [⟨a, 1⟩] ⟨Reg.z, 1⟩ fun x n lanes s =>
    match lanes.head? with
    | none => some (s, fun _ => [])
    | some l =>
      if s.tretWaits (dieOf x.gid) (x.g.src n l a) then none else some (s.tretOp (dieOf x.gid) (x.g.src n l a), fun _ => [])
/-- HALT: it parks until a trap, message or request is there for the die, loads the head of the trap queue, and reports what
it found (R367). -/
def execHalt (d : Reg) (s : State) : Out :=
  s.ctrlOp (.halt d) [] ⟨d, 1⟩ fun x _ _ s =>
    let die := dieOf x.gid
    let k := s.die die
    if (k.loaded || k.trapQ.isEmpty) && !k.msgPend && !k.reqPend then none
    else
      let s := (if k.loaded then s else s.loadTrap die).updDie die fun k => { k with msgPend := false, reqPend := false }
      let w := BitVec.ofNat 32 ((s.die die).loaded.toNat + 2 * k.msgPend.toNat + 4 * k.reqPend.toNat)
      some (s, fun _ => [w])

end Sys2Proof.Machine
end

