-- ==== Sys2Proof/Machine/Mgmt.lean ====
section
/-! DEFINITION. The management message set (21 R414 to R416): when a request is handled, and how it is answered. -/

namespace Sys2Proof.Machine

/-- The host ports are up (21 R422). -/
def State.portsUp (s : State) : Bool := s.phase != .rom && s.phase != .tripped
/-- Firmware runs on the control cores: the ROM phase is over (21 R418, R422). -/
def State.fwRuns (s : State) : Bool := s.phase == .training || s.phase == .ready
/-- The 32-byte header of a message of the management queue pair (R414). -/
def headerBytes (type status len : Nat) (id : Dword) (part : Nat) (resv : BitVec 120) : List Byte :=
  bytesOfNat 2 type ++ bytesOfNat 2 status ++ bytesOfNat 4 len ++ bytesOfNat 8 id.toNat ++ bytesOfNat 1 part ++ bytesOfNat 15 resv.toNat
/-- A request's type and header as read from the bytes of a SEND: fewer than 32 are no request (R414). -/
def readRequest (b : List Byte) : Option (Nat × MReq) :=
  let f := fun a n => natOfBytes ((b.drop a).take n)
  if b.length < 32 then none
  else some (f 0 2, {
    id := BitVec.ofNat 64 (f 8 8), part := f 16 1, status := BitVec.ofNat 16 (f 2 2), len := BitVec.ofNat 32 (f 4 4)
    resv := BitVec.ofNat 120 (f 17 15), body := b.length - 32 })
/-- The bytes of a reply: the request's header repeated with the status filled in, then the reply's body (R414; log 35). -/
def MReq.replyBytes (r : MReq) (type status : Nat) (body : List Byte) : List Byte :=
  headerBytes type status r.len.toNat r.id r.part r.resv ++ body
/-- A reply, whose bytes are `MReq.replyBytes` (R414). -/
def State.reply (s : State) (r : MReq) (type status : Nat) (body : List Byte) : State := s.emit (.reply r type status body)
/-- A reply without a body. -/
def State.answerReq (s : State) (r : MReq) (type status : Nat) : Out := .next (s.reply r type status [])
/-- Requests wait: one whose reply is still owed is being handled, a partition's destruction, a shootdown or a key's destruction or
replacement (R415, R419; 03 R61, R64), or firmware is still bringing the part up (R422; log 35). -/
def State.mgmtBusy (s : State) : Bool :=
  (s.parts.any fun p => p.2.destroying.isSome) || !s.shoots.isEmpty || s.mgmtCur.isSome || s.phase == .training
/-- The request being handled has been answered: the waiting ones are handled next, in order of arrival (R415). -/
def State.resumeMgmt (s : State) : State :=
  if s.mgmtBusy then s else { s with agenda := s.mgmtQ ++ s.agenda, mgmtQ := [] }
/-- Handles a request of a type on the management queue pair (R414 to R416; 13 for HALT: 19 R367). One that arrives while the
ports are down or no management connection is open is lost; one that arrives while another is handled waits; a type that
the ROM does not answer gets status 5 in the ROM phase, and a malformed message, or one whose partition is out of range, status
3. A message that firmware handles is
pending for the die it concerns. -/
def State.manage (s : State) (r : MReq) (type : Nat) (rom : Bool) (die : Nat) (k : State → Out) : Out :=
  if !s.portsUp || !s.mgmtConn then .next s
  else if s.mgmtBusy then .next { s with mgmtDefer := true }
  else if !s.fwRuns then
    if !rom then s.answerReq r type 5
    else if r.bad || (16 ≤ r.part && r.part ≠ 255) then s.answerReq r type 3 else k s
  else
    let s := s.updDie die fun d => { d with msgPend := true }
    if r.bad || (16 ≤ r.part && r.part ≠ 255) then s.answerReq r type 3 else k s
/-- A request that names a partition: malformed for the package, refused for one that does not exist (R414). -/
def State.managePart (s : State) (r : MReq) (type die : Nat) (k : Part → State → Out) : Out :=
  s.manage r type false die fun s =>
    if 16 ≤ r.part then s.answerReq r type 3
    else match s.part r.part with
      | none => s.answerReq r type 4
      | some p => k p s
/-- A request that waited while the partition it names was destroyed: status 4 (R419). -/
def State.lateRequest (s : State) (r : MReq) (type : Nat) : Out := s.manage r type false 0 fun s => s.answerReq r type 4
/-- A request is pending for a die's firmware: a pre-emption, a cut or Breakwater's (19 R367). -/
def State.raise (s : State) (die : Nat) : State := s.updDie die fun d => { d with reqPend := true }
/-- The active grid of a partition with a dispatch sequence number. -/
def State.gridSeq (s : State) (part : Nat) (seq : Dword) : Option (Nat × Grid) :=
  s.grids.find? fun e => e.2.part == part && e.2.seq == seq.toNat

end Sys2Proof.Machine
end

