-- ==== Sys2Proof/Machine/Context.lean ====
section
/-! DEFINITION. Saving and restoring contexts (19 R373, R375, R381 to R384), pre-emption (R374 to R376), the consistent cut (R378
to R381) and the Ebb engine's migration (R385 to R388). -/

namespace Sys2Proof

/-- What a context record's body holds: the header, a grid, or a part of a team or of one of its groups (19 R383). -/
inductive RecordBody where
  | head (h : Machine.StreamHead)
  | grid (g : Machine.Grid)
  | part (v : Machine.SavedTeam)
  deriving DecidableEq, Repr
/-- The bytes of a record body: the spec lists its contents and fixes no layout (19 R383; log 11). -/
opaque Config.contextBody : RecordBody → List Byte
/-- What the bytes of a body of a tag hold, up to their last nonzero byte; none when they are no such body (19 R384; log 11). -/
opaque Config.bodyOf : Nat → List Byte → Option RecordBody

end Sys2Proof

namespace Sys2Proof.Machine

/-! ### Stopping (R375, R378) -/

/-- A group that issues nothing of its own accord: it waits inside an instruction, or no lane of it can be issued. -/
def Group.atRest (g : Group) (gid : Nat) : Bool := g.pin.isSome || (issueOf gid g).isNone
/-- A group is asked to stop: at once, or cooperatively, in which case one that runs on stops at its next boundary (R375). -/
def State.stopGroup (s : State) (gid : Nat) (now : Bool) : State :=
  s.updGrp gid fun g =>
    let g := { g with saveStop := false }
    if now || g.atRest gid then { g with stopped := true } else { g with stopping := true }
def State.stopTeam (s : State) (tid : Nat) (now : Bool) : State :=
  (s.groupsOf tid).foldl (fun s e => s.stopGroup e.1 now) s
/-- A command's save stops a team by itself: that stop is over with the save, one that was there before is not (R373; log 30). -/
def State.stopForSave (s : State) (tid : Nat) : State :=
  (s.groupsOf tid).foldl (fun s e => s.updGrp e.1 fun g => if g.stopped then g else { g with stopped := true, saveStop := true }) s

/-! ### Saving a team (R375; 08 R172; 07 R158; 18 R360) -/

/-- An access of a team's lanes as its groups stand: made under their present allocations (08 R171). -/
def State.ownReq (s : State) (tid : Nat) (r : Req) : Bool :=
  r.team == tid && (r.gid?.bind s.grp).any fun g => g.team == tid && g.tag == r.tag
/-- The accesses whose request, reply or acknowledgement a cut holds (R379). -/
def State.heldReqs (s : State) : List Nat := (s.cuts.flatMap Cut.held).filterMap fun h => match h.what with
  | .access rid _ => some rid
  | .update _ => none
/-- An access of the team's lanes that the save waits for: all but plain loads and prefetches, and those that a cut has recorded or
whose answer it holds (R375, R379). -/
def State.saveWaits (s : State) (tid : Nat) : Bool :=
  s.reqs.any fun e => s.ownReq tid e.2 && (match e.2.kind with
    | .load _ _ | .prefetch => false
    | _ => !s.heldReqs.contains e.1)
/-- A wait inside an instruction whose answer is owed by the sequencer, a controller or the task unit. -/
def Wait.owed : Wait → Bool
  | .sequencer (Option.none) => true
  | .writeBack (_ :: _) => true
  | .taskUnit ans n => ans.length < n
  | _ => false
/-- The spill frame's spilled entries of a group can be read now (11 R245; 04 R76). -/
def State.frameReady (s : State) (gid : Nat) (g : Group) : Bool :=
  let part := (s.partOf g).getD 0
  allLanes.all fun l => (List.range ((g.lane l).wlo / 16)).all fun i => s.partReady part (s.blockVa gid l.val (16 * i)) 64 needRead
/-- The team can be saved: its groups have stopped, what the save awaits has returned, its engine work is done, and its frames can be
read. -/
def State.saveReady (s : State) (tid : Nat) : Bool :=
  let gs := s.groupsOf tid
  !gs.isEmpty && (gs.all fun e => (e.2.stopped || e.2.trap.isSome) && !e.2.wait.owed && s.frameReady e.1 e.2) && !s.saveWaits tid &&
    (s.team tid).any fun t => s.engineIdle (tid, t)

/-- The part of a table with keys from lo on, n of them, counted from lo. -/
def Tab.cut {α : Type} (m : Tab α) (lo n : Nat) : Tab α := (m.filter fun e => lo ≤ e.1 && e.1 < lo + n).map fun e => (e.1 - lo, e.2)
/-- Replaces that part. -/
def Tab.paste {α : Type} (m : Tab α) (lo n : Nat) (v : Tab α) : Tab α :=
  m.filter (fun e => e.1 < lo) ++ v.map (fun e => (e.1 + lo, e.2)) ++ m.filter (fun e => lo + n ≤ e.1)
/-- A recorded plain load (08 R172). -/
def Req.recorded (r : Req) : Option RecLoad :=
  match r.maker, r.kind with
  | .lane _ l, .load size sext =>
    let (dst, sreg) := match r.dst with
      | .none => ([], false)
      | .slots d => (d, false)
      | .sregs d => (d, true)
    let done := match r.stage with
      | .reply _ _ => true
      | _ => false
    some { pc := r.pc, word := r.word, lane := l, va := r.va, size, sext, dst, sreg, fold := r.fold, folded := r.folded || done }
  | _, _ => none
/-- A group as its record holds it: still waiting where it waits, released if its barrier has opened, its trap no longer
loaded, and an `MMAS` that has not started about to issue again (R375; 18 R360; log 11). With `keep`, one that had stopped before its
save is stopped still (R373; log 30). -/
def Group.record (g : Group) (loads : List RecLoad) (keep : Bool) : Group :=
  let g := g.releaseAll
  let again := g.wait == .mmas none false
  { g with
    pin := if again then none else g.pin
    wait := if again then .none else g.wait
    trap := g.trap.map fun t => { t with loaded := false }
    walk := 0, walkFail := [], recLoads := loads, stopping := false, stopped := keep && g.stopped && !g.saveStop
    saveStop := false, shed := .running }
/-- The spilled entries of a group's lanes, sector by sector (08 R161). -/
def State.readFrame (s : State) (gid : Nat) (g : Group) : State × Tab (List (Option (List Byte))) :=
  let part := (s.partOf g).getD 0
  allLanes.foldl (fun (acc : State × Tab (List (Option (List Byte)))) l =>
    let k := (g.lane l).wlo / 16
    let (s, bs) := (List.range k).foldl (fun (a : State × List (Option (List Byte))) i =>
      let (s, b) := a.1.partRead part (a.1.blockVa gid l.val (16 * i)) 64
      (s, a.2 ++ [b])) (acc.1, [])
    (s, if k = 0 then acc.2 else acc.2.put (32 * g.grpix + l.val) bs)) (s, [])
/-- An accumulator block as its owner reads it (03 R66; 11 R235). -/
def Core.accImage (k : Core) (owner lo n : Nat) : List Word :=
  (List.range n).map fun i => if k.accTag.getD 0 ((lo + i) / 1024) = owner then k.acc.getD 0 (lo + i) else 0#32
/-- Takes a team off its core: its records, and the state without it. Its blocks are free; what they hold stays under its
owner's tags (R375; 03 R66). What a cut holds of it is its channel state; its other plain loads are recorded, and their own returns
will find no allocation (08 R172). `alone` says that it is a command's save, which writes no accumulator image (R373, R377). -/
def State.takeTeam (s : State) (tid : Nat) (alone : Bool) : Option (State × SavedTeam) :=
  match s.team tid with
  | none => none
  | some t =>
    let core := t.core
    let gs := s.byGrpix tid
    let (s, frames) := gs.foldl (fun (a : State × Tab (List (Option (List Byte)))) e =>
      let (s, f) := a.1.readFrame e.1 e.2
      (s, a.2 ++ f)) (s, [])
    let held := s.heldReqs
    let loads := fun (gid : Nat) => (s.reqs.filter fun e => s.ownReq tid e.2 && !e.2.dead && e.2.gid? == some gid && !held.contains e.1).filterMap
      fun e => e.2.recorded
    let pixOf := fun (r : Req) => ((r.gid?.bind s.grp).map Group.grpix).getD 0
    let named := fun (r : Req) => match r.maker with
      | .lane _ l => { r with maker := .lane (pixOf r) l }
      | _ => r
    let mine := (s.cuts.flatMap Cut.held).filter fun h => h.team == tid
    let channel := mine.filterMap fun h => match h.what with
      | .access rid _ => (s.reqs.find rid).map fun r => (h.num, Chan.access (named r))
      | .update u => some (h.num, .update u)
    let k := s.core core
    let v : SavedTeam := {
      tid, team := t
      groups := gs.map fun e => (e.2.grpix, e.2.record (loads e.1) alone)
      scratch := k.scrRead t.owner t.locBlk t.locSize
      marks := (k.marks.filter fun m => t.locBlk ≤ 16 * m && 16 * m < t.locBlk + roundBlock t.locSize).map fun m => m - t.locBlk / 16
      acc := if alone then none else some (k.accImage t.owner (t.accBlk / 4) (t.accSize / 4))
      frames, channel, job := (s.cuts.find? fun c => c.grids.contains t.grid).map Cut.num }
    let gids := gs.map Prod.fst
    let waiting := (k.mwait.filter fun e => gids.contains e.1).map fun e => e.2.n
    let gone := mine.filterMap fun h => match h.what with
      | .access rid pid => some (rid, pid)
      | .update _ => none
    let s := { s with
      teams := s.teams.del tid
      groups := s.groups.filter fun e => !gids.contains e.1
      reqs := s.reqs.filter fun e => !gone.any fun x => x.1 == e.1
      packets := s.packets.filter fun e => !gone.any fun x => x.2 == e.1
      cuts := s.cuts.map fun (c : Cut) => { c with
        held := c.held.filter fun h => h.team != tid, recorded := c.recorded.filter fun r => !gone.any fun x => x.1 == r } }
    let s := s.updCore core fun c => { c with
      marks := c.marks.filter fun m => !(t.locBlk ≤ 16 * m && 16 * m < t.locBlk + roundBlock t.locSize)
      mwait := c.mwait.filter fun e => !gids.contains e.1 }
    let s := s.updDie (dieOfCore core) fun d => { d with
      trapQ := d.trapQ.filter fun g => !gids.contains g
      walks := d.walks.map fun (w : Walk) => { w with waiters := w.waiters.filter fun x => !gids.contains x.1 } }
    let s := s.updDomain (domainOf core) fun d => { d with relq := d.relq.filter fun g => !gids.contains g }
    some (s, { v with team := { t with mmasFree := waiting ++ t.mmasFree } })
/-- Saves a team into the stream of a number, under its grid (R375, R376). -/
def State.saveTeam (s : State) (tid key : Nat) (cut : Option (BitVec 16)) (alone : Bool := false) : State :=
  match s.takeTeam tid alone with
  | none => s
  | some (s, v) =>
    let part := ((s.grid v.team.grid).map Grid.part).getD 0
    let st := (s.streams.find key).getD { part, grid := v.team.grid, cut }
    let s := { s with streams := s.streams.put key { st with teams := st.teams ++ [v] } }
    s.updGrid v.team.grid fun g => { g with saved := if g.saved.contains key then g.saved else g.saved ++ [key] }
/-- The number of a pre-emption's stream lies above every stream address, that of a cut's below (log 11). -/
def preemptKey (n : Nat) : Nat := 2 ^ 64 + n
/-- The stream that takes a further rank of a cluster whose other ranks it holds. -/
def State.streamFor (s : State) (t : Team) (cut : Option (BitVec 16)) : Option Nat :=
  (s.streams.find? fun e =>
    (match cut with
      | none => 2 ^ 64 ≤ e.1
      | some n => e.2.cut == some n) &&
    e.2.grid == t.grid && e.2.teams.any fun v => v.team.cluster == t.cluster && v.team.kind == t.kind).map Prod.fst
/-- Saves into the cluster's stream or a new one. -/
def State.saveIn (s : State) (tid : Nat) (t : Team) (k : Option Cut) : State :=
  match s.streamFor t (k.map Cut.num) with
  | some key => s.saveTeam tid key (k.map Cut.num)
  | none =>
    let (n, s) := s.fresh
    s.saveTeam tid (if k.isSome then n else preemptKey n) (k.map Cut.num)
/-- TEAM_SAVE: a team stopped by a pre-emption, or by a cut that is complete, is saved; a shadow or third run is cancelled and
queued again (R375, R380; 12 R279). -/
def execTeamSave (tid : Nat) (s : State) : Out :=
  match s.team tid with
  | none => .next s
  | some t =>
    let byCut := s.cuts.find? fun k => k.complete && k.grids.contains t.grid
    let asked := byCut.isSome || s.preempts.any fun p => p.teams.contains tid
    if !asked then .next s
    else match t.check with
      | some n =>
        if 2 ≤ t.role then .next (s.cancelRun n t.role).pruneStops
        else if s.saveReady tid then .next (s.saveIn tid t byCut).pruneStops else .next s
      | none => if s.saveReady tid then .next (s.saveIn tid t byCut).pruneStops else .next s

/-! ### Restoring a team (R373, R381; 08 R172) -/

/-- What a saved team needs of a core. -/
def SavedTeam.need (v : SavedTeam) : Need := ⟨v.groups.length, v.team.stackS, v.team.locSize, v.team.accSize⟩
/-- Issues a recorded load again, as its address is now; one that no longer translates returns zero with poison (08 R172, R174; log
11). -/
def State.reissue (s : State) (gid : Nat) (g : Group) (e : RecLoad) : State :=
  let core := coreOf gid
  let part := (s.partOf g).getD 31
  let dst : Dst := if e.dst.isEmpty then .none else if e.sreg then .sregs e.dst else .slots e.dst
  let r : Req := { maker := .lane gid e.lane, tag := g.tag, core, team := g.team, part, pc := e.pc, word := e.word,
                   kind := .load e.size e.sext, va := e.va, pa := noPa, key := 0, home := 0, member := core, dst, fold := e.fold
                   folded := e.folded, cc := g.cc }
  let lost := fun (s : State) => (s.launch { r with stage := .reply (List.replicate (max 1 (e.size / 4)) 0#32) true }).1
  match classify e.va with
  | .localAp off =>
    let (blk, size, owner) := s.locOf g
    if size < off + e.size then lost s
    else (s.launch { r with stage := .reply (loadWords e.size e.sext ((s.core core).scrRead owner (blk + off) e.size)) false }).1
  | _ =>
    match s.lookNow core part e.va needRead with
    | (s, .at pa key) =>
      s.issueLoad { r with pa, key, home := s.home pa, member := s.memberOf core g.team (pa / 128) } (s.loadAfter core (pa / 128))
    | (s, _) => lost s
/-- Writes a lane's saved sectors into its new frame; a sector that was poisoned is poisoned there (08 R161, R164). -/
def State.writeFrame (s : State) (gid : Nat) (part lane : Nat) (bs : List (Option (List Byte))) : State :=
  (bs.zipIdx).foldl (fun s e =>
    let va := s.blockVa gid lane (16 * e.2)
    match e.1 with
    | some b => (s.partWrite part va b {} none).1
    | none =>
      let s := (s.partWrite part va (List.replicate 64 0#8) {} none).1
      match s.lookPart (dieOf gid) part va needWrite with
      | (s, .at pa _) => s.poisonSector pa
      | (s, _) => s) s
/-- A team can be put into slots of a core now: its channel state can be delivered, its frames can be written, and no line of the
tables that its recorded loads need is pinned under another key or behind a closed path (11 R245; 04 R76). -/
def State.putReady (s : State) (v : SavedTeam) (core : Nat) (slots : List Nat) : Bool :=
  let part := ((s.grid v.team.grid).map Grid.part).getD 0
  s.replayReady part v && (v.groups.all fun e => e.2.recLoads.all fun r => match classify r.va with
    | .localAp _ => true
    | _ => (s.walkTables false (dieOfCore core) part r.va).2 != .wait) &&
    ((v.groups.map Prod.fst).zip slots).all fun e => allLanes.all fun l =>
      (List.range ((v.frames.getD [] (32 * e.1 + l.val)).length)).all fun i =>
        s.partReady part (s.frameVa (some part) (32 * core + e.2) l.val (16 * i)) 64 needWrite
/-- The epochs that the package has closed (07 R158). -/
def State.closedClk (s : State) : Clk := (List.range 4).foldl (fun (c : Clk) d => c.set d ((s.die d).epoch - 1)) {}
/-- Puts a saved team onto a core: what its blocks held, written as its owner writes (03 R45, R66), its groups under a new tag, its
frames, its trap entries and its recorded loads; a group whose class is shed there is parked (R373, R375; 20 R407). It issues nothing
before its die has applied what it had seen and written (07 R145, R158; log 38). A team that comes from another package takes the clocks
of the epochs closed here now, and those of its replayed writes (07 R158; R381). Its channel state has been delivered. -/
def State.putTeam (s : State) (v : SavedTeam) (core : Nat) (a : Alloc) : State :=
  let shed := fun (g : Group) => if g.pclass < (s.domain (domainOf core)).allowed then Shed.parked else .running
  let clk := s.closedClk
  let start := fun (g : Group) =>
    let g := if v.moved then { g with vc := g.vc.join clk, obs := clk, cc := clk } else g
    { g with mustSee := (g.mustSee.join g.vc).join g.obs }
  let s := s.settle v.tid v.team core a (v.groups.map fun e => { start e.2 with shed := shed e.2 })
  let s := s.updCore core fun k =>
    let k := k.scrWrite v.team.owner a.loc v.scratch
    let k := ((v.acc.getD []).zipIdx).foldl (fun (k : Core) e => k.accWrite v.team.owner (a.acc / 4 + e.2) e.1) k
    { k with marks := k.marks ++ v.marks.map fun m => m + a.loc / 16 }
  let slots := (v.groups.map Prod.fst).zip (a.slots.map (32 * core + ·))
  let part := ((s.grid v.team.grid).map Grid.part).getD 0
  let s := slots.foldl (fun s e => allLanes.foldl (fun s l =>
    match v.frames.find (32 * e.1 + l.val) with
    | some bs => s.writeFrame e.2 part l.val bs
    | none => s) s) s
  slots.foldl (fun s e => match s.grp e.2 with
    | none => s
    | some g =>
      let s := if g.trap.isSome then s.updDie (core / 64) fun d => { d with trapQ := d.trapQ ++ [e.2] } else s
      g.recLoads.foldl (fun s r => s.reissue e.2 g r) (s.updGrp e.2 fun g => { g with recLoads := [] })) s
/-- Two saved teams belong to one job that a cut stopped, on this package or on the one it comes from. -/
def SavedTeam.sameJob (a b : SavedTeam) : Bool := a.job.isSome && a.job == b.job && a.moved == b.moved
/-- The streams of a stream's job in its partition: those whose teams the same cut stopped (R381). -/
def State.jobStreams (s : State) (st : Stream) : List (Nat × Stream) :=
  s.streams.filter fun e => e.2.part == st.part && e.2.teams.any fun v => st.teams.any fun w => v.tid == w.tid || v.sameJob w
/-- The channel state of every team of a stream's job is delivered, before any group of the job issues (R381). -/
def State.replayJob (s : State) (st : Stream) : State :=
  let job := s.jobStreams st
  let (s, vs) := s.replayTeams st.part (job.flatMap fun e => e.2.teams)
  let now := fun (v : SavedTeam) => (vs.find? fun w => w.tid == v.tid).getD v
  { s with streams := job.foldl (fun m e => m.put e.1 { e.2 with teams := e.2.teams.map now }) s.streams }
/-- The channel state of a stream's job can be delivered now (R381). -/
def State.jobReady (s : State) (st : Stream) : Bool :=
  (s.jobStreams st).all fun e => e.2.teams.all fun v => s.replayReady e.2.part v
/-- A stream is gone from its grid and from the streams; a cut's grid goes on (R378). -/
def State.dropStream (s : State) (key : Nat) : State :=
  match s.streams.find key with
  | none => s
  | some st => { s with streams := s.streams.del key }.updGrid st.grid fun g =>
      { g with saved := g.saved.erase key, suspended := g.suspended && st.cut.isNone }

/-! ### Context records (R382 to R384) -/

/-- A record of a stream (R382). -/
structure Record where
  tag : Nat
  version : Nat
  body : List Byte
  deriving DecidableEq, Repr
/-- The tags of R383 that may be skipped. -/
def skippable (tag : Nat) : Bool := tag == 0x0050 || tag == 0x0051
/-- The tags of R383. -/
def knownTags : List Nat := [0x0000, 0x0001, 0x0002, 0x0010, 0x0011, 0x0012, 0x0013, 0x0014, 0x0015, 0x0016, 0x0017, 0x0020, 0x0021,
  0x0030, 0x0031, 0x0040, 0x0050, 0x0051]
/-- A record as bytes: its header, its body, and zeros to a multiple of 8 (R382). -/
def Record.bytes (r : Record) : List Byte :=
  bytesOfNat 2 r.tag ++ bytesOfNat 1 r.version ++ bytesOfNat 1 (skippable r.tag).toNat ++ bytesOfNat 4 r.body.length ++ r.body ++
    List.replicate ((8 - r.body.length % 8) % 8) 0#8
/-- How a restorer reads a stream (R382, R384): the records of known tags, none when it refuses. A skippable one of higher version
stays, for its defaults to be applied. `fuel` bounds the records. -/
def readRecords : Nat → List Byte → Option (List Record)
  | 0, _ => none
  | fuel + 1, b =>
    if b.length < 8 then none
    else
      let n := fun o k => natOfBytes ((b.drop o).take k)
      let tag := n 0 2
      let ver := n 2 1
      let skip := n 3 1 % 2 = 1
      let len := n 4 4
      let size := 8 + (len + 7) / 8 * 8
      if 2 ≤ n 3 1 || b.length < 8 + len then none
      else if tag = 0 then if len = 0 && ver ≤ 1 then some [] else none
      else
        let rest := readRecords fuel (b.drop size)
        if knownTags.contains tag then
          if ver ≤ 1 || skippable tag then rest.map (⟨tag, ver, (b.drop 8).take len⟩ :: ·) else none
        else if skip then rest
        else none
/-- A stream begins with its header record (R382). -/
def readStream (b : List Byte) : Option (List Record) :=
  match readRecords b.length b with
  | some (r :: rs) => if r.tag = 1 then some (r :: rs) else none
  | _ => none
/-- A lane with the fields that a tag's record holds taken from another; PC[1:0] of a stored PC are ignored (R383; 02 R19). -/
def Lane.part (tag : Nat) (base src : Lane) : Lane :=
  if tag = 0x0012 then { base with
      pc := alignPc src.pc, st := src.st, wb := src.wb, wlo := src.wlo, starve := src.starve, marks := src.marks, second := src.second }
  else if tag = 0x0013 then { base with stack := src.stack }
  else if tag = 0x0014 then { base with fw := src.fw }
  else if tag = 0x0030 then { base with rsig := src.rsig, nfold := src.nfold }
  else if tag = 0x0051 then { base with starve := src.starve }
  else base
/-- The same of a group; 0x0011 holds what no other record does (R383). -/
def Group.part (tag : Nat) (base src : Group) : Group :=
  let lanes := Vector.ofFn fun l => (base.lanes.get l).part tag (src.lanes.get l)
  if tag = 0x0011 then
    { src with
      lanes, s := base.s, vc := base.vc, obs := base.obs, cc := base.cc, mustSee := base.mustSee, recLoads := base.recLoads, tilexy := base.tilexy
      tilever := base.tilever, gridid := base.gridid, seen := base.seen, stale := base.stale, replayed := base.replayed, log := base.log
      cychi := base.cychi }
  else if tag = 0x0014 then { base with lanes, s := src.s }
  else if tag = 0x0015 then { base with vc := src.vc, obs := src.obs, cc := src.cc, mustSee := src.mustSee }
  else if tag = 0x0016 then { base with recLoads := src.recLoads }
  else if tag = 0x0030 then { base with lanes, replayed := src.replayed, log := src.log }
  else if tag = 0x0031 then
    { base with tilexy := src.tilexy, tilever := src.tilever, gridid := src.gridid, seen := src.seen, stale := src.stale }
  else if tag = 0x0050 then { base with cychi := src.cychi }
  else { base with lanes }
/-- The same of a team, of the groups that the record names (R383). -/
def SavedTeam.part (tag : Nat) (base src : SavedTeam) : SavedTeam :=
  let groups := base.groups.map fun e => match src.groups.find? fun x => x.1 == e.1 with
    | some x => (e.1, e.2.part tag x.2)
    | none => e
  if tag = 0x0010 then
    { base with
      tid := src.tid, moved := src.moved, job := src.job
      team := { src.team with
        sh := 0, sl := 0, ls := 0, rs := 0, relNo := 0, check := none, role := src.team.role, diverged := false, acted := false, held := [] } }
  else if tag = 0x0017 then { base with frames := base.frames ++ src.frames }
  else if tag = 0x0020 then { base with scratch := src.scratch, marks := src.marks }
  else if tag = 0x0021 then { base with acc := src.acc }
  else if tag = 0x0030 then
    { base with
      groups
      team := { base.team with
        sh := src.team.sh, sl := src.team.sl, ls := src.team.ls, rs := src.team.rs, relNo := src.team.relNo, check := src.team.check
        diverged := src.team.diverged, acted := src.team.acted, held := src.team.held } }
  else if tag = 0x0040 then { base with channel := src.channel }
  else { base with groups }
/-- The tags of the records about a team as a whole, about each group, and about the team after its groups, in order (R383). -/
def groupTags : List Nat := [0x0011, 0x0012, 0x0013, 0x0014, 0x0015, 0x0016, 0x0017]
def SavedTeam.lateTags (v : SavedTeam) : List Nat :=
  [0x0020] ++ (if v.acc.isSome then [0x0021] else []) ++ (if v.team.check.isSome then [0x0030] else []) ++ (match v.team.kind with
    | .tile _ => [0x0031]
    | _ => []) ++ (if v.channel.isEmpty then [] else [0x0040]) ++ [0x0050, 0x0051]
/-- A record of a team: of one group, or of all of them, with nothing but what its tag holds. -/
def SavedTeam.record (v : SavedTeam) (tag : Nat) (groups : List (Nat × Group)) : Record :=
  let frames := v.frames.filter fun e => groups.any fun g => g.1 == e.1 / 32
  let blank : SavedTeam := { tid := 0, team := { grid := 0, core := 0 }, groups := groups.map fun e => (e.1, { team := v.tid }) }
  ⟨tag, 1, Config.contextBody (.part (blank.part tag { v with groups, frames }))⟩
/-- The records of a team, in order (R383). -/
def SavedTeam.records (v : SavedTeam) : List Record :=
  [v.record 0x0010 []] ++ (v.groups.flatMap fun e => groupTags.map fun t => v.record t [e]) ++ v.lateTags.map fun t => v.record t v.groups
/-- The stream of a job: its header, its grids, its teams, and the end (R382, R383). -/
def Job.bytes (j : Job) : List Byte :=
  let rs := [⟨0x0001, 1, Config.contextBody (.head { j.head with teams := j.teams.length })⟩] ++
    (j.grids.map fun g => ⟨0x0002, 1, Config.contextBody (.grid g)⟩) ++ j.teams.flatMap SavedTeam.records ++ [(⟨0, 1, []⟩ : Record)]
  rs.flatMap Record.bytes
/-- A body's bytes up to the last that is not zero: fields missing at its end are zero (R384). -/
def trimBody (b : List Byte) : List Byte := (b.reverse.dropWhile (· == 0#8)).reverse
/-- A job with one more record applied: a team's first record begins it, a group's first record begins the group (R383, R384). -/
def Job.apply (j : Job) (tag : Nat) (b : RecordBody) : Job :=
  let last := fun (f : SavedTeam → SavedTeam) => { j with teams := j.teams.modify (j.teams.length - 1) f }
  match b with
  | .head h => { j with head := h }
  | .grid g => { j with grids := j.grids ++ [g] }
  | .part v =>
    if tag = 0x0010 then { j with teams := j.teams ++ [SavedTeam.part tag { tid := 0, team := { grid := 0, core := 0 } } v] }
    else if tag = 0x0011 then
      last fun w => SavedTeam.part tag { w with groups := w.groups ++ v.groups.map fun e => (e.1, { team := w.tid }) } v
    else last fun w => w.part tag v
/-- A job with a skipped record's defaults applied to its last team: zero (R383, R384). -/
def Job.skip (j : Job) (tag : Nat) : Job :=
  { j with teams := j.teams.modify (j.teams.length - 1) fun v =>
      v.part tag { tid := v.tid, team := { grid := 0, core := 0 }, groups := v.groups.map fun e => (e.1, { team := v.tid }) } }
/-- The job of accepted records; what the skippable records would have told keeps its default, zero (R383, R384). -/
def jobOf (rs : List Record) : Option Job :=
  rs.foldl (fun (j : Option Job) r => j.bind fun j =>
    if 1 < r.version then some (j.skip r.tag) else (Config.bodyOf r.tag (trimBody r.body)).map fun b => j.apply r.tag b)
    (some { grids := [], teams := [] })

/-! ### The context unit (R371, R373, R377) -/

def State.updCtx (s : State) (die : Nat) (f : CtxUnit → CtxUnit) : State := s.updDie die fun d => { d with ctx := f d.ctx }
/-- A context-unit command that comes by a management request: refused while one runs (R373; 21 R415, R416). -/
def State.ctxRequest (s : State) (die : Nat) (c : CtxReq) (command : Word) : Out :=
  s.manage c.req 0x40 false die fun s =>
    if 64 ≤ c.core || 32 ≤ c.slot then s.answerReq c.req 0x40 3
    else if (s.die die).ctx.running then s.answerReq c.req 0x40 4
    else .next ((s.reply c.req 0x40 1 []).updCtx die fun k => { k with
      addr := c.addr, command, status := 1, running := true, core := 64 * die + c.core, slot := c.slot, via := some c.req, result := none })
/-- The header of a stream that this package writes (R383; 21 R417). -/
def State.streamHead (s : State) (part : Nat) (cut : Option (BitVec 16)) : StreamHead :=
  { partNumber := "KZ-AG4".toList.map (fun c => BitVec.ofNat 8 c.toNat) ++ [0, 0], serial := Config.serialBytes
    firmware := s.fw.version, part, cut := cut.getD 0 }
/-- The job of one stream: its grid and its teams. -/
def State.jobOfStream (s : State) (st : Stream) : Job :=
  { head := s.streamHead st.part st.cut, grids := (s.grid st.grid).toList
    teams := st.teams.map fun v => { v with team := { v.team with grid := 0 } } }
/-- A control core's accesses to n bytes of memory can be made now, from a station of its die (11 R245; 04 R76). -/
def State.ctrlReady (s : State) (die a n : Nat) : Bool :=
  (piecesOf 64 a n).all fun p => match s.lookCtrl (BitVec.ofNat 64 p.2.1) with
    | .at pa key =>
      let part := regionPart (s.region pa)
      s.homeReady part pa key p.2.2 && s.wayOpen part (72 * die + 64) pa
    | _ => true
/-- A save's records stand at the stream address, which is the control core's; what stood there is replaced, and the teams of a stream
saved there before are lost (R373, R382; log 11). The accumulator memory stays as it is (R377). None while the bytes cannot be
written. -/
def State.saveAt (s : State) (die tid : Nat) (addr : Dword) : Option State :=
  let key := addr.toNat
  let s := { s with streams := s.streams.del key }.saveTeam tid key none true
  match s.streams.find key with
  | none => some s
  | some st =>
    let bs := (s.jobOfStream st).bytes
    if !s.ctrlReady die key bs.length then none
    else some <| (piecesOf 128 key bs.length).foldl (fun s p => match s.lookCtrl (BitVec.ofNat 64 p.2.1) with
      | .at pa k => (s.machineWrite (regionPart (s.region pa)) pa k (BitVec.ofNat 64 p.2.1) ((bs.drop p.1).take p.2.2) {} none).1
      | _ => s) s
/-- The running command of a die's context unit, when it is this one and has not ended. -/
def DieSt.ctxRuns (d : DieSt) (command : Word) : Bool := d.ctx.running && d.ctx.command == command && d.ctx.result.isNone
/-- CONTEXT_SAVE: command 1 stops the team of SLOT and, once what a save awaits is there, saves it to the stream address
(R373, R375); a shadow or third run is cancelled (12 R279). -/
def execContextSave (die : Die) (via : Option CtxReq) (s : State) : Out :=
  match via with
  | some c => s.ctxRequest die.val c 1
  | none =>
    let u := (s.die die.val).ctx
    let done := fun (s : State) (n : Nat) => s.updCtx die.val fun k => { k with result := some n }
    if !(s.die die.val).ctxRuns 1 then .next s
    else match (s.grp (32 * u.core + u.slot)).bind fun g => (s.team g.team).map fun t => (g.team, t) with
      | none => .next (done s 4)
      | some (tid, t) =>
        let s := s.stopForSave tid
        let save := if s.saveReady tid then (s.saveAt die.val tid u.addr).elim s fun s => done s 0 else s
        match t.check with
        | some n =>
          if 2 ≤ t.role then .next (done (s.cancelRun n t.role) 0) else .next save
        | none => .next save
/-- How a restore goes (R373): it waits for a line or a path, or ends with a status and a state. -/
inductive Restore where
  | wait
  | done (s : State) (status : Nat)
/-- Puts a stream's teams on one core, each beside the ones before it, its cluster's operand groups with it (04 R78); a restore that
finds too little room changes nothing of `s₀`. -/
def State.restoreOn (s₀ s : State) (g : Grid) (core : Nat) : List SavedTeam → Restore
  | [] => .done s 0
  | v :: t => match s.allocOn core v.need with
    | none => .done s₀ 3
    | some a =>
      if !s.putReady v core a.slots then .wait
      else
        let (s, band) := s.moveBands g v.team core
        State.restoreOn s₀ (s.putTeam { v with team := { v.team with band } } core a) g core t
/-- A control core's read; none where a sector cannot be read or is poisoned (log 8). -/
def State.ctrlRead (s : State) (a n : Nat) : State × Option (List Byte) :=
  (piecesOf 64 a n).foldl (fun (acc : State × Option (List Byte)) p =>
    match acc.2, acc.1.lookCtrl (BitVec.ofNat 64 p.2.1) with
    | some bs, .at pa key =>
      let (s, b, bad) := acc.1.readHome pa key p.2.2
      (s, if bad then none else some (bs ++ b))
    | _, _ => (acc.1, none)) (s, some [])
/-- The bytes of the records that stand from an address on, up to an end record; none while a line of them is pinned under another key
or behind a closed path. `fuel` bounds the records (R382; 11 R245; 04 R76). -/
def State.streamBytes (die : Nat) : Nat → State → Nat → State × Option (List Byte)
  | 0, s, _ => (s, some [])
  | fuel + 1, s, a =>
    if !s.ctrlReady die a 8 then (s, none)
    else match s.ctrlRead a 8 with
    | (s, none) => (s, some [])
    | (s, some h) =>
      let size := 8 + (natOfBytes (h.drop 4) + 7) / 8 * 8
      if !s.ctrlReady die a size then (s, none)
      else match s.ctrlRead a size with
      | (s, none) => (s, some [])
      | (s, some b) =>
        if natOfBytes (h.take 2) = 0 then (s, some b)
        else
          let (s, r) := State.streamBytes die fuel s (a + size)
          (s, r.map fun r => b ++ r)
/-- The stream that records in memory describe, for a grid that is active; its teams take new numbers (R373, R384; log 11). -/
def State.parsed (s : State) (bs : List Byte) : State × Option Stream :=
  match (readStream bs).bind jobOf with
  | none => (s, none)
  | some j => match j.grids.head?.bind fun g => s.gridSeq g.part (BitVec.ofNat 64 g.seq) with
    | none => (s, none)
    | some (n, g) =>
      let (s, vs) := j.teams.foldl (fun (acc : State × List SavedTeam) v =>
        let (tid, s) := acc.1.fresh
        (s, acc.2 ++ [{ v with
          tid, team := { v.team with grid := n }, job := none, moved := false
          groups := v.groups.map fun e => (e.1, { e.2 with team := tid }) }])) (s, [])
      (s, some { part := g.part, grid := n, teams := vs })
/-- The stream that a restore from an address finds: a cut's or a pre-emption's under its number, or the records that stand in memory,
which are those of a stream saved there as long as nothing has changed them (R373, R382; log 11). The outer none: not yet. -/
def State.streamAt (s : State) (die addr : Nat) : State × Option (Option Stream) :=
  match s.streams.find addr with
  | some st =>
    if st.cut.isSome || 2 ^ 64 ≤ addr then (s, some (some st))
    else match s.streamBytes die 65536 addr with
      | (s, none) => (s, none)
      | (s, some bs) =>
        if bs = (s.jobOfStream st).bytes then (s, some (some st))
        else
          let (s, st) := s.parsed bs
          (s, some st)
  | none => match s.streamBytes die 65536 addr with
    | (s, none) => (s, none)
    | (s, some bs) =>
      let (s, st) := s.parsed bs
      (s, some st)
/-- Placement could put a rank of a team on a core: its cluster's rectangle lies on the die, where other ranks of it are resident
(18 R350, R352; 19 R373). -/
def State.rankFits (s : State) (g : Grid) (t : Team) (core : Nat) : Bool :=
  let (w, h) := (g.recd.w, g.recd.h)
  let (x, y) := (t.rank % w, t.rank / w)
  t.kind != .launch || (x ≤ core % 8 && core % 8 - x + w ≤ 8 && y ≤ core % 64 / 8 && core % 64 / 8 - y + h ≤ 8 &&
    (s.teamsOf t.grid).all fun e => !(e.2.cluster == t.cluster && e.2.kind == t.kind && e.2.role == t.role) ||
      e.2.base w == { t with core }.base w)
/-- How a restore of a stream onto a core ends (R373, R384): the channel state of its job first (R381). The teams take places that
placement could give them (R352; 12 R261). -/
def State.restoreTo (s : State) (die key core : Nat) : Restore :=
  match s.streamAt die key with
  | (_, none) => .wait
  | (_, some none) => .done s 2
  | (s₁, some (some st)) => match s.grid st.grid with
    | none => .done s 2
    | some g =>
      let ranks := fun (v : SavedTeam) => if v.team.kind = .launch then g.recd.w * g.recd.h else 1
      if !(s.coresOf st.part (core / 64)).contains core || (s.core core).fenced then .done s 5
      else if !(st.teams.all fun v => s.coreOk st.grid (ranks v) core && s.rankFits g v.team core) ||
          !s.slotsOpen st.grid st.part false (st.teams.map fun v => v.groups.length).sum then .done s 3
      else if !s.jobReady st then .wait
      else
        let s₁ := { s₁ with streams := s₁.streams.put key st }.replayJob st
        match State.restoreOn s s₁ g core (((s₁.streams.find key).map Stream.teams).getD []) with
        | .done t 0 => .done (t.dropStream key) 0
        | r => r
/-- CONTEXT_RESTORE: command 2 restores the stream at the stream address onto CORE (R373, R384). -/
def execContextRestore (die : Die) (via : Option CtxReq) (s : State) : Out :=
  match via with
  | some c => s.ctxRequest die.val c 2
  | none =>
    let u := (s.die die.val).ctx
    if !(s.die die.val).ctxRuns 2 then .next s
    else
      match s.restoreTo die.val u.addr.toNat u.core with
      | .wait => .next s
      | .done s n => .next (s.updCtx die.val fun k => { k with result := some n })
/-- CONTEXT_COMMAND_DONE: the command ends and status reads how; a request is complete (R373; 21 R424). -/
def execContextCommandDone (die : Die) (s : State) : Out :=
  let u := (s.die die.val).ctx
  match u.running, u.result with
  | true, some n =>
    let s := s.updCtx die.val fun k => { k with running := false, result := none, status := BitVec.ofNat 32 n, via := none }
    .next (match u.via with
      | some r => s.alert 2 r.id (if n = 0 then 0 else 4) 0x40 0
      | none => s)
  | _, _ => .next s

/-! ### Pre-emption (R374 to R376) -/

/-- The clusters of a grid that are resident, each as the core of its rank-0 team (or lowest rank left), its number and its
run's role, in descending order of that core (R374). -/
def State.victims (s : State) (grid : Nat) : List (Nat × Nat × Nat) :=
  let ts := (s.teamsOf grid).map fun e => (e.2.cluster, e.2.role)
  let first := fun (k : Nat × Nat) =>
    (sortBy (fun a b => a.2.rank ≤ b.2.rank) ((s.teamsOf grid).filter fun e => (e.2.cluster, e.2.role) == k)).head?.map fun e => e.2.core
  (sortBy (fun a b => b.1 ≤ a.1) (ts.dedup.filterMap fun k => (first k).map fun c => (c, k)))
/-- The cores of whole clusters, in the victims' order, until they cover n cores. -/
def State.vacate (s : State) (grid n : Nat) : List Nat :=
  (s.victims grid).foldl (fun acc k =>
    if n ≤ acc.length then acc
    else (acc ++ ((s.teamsOf grid).filter fun e => (e.2.cluster, e.2.role) == k.2).map fun e => e.2.core).dedup) []
/-- PREEMPTION (R374, R375; 21 R415, R416). -/
def execPreemption (r : MReq) (seq : Dword) (cores : Nat) (immediate : Bool) (s : State) : Out :=
  s.managePart r 0x40 0 fun _ s =>
    if cores = 0 || 256 < cores then s.answerReq r 0x40 4
    else match s.gridSeq r.part seq with
      | none => s.answerReq r 0x40 4
      | some (grid, _) =>
        let gone := s.vacate grid cores
        let hit := ((s.teamsOf grid).filter fun e => gone.contains e.2.core).map fun e => (e.2.cluster, e.2.role)
        let tids := ((s.teamsOf grid).filter fun e => hit.contains (e.2.cluster, e.2.role)).map Prod.fst
        let s := (s.reply r 0x40 1 []).updGrid grid fun g => { g with vacated := (g.vacated ++ gone).dedup }
        let s := tids.foldl (fun s t => s.stopTeam t immediate) s
        let s := ((gone.map (· / 64)).dedup).foldl (fun s d => s.raise d) s
        .next ({ s with preempts := s.preempts ++ [({ req := r, grid, cores := gone, immediate, teams := tids } : Preempt)] }).pruneStops
/-- PREEMPT_FORCE: 200 µs after a cooperative request, groups still running stop at their next boundary (R375). -/
def execPreemptForce (s : State) : Out :=
  .next ((s.preempts.flatMap Preempt.teams).foldl (fun s t => s.stopTeam t true) s)

/-! ### The consistent cut (R378 to R381) -/

/-- Two stations of a die lie on one loop (04 R71). -/
def shareLoop (a b : Nat) : Bool :=
  (List.range 28).any fun l => (Config.loopStations l).contains a && (Config.loopStations l).contains b
/-- The sources of a station: those that share a loop with it, and at an edge station the far end of its link (R378). -/
def cutSources (die station : Nat) : List Nat :=
  ((List.range 72).filter fun b => b != station && shareLoop station b).map (72 * die + ·) ++
    ([die ^^^ 1, die ^^^ 2].filter fun d => edgeStation die d == station).map fun d => 72 * d + edgeStation d die
/-- Stops the job's groups on the core of a station (R378, R375). -/
def State.stopJob (s : State) (grids : List Nat) (station : Nat) : State :=
  if station % 72 < 64 then
    ((s.teamsOn (64 * (station / 72) + station % 72)).filter fun e => grids.contains e.2.grid).foldl (fun s e => s.stopTeam e.1 true) s
  else s
/-- CUT: the job's grids place nothing more, and Q0's control station injects its markers (R378). -/
def execCut (r : MReq) (seqs : List Dword) (num : BitVec 16) (s : State) : Out :=
  s.managePart r 0x40 0 fun _ s =>
    let grids := seqs.filterMap fun q => (s.gridSeq r.part q).map Prod.fst
    if seqs.isEmpty || 8 < seqs.length then s.answerReq r 0x40 4
    else if grids.length < seqs.length || s.cuts.any fun k => k.num == num then s.answerReq r 0x40 4
    else
      let s := grids.foldl (fun s g => s.updGrid g fun g => { g with suspended := true }) (s.reply r 0x40 1 [])
      let s := (List.range 4).foldl (fun s d => s.raise d) s
      .next { s with cuts := s.cuts ++ [({ req := r, part := r.part, grids, num, met := [(64, s.nextId)] } : Cut)] }
/-- A packet sent before a station's marker is still on its way from it to another. -/
def State.beforeMarker (s : State) (src dst mark : Nat) : Bool :=
  s.packets.any fun e => e.1 < mark && (match e.2.legs.head? with
    | some leg => leg.ends == (src, dst)
    | none => false)
/-- CUT_MARKER_RECEIVE: a source's marker reaches a station, behind what the source sent before it; at its first marker the
station stops the job's groups on its core and injects its own (R378). -/
def execCutMarkerReceive (die : Die) (station : Nat) (src : Nat) (num : BitVec 16) (s : State) : Out :=
  let here := 72 * die.val + station
  match s.cuts.findIdx? fun k => k.num == num with
  | none => .next s
  | some i =>
    match s.cuts[i]?.bind fun k => k.met.find src with
    | none => .next s
    | some mark =>
      let known := ((s.cuts[i]?).map fun k => k.closed.contains (here, src)).getD true
      if 72 ≤ station || known || !(cutSources die.val station).contains src || s.beforeMarker src here mark then .next s
      else
        let first := ((s.cuts[i]?).map fun k => (k.met.find here).isNone).getD false
        let grids := ((s.cuts[i]?).map Cut.grids).getD []
        let s := if first then s.stopJob grids here else s
        .next { s with cuts := s.cuts.modify i fun k => { k with
          met := if first then k.met.put here s.nextId else k.met, closed := k.closed ++ [(here, src)] } }
/-- Every station's cut is complete (R380). -/
def State.cutDone (s : State) (k : Cut) : Bool :=
  ((List.range 4).all fun d => (List.range 72).all fun a =>
    (k.met.find (72 * d + a)).isSome && (cutSources d a).all fun b => k.closed.contains (72 * d + a, b)) &&
  (s.teams.all fun t => !k.grids.contains t.2.grid || s.engineIdle t) &&
  s.reqs.all fun e => !e.2.kind.writes || s.heldReqs.contains e.1 || !(s.reqGrid e.1).any fun g => k.grids.contains g
/-- CUT_COMPLETE: Q0's control core reports the cut; the job's teams are then saved (R380; 21 R424). -/
def execCutComplete (num : BitVec 16) (s : State) : Out :=
  match s.cuts.find? fun k => k.num == num with
  | none => .next s
  | some k =>
    if !k.complete && s.cutDone k then
      let cuts := s.cuts.map fun (c : Cut) => { c with complete := c.complete || c.num == num }
      .next ({ s with cuts }.alert 2 k.req.id 0 0x40 0).pruneStops
    else .next s

/-! ### The Ebb engine (R385 to R388) -/

/-- MIGRATION_SESSION: one session at a time; a package whose own address is the destination receives (R385; 21 R416). -/
def execMigrationSession (r : MReq) (e : EbbSetup) (s : State) : Out :=
  s.manage r 0x41 false 0 fun s =>
    let source := !s.ueAddr.contains e.dest
    if 16 ≤ e.part then s.answerReq r 0x41 3
    else if s.ebb.isSome || (source && (s.part e.part).isNone) then s.answerReq r 0x41 4
    else .next { (s.reply r 0x41 1 []) with ebb := some { setup := e, req := r, isSource := source } }
/-- The assigned regions of a partition, as PA[39:30] (R386). -/
def State.regionsOf (s : State) (part : Nat) : List Nat :=
  (List.range 1024).filter fun i => let e := s.region (i * 2 ^ 30); regionAssigned e && regionPart e == part
/-- The engine's accesses to n bytes of physical memory under an identifier can be made now (R386; 11 R245; 04 R76). -/
def State.ebbReady (s : State) (part pa key n : Nat) : Bool :=
  (piecesOf 256 pa n).all fun p => s.homeReady part p.2.1 key p.2.2 && s.wayOpen part (72 * (s.home p.2.1 / 64) + ioStation) p.2.1
/-- Reads n bytes of physical memory under an identifier, by lines (R386). -/
def State.readPhys (s : State) (pa key n : Nat) : State × List Byte :=
  (piecesOf 256 pa n).foldl (fun (acc : State × List Byte) p =>
    let (s, b, _) := acc.1.readHome p.2.1 key p.2.2
    (s, acc.2 ++ b)) (s, [])
/-- Address of a region's dirty bitmap (03 R67). -/
def State.bitmapAt (s : State) (region : Nat) : Nat := ((s.region (region * 2 ^ 30)).extractLsb' 15 25).toNat * 2 ^ 15
/-- The granules whose bits are set in a region's bitmap (03 R67). -/
def State.dirtyGranules (s : State) (region : Nat) : State × List Nat :=
  let (s, bs) := s.readPhys (s.bitmapAt region) 0 32768
  (s, (bs.zipIdx).flatMap fun e => ((List.range 8).filter fun i => e.1.getLsbD i).map fun i => 8 * e.2 + i)
/-- Clears a region's bitmap (03 R69). -/
def State.clearBitmap (s : State) (region : Nat) : State :=
  (piecesOf 128 (s.bitmapAt region) 32768).foldl (fun s p => s.pokeHome p.2.1 (List.replicate p.2.2 0#8)) s
/-- The identifier of a 2 MiB block (R385). -/
def ebbKey (e : EbbSetup) (pa : Nat) : Nat := ((e.keyMap.find? fun k => k.1 == pa / 2 ^ 21).map Prod.snd).getD 0
/-- The 32 bytes of a message's header (R387). -/
def ebbHeader (e : Ebb) (type key count region off : Nat) : List Byte :=
  bytesOfNat 1 type ++ [0#8] ++ bytesOfNat 2 key ++ bytesOf e.setup.session ++ bytesOfNat 4 e.pass ++ bytesOfNat 4 count ++
    bytesOfNat 8 e.seq ++ bytesOfNat 4 region ++ bytesOfNat 4 off
/-- The initial vector: the salt followed by the sequence number (R387). -/
def ebbIv (e : EbbSetup) (seq : Nat) : List Byte := bytesOf e.salt ++ bytesOfNat 8 seq
/-- Sends a message of the session: header, enciphered payload and tag (R387). -/
def State.ebbSend (s : State) (type key count region off : Nat) (payload : List Byte) : State :=
  match s.ebb with
  | none => s
  | some e =>
    let h := ebbHeader e type key count region off
    let (ct, tag) := gcmSeal e.setup.migKey (ebbIv e.setup e.seq) h payload
    { s with ebb := some { e with seq := e.seq + 1, unacked := e.seq :: e.unacked } }.emit (.migration (h ++ ct ++ tag))
/-- Copies a region in a pass: the atomic read-and-clear of its bitmap, and one message for each granule (R386; 03 R69). -/
def State.ebbRegion (s : State) (region : Nat) : State :=
  let (s, gs) := s.dirtyGranules region
  let s := s.clearBitmap region
  let s := gs.foldl (fun s g =>
    let pa := region * 2 ^ 30 + g * 4096
    let key := ((s.ebb).map fun e => ebbKey e.setup pa).getD 0
    let (s, bs) := s.readPhys pa key 4096
    s.ebbSend 1 key 4096 region (g * 4096) bs) s
  { s with ebb := s.ebb.map fun (e : Ebb) => { e with sentInPass := e.sentInPass + gs.length, scanned := e.scanned ++ [region] } }
/-- A region can be copied now: its bitmap and the granules that it marks can be read (11 R245; 04 R76). -/
def State.regionReady (s : State) (e : EbbSetup) (region : Nat) : Bool :=
  s.ebbReady e.part (s.bitmapAt region) 0 32768 && (s.dirtyGranules region).2.all fun g =>
    let pa := region * 2 ^ 30 + g * 4096
    s.ebbReady e.part pa (ebbKey e pa) 4096
/-- A pass is over: its end is sent (R387). -/
def State.endPass (s : State) : State :=
  match s.ebb with
  | none => s
  | some e => s.ebbSend 3 0 0 0 e.sentInPass []
/-- The last pass begins: the first one where no pre-copy ran (R386, R388). -/
def Ebb.lastPass (e : Ebb) : Ebb := { e with pass := if e.scanned.isEmpty then e.pass else e.pass + 1, sentInPass := 0, scanned := [], final := true }
/-- The next pass begins (R386). -/
def Ebb.nextPass (e : Ebb) : Ebb := { e with pass := e.pass + 1, sentInPass := 0, scanned := [] }
/-- EBB_PASS: one region of the source partition in a pass; the last region ends the pass. A region that the pass has done
belongs to the next pass, which begins once the destination has acknowledged every message of this one (R386; log 11). -/
def execEbbPass (region : Nat) (s : State) : Out :=
  match s.ebb with
  | none => .next s
  | some e =>
    let all := s.regionsOf e.setup.part
    if !e.isSource || e.final || !all.contains region then .next s
    else
      let over_ := all.all fun x => e.scanned.contains x
      if (e.scanned.contains region && !(over_ && e.unacked.isEmpty)) || !s.regionReady e.setup region then .next s
      else
        let s := { s with ebb := some (if over_ then e.nextPass else e) }
        let s := s.ebbRegion region
        .next (if all.all fun x => ((s.ebb.map Ebb.scanned).getD []).contains x then s.endPass else s)
/-- The session aborts, its alert says why, and the other package is told (R387; 21 R424). -/
def State.ebbAbort (s : State) (e : Ebb) (why : Nat) (seq : Dword) : State :=
  (({ s with ebb := none }.emit (.migrationAbort e.setup.session)).alert 8 0 e.setup.session (BitVec.ofNat 32 why) seq).alert 2 e.req.id 4
    0x41 0
/-- The destination has acknowledged a message of the session (R386). -/
def State.ebbAcked (s : State) (seq : Dword) : State :=
  { s with ebb := s.ebb.map fun e => { e with unacked := e.unacked.erase seq.toNat } }
/-- The other package has aborted the session: it ends here too, with its alert (R387; 21 R424; log 11). -/
def State.ebbAborted (s : State) (session : Word) : State :=
  match s.ebb with
  | some e =>
    if e.setup.session = session then
      ({ s with ebb := none }.alert 8 0 session 1#32 (BitVec.ofNat 64 e.seq)).alert 2 e.req.id 4 0x41 0
    else s
  | none => s
/-- A message as its header describes it, its reserved fields apart, and its payload deciphered; none when its tag fails or it is too
short to have one (R387). -/
structure EbbMsg where
  type : Nat
  key : Nat
  session : Word
  pass : Nat
  count : Nat
  seq : Dword
  region : Nat
  off : Nat
  resv : Bool
  payload : Option (List Byte)
  deriving DecidableEq, Repr
/-- Reads a message under a session's key (R387). -/
def ebbRead (e : EbbSetup) (m : List Byte) : EbbMsg :=
  let h := m.take 32
  let n := fun o k => natOfBytes ((h.drop o).take k)
  let ct := (m.drop 32).take (m.length - 48)
  { type := n 0 1, key := n 2 2, session := BitVec.ofNat 32 (n 4 4), pass := n 8 4, count := n 12 4, seq := BitVec.ofNat 64 (n 16 8)
    region := n 24 4 % 2 ^ 10, off := n 28 4 % 2 ^ 30, resv := n 1 1 != 0 || n 24 4 / 2 ^ 10 != 0 || n 28 4 / 2 ^ 30 != 0
    payload := if m.length < 48 then none else gcmOpen e.migKey (ebbIv e (n 16 8)) h ct (m.drop (m.length - 16)) }
/-- A header is valid for its type, and the payload as long as it says (R387). -/
def ebbHeaderOk (m : EbbMsg) (e : Ebb) : Bool :=
  !m.resv && m.session == e.setup.session && (m.payload.map List.length) == some m.count && (match m.type with
    | 1 => m.count == 4096 && m.off % 4096 == 0 && e.setup.regionMap.any fun x => x.1 == m.region
    | 2 => m.key == 0 && 1 ≤ m.count && m.count ≤ 4096 && m.off == 0
    | 3 => m.key == 0 && m.count == 0
    | _ => false)
/-- A scoreboard as it arrives: a number of the destination partition, and no clock of the source package (R388; 07 R158; 17 R329). -/
def Refine.arrive (q : Refine) (num : Nat) : Refine :=
  { q with
    num
    tiles := q.tiles.map fun e => (e.1, { e.2 with clk := {} })
    fired := q.fired.map fun f => { f with clk := {} }
    ev := q.ev.map fun e => (e.1, match e.2 with
      | .pub tile fin reply _ => .pub tile fin reply {}
      | v => v) }
/-- A grid that arrives is a grid of the destination partition with its own number and sequence number, and a refinement grid with a
number that no grid there uses (R388; 17 R329; 18 R347). -/
def State.adoptGrid (s : State) (part : Nat) (g : Grid) : Nat × State :=
  let (n, s) := s.fresh
  let seq := ((s.part part).map Part.seq).getD 0
  let num := (s.freeNums part).headD 0
  let s := s.updPart part fun p => { p with seq := p.seq + 1 }
  (n, { s with grids := s.grids.put n { g with
    part, seq, saved := [], suspended := false, vacated := [], vc := {}, startClk := {}, barClk := {}
    refine := g.refine.map fun q => q.arrive num } })
/-- A group as it arrives: the clocks of its source package mean nothing here (07 R158). -/
def Group.arrive (g : Group) (tid gridid : Nat) : Group :=
  { g with
    team := tid, gridid := BitVec.ofNat 32 gridid, vc := {}, obs := {}, cc := {}, mustSee := {}, readFrom := []
    arr := g.arr.map fun e => (e.1, { e.2 with owed := [], clk := e.2.clk.map fun _ => {}, rel := {} })
    wait := match g.wait with
      | .object ws => .object (ws.map fun w => { w with clk := {} })
      | w => w }
/-- A held packet as it arrives. -/
def Chan.arrive (c : Chan) (tid grid : Nat) : Chan :=
  match c with
  | .access r => .access { r with
      team := tid, grid, cc := {}, wclk := {}, own := {}, unsettled := [], found := none
      rel := r.rel.map fun x => { x with team := tid, grid } }
  | .update u => .update u
/-- A job can be taken in: the partition has numbers for its refinement grids (17 R329). -/
def State.jobFits (s : State) (part : Nat) (j : Job) : Bool := j.grids.countP (fun g => g.refine.isSome) ≤ (s.freeNums part).length
/-- Takes in a job that has arrived: its grids, and each cluster's teams as a stream to be placed, whose clocks are set at its restore
(R384, R388; 07 R158). -/
def State.adoptJob (s : State) (part : Nat) (j : Job) : State :=
  let (s, ids) := j.grids.foldl (fun (acc : State × List Nat) g =>
    let (n, s) := acc.1.adoptGrid part g
    (s, acc.2 ++ [n])) (s, [])
  j.teams.foldl (fun s v =>
    let grid := (ids[v.team.grid]?).getD 0
    let (tid, s) := s.fresh
    let t := { v.team with grid, check := none, role := 0, band := none, objClk := [], held := [] }
    let num := (((s.grid grid).bind Grid.refine).map Refine.num).getD 0
    let v := { v with
      tid, team := t, moved := true, job := some j.head.cut, channel := v.channel.map fun e => (e.1, e.2.arrive tid grid)
      groups := v.groups.map fun e => (e.1, e.2.arrive tid num) }
    let (key, s) := match s.streamFor t none with
      | some k => (k, s)
      | none => let (n, s) := s.fresh; (preemptKey n, s)
    let st := (s.streams.find key).getD { part, grid }
    { s with streams := s.streams.put key { st with teams := st.teams ++ [v] } }.updGrid grid fun g =>
      { g with saved := if g.saved.contains key then g.saved else g.saved ++ [key] }) s
/-- The destination partition of a session: the owner of a mapped region. -/
def State.ebbPart (s : State) (e : Ebb) : Nat := ((e.setup.regionMap.head?).map fun m => regionPart (s.region (m.2 * 2 ^ 30))).getD 31
/-- The chunks of the record stream that have come, in their order, as far as they follow one another (R387). -/
def chunksSoFar (m : Tab (List Byte)) : List Byte :=
  let cs := sortBy (fun a b => a.1 ≤ b.1) m
  match cs with
  | [] => []
  | (k, _) :: _ => ((cs.zipIdx).takeWhile fun e => e.1.1 == k + e.2).flatMap fun e => e.1.2
/-- EBB_MESSAGE_RECEIVE: the destination deciphers and checks a message and places its granule, keeps its piece of the record stream,
or compares a pass's count; a failure aborts the session. A sequence number is accepted once; its acknowledgement is repeated
(R387). The job waits for refinement grid numbers (17 R329; log 11). -/
def execEbbMessageReceive (header rest : List Byte) (s : State) : Out :=
  match s.ebb with
  | none => .next s
  | some e =>
    let m := ebbRead e.setup (header ++ rest)
    match m.payload with
    | none => .next (s.ebbAbort e 1 m.seq)
    | some bs =>
      if !ebbHeaderOk m e then .next (s.ebbAbort e 3 m.seq)
      else if e.isSource then .next s
      else if e.accepted.contains m.seq.toNat then .next (s.emit (.migrationAck m.seq))
      else
        let e := { e with accepted := m.seq.toNat :: e.accepted }
        let ack := fun (s : State) (e : Ebb) => { s with ebb := some e }.emit (.migrationAck m.seq)
        let placed := e.placed.getD 0 m.pass
        match m.type with
        | 1 =>
          let dst := ((e.setup.regionMap.find? fun x => x.1 == m.region).map Prod.snd).getD 0
          let pa := dst * 2 ^ 30 + m.off
          if !s.ebbReady (s.ebbPart e) pa m.key 4096 then .next s
          else
            let s := (s.machineWrite (s.ebbPart e) pa m.key 0 bs {} none).1
            .next (ack s { e with placed := e.placed.setD 0 m.pass (placed + 1) })
        | 3 => if placed = m.off then .next (ack s e) else .next (s.ebbAbort e 2 m.seq)
        | _ =>
          let e := { e with stream := e.stream.put m.seq.toNat bs }
          match (readStream (chunksSoFar e.stream)).map jobOf with
          | none => .next (ack s e)
          | some none => .next ({ (ack s e) with ebb := none }.alert 2 e.req.id 4 0x41 0)
          | some (some j) =>
            if !s.jobFits (s.ebbPart e) j then .next s
            else .next (({ (ack s e) with ebb := none }.adoptJob (s.ebbPart e) j).alert 2 e.req.id 0 0x41 0)
/-- The job that the source's final copy sends: the suspended grids of the partition and their saved teams, by whatever stop each was
saved (R388). -/
def State.jobOfPart (s : State) (part : Nat) : Job :=
  let gs := s.grids.filter fun e => e.2.part == part && e.2.suspended
  let ix := fun (n : Nat) => (gs.findIdx? fun e => e.1 == n).getD 0
  let sts := (gs.flatMap fun e => e.2.saved).filterMap s.streams.find
  let ts := sts.flatMap Stream.teams
  { head := s.streamHead part (sts.findSome? Stream.cut)
    grids := gs.map Prod.snd, teams := ts.map fun v => { v with team := { v.team with grid := ix v.team.grid } } }
/-- The chunks of a record stream: at most 4 KiB each (R387). -/
def chunksOf (bs : List Byte) : List (List Byte) := (List.range ((bs.length + 4095) / 4096)).map fun i => (bs.drop (4096 * i)).take 4096
/-- EBB_FINAL_COPY: once a cut has stopped the job and its teams are saved, a last pass copies every bit still set, after the
job's checked runs were released unchecked (log 11); then the late writes are counted and the context stream is sent, which ends the session (R388). -/
def execEbbFinalCopy (s : State) : Out :=
  match s.ebb with
  | none => .next s
  | some e =>
    let part := e.setup.part
    let stopped := (s.grids.any fun g => g.2.part == part && g.2.suspended) &&
      (s.teams.all fun t => !((s.grid t.2.grid).any fun g => g.part == part && g.suspended)) && s.cuts.all fun k => k.part ≠ part
    let done := (s.regionsOf part).all fun x => e.scanned.contains x
    if !e.isSource || !stopped || !(s.regionsOf part).all fun x => s.regionReady e.setup x then .next s
    else if !e.final && !((e.scanned.isEmpty || done) && e.unacked.isEmpty) then .next s
    else if !e.final then
      let mine := s.checks.filter fun k => (s.grid k.2.grid).any fun g => g.part == part && g.suspended
      if !mine.all fun k => s.releasable k.1 then .next s
      else
      let s := mine.foldl (fun s k => s.releaseUnchecked k.1) s
      let s := { s with ebb := some e.lastPass }
      .next ((s.regionsOf part).foldl (fun s x => s.ebbRegion x) s).endPass
    else
      let (s, late) := (s.regionsOf part).foldl (fun (acc : State × Nat) x =>
        let (s, gs) := acc.1.dirtyGranules x
        (s, acc.2 + gs.length)) (s, 0)
      let s := (chunksOf (s.jobOfPart part).bytes).foldl (fun s c => s.ebbSend 2 0 c.length 0 0 c) s
      .next (({ s with ebb := none }.emit (.firmware "late writes" late)).alert 2 e.req.id 0 0x41 0)

end Sys2Proof.Machine
end

