-- ==== Sys2Proof/Machine/Power.lean ====
section
/-! DEFINITION. Power and the grid (20): bias domains, boost permits, telemetry and droop curves, shedding and restoration, caps and
duty; and the thermal limits (21 R423). -/

namespace Sys2Proof.Machine

/-! ### Bias domains (R389 to R391) -/

/-- A domain holds a resident group. -/
def State.occupied (s : State) (dom : Nat) : Bool := s.groups.any fun e => !e.2.priv && domainOf (coreOf e.1) == dom
/-- DOMAIN_IDLE_ENTER: firmware, while the domain holds no resident group (R390). -/
def execDomainIdleEnter (dom : Nat) (s : State) : Out :=
  if 16 ≤ dom || !s.fwRuns || (s.domain dom).st = 3 || s.occupied dom then .next s
  else .next (s.updDomain dom fun d => { d with st := 3, claimed := false, answered := false, granted := false, fall := false })
/-- DOMAIN_WAKE: back to nominal; its interval starts at a boundary (R390). -/
def execDomainWake (dom : Nat) (s : State) : Out :=
  if (s.domain dom).st = 3 then .next (s.updDomain dom fun d => { d with st := 0, idleSoFar := true }) else .next s
/-- DIE_SUPPLY_CHANGE: write-assist below 0.70 V (R391). -/
def execDieSupplyChange (die : Die) (millivolts : Nat) (s : State) : Out :=
  .next (s.updDie die.val fun d => { d with lowV := decide (millivolts < 700) })

/-! ### Boost permits (R393 to R396) -/

/-- The partition of a domain. -/
def State.partOfDomain (s : State) (dom : Nat) : Option Nat := (s.parts.find? fun p => p.2.domains.getLsbD dom).map Prod.fst
/-- BOOST_CLAIM: a domain claims boost for the next interval (R393). -/
def execBoostClaim (dom : Nat) (s : State) : Out :=
  let d := s.domain dom
  let p := s.power
  let wants := s.groups.any fun e => !e.2.priv && domainOf (coreOf e.1) == dom && p.boostClass ≤ e.2.pclass && d.allowed ≤ e.2.pclass
  let enabled := (s.partOfDomain dom).any fun n => p.boostEnable.testBit n
  if dom < 16 && d.st != 3 && !d.claimed && enabled && p.poolSize != 0 && wants && !p.refuse then
    .next (s.updDomain dom fun d => { d with claimed := true, answered := false, granted := false })
  else .next s
/-- The arbiter answers one domain's claim (R394). -/
def State.arbitrate (s : State) (dom : Nat) : State :=
  if 0 < s.power.permits then
    { s with power := { s.power with permits := s.power.permits - 1, lastGranted := dom } }.updDomain dom fun d =>
      { d with answered := true, granted := true }
  else s.updDomain dom fun d => { d with answered := true }
/-- PERMIT_ARBITRATION: the claims that arrived in one arbiter clock, in domain-index order after the last domain granted
(R394). -/
def execPermitArbitration (arrived : BitVec 16) (s : State) : Out :=
  let order := (List.range 16).map fun i => (s.power.lastGranted + 1 + i) % 16
  .next ((order.filter fun k => arrived.getLsbD k && (s.domain k).claimed && !(s.domain k).answered).foldl
    (fun s k => s.arbitrate k) s)
/-- The state of the next interval (R395, R409). -/
def Domain.nextSt (d : Domain) : Nat :=
  if d.st = 2 && d.fall then 0
  else if d.granted then 2
  else if d.st = 2 && d.claimed then 1 else 0
/-- DOMAIN_INTERVAL_BOUNDARY: the domain moves between states, and every 16th idle interval adds a permit; a claim's answer comes
before it (R393, R395, R396). -/
def execDomainIntervalBoundary (dom : Nat) (s : State) : Out :=
  let d := s.domain dom
  if 16 ≤ dom || d.st = 3 || (d.claimed && !d.answered) then .next s
  else
    let idle := d.st = 0 && d.idleSoFar && !s.occupied dom
    let count := if idle then d.idleCount + 1 else d.idleCount
    let s := if idle && count % 16 = 0 then
        { s with power := { s.power with permits := min (s.power.permits + 1) s.power.poolSize } }
      else s
    .next (s.updDomain dom fun d => { d with
      st := d.nextSt, claimed := false, answered := false, granted := false, fall := false
      idleSoFar := !s.occupied dom, idleCount := count })

/-! ### Droop curves and the allowed class (R397 to R400) -/

/-- THRESH and CLASS of a point (R399). -/
def pointThresh (w : Word) : Int := (w.extractLsb' 8 24).toInt
def pointClass (w : Word) : Nat := (w.extractLsb' 0 3).toNat
/-- The value of a curve for a deviation with a margin (R399). -/
def curveValue (c : Tab Word) (d h : Int) : Nat :=
  (List.range 16).foldl (fun m i =>
    let p := c.getD 0 i
    if d - h ≤ pointThresh p then max m (pointClass p) else m) 0
/-- A group waits for something else than its restoration (R406). -/
def State.waitsElse (s : State) (gid : Nat) (g : Group) : Bool :=
  (issueOf gid { g with shed := .running, trap := none }).isNone || g.trap.isSome || (match g.wait with
    | .object ws => !ws.all fun v => v.status.isSome
    | .sequencer v => v.isNone
    | .writeBack l => !l.isEmpty
    | .taskUnit ans n => ans.length < n
    | .mmas r started => r.isNone && !started
    | .slack => !((s.refineOf g).map Refine.slack).getD true
    | _ => false)
/-- A resident group meets a new allowed class: shed ones are marked, and those at or above it that were shed lose the mark when
they wait for something else or run (R402, R406). -/
def State.meetClass (s : State) (gid a : Nat) (g : Group) : Group :=
  if g.priv then g
  else if g.pclass < a then { g with shed := if g.shed = .running then .marked else g.shed }
  else if g.shed = .marked || (s.waitsElse gid g && g.opened.isEmpty) then { g with shed := .running } else g
/-- A group that the restoration appends to its domain's release queue (R406). -/
def State.restores (s : State) (gid a : Nat) (g : Group) (relq : List Nat) : Bool :=
  !g.priv && a ≤ g.pclass && !relq.contains gid &&
    ((g.shed != .running && g.shed != .marked && !s.waitsElse gid g) || !g.opened.isEmpty)
/-- The groups to restore, in descending class, then ascending core and slot (R406). -/
def State.restored (s : State) (a : Nat) : List Nat :=
  (sortBy (fun x y => y.2.pclass < x.2.pclass || (x.2.pclass == y.2.pclass && x.1 ≤ y.1))
    (s.groups.filter fun e => s.restores e.1 a e.2 (s.domain (domainOf (coreOf e.1))).relq)).map Prod.fst
/-- The allowed class takes a value, and every domain its copy: groups are shed or restored (R400 to R402, R406). -/
def State.setAllowed (s : State) (a us : Nat) : State :=
  if a = s.power.allowed then s
  else
    let back := s.restored a
    let s := { s with
      power := { s.power with allowed := a, lastChange := us }
      groups := s.groups.map fun e => (e.1, s.meetClass e.1 a e.2) }
    let s := (List.range 16).foldl (fun s n => s.updDomain n fun d => { d with allowed := a }) s
    let s := (List.range 4).foldl (fun s d => s.raise d) s
    back.foldl (fun s gid => s.updDomain (domainOf (coreOf gid)) fun d => { d with
      relq := d.relq ++ List.replicate (max 1 ((s.grp gid).elim 0 fun g => g.opened.length)) gid }) s
/-- A frame is valid (R397). -/
def Frame.ok (f : Frame) (p : Power) : Bool :=
  f.fcs && f.src == p.shelfSrc && f.etherType == p.shelfType && !f.resv && 40000 ≤ f.freq && f.freq ≤ 70000 &&
    10000 ≤ f.volt && f.volt ≤ 60000
/-- GAPS after a valid frame (R397). -/
def Power.countGap (p : Power) (n : BitVec 16) : Power :=
  match p.lastSeq with
  | none => { p with lastSeq := some n, tloss := false }
  | some q =>
    let g := (n - q - 1#16).toNat
    { p with lastSeq := some n, tloss := false, gaps := if g < 32768 then min (p.gaps + g) 0xFFFF else p.gaps }
/-- The strict class of a frame, and its release class (R399). -/
def Power.strict (p : Power) (f : Frame) : Nat :=
  max (curveValue p.freqCurve ((f.freq : Int) - p.nomFreq) 0) (curveValue p.voltCurve ((f.volt : Int) - p.nomVolt) 0)
def Power.release (p : Power) (f : Frame) : Nat :=
  max (curveValue p.freqCurve ((f.freq : Int) - p.nomFreq) 50) (curveValue p.voltCurve ((f.volt : Int) - p.nomVolt) p.voltHyst)
/-- TELEMETRY_FRAME: `us` is the time of its arrival in microseconds (R397, R398, R400; log 13). -/
def execTelemetryFrame (f : Frame) (us : Nat) (s : State) : Out :=
  if !Frame.ok f s.power then .next s
  else
    let p := s.power.countGap f.seq
    let s := { s with power := p }
    let hi := p.strict f
    let lo := p.release f
    if p.allowed < hi then .next (s.setAllowed hi us)
    else if lo < p.allowed && p.lastChange + 20000 ≤ us then .next (s.setAllowed lo us)
    else .next s
/-- TELEMETRY_LOSS: no valid frame has arrived for the loss timeout (R398; 21 R424). -/
def execTelemetryLoss (us : Nat) (s : State) : Out :=
  if s.power.tloss then .next s
  else
    let s := { s with power := { s.power with tloss := true, lastSeq := none } }.alert 5 0 0 0 0
    .next (if s.power.lossClass ≤ 7 then s.setAllowed s.power.lossClass us else s)
/-- A forced group that is inside no instruction is parked (R402). -/
def Group.parkForced (g : Group) : Group := if g.shed = .forced && g.pin.isNone then { g with shed := .parked } else g
/-- Every forced group that has come to an instruction boundary is parked there (R402). -/
def State.parkForced (s : State) : State := { s with groups := s.groups.map fun e => (e.1, e.2.parkForced) }
/-- SHED_FORCE: 200 µs after it was marked, a group issues nothing more: it is parked at once, or at the end of the instruction that it is
inside (R402). -/
def execShedForce (gid : Nat) (s : State) : Out :=
  .next (s.updGrp gid fun g => (if g.shed = .marked then { g with shed := .forced } else g).parkForced)

/-! ### Caps, floors and duty (R408, R409) -/

/-- The effective cap (R408). -/
def Power.effCap (p : Power) : Nat := max p.cap 340
/-- The floors as used (R408). -/
def Power.floorSum (p : Power) : Nat := ((List.range 16).map fun i => p.floors.getD 0 i).sum
def Power.effFloor (p : Power) (part : Nat) : Nat :=
  let f := p.floors.getD 0 part
  if p.effCap < p.floorSum then f * p.effCap / p.floorSum else f
/-- Every partition's duty changes. -/
def State.mapDuty (s : State) (f : Nat → Nat → Nat) : State := { s with parts := s.parts.map fun e => (e.1, { e.2 with duty := f e.1 e.2.duty }) }
/-- POWER_CONTROL_STEP: the mean package power over the step and its attribution to partitions (R409; log 13). -/
def execPowerControlStep (total : Nat) (attributed : List Nat) (s : State) : Out :=
  let p := s.power
  let cap := p.effCap
  let high := cap < total
  let again := high && p.overLast
  let above := fun (n : Nat) => p.effFloor n < attributed.getD n 0
  let s := { s with power := { p with refuse := high, overLast := high } }
  if high then
    let fall := fun (s : State) (n : Nat) => s.updDomain n fun d => { d with fall := d.fall || d.st == 2 }
    let s := (List.range 16).foldl fall s
    if again then
      let s := s.mapDuty fun n d => if above n then max (d - 1) 4 else d
      if s.parts.all fun e => !above e.1 || e.2.duty == 4 then
        .next (({ s with power := { s.power with capHit := true } }.mapDuty fun _ _ => 4).alert 6 0 4 0 0)
      else .next s
    else .next s
  else if total * 100 ≤ cap * 95 then .next (s.mapDuty fun _ d => min (d + 1) 16)
  else .next s

/-! ### Thermal limits (21 R423) -/

/-- The state right after a reset: only the fused values and what has left the package are kept, and identifier 0 has a new key pair
(21 R422; 03 R62). -/
def State.afterReset (s : State) (phase : BootPhase) : State :=
  { State.reset with agenda := s.agenda, out := s.out, fusedMin := s.fusedMin, freeCtr := s.freeCtr, boot := s.boot + 1, phase }
/-- THERMAL_THROTTLE (21 R423, R424). -/
def execThermalThrottle (die : Die) (temp : Nat) (s : State) : Out :=
  if 105 < temp && !(s.die die.val).hot then
    .next ((s.updDie die.val fun d => { d with hot := true }).alert 7 0 (BitVec.ofNat 32 die.val) (BitVec.ofNat 32 temp) 0)
  else .next s
/-- THERMAL_RECOVER (21 R423). -/
def execThermalRecover (die : Die) (temp : Nat) (s : State) : Out :=
  if temp < 100 then .next (s.updDie die.val fun d => { d with hot := false }) else .next s
/-- THERMAL_TRIP: the part holds itself in reset and signals the shelf (21 R423). -/
def execThermalTrip (_die : Die) (temp : Nat) (s : State) : Out :=
  if 115 ≤ temp then .next ((s.afterReset .tripped).emit .thermalTrip) else .next s

end Sys2Proof.Machine
end

