-- ==== Sys2Proof/Machine/Sched.lean ====
section
/-! DEFINITION. Scheduling: doorbells and dispatch (18 R344 to R348), reservations (12 R261), candidates and placement (18 R350 to
R354; 19 R376), the compactor (18 R355, R356), and the starts of bin groups and overflow groups (17 R322 to R324). -/

namespace Sys2Proof.Machine

/-! ### Doorbells (R345) -/

/-- The records a queue holds that have not been dispatched. -/
def HQueue.count (q : HQueue) : Nat := (q.tail - q.head).toNat
/-- The check of TAIL against the ring's size: a queue that is enabled and holds too many records stops (R345). -/
def State.checkTail (s : State) (part queue : Nat) : State :=
  let q := s.hqueue part queue
  if q.en && !q.stopped && q.size < q.count then s.stopQueue part queue 1 else s
/-- A doorbell's word is written: TAIL is recorded, with what the host and the part have written in the partition before it (07 R155);
one that leaves it unchanged does nothing (R345). -/
def State.ring (s : State) (part queue : Nat) (val : Dword) : State :=
  let tail : BitVec 32 := val.extractLsb' 0 32
  if (s.hqueue part queue).tail = tail then s
  else (s.updQueue part queue fun q => { q with tail, clk := ((s.part part).map Part.clk).getD {} }).checkTail part queue
/-- The first byte of a partition's doorbell page (21 R427). -/
def pageBase (part : Nat) : Nat := 8192 * Config.doorbellPage part % 2 ^ 64
/-- Bytes are written at an offset of a partition's doorbell page: the doorbell of queue n is the word at 8n, which holds TAIL, and
of a word written in part the other bytes stay (R345; log 12). -/
def State.ringBytes (s : State) (part off : Nat) (bytes : List Byte) : State :=
  (List.range 64).foldl (fun s n =>
    if off < 8 * n + 8 && 8 * n < off + bytes.length then
      let old := bytesOfNat 8 (s.hqueue part n).tail.toNat
      let new := (List.range 8).map fun i =>
        if off ≤ 8 * n + i then bytes.getD (8 * n + i - off) (old.getD i 0) else old.getD i 0
      s.ring part n (BitVec.ofNat 64 (natOfBytes new))
    else s) s
/-- The partition that a ready data queue pair belongs to (21 R412). -/
def State.qpPart (s : State) (qp : Nat) : Option Nat :=
  (s.qps.find qp).bind fun q => if q.st = .ready then some q.part else none
/-- The queue whose doorbell a host write of 8 bytes rings: a ready data queue pair of the partition, the page's address and key
(R345; 21 R412, R427). -/
def State.doorbellOf (s : State) (qp : Nat) (rem : Remote) : Option (Nat × Nat) :=
  (s.qpPart qp).bind fun part =>
    let off := rem.va.toNat - pageBase part
    if rem.rkey = Config.doorbellKey part && pageBase part ≤ rem.va.toNat && off < 512 && off % 8 = 0 then some (part, off / 8) else none
/-- DOORBELL_WRITE (R345). -/
def execDoorbellWrite (qp : Nat) (rem : Remote) (val : Dword) (s : State) : Out :=
  match s.doorbellOf qp rem with
  | none => .next s
  | some (part, queue) => .next (s.ring part queue val)

/-! ### Dispatch (R347, R348) -/

/-- Slots of a partition, and the slots and quota a grid reserves (12 R261). -/
def State.partSlots (s : State) (part : Nat) : Nat := 32 * (s.partCores part).length
def slotsFor (level slots : Nat) : Nat :=
  if level = 0 then 0 else (slots * 2 ^ level + (2 ^ 7 + 2 ^ level - 1)) / (2 ^ 7 + 2 ^ level)
/-- The device launch queue's number among a partition's queues. -/
def devQueue : Nat := 64
/-- The record at the head of a queue: a read that fails is none (R345). -/
def State.headRecord (s : State) (part queue : Nat) : State × Option (LaunchRec × Nat) :=
  if queue = devQueue then
    (s, (((s.part part).map Part.devq).getD []).head?.map fun d => (d.recd, d.evQueue))
  else
    let q := s.hqueue part queue
    let va := q.ring + BitVec.ofNat 64 (64 * (q.head.toNat % q.size))
    if classify va ≠ .global then (s, none)
    else match s.partRead part va 64 with
      | (s, some b) => (s, some (LaunchRec.ofBytes b, queue))
      | (s, none) => (s, none)
/-- The head's entry can be read now (11 R245; 04 R76). -/
def State.headReady (s : State) (part queue : Nat) : Bool :=
  let q := s.hqueue part queue
  let va := q.ring + BitVec.ofNat 64 (64 * (q.head.toNat % q.size))
  queue = devQueue || classify va ≠ .global || s.partReady part va 64 needRead
/-- A queue's level, when it has a record to dispatch. -/
def State.queueLevel (s : State) (part queue : Nat) : Option Nat :=
  if queue = devQueue then (((s.part part).map Part.devq).getD []).head?.map fun d => d.recd.cls
  else
    let q := s.hqueue part queue
    if q.en && !q.stopped && q.count ≠ 0 then some q.level else none
/-- The queues with pending records in the order in which the dispatcher would serve them: highest level first, then round-robin
after the queue of the level served last (R347). -/
def State.serveOrder (s : State) (part : Nat) : List Nat :=
  let last := ((s.part part).map Part.lastServed).getD []
  let lv := fun q => (s.queueLevel part q).getD 0
  let turn := fun q => (q + 64 - last.getD 64 (lv q)) % 65
  sortBy (fun a b => lv b < lv a || (lv a == lv b && turn a ≤ turn b))
    ((List.range 65).filter fun q => (s.queueLevel part q).isSome)
/-- A record that waits in its queue because all eight refinement grids are in use (17 R329). -/
def State.gridWaits (s : State) (part : Nat) (r : LaunchRec) : Bool := r.isGrid && r.ok && (s.freeNums part).isEmpty
/-- A partition as if nothing were resident in it (R348). -/
def State.emptied (s : State) (part : Nat) : State :=
  let cores := s.partCores part
  { s with
    teams := s.teams.filter fun e => !cores.contains e.2.core
    groups := s.groups.filter fun e => e.2.priv || !cores.contains (coreOf e.1)
    grids := s.grids.filter fun e => e.2.part ≠ part
    domains := s.domains.map fun e => (e.1, { e.2 with st := if e.2.st = 3 then 0 else e.2.st }) }
/-- Places every cluster of a grid at once (R354). -/
def State.placeWhole (s : State) (grid : Nat) (g : Grid) : Option State :=
  let r := g.recd
  (List.range r.clusters.2.2).foldl (fun acc c => acc.bind fun (s : State) =>
    if !s.slotsOpen grid g.part false (r.groups * (r.w * r.h)) then none
    else (s.placeFirst grid (r.need r.groups) r.w r.h).map fun p => s.placeUnit grid (.cluster c) none p) (some s)
/-- Why a record whose format and descriptor are right is refused (R348). -/
def State.refuseMore (s : State) (part : Nat) (r : LaunchRec) (gang : Bool) : Option Nat :=
  let g : Grid := { part, queue := 0, evQueue := 0, seq := 0, recd := r, gang }
  let empty := s.emptied part
  if gang && (({ empty with grids := empty.grids.put 0 g }).placeWhole 0 g).isNone then some 0x04
  else if gang && r.redund ≠ 0 then some 0x05
  else if s.partSlots part < slotsFor r.redund (s.partSlots part) || 4 < quotaOf r.redund then some 0x06
  else none
/-- A refused record: its completion record where that translates and can be written, and event kind 0 (R348, R349). -/
def State.refuseRecord (s : State) (part queue evQueue seq reason : Nat) (r : LaunchRec) : State :=
  let s := if classify r.complAddr = .global then
      s.writeCompletion part r.complAddr (BitVec.ofNat 32 (3 + 256 * reason)) (completionBody queue seq {} []) {}
    else s
  s.post part evQueue 0 (BitVec.ofNat 32 reason) seq
/-- Takes the record of a queue: HEAD or the device queue moves on, and the partition's next sequence number is assigned (R347). -/
def State.takeRecord (s : State) (part queue : Nat) : State × Nat :=
  let seq := ((s.part part).map Part.seq).getD 0
  let level := (s.queueLevel part queue).getD 0
  let s := s.updPart part fun p => { p with
    seq := p.seq + 1, lastServed := p.lastServed.setD 64 level queue, devq := if queue = devQueue then p.devq.drop 1 else p.devq }
  if queue = devQueue then (s, seq)
  else ((s.updQueue part queue fun q => { q with head := q.head + 1 }).writeHead part queue, seq)
/-- What the record at the head of a queue was written after: the writes by the host and the part before its doorbell or launch (07
R155). -/
def State.headClk (s : State) (part queue : Nat) : Clk :=
  if queue = devQueue then ((((s.part part).map Part.devq).getD []).head?.map DevLaunch.clk).getD {} else (s.hqueue part queue).clk
/-- One record of a queue is refused or becomes an active grid, whose tiles that are due fire (R347, R348; 17 R331). -/
def State.dispatchRecord (s : State) (part queue evQueue : Nat) (r : LaunchRec) : State :=
  let gang := queue ≠ devQueue && (s.hqueue part queue).gang
  let startClk := s.headClk part queue
  let (s, seq) := s.takeRecord part queue
  match s.checkRecord part r with
  | (s, .inl reason) => s.refuseRecord part queue evQueue seq reason r
  | (s, .inr q) => match s.refuseMore part r gang with
    | some reason => s.refuseRecord part queue evQueue seq reason r
    | none =>
      let num := (s.freeNums part).headD 0
      let (n, s) := s.fresh
      { s with grids := s.grids.put n {
          part, queue, evQueue, seq, recd := r, gang, startClk, refine := q.map fun (q : Refine) => ({ q with num } : Refine).fireAll s.power.allowed } }
/-- DISPATCH: one record of the queue whose turn it is; an unreadable entry stops its queue (R345, R347, R348). -/
def execDispatch (part : Nat) (s : State) : Out :=
  if ((s.part part).all fun p => p.destroying.isSome) || 64 ≤ s.grids.countP fun g => g.2.part == part then .next s
  else
    .next ((s.serveOrder part).foldl (fun (acc : State × Bool) q =>
      if acc.2 || !acc.1.headReady part q then (acc.1, true)
      else match acc.1.headRecord part q with
        | (s, none) => (s.stopQueue part q 2, true)
        | (s, some (r, ev)) => if s.gridWaits part r then (s, false) else (s.dispatchRecord part q ev r, true)) (s, false)).1

/-! ### Reservations (12 R261; 18 R350) -/

/-- A grid needs no reservation, or holds it. -/
def Grid.holdsReservation (g : Grid) : Bool := g.recd.redund = 0 || g.reserved
/-- A grid takes its reservations if the partition can still hold them (12 R261). -/
def State.tryReserve (s : State) (n : Nat) (g : Grid) : Option State :=
  let rest := (s.grids.filter fun e => e.2.part == g.part && e.2.reserved && e.1 ≠ n).map Prod.snd
  let total := s.partSlots g.part
  let slots := slotsFor g.recd.redund total
  let quota := quotaOf g.recd.redund
  if slots + (rest.map Grid.slots).sum ≤ total && quota + (rest.map Grid.quota).sum ≤ 4 then
    some (s.updGrid n fun g => { g with reserved := true, slots, quota })
  else none
/-- Grids of a partition in dispatch order. -/
def State.gridsOf (s : State) (part : Nat) : List (Nat × Grid) :=
  sortBy (fun a b => a.2.seq ≤ b.2.seq) (s.grids.filter fun e => e.2.part == part)
/-- Grids take their reservations in dispatch order: one that cannot be met keeps later ones from theirs. -/
def State.reserveAll (s : State) (part : Nat) : State :=
  ((s.gridsOf part).foldl (fun (acc : State × Bool) e =>
    if !acc.2 || e.2.holdsReservation || e.2.ended ≠ .running then acc
    else match acc.1.tryReserve e.1 e.2 with
      | some s => (s, true)
      | none => (acc.1, false)) (s, true)).1

/-! ### Candidates (R350, R351; 12 R260; 17 R333; 19 R376) -/

/-- What waits for a core. -/
inductive Waiting where
  | rerun (check : Nat)
  | fired (f : Fired)
  | cluster (idx : Nat)
  | saved (key : Nat)
  | gang
  deriving DecidableEq, Repr
/-- A candidate: its grid, its class, and its place in the order of R350. -/
structure Candidate where
  grid : Nat
  cls : Nat
  seq : Nat
  kind : Nat
  ix : Nat
  what : Waiting
  deriving DecidableEq, Repr
/-- The order of R350. -/
def Candidate.before (a b : Candidate) : Bool :=
  b.cls < a.cls || (a.cls == b.cls && (a.seq < b.seq || (a.seq == b.seq && (a.kind < b.kind || (a.kind == b.kind && a.ix ≤ b.ix)))))
/-- A unit of work whose next run is queued. -/
def Check.queued (k : Check) : Bool := k.phase = .queueShadow || k.phase = .queueThird
/-- No team of a saved cluster is resident, so it can be placed again as a whole (R352; 19 R376). -/
def State.streamWhole (s : State) (st : Stream) : Bool :=
  !st.teams.isEmpty && s.teams.all fun e => e.2.grid != st.grid || e.2.role ≥ 2 ||
    !(st.teams.any fun v => v.team.cluster == e.2.cluster && v.team.kind == e.2.kind)
/-- A grid's candidates. -/
def State.candidatesOf (s : State) (n : Nat) (g : Grid) : List Candidate :=
  let mk := fun cls kind ix what => ({ grid := n, cls, seq := g.seq, kind, ix, what } : Candidate)
  let cls := g.recd.cls
  let reruns := (s.checks.filter fun e => e.2.grid == n && e.2.queued).map fun e => mk cls 0 e.1 (.rerun e.1)
  let fired := match g.refine with
    | none => []
    | some q => q.fired.map fun f => mk (q.bandClass f.ver) 1 f.num (.fired f)
  let first := if g.gang then (if g.nextCluster = 0 then [mk cls 2 0 .gang] else [])
    else if g.nextCluster < g.recd.clusters.2.2 then [mk cls 2 g.nextCluster (.cluster g.nextCluster)] else []
  let saved := g.saved.filterMap fun k => (s.streams.find k).bind fun st =>
    if 2 ^ 64 ≤ k && s.streamWhole st then
      st.teams.head?.map fun v => match v.team.kind with
        | .tile _ => mk v.team.pclass 1 v.team.firing (.saved k)
        | _ => mk v.team.pclass 2 v.team.cluster (.saved k)
    else none
  reruns ++ fired ++ first ++ saved
/-- The candidates of a partition in order; those whose class Breakwater has shed are left out (R350; 20 R401). -/
def State.candidates (s : State) (part : Nat) : List Candidate :=
  sortBy Candidate.before ((((s.gridsOf part).filter fun e =>
    e.2.ended = .running && !e.2.suspended && e.2.holdsReservation).flatMap fun e =>
    s.candidatesOf e.1 e.2).filter fun c => s.power.allowed ≤ c.cls)

/-! ### Placing a candidate (R350 to R354) -/

/-- The cores that a unit's earlier runs used. -/
def Check.cores (k : Check) : List Nat := ((k.sig1 ++ k.sig2 ++ k.sig3).map fun e => e.2.core).dedup
/-- The work of a checked unit, to be run again (12 R260). -/
def Check.work (k : Check) : Work :=
  match k.kind with
  | .launch => .cluster k.cluster
  | .bin seq => .bin seq k.tasks
  | .tile i => .tile (k.fired.getD ⟨0, i, 0, 0, 0, {}⟩)
/-- Where the teams of a saved cluster go: by rank, on a rectangle or a core that has room for all of them (R352). -/
def State.placeSaved (s : State) (grid : Nat) (st : Stream) (w h : Nat) : Option (List (SavedTeam × Nat × Alloc)) :=
  let on := fun (o : Nat) => st.teams.mapM fun v =>
    let c := clusterCore o w v.team.rank
    if s.coreOk grid (w * h) c then (s.allocOn c v.need).map fun a => (v, c, a) else none
  ((origins w h).foldl (fun (best : Option (Nat × List (SavedTeam × Nat × Alloc))) o =>
    match on o with
    | none => best
    | some p =>
      let free := ((rectCores o w h).map fun c => (s.freeSlots c).length).sum
      match best with
      | some b => if b.1 < free then some (free, p) else best
      | none => some (free, p)) none).map Prod.snd
/-- A fired run is placed: QUEUED clears and RUNNING sets (17 R331). -/
def Refine.place (r : Refine) (f : Fired) : Refine :=
  { (r.updTile f.tile fun t => { t with queued := false, running := true }) with fired := r.fired.erase f }
/-- Puts the teams of a saved cluster on their cores, after its operand groups have moved there with it (19 R376; 04 R78). -/
def State.putCluster (s : State) (g : Grid) (key : Nat) (ps : List (SavedTeam × Nat × Alloc)) : State :=
  let (s, band) := match ps.head? with
    | some p => s.moveBands g p.1.team p.2.1
    | none => (s, none)
  ps.foldl (fun s p =>
    match (((s.streams.find key).map Stream.teams).getD []).find? fun v => v.tid == p.1.tid with
    | some v => s.putTeam { v with team := { v.team with band } } p.2.1 p.2.2
    | none => s) s
/-- Places a candidate; none when it does not fit. -/
def State.tryPlace (s : State) (c : Candidate) : Option State :=
  (s.grid c.grid).bind fun g =>
    let r := g.recd
    match c.what with
    | .rerun m => (s.check m).bind fun k =>
      let w := k.work
      let (cw, ch) := if k.kind = .launch then (r.w, r.h) else (1, 1)
      if !s.slotsOpen c.grid g.part true (w.groups r * w.ranks r) then none
      else (s.placeAgain c.grid (r.need (w.groups r)) cw ch k.cores).map fun p =>
        s.placeUnit c.grid w (some (m, if k.phase = .queueShadow then 2 else 3)) p
    | .fired f =>
      if !s.slotsOpen c.grid g.part false 1 then none
      else (s.placeFirst c.grid (r.need 1) 1 1).map fun p =>
        (s.placeUnit c.grid (.tile f) none p).updGrid c.grid fun g => { g with refine := g.refine.map fun q => q.place f }
    | .cluster i =>
      if !s.slotsOpen c.grid g.part false (r.groups * (r.w * r.h)) then none
      else (s.placeFirst c.grid (r.need r.groups) r.w r.h).map fun p =>
        (s.placeUnit c.grid (.cluster i) none p).updGrid c.grid fun g => { g with nextCluster := i + 1 }
    | .gang => (s.placeWhole c.grid g).map fun s => s.updGrid c.grid fun g => { g with nextCluster := r.clusters.2.2 }
    | .saved key => (s.streams.find key).bind fun st =>
      let n := (st.teams.map fun v => v.groups.length).sum
      let solo := st.teams.all fun v => v.team.kind != .launch
      if !s.slotsOpen c.grid g.part false n || !s.jobReady st then none
      else (s.placeSaved c.grid st (if solo then 1 else r.w) (if solo then 1 else r.h)).bind fun ps =>
        if ps.all fun p => s.putReady p.1 p.2.1 p.2.2.slots then some (((s.replayJob st).putCluster g key ps).dropStream key) else none
/-- The first candidate of a partition, and whether it fits as things stand. -/
def State.firstCandidate (s : State) (part : Nat) : Option (Candidate × Bool) :=
  (s.candidates part).head?.map fun c => (c, (s.tryPlace c).isSome)
/-- PLACEMENT: grids take their reservations, then the first candidate is placed if it fits; otherwise it blocks (R350,
R351). -/
def execPlacement (part : Nat) (s : State) : Out :=
  match s.part part with
  | none => .next s
  | some _ =>
    let s := s.reserveAll part
    match (s.candidates part).head? with
    | none => .next s
    | some c => .next ((s.tryPlace c).getD s)

/-! ### The compactor (R355, R356) -/

/-- A live block of a pool of a core: 0 registers, 1 scratchpad, 2 accumulators; its address and size, its team and, in pool 0,
its group's place. -/
structure Block where
  pool : Nat
  addr : Nat
  size : Nat
  tid : Nat
  ix : Nat
  deriving DecidableEq, Repr
def poolSize (pool : Nat) : Nat := if pool = 2 then 524288 else 1048576
/-- The live blocks of a core in a pool, by address. -/
def State.blocks (s : State) (core pool : Nat) : List Block :=
  sortBy (fun a b => a.addr ≤ b.addr) ((s.teamsOn core).flatMap fun e =>
    let t := e.2
    if pool = 0 then (t.regBlks.zipIdx).map fun b => ⟨0, b.1, regBytes t.stackS, e.1, b.2⟩
    else if pool = 1 then (if t.locSize = 0 then [] else [⟨1, t.locBlk, roundBlock t.locSize, e.1, 0⟩])
    else (if t.accSize = 0 then [] else [⟨2, t.accBlk, roundBlock t.accSize, e.1, 0⟩]))
/-- The lowest address below its own that a block can move to. -/
def Block.target (b : Block) (all : List Block) : Option Nat :=
  match lowestFree (poolSize b.pool) b.size ((all.filter fun c => c != b).map fun c => (c.addr, c.size)) with
  | some a => if a < b.addr then some a else none
  | none => none
/-- The pools of a core that hold no free blocks for a need (R352, R356). -/
def State.shortPools (s : State) (core : Nat) (n : Need) : List Nat :=
  (if (pickRegs (regBytes n.stackS) (s.regUsed core) n.groups).isNone then [0] else []) ++
    (if (pickBlock 1048576 n.loc (s.locUsed core)).isNone then [1] else []) ++
    (if (pickBlock 524288 n.acc (s.accUsed core)).isNone then [2] else [])
/-- The next move on a core towards a need: the lowest block of a team that is there that can move down, in the first pool that is
short (R356). -/
def State.nextBlock (s : State) (there : Tab Team) (core : Nat) (n : Need) : Option (Block × Nat) :=
  (s.shortPools core n).findSome? fun p => ((s.blocks core p).filter fun b => (there.find b.tid).isSome).findSome? fun b =>
    (b.target (s.blocks core p)).map fun a => (b, a)
/-- A team's record of where its blocks are, after a move. -/
def Team.moved (t : Team) (b : Block) (a : Nat) : Team :=
  if b.pool = 0 then { t with regBlks := t.regBlks.set b.ix a } else if b.pool = 1 then { t with locBlk := a } else { t with accBlk := a }
/-- The bytes that must move on a core before a need fits there (R356). -/
def State.planBytes (s : State) (there : Tab Team) (core : Nat) (n : Need) : Nat → Option Nat
  | 0 => none
  | fuel + 1 =>
    if (s.allocOn core n).isSome then some 0
    else match s.nextBlock there core n with
      | none => none
      | some (b, a) => ((s.updTeam b.tid fun t => t.moved b a).planBytes there core n fuel).map (b.size + ·)
/-- What a candidate needs of the cores of its rectangle, by rank, and the rectangle's shape; of a saved cluster only the ranks that
have not retired need a core (R352, R376). -/
def State.needOf (s : State) (c : Candidate) : Option (List (Nat × Need) × Nat × Nat) :=
  (s.grid c.grid).map fun g =>
    let r := g.recd
    let all := fun (n w h : Nat) => ((List.range (w * h)).map fun k => (k, r.need n), w, h)
    match c.what with
    | .rerun m =>
      let k := (s.check m).getD { grid := c.grid }
      if k.kind = .launch then all r.groups r.w r.h else all 1 1 1
    | .fired _ => all 1 1 1
    | .cluster _ | .gang => all r.groups r.w r.h
    | .saved key =>
      let vs := ((s.streams.find key).map Stream.teams).getD []
      if vs.all fun v => v.team.kind != .launch then (vs.map fun v => (0, v.need), 1, 1)
      else (vs.map fun v => (v.team.rank, v.need), r.w, r.h)
/-- The state in which a candidate does not fit: of a gang grid, the one with those of its clusters placed that fit (R354, R356; log
33). -/
def State.planState (s : State) (c : Candidate) : State :=
  match c.what, s.grid c.grid with
  | .gang, some g =>
    let r := g.recd
    ((List.range r.clusters.2.2).foldl (fun (a : State × Bool) i =>
      if !a.2 then a else match a.1.placeFirst c.grid (r.need r.groups) r.w r.h with
        | some p => (a.1.placeUnit c.grid (.cluster i) none p, true)
        | none => (a.1, false)) (s, true)).1
  | _, _ => s
/-- The core on which the compactor acts: of the places that would fit the candidate if their free units were contiguous, the one
needing the fewest bytes moved, the lowest on a tie; in it the first core that needs a move, and that move (R356; 12 R260). -/
def State.compactMove (s : State) (c : Candidate) : Option (Nat × Option (Block × Nat)) :=
  (s.needOf c).bind fun (ns, w, h) =>
    let v := s.planState c
    let used := match c.what with
      | .rerun m => ((s.check m).map Check.cores).getD []
      | _ => []
    let bytes := fun (o : Nat) => (ns.mapM fun e =>
      let k := clusterCore o w e.1
      if v.coreOk c.grid (w * h) k && !used.contains k then v.planBytes s.teams k e.2 4096 else none).map List.sum
    ((origins w h).foldl (fun (best : Option (Nat × Nat)) o => match bytes o, best with
      | some b, some v => if b < v.1 then some (b, o) else best
      | some b, none => some (b, o)
      | none, _ => best) none).bind fun e =>
        (ns.find? fun m => (v.planBytes s.teams (clusterCore e.2 w m.1) m.2 4096).any fun b => 0 < b).map fun m =>
          (clusterCore e.2 w m.1, v.nextBlock s.teams (clusterCore e.2 w m.1) m.2)
/-- A copy or transfer that lands in a team's scratchpad block (R356; 05 R89). -/
def State.landsIn (s : State) (tid : Nat) (t : Team) : Bool :=
  ((s.core t.core).copies.any fun e => e.2.team == tid) || s.cores.any fun k => k.2.copies.any fun e =>
    e.2.dests.any fun d => d.core == t.core && d.stage == 0 && (d.tslot == t.tslot ||
      (d.tslot == gridSlot && ((s.team e.2.team).map Team.grid) == some t.grid))
/-- A block may move now (R356). -/
def State.mayMove (s : State) (b : Block) : Bool :=
  match s.team b.tid with
  | none => false
  | some t =>
    if b.pool = 0 then true
    else if b.pool = 1 then !s.landsIn b.tid t
    else ((s.core t.core).mq.all fun o => o.team != b.tid) && s.reqs.all fun e => !(e.2.team == b.tid && e.2.kind == .acc)
/-- Moves a block with everything that belongs to it: bytes, owner tags and marks (R356). -/
def State.moveBlock (s : State) (core : Nat) (b : Block) (a : Nat) : State :=
  let s := s.updTeam b.tid fun t => t.moved b a
  s.updCore core fun k =>
    if b.pool = 0 then
      { k with regTag := Tab.paste k.regTag (a / 8192) (b.size / 8192) (Tab.cut k.regTag (b.addr / 8192) (b.size / 8192)) }
    else if b.pool = 1 then
      let here := fun m => b.addr ≤ 16 * m && 16 * m < b.addr + b.size
      { k with
        scratch := Tab.paste k.scratch a b.size (Tab.cut k.scratch b.addr b.size)
        lineTag := Tab.paste k.lineTag (a / 128) (b.size / 128) (Tab.cut k.lineTag (b.addr / 128) (b.size / 128))
        marks := k.marks.map fun m => if here m then m - b.addr / 16 + a / 16 else m }
    else
      { k with
        acc := Tab.paste k.acc (a / 4) (b.size / 4) (Tab.cut k.acc (b.addr / 4) (b.size / 4))
        accTag := Tab.paste k.accTag (a / 4096) (b.size / 4096) (Tab.cut k.accTag (b.addr / 4096) (b.size / 4096)) }
/-- The partition of a core. -/
def State.partAt (s : State) (core : Nat) : Option Nat := (s.parts.find? fun p => p.2.domains.getLsbD (domainOf core)).map Prod.fst
/-- COMPACTOR_MOVE: the next move on the core where the first candidate, which does not fit, needs one (R356). -/
def execCompactorMove (core pool tid n : Nat) (s : State) : Out :=
  match (s.partAt core).bind s.firstCandidate with
  | some (c, false) =>
    match s.compactMove c with
      | some (k, some (b, a)) => if k = core && b.pool = pool && b.tid = tid && b.ix = n && s.mayMove b then .next (s.moveBlock core b a) else .next s
      | _ => .next s
  | _ => .next s

/-! ### Bin groups and overflow groups (17 R322 to R324) -/

/-- Bin and overflow groups of a grid may start: its class is neither shed nor held back by a candidate that blocks (R351; 20
R401). -/
def State.mayStart (s : State) (grid : Nat) (g : Grid) : Bool :=
  g.ended = .running && !g.suspended && s.power.allowed ≤ g.recd.cls && s.slotsOpen grid g.part false 1 &&
    match s.firstCandidate g.part with
    | some (c, false) => c.cls < g.recd.cls
    | _ => true
/-- Starts tasks as one group on a core, if it fits there (17 R324). -/
def State.startTasks (s : State) (grid core : Nat) (tasks : List Task) : Option State :=
  (s.grid grid).bind fun g =>
    let free := { g with vacated := [] }
    if s.mayStart grid g && ({ s with grids := s.grids.put grid free }).coreOk grid 1 core then
      (s.allocOn core (g.recd.need 1)).map fun a =>
        (s.placeUnit grid (.bin g.binSeq tasks) none [(core, a)]).updGrid grid fun g => { g with binSeq := g.binSeq + 1 }
    else none
/-- BIN_GROUP_START: a triggered bin starts one group on its core and is free again (17 R322, R324). -/
def execBinGroupStart (core bin : Nat) (s : State) : Out :=
  match (s.core core).bins.find bin with
  | some b =>
    if !b.triggered then .next s
    else match s.startTasks b.grid core b.tasks with
      | some s => .next (s.updCore core fun k => { k with bins := k.bins.del bin })
      | none => .next s
  | none => .next s
/-- The tasks at the head of a queue that start together: up to 32 of the head's key (17 R323). -/
def headTasks (ts : List Task) : List Task :=
  match ts.head? with
  | none => []
  | some h => (ts.take 32).takeWhile fun t => t.grid == h.grid && t.entry == h.entry
/-- OVERFLOW_DRAIN: the tasks at the head of a die's overflow queue, once their memory can be read, start as one group on a core of the
partition (17 R323, R324; 11 R245; 04 R76). -/
def execOverflowDrain (die : Die) (part core : Nat) (s : State) : Out :=
  let s := s.dropDeadTasks fun _ => false
  match (s.die die.val).overflow.find part with
  | none => .next s
  | some q =>
    let ready := s.pend.isEmpty && (List.range (min 32 q.tasks.length)).all fun i => s.partReady part (q.place i) 64 needRead
    let ts := if !ready then [] else headTasks (((q.tasks.take 32).zipIdx).map fun e => s.storedTask part q e.2 e.1)
    match ts.head? with
    | none => .next s
    | some t =>
      match s.startTasks t.grid core ts with
      | some s => .next (s.updDie die.val fun d => { d with
          overflow := d.overflow.put part { q with tasks := q.tasks.drop ts.length, head := (q.head + ts.length) % max 1 q.room } })
      | none => .next s

end Sys2Proof.Machine
end

