-- ==== Sys2Proof/Machine/Host.lean ====
section
/-! DEFINITION. Host and fleet (21): queue pairs and RDMA, the management requests, the firmware image, partitions, keys, link
and power requests, and the sequence of a reset. -/

namespace Sys2Proof.Machine

/-- A field of n bytes: what there is of them, then zeros. -/
def padTo (n : Nat) (bs : List Byte) : List Byte := (bs ++ List.replicate n 0).take n

/-! ### Queue pairs and RDMA (R412, R413; 04 R88) -/

/-- Every byte of a range is a global address (03 R53). -/
def globalRange (va : Dword) (n : Nat) : Bool :=
  (piecesOf 64 va.toNat n).all fun p => p.2.1 < 2 ^ 64 && classify (BitVec.ofNat 64 p.2.1) == .global
/-- RDMA_WRITE: with the doorbell page's key the bytes ring doorbells; otherwise all bytes land at their homes, or none and a remote
access error; the landing comes once nothing holds it back (R412, R427; 18 R345; 03 R68; 07 R154; 11 R245; log 26). -/
def execRdmaWrite (qp : Nat) (rem : Remote) (bytes : List Byte) (s : State) : Out :=
  let va := rem.va
  match s.qpPart qp with
  | none => .next s
  | some part =>
    if rem.rkey = Config.doorbellKey part then
      if pageBase part ≤ va.toNat && va.toNat + bytes.length ≤ pageBase part + 8192 then
        .next (s.ringBytes part (va.toNat - pageBase part) bytes)
      else .next (s.emit (.remoteError qp))
    else if !s.partReady part va bytes.length needWrite ioStation then .next s
    else if !globalRange va bytes.length then .next (s.emit (.remoteError qp))
    else match s.partWrite part va bytes {} none with
      | (s, true) => .next s
      | (s, false) => .next (s.emit (.remoteError qp))
/-- RDMA_READ (R412). -/
def execRdmaRead (qp : Nat) (va : Dword) (len : Nat) (s : State) : Out :=
  match s.qpPart qp with
  | none => .next s
  | some part =>
    if !s.partReady part va len needRead ioStation then .next s
    else if !globalRange va len then .next (s.emit (.remoteError qp))
    else match s.partRead part va len with
      | (s, some bs) => .next (s.emit (.readData qp bs))
      | (s, none) => .next (s.emit (.remoteError qp))
/-- UEC_PACKET_RECEIVE: a packet of a scale-out port lands like host RDMA; one that cannot be written whole is dropped, and there is no
queue pair to report it to (04 R88; log 26). -/
def execUecPacketReceive (part : Nat) (va : Dword) (bytes : List Byte) (s : State) : Out :=
  if !s.fwRuns || (s.part part).isNone || !globalRange va bytes.length ||
    !s.partReady part va bytes.length needWrite ioStation then .next s
  else .next (s.partWrite part va bytes {} none).1
/-- The service ID of the management queue pair (R412). -/
def mgmtService : Dword := 0x4B5A414700000002#64
/-- A REP: the starting packet sequence number is a free one (R412; log 3). -/
def State.sendRep (s : State) (qp : Nat) (service : Dword) : State :=
  { s with freeCtr := s.freeCtr + 1 }.emit (.rep qp service (BitVec.ofNat 24 (Config.freeNat s.freeCtr)))
/-- CM_REQ: a REP with the queue pair's number, or a REJ (R412, R413). -/
def execCmReq (service : Dword) (src : BitVec 128) (rc : Bool) (s : State) : Out :=
  if !s.portsUp then .next s
  else if !rc then .next (s.emit (.rej service))
  else if service = mgmtService then
    if s.mgmtConn || (s.fwRuns && !s.fw.allow.contains src) then .next (s.emit (.rej service))
    else .next ({ s with mgmtWait := true }.sendRep 2 service)
  else
    let named := s.qps.filter fun e => e.2.service == service && e.2.st != .ready
    match ((named.filter fun e => e.2.st == .created) ++ named).head? with
    | none => .next (s.emit (.rej service))
    | some e => .next ({ s with qps := s.qps.put e.1 { e.2 with st := .connecting } }.sendRep e.1 service)
/-- The alerts held so far are sent, once the part is ready and a management connection is open (R415, R422). -/
def State.sendAlerts (s : State) : State :=
  if s.mgmtConn && s.phase == .ready then { s with out := s.out ++ s.alerts, alerts := [] } else s
/-- CM_RTU: the queue pair is ready; on the management queue pair the alerts held so far are sent (R412, R415). -/
def execCmRtu (qp : Nat) (s : State) : Out :=
  if qp = 2 then
    if s.mgmtWait then .next { s with mgmtWait := false, mgmtConn := true }.sendAlerts else .next s
  else
    let f := fun (q : Qp) => { q with st := if q.st = .connecting then .ready else q.st }
    .next { s with qps := s.qps.upd qp f }
/-- CM_DREQ: the connection ends and a DREP answers (R412). -/
def execCmDreq (qp : Nat) (s : State) : Out :=
  if qp = 2 then
    if s.mgmtConn || s.mgmtWait then .next ({ s with mgmtConn := false, mgmtWait := false }.emit (.drep 2)) else .next s
  else if (s.qps.find qp).any fun q => q.st != .created then
    let f := fun (q : Qp) => { q with st := .created }
    .next ({ s with qps := s.qps.upd qp f }.emit (.drep qp))
  else .next s
/-- DATA_QP_CREATE: any free number of the 4,094 from 3 to 4,096; which one the spec leaves open (R412; log 3). -/
def execDataQpCreate (r : MReq) (service : Dword) (s : State) : Out :=
  s.managePart r 0x17 0 fun _ s =>
    let free := (List.range 4097).filter fun n => 2 < n && (s.qps.find n).isNone
    match free[Config.freeNat s.freeCtr % free.length]? with
    | none => s.answerReq r 0x17 4
    | some n =>
      { s with freeCtr := s.freeCtr + 1, qps := s.qps.put n { part := r.part, service } }.answerReq r 0x17 0
/-- DATA_QP_DESTROY (R412). -/
def execDataQpDestroy (r : MReq) (qp : Nat) (s : State) : Out :=
  s.managePart r 0x17 0 fun _ s =>
    if (s.qps.find qp).any fun q => q.part == r.part then { s with qps := s.qps.del qp }.answerReq r 0x17 0
    else s.answerReq r 0x17 4

/-! ### Types, identity, health (R414, R416, R425; 12 R280) -/

/-- The request types that the part knows, and those the ROM answers (R416). -/
def knownTypes : List Nat :=
  [0x01, 0x02, 0x03, 0x04, 0x10, 0x11, 0x12, 0x13, 0x14, 0x15, 0x16, 0x17, 0x20, 0x30, 0x31, 0x32, 0x33, 0x40, 0x41, 0x42, 0x4F]
def romTypes : List Nat := [0x01, 0x02, 0x03, 0x04, 0x4F]
/-- UNKNOWN_REQUEST: status 2; a known type that no other event carries is a malformed request (R414, R416). -/
def execUnknownRequest (r : MReq) (type : Nat) (s : State) : Out :=
  s.manage r type (romTypes.contains type) 0 fun s => s.answerReq r type (if knownTypes.contains type then 3 else 2)
/-- A loop's row of the membership table, and its sequence record (R425). -/
def memberRow (l : Nat) : List Byte :=
  bytesOfNat 16 (((List.range 72).filter fun n => (Config.loopStations l).contains n).map (2 ^ ·)).sum
def sequenceRecord (l : Nat) : List Byte :=
  let all := Config.loopStations l
  let st := all.rotateLeft (all.idxOf (all.foldl min 71))
  bytesOfNat 8 st.length ++ padTo 72 (st.map (BitVec.ofNat 8 ·))
/-- The topology descriptor (R425). -/
def topology : List Byte :=
  bytesOfNat 2 1 ++ [28, 72] ++ bytesOfNat 4 0 ++ (List.range 28).flatMap memberRow ++ (List.range 28).flatMap sequenceRecord
/-- The body of the identity reply (R425). -/
def State.identityBody (s : State) : List Byte :=
  Config.serialBytes ++ [0x4B, 0x5A, 0x2D, 0x41, 0x47, 0x34, 0, 0] ++ bytesOf s.fusedMin ++ bytesOfNat 4 0 ++
    ecBytes identityPoint ++ List.replicate 7 0 ++ bytesOfNat 4 2696 ++ bytesOfNat 4 0 ++ topology
/-- IDENTITY. -/
def execIdentity (r : MReq) (s : State) : Out :=
  s.manage r 0x01 true 0 fun s => .next (s.reply r 0x01 0 s.identityBody)
/-- A mask of one die's cores or slices. -/
def dieMask (d : Nat) (p : Nat → Bool) : List Byte := bytesOfNat 8 (((List.range 64).filter fun n => p (64 * d + n)).map (2 ^ ·)).sum
/-- The link states of the record: 4 bits a link (12 R280). -/
def State.linkStates (s : State) : List Byte :=
  bytesOfNat 12 ((List.range 24).map fun k => ((s.link ⟨k, false⟩).state + 4 * (s.link ⟨k, true⟩).state) * 16 ^ k).sum
/-- A core is suspect: it has a live demerit and is not fenced, or its registers or L1 have met an error (12 R277, R280; 03 R52; 08
R173; log 12). -/
def State.suspectCore (s : State) (c : Nat) : Bool :=
  (!(s.liveDemerits c).isEmpty && !(s.core c).fenced) || (s.core c).corrected != 0 || (s.core c).poisoned != 0
/-- Bytes 0 to 511 of the health record (12 R280). -/
def State.fynilBody (s : State) (seq : Nat) : List Byte :=
  bytesOfNat 4 0x4C4E5946 ++ bytesOfNat 2 1 ++ bytesOfNat 2 0 ++ bytesOfNat 8 seq ++ Config.serialBytes ++
    padTo 48 s.fw.measurement ++
    ((List.range 4).flatMap fun d => dieMask d fun c => (s.core c).fenced) ++
    ((List.range 4).flatMap fun d => dieMask d s.suspectCore) ++
    ((List.range 4).flatMap fun d => dieMask d s.suspectSlices.contains) ++
    s.linkStates ++ bytesOfNat 4 0 ++ ((List.range 8).flatMap fun i => bytesOfNat 8 (s.fynil.getD 0 i)) ++
    (List.range 256).map fun c => BitVec.ofNat 8 (min (s.liveDemerits c).length 255)
/-- HEALTH_RECORD: a fresh record, unsigned in the ROM phase (12 R280; R416). -/
def execHealthRecord (r : MReq) (s : State) : Out :=
  s.manage r 0x04 true 0 fun s =>
    let s := { s with fynilSeq := s.fynilSeq + 1 }
    let b := s.fynilBody s.fynilSeq
    .next (s.reply r 0x04 0 (b ++ padTo 96 (if s.fwRuns then ecdsaSign identityD (signNonce s.fynilSeq) b else [])))

/-! ### The firmware image (R417, R418) -/

/-- Greatest image, in bytes (R417). -/
def imageMax : Nat := 2 ^ 24
/-- FIRMWARE_CHUNK: the ROM collects the image's bytes (R418). -/
def execFirmwareChunk (r : MReq) (off : Word) (data : List Byte) (s : State) : Out :=
  s.manage r 0x02 true 0 fun s =>
    if s.fwRuns then s.answerReq r 0x02 4
    else if imageMax < off.toNat + data.length then s.answerReq r 0x02 4
    else
      let fw := { s.fw with image := putBytes s.fw.image off.toNat data, got := s.fw.got ++ [(off.toNat, data.length)] }
      { s with fw }.answerReq r 0x02 0
/-- How far the bytes from 0 on have all arrived: each round extends the reach by one chunk. -/
def reached (got : List (Nat × Nat)) (pos : Nat) : Nat → Nat
  | 0 => pos
  | n + 1 =>
    let next := (got.filter fun c => c.1 ≤ pos).foldl (fun m c => max m (c.1 + c.2)) pos
    reached got next n
/-- A 32-bit field of the image. -/
def Firmware.word (f : Firmware) (a : Nat) : Word := wordOf (getBytes f.image a 4)
/-- The image passes the ROM's checks (R418). -/
def Firmware.passes (f : Firmware) (fused : Word) : Bool :=
  let n := (f.word 8).toNat
  let bs := getBytes f.image 0 n
  n ≤ reached f.got 0 f.got.length && f.word 0 == 0x4E494746#32 &&
    ecdsaVerifies (ecParse Config.imageKey) (bs.take 416 ++ bs.drop 512) (getBytes f.image 416 96) && fused.toNat ≤ (f.word 4).toNat
/-- The addresses that may hold the management connection (R413, R417). -/
def Firmware.allowed (f : Firmware) : List (BitVec 128) :=
  (List.range 4).map fun i => BitVec.ofNat 128 (natOfBytes (getBytes f.image (16 + 16 * i) 16))
/-- A control core at the image's entry: its one lane is lane 0, and it is a team of its own (log 8). -/
def ctrlGroup (entry : Word) (team : Nat) : Group :=
  { team, priv := true, lanes := Vector.ofFn fun l => if l.val = 0 then { pc := alignPc entry } else { st := .exited } }
/-- FIRMWARE_START: the image runs on the four control cores and the ROM phase ends (R418). -/
def execFirmwareStart (r : MReq) (s : State) : Out :=
  s.manage r 0x03 true 0 fun s =>
    if s.fwRuns || !s.fw.passes s.fusedMin then s.answerReq r 0x03 4
    else
      let n := (s.fw.word 8).toNat
      let fw := { s.fw with
        size := n, entry := s.fw.word 12, version := s.fw.word 4
        measurement := sha384 (getBytes s.fw.image 0 n), allow := s.fw.allowed }
      let groups := (List.range 4).foldl (fun (m : Tab Group) d =>
        m.put (ctrlGid d) (ctrlGroup fw.entry (s.nextId + d))) s.groups
      { s with fw, fusedMin := fw.version, groups, nextId := s.nextId + 4, phase := .training }.answerReq r 0x03 0

/-! ### Partitions (R419) -/

/-- PARTITION_CREATE. -/
def execPartitionCreate (r : MReq) (mask : BitVec 16) (s : State) : Out :=
  s.manage r 0x10 false 0 fun s =>
    if 16 ≤ r.part then s.answerReq r 0x10 3
    else if mask = 0 || (s.part r.part).isSome || s.parts.any fun e => e.2.domains &&& mask != 0 then s.answerReq r 0x10 4
    else { s with parts := s.parts.put r.part { domains := mask } }.answerReq r 0x10 0
/-- Writes back and invalidates the lines of a region of a die in every slice and L1 (R426). -/
def State.flushRegion (s : State) (die idx : Nat) : State :=
  ((s.l2.filter fun e => e.1 % 2 ^ 32 / 2 ^ 22 == 256 * die + idx).map Prod.fst).foldl (fun s k => s.evict k) s
/-- A core keeps nothing of a partition: instruction lines, loop bodies, translations. -/
def Core.forget (c : Core) (part : Nat) : Core :=
  { c with
    ilines := c.ilines.filter fun e => e.1 / 2 ^ 57 ≠ part
    loopBuf := c.loopBuf.map fun e => (e.1, e.2.filter fun b => b.part ≠ part)
    tlb := c.tlb.filter fun e => e.part ≠ part }
/-- A die keeps nothing of a partition. -/
def DieSt.forget (d : DieSt) (part : Nat) : DieSt :=
  { d with
    overflow := d.overflow.del part
    walks := d.walks.filter fun w => w.part ≠ part
    pteCache := d.pteCache.filter fun c => c.part ≠ part }
/-- Some line of a region holds a version or a pin, or its write-back cannot travel (R426; 04 R76). -/
def State.regionHeld (s : State) (die idx : Nat) : Bool :=
  (s.vers.any fun v => v.ln / 2 ^ 22 == 256 * die + idx) ||
    s.l2.any fun e => e.1 % 2 ^ 32 / 2 ^ 22 == 256 * die + idx && (e.2.pins != 0 || !s.backOpen e.1)
/-- Steps 2 and 3 of a destruction. -/
def State.clearPart (s : State) (p : Nat) : State :=
  let s := (s.regionsOf p).foldl (fun s e => s.flushRegion (e / 256) (e % 256)) s
  { s with
    qps := s.qps.filter fun e => e.2.part ≠ p
    parts := s.parts.del p
    slotTab := s.slotTab.filter fun e => e.2 ≠ p
    mcast := s.mcast.filter fun e => (e.2.extractLsb' 96 5).toNat ≠ p
    streams := s.streams.filter fun e => e.2.part ≠ p
    cores := s.cores.map fun e => (e.1, e.2.forget p)
    dies := s.dies.map fun e => (e.1, e.2.forget p) }
/-- The management request that an event carries, with its type. -/
def Instr.request : Instr → Option (MReq × Nat)
  | .contextSave _ v | .contextRestore _ v => v.map fun c => (c.req, 0x40)
  | .preemption r _ _ _ | .cut r _ _ => some (r, 0x40)
  | .migrationSession r _ => some (r, 0x41)
  | .unknownRequest r t => some (r, t)
  | .identity r => some (r, 0x01)
  | .firmwareChunk r _ _ => some (r, 0x02)
  | .firmwareStart r => some (r, 0x03)
  | .healthRecord r => some (r, 0x04)
  | .partitionCreate r _ | .partitionDestroy r => some (r, 0x10)
  | .regionTableWrite r _ _ _ | .regionFlush r _ _ => some (r, 0x11)
  | .slotTableWrite r _ _ _ => some (r, 0x12)
  | .multicastEntryLoad r _ _ _ _ => some (r, 0x13)
  | .hostQueueDescriptorWrite r _ _ | .doorbellPageRead r => some (r, 0x14)
  | .spillPoolSet r _ _ | .logRegionSet r _ _ | .overflowQueueSet r _ _ _ | .holdTimeoutSet r _ => some (r, 0x15)
  | .pageTableRootSet r _ | .tlbShootdown r _ => some (r, 0x16)
  | .dataQpCreate r _ | .dataQpDestroy r _ => some (r, 0x17)
  | .keyInstall r _ _ _ | .keyReplace r _ _ _ | .keyDestroy r _ => some (r, 0x20)
  | .powerSettingsWrite r _ | .powerStatusRead r | .powerStatusClear r _ => some (r, 0x30)
  | .demeritPolicySet r _ _ | .unfence r _ | .suspectSliceClear r => some (r, 0x31)
  | .linkStatusRead r _ | .linkStatusClear r _ _ | .linkReset r _ => some (r, 0x32)
  | .packageNumberSet r _ | .ueAddressSet r _ => some (r, 0x33)
  | .killGrid r _ => some (r, 0x42)
  | .packageReset r => some (r, 0x4F)
  | _ => none
/-- A waiting request that names a partition now destroyed keeps its turn, to be answered with status 4 (R415, R419). -/
def lateFor (part : Nat) : Move → Move
  | .event i => match Instr.request i with
    | some q => if q.1.part = part then .lateRequest q.1 q.2 else .event i
    | none => .event i
  | m => m
/-- The destruction is complete: the reply, then the waiting requests in order of arrival (R415, R419). -/
def State.destroyed (s : State) (r : MReq) : State :=
  let s := (s.clearPart r.part).reply r 0x10 0 []
  { s with mgmtQ := s.mgmtQ.map (lateFor r.part) }.resumeMgmt
/-- PARTITION_DESTROY: the partition's grids are killed; once they have ended and the part's own writes that waited are made, the same
event completes the destruction and answers it (R419; log 26). -/
def execPartitionDestroy (r : MReq) (s : State) : Out :=
  if ((s.part r.part).bind Part.destroying) = some r then
    if (s.grids.any fun e => e.2.part == r.part) || !s.pend.isEmpty || (s.regionsOf r.part).any fun e => s.regionHeld (e / 256) (e % 256) then .next s
    else .next (s.destroyed r)
  else
    s.managePart r 0x10 0 fun _ s =>
      let s := (s.gridsOf r.part).foldl (fun s e => s.endGrid e.1 .killed) s
      .next (s.updPart r.part fun p => { p with destroying := some r, devq := [] })

/-! ### Regions, slots, multicast (R426; 03 R49, R50; 04 R76, R78) -/

/-- REGION_TABLE_WRITE: the entry's reserved bits are ignored, and its region's slice set is fixed (03 R49, R50; 00 R6; log 45). -/
def execRegionTableWrite (r : MReq) (die idx : Nat) (entry : Dword) (s : State) : Out :=
  s.manage r 0x11 false die fun s =>
    if 4 ≤ die || 256 ≤ idx then s.answerReq r 0x11 3
    else
      let e := entry &&& 0xFFFFFF803F#64
      let doms := s.setDomains die e
      (s.updDie die fun d => { d with region := d.region.setD 0 idx e, sets := d.sets.setD 0 idx doms }).answerReq r 0x11 0
/-- REGION_FLUSH: answered with status 1. -/
def execRegionFlush (r : MReq) (die idx : Nat) (s : State) : Out :=
  s.manage r 0x11 false die fun s =>
    if 4 ≤ die || 256 ≤ idx then s.answerReq r 0x11 3
    else { s with flushes := s.flushes ++ [(r, die, idx)] }.answerReq r 0x11 1
/-- REGION_FLUSH_DRAINED: steps 2 and 3 of a flush. -/
def execRegionFlushDrained (die idx : Nat) (s : State) : Out :=
  match s.flushes.find? fun f => f.2.1 == die && f.2.2 == idx with
  | none => .next s
  | some f =>
    if s.regionHeld die idx then .next s
    else .next ({ (s.flushRegion die idx) with flushes := s.flushes.erase f }.alert 2 f.1.id 0 0x11 0)
/-- SLOT_TABLE_WRITE: the 16 entries of a loop, whose reserved bits are ignored, and an alert for each partition of the die left
without a container (04 R75, R76; R424; 00 R6; log 45). -/
def execSlotTableWrite (r : MReq) (die loop : Nat) (owners : List Nat) (s : State) : Out :=
  s.manage r 0x12 false die fun s =>
    if 4 ≤ die || 28 ≤ loop || owners.length ≠ 16 then s.answerReq r 0x12 3
    else
      let owners := owners.map (· % 32)
      let tab := owners.zipIdx.foldl (fun (t : Tab Nat) e => t.setD 31 (16 * (28 * die + loop) + e.2) e.1) s.slotTab
      let s := { s with slotTab := tab }.reply r 0x12 0 []
      let bare := (s.parts.filter fun e => !(s.coresOf e.1 die).isEmpty && !owners.contains e.1).map Prod.fst
      .next (bare.foldl (fun s p => s.alert 4 0 (BitVec.ofNat 32 p) (BitVec.ofNat 32 die) (BitVec.ofNat 64 loop)) s)
/-- A multicast entry breaks the rules of a load (04 R78). -/
def mcRefused (ident : Nat) (e : BitVec 128) : Bool :=
  let loops := (List.range 28).filter fun l => e.getLsbD (64 + l)
  let off := (List.range 64).any fun n => e.getLsbD n && !loops.any fun l => (Config.loopStations l).contains n
  off || e.extractLsb' 101 26 != 0#26 || e.getLsbD 95 || 0xE00 ≤ ident
/-- MULTICAST_ENTRY_LOAD. -/
def execMulticastEntryLoad (r : MReq) (die station ident : Nat) (entry : BitVec 128) (s : State) : Out :=
  s.manage r 0x13 false die fun s =>
    if 4 ≤ die || 72 ≤ station || 4096 ≤ ident then s.answerReq r 0x13 3
    else if mcRefused ident entry then s.answerReq r 0x13 4
    else { s with mcast := s.mcast.setD 0 ((72 * die + station) * 4096 + ident) entry }.answerReq r 0x13 0

/-! ### Queues and a partition's memory (R427; 08 R161; 12 R267, R278; 17 R323; 18 R344, R345; 03 R57, R61) -/

/-- HOST_QUEUE_DESCRIPTOR_WRITE: the descriptor's reserved bits are ignored, and the event block shows the cleared stop (18 R344 to
R346; 00 R6; log 45). -/
def execHostQueueDescriptorWrite (r : MReq) (queue : Nat) (desc : BitVec 128) (s : State) : Out :=
  s.managePart r 0x14 0 fun _ s =>
    let size := (desc.extractLsb' 7 5).toNat
    let desc := desc &&& 0xFFFFFF00000000FFFFFFFFFFFFFFF9#128
    if 64 ≤ queue then s.answerReq r 0x14 3
    else if size < 4 || 16 < size then s.answerReq r 0x14 4
    else
      let rises := !(s.hqueue r.part queue).en && desc.getLsbD 0
      let s := s.updQueue r.part queue fun q => { q with
        desc, stopped := false, err := 0, head := if rises then 0 else q.head }
      .next (((s.reply r 0x14 0 []).writeHead r.part queue).checkTail r.part queue)
/-- DOORBELL_PAGE_READ (R427). -/
def execDoorbellPageRead (r : MReq) (s : State) : Out :=
  s.managePart r 0x14 0 fun _ s =>
    .next (s.reply r 0x14 0 (bytesOfNat 8 (8192 * Config.doorbellPage r.part) ++ bytesOf (Config.doorbellKey r.part) ++ bytesOfNat 4 0))
/-- SPILL_POOL_SET (08 R161). -/
def execSpillPoolSet (r : MReq) (base : Dword) (frame : Nat) (s : State) : Out :=
  s.managePart r 0x15 0 fun _ s =>
    if base.toNat % 8192 ≠ 0 || frame % 8192 ≠ 0 || 2 ^ 21 < frame then s.answerReq r 0x15 4
    else (s.updPart r.part fun p => { p with poolBase := base, frame }).answerReq r 0x15 0
/-- LOG_REGION_SET (12 R267). -/
def execLogRegionSet (r : MReq) (base : Dword) (size : Nat) (s : State) : Out :=
  s.managePart r 0x15 0 fun _ s =>
    if size % 2 ^ 18 ≠ 0 || size < 2 ^ 18 || 2 ^ 30 < size then s.answerReq r 0x15 4
    else (s.updPart r.part fun p => { p with logBase := base, logSize := size }).answerReq r 0x15 0
/-- OVERFLOW_QUEUE_SET: tasks that are queued move to the new memory, which must have room for them: none is lost (17 R323; log 32). -/
def execOverflowQueueSet (r : MReq) (die : Nat) (base : Dword) (tasks : Nat) (s : State) : Out :=
  s.managePart r 0x15 die fun _ s =>
    if 4 ≤ die then s.answerReq r 0x15 3
    else if tasks < 2 ^ 16 || 2 ^ 24 < tasks then s.answerReq r 0x15 4
    else
      let queued := (((s.die die).overflow.find r.part).map Overflow.tasks).getD []
      let q : Overflow := { base, room := tasks, tasks := queued }
      if tasks < queued.length then s.answerReq r 0x15 4
      else
        let s := s.updDie die fun d => { d with overflow := d.overflow.put r.part q }
        (queued.zipIdx.foldl (fun s e => s.ownWrite r.part (q.place e.2) e.1.image none e.1.vc) s).answerReq r 0x15 0
/-- HOLD_TIMEOUT_SET (12 R278). -/
def execHoldTimeoutSet (r : MReq) (us : Nat) (s : State) : Out :=
  s.managePart r 0x15 0 fun _ s =>
    if us < 10 || 100000 < us then s.answerReq r 0x15 4
    else (s.updPart r.part fun p => { p with holdUs := us }).answerReq r 0x15 0
/-- PAGE_TABLE_ROOT_SET (03 R57). -/
def execPageTableRootSet (r : MReq) (root : Option Dword) (s : State) : Out :=
  s.managePart r 0x16 0 fun _ s =>
    if root.any fun a => a.toNat % 4096 != 0 || decide (2 ^ 40 ≤ a.toNat) then s.answerReq r 0x16 4
    else (s.updPart r.part fun p => { p with root := root.map BitVec.toNat }).answerReq r 0x16 0
/-- A page of a TLB entry meets a range of first and last virtual address; no range is the whole partition (03 R61). -/
def TlbE.meets (e : TlbE) (part : Nat) (range : Option (Dword × Dword)) : Bool :=
  e.part == part && range.all fun x =>
    x.1.toNat % 2 ^ 57 / 2 ^ e.bits ≤ e.vpage && e.vpage ≤ x.2.toNat % 2 ^ 57 / 2 ^ e.bits
/-- TLB_SHOOTDOWN: matching translations go; its completion awaits the accesses now on their way (03 R61). -/
def execTlbShootdown (r : MReq) (range : Option (Dword × Dword)) (s : State) : Out :=
  s.managePart r 0x16 0 fun _ s =>
    let drop := fun (c : Core) => { c with tlb := c.tlb.filter fun e => !e.meets r.part range }
    let dropD := fun (d : DieSt) => { d with pteCache := d.pteCache.filter fun e => e.part ≠ r.part }
    let reqs := (s.reqs.filter fun e => e.2.part == r.part && e.2.waiting).map Prod.fst
    let (n, s) := s.fresh
    .next { s with
      cores := s.cores.map fun e => (e.1, drop e.2)
      dies := s.dies.map fun e => (e.1, dropD e.2)
      shoots := s.shoots.put n { req := r, part := r.part, range, reqs } }
/-- TLB_SHOOTDOWN_COMPLETE (03 R61; R415). -/
def execTlbShootdownComplete (n : Nat) (s : State) : Out :=
  match s.shoots.find n with
  | none => .next s
  | some h =>
    if h.reqs.any fun k => (s.reqs.find k).any Req.waiting then .next s
    else .next ({ s with shoots := s.shoots.del n }.reply h.req 0x16 0 []).resumeMgmt

/-! ### Keys (R420; 03 R62 to R65) -/

/-- The key pair that a key install or replacement brings: none for a bad identifier, a point off the curve or a failed unwrap
(R420). -/
def newPair (ident : Nat) (point wrapped : List Byte) : Option (List Byte) :=
  if ident = 0 || 4095 < ident then none else unwrapPair ident point wrapped
/-- The body of a key request has its lengths (R420). -/
def keyBody (point wrapped : List Byte) : Bool := point.length == 97 && wrapped.length == 72
/-- The key pair takes its place in the table under an installation number of its own (03 R62). -/
def State.installKey (s : State) (ident : Nat) (pair : List Byte) : State :=
  let (n, s) := s.fresh
  { s with keys := s.keys.put ident n, keyPairs := s.keyPairs.setD [] n pair }
/-- KEY_INSTALL. -/
def execKeyInstall (r : MReq) (ident : Nat) (point wrapped : List Byte) (s : State) : Out :=
  s.manage r 0x20 false 0 fun s =>
    if !keyBody point wrapped then s.answerReq r 0x20 3
    else match newPair ident point wrapped, s.keys.find ident with
      | some pair, none => (s.installKey ident pair).answerReq r 0x20 0
      | _, _ => s.answerReq r 0x20 4
/-- An access under the identifier is in flight, or an operation has lines of it pinned (03 R64). -/
def State.keyInUse (s : State) (ident : Nat) : Bool :=
  (s.reqs.any fun e => e.2.key == ident && e.2.waiting) || s.l2.any fun e => e.2.key == ident && e.2.pins != 0
/-- A key is destroyed: its lines are discarded, its versions too, and the grids of the runs that held one are killed (03 R64,
R65). -/
def State.destroyKey (s : State) (ident : Nat) : State :=
  let grids := ((s.vers.filter fun v => v.key == ident).map Ver.grid).dedup
  let s := grids.foldl (fun s g => s.endGrid g .killed) s
  let s := ((s.l2.filter fun e => e.2.key == ident).map Prod.fst).foldl (fun s k => s.discardLine k) s
  let held := fun (c : Core) => (c.l1.filter fun e => e.2.key == ident).map Prod.fst
  let s := s.cores.foldl (fun s e => (held e.2).foldl (fun s ln => s.l1Drop e.1 ln) s) s
  { s with keys := s.keys.del ident }
/-- The key change that a request asks for is made: with an access in flight under its identifier it goes on being handled, and the
same event completes it once there is none (03 R64; R415; log 27). -/
def State.keyChange (s : State) (r : MReq) (ident : Nat) (pair : Option (List Byte)) : Out :=
  if s.keyInUse ident then .next { s with mgmtCur := some (r, ident, pair) }
  else
    let s := { s with mgmtCur := none }.destroyKey ident
    .next (((pair.map (s.installKey ident)).getD s).reply r 0x20 0 [])
/-- KEY_DESTROY: made when no access in flight uses the identifier (03 R64; R420; log 27). -/
def execKeyDestroy (r : MReq) (ident : Nat) (s : State) : Out :=
  if s.mgmtCur = some (r, ident, none) then thenDo (s.keyChange r ident none) State.resumeMgmt
  else s.manage r 0x20 false 0 fun s =>
    if ident = 0 || (s.keys.find ident).isNone then s.answerReq r 0x20 4 else s.keyChange r ident none
/-- KEY_REPLACE: destroys and installs in one step (R420). -/
def execKeyReplace (r : MReq) (ident : Nat) (point wrapped : List Byte) (s : State) : Out :=
  let pair := newPair ident point wrapped
  if pair.isSome && s.mgmtCur == some (r, ident, pair) then thenDo (s.keyChange r ident pair) State.resumeMgmt
  else s.manage r 0x20 false 0 fun s =>
    if !keyBody point wrapped then s.answerReq r 0x20 3
    else if pair.isNone || (s.keys.find ident).isNone then s.answerReq r 0x20 4
    else s.keyChange r ident pair

/-! ### Power (20 R392, R396, R408, R410) -/

/-- A curve point as it is kept: its reserved bits are ignored (20 R399; 00 R6; log 45). -/
def curvePoint (v : Word) : Word := v &&& 0xFFFFFF07#32
/-- A setting within its limits (20 R392). -/
def PowerSetting.ok : PowerSetting → Bool
  | .poolSize v => v ≤ 1024
  | .boostEnable v => v < 2 ^ 16
  | .boostClass v => v ≤ 7
  | .nomFreq v => 40000 ≤ v && v ≤ 70000
  | .nomVolt v => 10000 ≤ v && v ≤ 60000
  | .voltHyst v => v ≤ 10000
  | .freqPoint i _ | .voltPoint i _ => i < 16
  | .lossTimeout v => 2 ≤ v && v ≤ 1000
  | .lossClass v => v ≤ 8
  | .shelf src ty => src < 2 ^ 48 && ty < 2 ^ 16
  | .packageCap v => v ≤ 4000
  | .floor part v => part < 16 && v ≤ 4000
/-- The settings with one written; a smaller pool is cut to its size (20 R392, R396). -/
def Power.write (p : Power) : PowerSetting → Power
  | .poolSize v => { p with poolSize := v, permits := min p.permits v }
  | .boostEnable v => { p with boostEnable := v }
  | .boostClass v => { p with boostClass := v }
  | .nomFreq v => { p with nomFreq := v }
  | .nomVolt v => { p with nomVolt := v }
  | .voltHyst v => { p with voltHyst := v }
  | .freqPoint i v => { p with freqCurve := p.freqCurve.setD 0 i (curvePoint v) }
  | .voltPoint i v => { p with voltCurve := p.voltCurve.setD 0 i (curvePoint v) }
  | .lossTimeout v => { p with lossTimeout := v }
  | .lossClass v => { p with lossClass := v }
  | .shelf src ty => { p with shelfSrc := src, shelfType := ty }
  | .packageCap v => { p with cap := v }
  | .floor part v => { p with floors := p.floors.setD 0 part v }
/-- The re-test of the cap and the floors (20 R408). -/
def State.retestCap (s : State) : State :=
  let low := decide (s.power.cap < 340)
  let scaled := decide (s.power.effCap < s.power.floorSum)
  let s := { s with power := { s.power with capLow := s.power.capLow || low, floorDef := s.power.floorDef || scaled } }
  let s := if low then s.alert 6 0 1 0 0 else s
  if scaled then s.alert 6 0 2 0 0 else s
/-- A cap or a floor. -/
def PowerSetting.isCap : PowerSetting → Bool
  | .packageCap _ | .floor _ _ => true
  | _ => false
/-- POWER_SETTINGS_WRITE. -/
def execPowerSettingsWrite (r : MReq) (x : PowerSetting) (s : State) : Out :=
  s.manage r 0x30 false 0 fun s =>
    if !PowerSetting.ok x then s.answerReq r 0x30 4
    else
      let s := { s with power := s.power.write x }.reply r 0x30 0 []
      .next (if PowerSetting.isCap x then s.retestCap else s)
/-- The power status word (20 R410). -/
def Power.word (p : Power) : Word :=
  BitVec.ofBool p.tloss ++ BitVec.ofBool p.capLow ++ BitVec.ofBool p.floorDef ++ BitVec.ofBool p.capHit ++ 0#1 ++
    BitVec.ofNat 3 p.allowed ++ 0#8 ++ BitVec.ofNat 16 p.gaps
/-- POWER_STATUS_READ. -/
def execPowerStatusRead (r : MReq) (s : State) : Out :=
  s.manage r 0x30 false 0 fun s => .next (s.reply r 0x30 0 (bytesOf s.power.word))
/-- POWER_STATUS_CLEAR: bits written with 1 clear, and GAPS written with all ones (20 R410). -/
def execPowerStatusClear (r : MReq) (val : Word) (s : State) : Out :=
  s.manage r 0x30 false 0 fun s =>
    let p := s.power
    { s with power := { p with
        capLow := p.capLow && !val.getLsbD 30, floorDef := p.floorDef && !val.getLsbD 29, capHit := p.capHit && !val.getLsbD 28
        gaps := if val.extractLsb' 0 16 = 0xFFFF#16 then 0 else p.gaps } }.answerReq r 0x30 0

/-! ### Demerits, suspects, links, addresses (12 R277, R280; 04 R83, R86; R421) -/

/-- DEMERIT_POLICY_SET. -/
def execDemeritPolicySet (r : MReq) (threshold window : Nat) (s : State) : Out :=
  s.manage r 0x31 false 0 fun s =>
    if threshold < 1 || 255 < threshold || !((List.range 21).any fun i => window == 2 ^ (10 + i)) then s.answerReq r 0x31 4
    else
      let s := { s with demeritT := threshold, demeritW := window }.reply r 0x31 0 []
      .next ((List.range 256).foldl (fun s c => s.fenceCheck c) s)
/-- UNFENCE: clears the core's demerits. -/
def execUnfence (r : MReq) (core : Nat) (s : State) : Out :=
  s.manage r 0x31 false (core / 64) fun s =>
    if 256 ≤ core then s.answerReq r 0x31 3
    else (s.updCore core fun c => { c with fenced := false, demerits := [] }).answerReq r 0x31 0
/-- SUSPECT_SLICE_CLEAR. -/
def execSuspectSliceClear (r : MReq) (s : State) : Out :=
  s.manage r 0x31 false 0 fun s => { s with suspectSlices := [] }.answerReq r 0x31 0
/-- LINK_STATUS_READ: links 0 to 7 are the edge links, 8 to 23 the Rutik links, as in the Fynil record. -/
def execLinkStatusRead (r : MReq) (l : LinkId) (s : State) : Out :=
  s.manage r 0x32 false 0 fun s =>
    if 24 ≤ l.link then s.answerReq r 0x32 3 else .next (s.reply r 0x32 0 (bytesOfNat 8 (s.link l).word.toNat))
/-- LINK_STATUS_CLEAR. -/
def execLinkStatusClear (r : MReq) (l : LinkId) (val : Dword) (s : State) : Out :=
  s.manage r 0x32 false 0 fun s =>
    if 24 ≤ l.link then s.answerReq r 0x32 3 else (s.setLink l ((s.link l).clear val)).answerReq r 0x32 0
/-- LINK_RESET: the link trains anew; queues and replay buffers stay (04 R83, R86). -/
def execLinkReset (r : MReq) (link : Nat) (s : State) : Out :=
  s.manage r 0x32 false 0 fun s =>
    if 24 ≤ link then s.answerReq r 0x32 3
    else (s.bothDirs link fun d => { d with state := 0, wire := [], seenFlits := 0, refused := [] }).answerReq r 0x32 0
/-- PACKAGE_NUMBER_SET (R421; 04 R87). -/
def execPackageNumberSet (r : MReq) (num : Nat) (s : State) : Out :=
  s.manage r 0x33 false 0 fun s =>
    if 512 ≤ num then s.answerReq r 0x33 3 else { s with pkgId := BitVec.ofNat 9 num }.answerReq r 0x33 0
/-- UE_ADDRESS_SET (R421). -/
def execUeAddressSet (r : MReq) (addrs : List Nat) (s : State) : Out :=
  s.manage r 0x33 false 0 fun s =>
    if addrs.length ≠ 8 then s.answerReq r 0x33 3 else { s with ueAddr := addrs }.answerReq r 0x33 0
/-- KILL_GRID (19 R369). -/
def execKillGrid (r : MReq) (seq : Dword) (s : State) : Out :=
  s.managePart r 0x42 0 fun _ s =>
    match s.gridSeq r.part seq with
    | none => s.answerReq r 0x42 4
    | some (n, _) => (s.endGrid n .killed).answerReq r 0x42 0

/-! ### From outside (19 R386, R387) -/

/-- What comes from outside by itself: a migration message's acknowledgement, the other package's abort, and the rest of the
surroundings. -/
def State.fromOutside (s : State) (m : Move) : State :=
  match m with
  | .migrationAck seq => s.ebbAcked seq
  | .migrationAbort session => s.ebbAborted session
  | m => s.surroundings m

/-! ### Reset (R422) -/

/-- PACKAGE_RESET: the reply, then the reset. -/
def execPackageReset (r : MReq) (s : State) : Out :=
  s.manage r 0x4F true 0 fun s => .next ((s.reply r 0x4F 0 []).afterReset .rom)
/-- RESET_PIN. -/
def execResetPin (s : State) : Out := .next (s.afterReset .rom)
/-- HOST_PORTS_UP. -/
def execHostPortsUp (s : State) : Out := .next (if s.phase = .rom then { s with phase := .romPorts } else s)
/-- The first alert after a reset reports "ready", ahead of those held so far (R415, R422, R424). -/
def State.readyAlert (s : State) : State :=
  { s with alerts := .alert 1 0 s.fw.version 0 0 :: s.alerts.drop (s.alerts.length + 1 - 256) }.sendAlerts
/-- MEMORY_SCRUB_COMPLETE: every sector holds zero bytes under identifier 0, the ready alert is raised, and the requests that came
meanwhile are handled (R415, R422, R424). -/
def execMemoryScrubComplete (s : State) : Out :=
  if s.phase = .training then
    .next ({ s with dram := [], dramKey := [], dramBad := [], phase := .ready }.readyAlert).resumeMgmt
  else .next s

end Sys2Proof.Machine
end

