-- ==== Sys2Proof/Machine/Dispatch.lean ====
section
/-! DEFINITION. One arm per constructor of `Instr`: the meaning of each instruction and event. -/

namespace Sys2Proof.Machine

def exec (i : Instr) (s : State) : Host.Outcome State Fault Refusal :=
  match i with
  | .add o => Sys2Proof.Machine.execAdd o s
  | .sub o => Sys2Proof.Machine.execSub o s
  | .mullo o => Sys2Proof.Machine.execMullo o s
  | .maclo o => Sys2Proof.Machine.execMaclo o s
  | .mulhs o => Sys2Proof.Machine.execMulhs o s
  | .mulhn o => Sys2Proof.Machine.execMulhn o s
  | .mins o => Sys2Proof.Machine.execMins o s
  | .minn o => Sys2Proof.Machine.execMinn o s
  | .maxs o => Sys2Proof.Machine.execMaxs o s
  | .maxn o => Sys2Proof.Machine.execMaxn o s
  | .and o => Sys2Proof.Machine.execAnd o s
  | .or o => Sys2Proof.Machine.execOr o s
  | .xor o => Sys2Proof.Machine.execXor o s
  | .andn o => Sys2Proof.Machine.execAndn o s
  | .shl o => Sys2Proof.Machine.execShl o s
  | .shr o => Sys2Proof.Machine.execShr o s
  | .sra o => Sys2Proof.Machine.execSra o s
  | .rotl o => Sys2Proof.Machine.execRotl o s
  | .clz o => Sys2Proof.Machine.execClz o s
  | .popc o => Sys2Proof.Machine.execPopc o s
  | .brev o => Sys2Proof.Machine.execBrev o s
  | .bswap o => Sys2Proof.Machine.execBswap o s
  | .sel o => Sys2Proof.Machine.execSel o s
  | .mov o => Sys2Proof.Machine.execMov o s
  | .gprd o => Sys2Proof.Machine.execGprd o s
  | .gpwr o => Sys2Proof.Machine.execGpwr o s
  | .ceq o => Sys2Proof.Machine.execCeq o s
  | .cne o => Sys2Proof.Machine.execCne o s
  | .clts o => Sys2Proof.Machine.execClts o s
  | .cltn o => Sys2Proof.Machine.execCltn o s
  | .cles o => Sys2Proof.Machine.execCles o s
  | .clen o => Sys2Proof.Machine.execClen o s
  | .addd o => Sys2Proof.Machine.execAddd o s
  | .subd o => Sys2Proof.Machine.execSubd o s
  | .mulw o => Sys2Proof.Machine.execMulw o s
  | .mulws o => Sys2Proof.Machine.execMulws o s
  | .shld o => Sys2Proof.Machine.execShld o s
  | .shrd o => Sys2Proof.Machine.execShrd o s
  | .srad o => Sys2Proof.Machine.execSrad o s
  | .bfx o => Sys2Proof.Machine.execBfx o s
  | .bfi o => Sys2Proof.Machine.execBfi o s
  | .addi o => Sys2Proof.Machine.execAddi o s
  | .andi o => Sys2Proof.Machine.execAndi o s
  | .ori o => Sys2Proof.Machine.execOri o s
  | .xori o => Sys2Proof.Machine.execXori o s
  | .shli o => Sys2Proof.Machine.execShli o s
  | .shri o => Sys2Proof.Machine.execShri o s
  | .srai o => Sys2Proof.Machine.execSrai o s
  | .rotli o => Sys2Proof.Machine.execRotli o s
  | .muli o => Sys2Proof.Machine.execMuli o s
  | .ceqi o => Sys2Proof.Machine.execCeqi o s
  | .cltsi o => Sys2Proof.Machine.execCltsi o s
  | .cltni o => Sys2Proof.Machine.execCltni o s
  | .lih o => Sys2Proof.Machine.execLih o s
  | .lil o => Sys2Proof.Machine.execLil o s
  | .lis o => Sys2Proof.Machine.execLis o s
  | .adpc o => Sys2Proof.Machine.execAdpc o s
  | .fadd o => Sys2Proof.Machine.execFadd o s
  | .fsub o => Sys2Proof.Machine.execFsub o s
  | .fmul o => Sys2Proof.Machine.execFmul o s
  | .fma o => Sys2Proof.Machine.execFma o s
  | .fmin o => Sys2Proof.Machine.execFmin o s
  | .fmax o => Sys2Proof.Machine.execFmax o s
  | .fceq o => Sys2Proof.Machine.execFceq o s
  | .fclt o => Sys2Proof.Machine.execFclt o s
  | .fcle o => Sys2Proof.Machine.execFcle o s
  | .fcun o => Sys2Proof.Machine.execFcun o s
  | .fabs o => Sys2Proof.Machine.execFabs o s
  | .fneg o => Sys2Proof.Machine.execFneg o s
  | .fcpsgn o => Sys2Proof.Machine.execFcpsgn o s
  | .fclass o => Sys2Proof.Machine.execFclass o s
  | .frcp o => Sys2Proof.Machine.execFrcp o s
  | .frsq o => Sys2Proof.Machine.execFrsq o s
  | .fsqrt o => Sys2Proof.Machine.execFsqrt o s
  | .fex2 o => Sys2Proof.Machine.execFex2 o s
  | .flg2 o => Sys2Proof.Machine.execFlg2 o s
  | .fsinpi o => Sys2Proof.Machine.execFsinpi o s
  | .fcospi o => Sys2Proof.Machine.execFcospi o s
  | .frint o => Sys2Proof.Machine.execFrint o s
  | .ffloor o => Sys2Proof.Machine.execFfloor o s
  | .fceil o => Sys2Proof.Machine.execFceil o s
  | .ftrunc o => Sys2Proof.Machine.execFtrunc o s
  | .cvtfi o => Sys2Proof.Machine.execCvtfi o s
  | .cvtfn o => Sys2Proof.Machine.execCvtfn o s
  | .cvtif o => Sys2Proof.Machine.execCvtif o s
  | .cvtnf o => Sys2Proof.Machine.execCvtnf o s
  | .cvthf o => Sys2Proof.Machine.execCvthf o s
  | .cvtbf o => Sys2Proof.Machine.execCvtbf o s
  | .cvtfhl o => Sys2Proof.Machine.execCvtfhl o s
  | .cvtfhh o => Sys2Proof.Machine.execCvtfhh o s
  | .cvtfbl o => Sys2Proof.Machine.execCvtfbl o s
  | .cvtfbh o => Sys2Proof.Machine.execCvtfbh o s
  | .fdot2F16x2 o => Sys2Proof.Machine.execFdot2F16x2 o s
  | .fdot2Bf16x2 o => Sys2Proof.Machine.execFdot2Bf16x2 o s
  | .pack8 o => Sys2Proof.Machine.execPack8 o s
  | .pack8h o => Sys2Proof.Machine.execPack8h o s
  | .pack8b o => Sys2Proof.Machine.execPack8b o s
  | .unpk8 o => Sys2Proof.Machine.execUnpk8 o s
  | .unpk8h o => Sys2Proof.Machine.execUnpk8h o s
  | .unpk8b o => Sys2Proof.Machine.execUnpk8b o s
  | .amax4 o => Sys2Proof.Machine.execAmax4 o s
  | .fmtchk o => Sys2Proof.Machine.execFmtchk o s
  | .shfx o => Sys2Proof.Machine.execShfx o s
  | .shfup o => Sys2Proof.Machine.execShfup o s
  | .shfdn o => Sys2Proof.Machine.execShfdn o s
  | .shfix o => Sys2Proof.Machine.execShfix o s
  | .bcasti o => Sys2Proof.Machine.execBcasti o s
  | .shfxi o => Sys2Proof.Machine.execShfxi o s
  | .vall o => Sys2Proof.Machine.execVall o s
  | .vany o => Sys2Proof.Machine.execVany o s
  | .vbal o => Sys2Proof.Machine.execVbal o s
  | .vcnt o => Sys2Proof.Machine.execVcnt o s
  | .redadd o => Sys2Proof.Machine.execRedadd o s
  | .redmin o => Sys2Proof.Machine.execRedmin o s
  | .redmax o => Sys2Proof.Machine.execRedmax o s
  | .fredadd o => Sys2Proof.Machine.execFredadd o s
  | .scanadd o => Sys2Proof.Machine.execScanadd o s
  | .fscanadd o => Sys2Proof.Machine.execFscanadd o s
  | .jmp off => Sys2Proof.Machine.execJmp off s
  | .call k off => Sys2Proof.Machine.execCall k off s
  | .jmpr a => Sys2Proof.Machine.execJmpr a s
  | .callr k a => Sys2Proof.Machine.execCallr k a s
  | .ret => Sys2Proof.Machine.execRet s
  | .exit g => Sys2Proof.Machine.execExit g s
  | .beq o => Sys2Proof.Machine.execBeq o s
  | .bne o => Sys2Proof.Machine.execBne o s
  | .blts o => Sys2Proof.Machine.execBlts o s
  | .bltn o => Sys2Proof.Machine.execBltn o s
  | .bges o => Sys2Proof.Machine.execBges o s
  | .bgen o => Sys2Proof.Machine.execBgen o s
  | .loop a len => Sys2Proof.Machine.execLoop a len s
  | .rjen k => Sys2Proof.Machine.execRjen k s
  | .rjwait k => Sys2Proof.Machine.execRjwait k s
  | .rjdrop k => Sys2Proof.Machine.execRjdrop k s
  | .rjclr k => Sys2Proof.Machine.execRjclr k s
  | .wadj imm => Sys2Proof.Machine.execWadj imm s
  | .nop => Sys2Proof.Machine.execNop s
  | .yield => Sys2Proof.Machine.execYield s
  | .bar n => Sys2Proof.Machine.execBar n s
  | .bara n => Sys2Proof.Machine.execBara n s
  | .trapc o => Sys2Proof.Machine.execTrapc o s
  | .brk g => Sys2Proof.Machine.execBrk g s
  | .sigx o => Sys2Proof.Machine.execSigx o s
  | .ifence => Sys2Proof.Machine.execIfence s
  | .icinv a => Sys2Proof.Machine.execIcinv a s
  | .ldw o => Sys2Proof.Machine.execLdw o s
  | .ldd o => Sys2Proof.Machine.execLdd o s
  | .ldq o => Sys2Proof.Machine.execLdq o s
  | .ldhn o => Sys2Proof.Machine.execLdhn o s
  | .ldhs o => Sys2Proof.Machine.execLdhs o s
  | .ldbn o => Sys2Proof.Machine.execLdbn o s
  | .ldbs o => Sys2Proof.Machine.execLdbs o s
  | .stw o => Sys2Proof.Machine.execStw o s
  | .std o => Sys2Proof.Machine.execStd o s
  | .stq o => Sys2Proof.Machine.execStq o s
  | .sth o => Sys2Proof.Machine.execSth o s
  | .stb o => Sys2Proof.Machine.execStb o s
  | .ldwx o => Sys2Proof.Machine.execLdwx o s
  | .lddx o => Sys2Proof.Machine.execLddx o s
  | .stwx o => Sys2Proof.Machine.execStwx o s
  | .stdx o => Sys2Proof.Machine.execStdx o s
  | .llw o => Sys2Proof.Machine.execLlw o s
  | .lsw o => Sys2Proof.Machine.execLsw o s
  | .lld o => Sys2Proof.Machine.execLld o s
  | .lsd o => Sys2Proof.Machine.execLsd o s
  | .llq o => Sys2Proof.Machine.execLlq o s
  | .lsq o => Sys2Proof.Machine.execLsq o s
  | .aadd o => Sys2Proof.Machine.execAadd o s
  | .aand o => Sys2Proof.Machine.execAand o s
  | .aor o => Sys2Proof.Machine.execAor o s
  | .axor o => Sys2Proof.Machine.execAxor o s
  | .amins o => Sys2Proof.Machine.execAmins o s
  | .aminn o => Sys2Proof.Machine.execAminn o s
  | .amaxs o => Sys2Proof.Machine.execAmaxs o s
  | .amaxn o => Sys2Proof.Machine.execAmaxn o s
  | .aswap o => Sys2Proof.Machine.execAswap o s
  | .acas o => Sys2Proof.Machine.execAcas o s
  | .afadd o => Sys2Proof.Machine.execAfadd o s
  | .ald o => Sys2Proof.Machine.execAld o s
  | .ast o => Sys2Proof.Machine.execAst o s
  | .fence order scope => Sys2Proof.Machine.execFence order scope s
  | .cwb o => Sys2Proof.Machine.execCwb o s
  | .cinv o => Sys2Proof.Machine.execCinv o s
  | .pref o => Sys2Proof.Machine.execPref o s
  | .cpy o => Sys2Proof.Machine.execCpy o s
  | .cpywait o => Sys2Proof.Machine.execCpywait o s
  | .cpyst o => Sys2Proof.Machine.execCpyst o s
  | .put o => Sys2Proof.Machine.execPut o s
  | .putm o => Sys2Proof.Machine.execPutm o s
  | .binit o => Sys2Proof.Machine.execBinit o s
  | .barv o => Sys2Proof.Machine.execBarv o s
  | .bwait o => Sys2Proof.Machine.execBwait o s
  | .bkill o => Sys2Proof.Machine.execBkill o s
  | .bexp o => Sys2Proof.Machine.execBexp o s
  | .btest o => Sys2Proof.Machine.execBtest o s
  | .mma a b => Sys2Proof.Machine.execMma a b s
  | .mmas a b => Sys2Proof.Machine.execMmas a b s
  | .mmaz a b => Sys2Proof.Machine.execMmaz a b s
  | .acrd o => Sys2Proof.Machine.execAcrd o s
  | .acwr o => Sys2Proof.Machine.execAcwr o s
  | .acz o => Sys2Proof.Machine.execAcz o s
  | .accvt o => Sys2Proof.Machine.execAccvt o s
  | .spawn o => Sys2Proof.Machine.execSpawn o s
  | .sflush o => Sys2Proof.Machine.execSflush o s
  | .launch o => Sys2Proof.Machine.execLaunch o s
  | .vpub o => Sys2Proof.Machine.execVpub o s
  | .vfin o => Sys2Proof.Machine.execVfin o s
  | .vstop o => Sys2Proof.Machine.execVstop o s
  | .vstale o => Sys2Proof.Machine.execVstale o s
  | .vrd o => Sys2Proof.Machine.execVrd o s
  | .vslack => Sys2Proof.Machine.execVslack s
  | .vseen o => Sys2Proof.Machine.execVseen o s
  | .gets d sel => Sys2Proof.Machine.execGets d sel s
  | .puts sel a => Sys2Proof.Machine.execPuts sel a s
  | .dwrd d a => Sys2Proof.Machine.execDwrd d a s
  | .dwwr d a b => Sys2Proof.Machine.execDwwr d a b s
  | .tret a => Sys2Proof.Machine.execTret a s
  | .halt d => Sys2Proof.Machine.execHalt d s
  | .illegalWordIssue w => Sys2Proof.Machine.execIllegalWordIssue w s
  | .cycloRead d => Sys2Proof.Machine.execCycloRead d s
  | .acownerWrite a => Sys2Proof.Machine.execAcownerWrite a s
  | .acownerChange die => Sys2Proof.Machine.execAcownerChange die s
  | .contextSave die via => Sys2Proof.Machine.execContextSave die via s
  | .contextRestore die via => Sys2Proof.Machine.execContextRestore die via s
  | .contextCommandDone die => Sys2Proof.Machine.execContextCommandDone die s
  | .icacheFill gid => Sys2Proof.Machine.execIcacheFill gid s
  | .translationWalkDone die n => Sys2Proof.Machine.execTranslationWalkDone die n s
  | .asyncReturn rid => Sys2Proof.Machine.execAsyncReturn rid s
  | .storeCurrentAtHome rid => Sys2Proof.Machine.execStoreCurrentAtHome rid s
  | .atomicAtHome rid => Sys2Proof.Machine.execAtomicAtHome rid s
  | .loadAtHome rid => Sys2Proof.Machine.execLoadAtHome rid s
  | .sharerUpdateApply uid => Sys2Proof.Machine.execSharerUpdateApply uid s
  | .storeAck rid => Sys2Proof.Machine.execStoreAck rid s
  | .epochClose die => Sys2Proof.Machine.execEpochClose die s
  | .closeMarkerArrive dst src => Sys2Proof.Machine.execCloseMarkerArrive dst src s
  | .sequencerServe => Sys2Proof.Machine.execSequencerServe s
  | .spillBlock gid => Sys2Proof.Machine.execSpillBlock gid s
  | .fillBlock gid => Sys2Proof.Machine.execFillBlock gid s
  | .loopPacketEject pid => Sys2Proof.Machine.execLoopPacketEject pid s
  | .edgeFlitSend l => Sys2Proof.Machine.execEdgeFlitSend l s
  | .edgeFlitReceive l crcOk => Sys2Proof.Machine.execEdgeFlitReceive l crcOk s
  | .edgeAckReceive l => Sys2Proof.Machine.execEdgeAckReceive l s
  | .edgeNakReceive l => Sys2Proof.Machine.execEdgeNakReceive l s
  | .windowAuditSend l => Sys2Proof.Machine.execWindowAuditSend l s
  | .windowAuditReceive l intact => Sys2Proof.Machine.execWindowAuditReceive l intact s
  | .linkLossOfLock link => Sys2Proof.Machine.execLinkLossOfLock link s
  | .linkRetrainDone link => Sys2Proof.Machine.execLinkRetrainDone link s
  | .linkDown link => Sys2Proof.Machine.execLinkDown link s
  | .rutikPlaneDown plane => Sys2Proof.Machine.execRutikPlaneDown plane s
  | .copyReadReturn core cid row piece => Sys2Proof.Machine.execCopyReadReturn core cid row piece s
  | .copyLanding core cid row piece => Sys2Proof.Machine.execCopyLanding core cid row piece s
  | .putReceive core cid dest => Sys2Proof.Machine.execPutReceive core cid dest s
  | .putReply core cid dest => Sys2Proof.Machine.execPutReply core cid dest s
  | .mmaQueueStart core => Sys2Proof.Machine.execMmaQueueStart core s
  | .mmasInstanceStart grid cluster => Sys2Proof.Machine.execMmasInstanceStart grid cluster s
  | .mmaOperandRead core op isB va => Sys2Proof.Machine.execMmaOperandRead core op isB va s
  | .mmaComplete core op => Sys2Proof.Machine.execMmaComplete core op s
  | .groupRetire gid => Sys2Proof.Machine.execGroupRetire gid s
  | .teamRetire tid => Sys2Proof.Machine.execTeamRetire tid s
  | .commit run n => Sys2Proof.Machine.execCommit run n s
  | .gridEnd grid => Sys2Proof.Machine.execGridEnd grid s
  | .holdTimeout gid => Sys2Proof.Machine.execHoldTimeout gid s
  | .demeritExpire core n => Sys2Proof.Machine.execDemeritExpire core n s
  | .fpThresholdEvent grid counter => Sys2Proof.Machine.execFpThresholdEvent grid counter s
  | .binTimerExpire core bin => Sys2Proof.Machine.execBinTimerExpire core bin s
  | .binGroupStart core bin => Sys2Proof.Machine.execBinGroupStart core bin s
  | .overflowDrain die part core => Sys2Proof.Machine.execOverflowDrain die part core s
  | .taskUnitClock grid => Sys2Proof.Machine.execTaskUnitClock grid s
  | .doorbellWrite qp rem val => Sys2Proof.Machine.execDoorbellWrite qp rem val s
  | .dispatch part => Sys2Proof.Machine.execDispatch part s
  | .placement part => Sys2Proof.Machine.execPlacement part s
  | .compactorMove core pool tid n => Sys2Proof.Machine.execCompactorMove core pool tid n s
  | .releaseWave dom => Sys2Proof.Machine.execReleaseWave dom s
  | .preemption r seq cores immediate => Sys2Proof.Machine.execPreemption r seq cores immediate s
  | .preemptForce => Sys2Proof.Machine.execPreemptForce s
  | .teamSave tid => Sys2Proof.Machine.execTeamSave tid s
  | .cut r seqs num => Sys2Proof.Machine.execCut r seqs num s
  | .cutMarkerReceive die station src num => Sys2Proof.Machine.execCutMarkerReceive die station src num s
  | .cutComplete num => Sys2Proof.Machine.execCutComplete num s
  | .migrationSession r e => Sys2Proof.Machine.execMigrationSession r e s
  | .ebbPass region => Sys2Proof.Machine.execEbbPass region s
  | .ebbMessageReceive h m => Sys2Proof.Machine.execEbbMessageReceive h m s
  | .ebbFinalCopy => Sys2Proof.Machine.execEbbFinalCopy s
  | .domainIntervalBoundary dom => Sys2Proof.Machine.execDomainIntervalBoundary dom s
  | .boostClaim dom => Sys2Proof.Machine.execBoostClaim dom s
  | .permitArbitration arrived => Sys2Proof.Machine.execPermitArbitration arrived s
  | .domainIdleEnter dom => Sys2Proof.Machine.execDomainIdleEnter dom s
  | .domainWake dom => Sys2Proof.Machine.execDomainWake dom s
  | .telemetryFrame f us => Sys2Proof.Machine.execTelemetryFrame f us s
  | .shedForce gid => Sys2Proof.Machine.execShedForce gid s
  | .telemetryLoss us => Sys2Proof.Machine.execTelemetryLoss us s
  | .powerControlStep total attributed => Sys2Proof.Machine.execPowerControlStep total attributed s
  | .thermalThrottle die temp => Sys2Proof.Machine.execThermalThrottle die temp s
  | .thermalRecover die temp => Sys2Proof.Machine.execThermalRecover die temp s
  | .thermalTrip die temp => Sys2Proof.Machine.execThermalTrip die temp s
  | .rdmaWrite qp rem bytes => Sys2Proof.Machine.execRdmaWrite qp rem bytes s
  | .rdmaRead qp va len => Sys2Proof.Machine.execRdmaRead qp va len s
  | .uecPacketReceive part va bytes => Sys2Proof.Machine.execUecPacketReceive part va bytes s
  | .cmReq service src rc => Sys2Proof.Machine.execCmReq service src rc s
  | .cmRtu qp => Sys2Proof.Machine.execCmRtu qp s
  | .cmDreq qp => Sys2Proof.Machine.execCmDreq qp s
  | .unknownRequest r type => Sys2Proof.Machine.execUnknownRequest r type s
  | .identity r => Sys2Proof.Machine.execIdentity r s
  | .firmwareChunk r off data => Sys2Proof.Machine.execFirmwareChunk r off data s
  | .firmwareStart r => Sys2Proof.Machine.execFirmwareStart r s
  | .healthRecord r => Sys2Proof.Machine.execHealthRecord r s
  | .partitionCreate r mask => Sys2Proof.Machine.execPartitionCreate r mask s
  | .partitionDestroy r => Sys2Proof.Machine.execPartitionDestroy r s
  | .regionTableWrite r die idx entry => Sys2Proof.Machine.execRegionTableWrite r die idx entry s
  | .regionFlush r die idx => Sys2Proof.Machine.execRegionFlush r die idx s
  | .regionFlushDrained die idx => Sys2Proof.Machine.execRegionFlushDrained die idx s
  | .slotTableWrite r die loop owners => Sys2Proof.Machine.execSlotTableWrite r die loop owners s
  | .multicastEntryLoad r die station ident entry => Sys2Proof.Machine.execMulticastEntryLoad r die station ident entry s
  | .hostQueueDescriptorWrite r queue desc => Sys2Proof.Machine.execHostQueueDescriptorWrite r queue desc s
  | .doorbellPageRead r => Sys2Proof.Machine.execDoorbellPageRead r s
  | .spillPoolSet r base frame => Sys2Proof.Machine.execSpillPoolSet r base frame s
  | .logRegionSet r base size => Sys2Proof.Machine.execLogRegionSet r base size s
  | .overflowQueueSet r die base tasks => Sys2Proof.Machine.execOverflowQueueSet r die base tasks s
  | .holdTimeoutSet r us => Sys2Proof.Machine.execHoldTimeoutSet r us s
  | .pageTableRootSet r root => Sys2Proof.Machine.execPageTableRootSet r root s
  | .tlbShootdown r range => Sys2Proof.Machine.execTlbShootdown r range s
  | .tlbShootdownComplete n => Sys2Proof.Machine.execTlbShootdownComplete n s
  | .dataQpCreate r service => Sys2Proof.Machine.execDataQpCreate r service s
  | .dataQpDestroy r qp => Sys2Proof.Machine.execDataQpDestroy r qp s
  | .keyInstall r ident point wrapped => Sys2Proof.Machine.execKeyInstall r ident point wrapped s
  | .keyReplace r ident point wrapped => Sys2Proof.Machine.execKeyReplace r ident point wrapped s
  | .keyDestroy r ident => Sys2Proof.Machine.execKeyDestroy r ident s
  | .powerSettingsWrite r p => Sys2Proof.Machine.execPowerSettingsWrite r p s
  | .powerStatusRead r => Sys2Proof.Machine.execPowerStatusRead r s
  | .powerStatusClear r val => Sys2Proof.Machine.execPowerStatusClear r val s
  | .demeritPolicySet r threshold window => Sys2Proof.Machine.execDemeritPolicySet r threshold window s
  | .unfence r core => Sys2Proof.Machine.execUnfence r core s
  | .suspectSliceClear r => Sys2Proof.Machine.execSuspectSliceClear r s
  | .linkStatusRead r l => Sys2Proof.Machine.execLinkStatusRead r l s
  | .linkStatusClear r l val => Sys2Proof.Machine.execLinkStatusClear r l val s
  | .linkReset r link => Sys2Proof.Machine.execLinkReset r link s
  | .packageNumberSet r num => Sys2Proof.Machine.execPackageNumberSet r num s
  | .ueAddressSet r addrs => Sys2Proof.Machine.execUeAddressSet r addrs s
  | .killGrid r seq => Sys2Proof.Machine.execKillGrid r seq s
  | .packageReset r => Sys2Proof.Machine.execPackageReset r s
  | .resetPin => Sys2Proof.Machine.execResetPin s
  | .hostPortsUp => Sys2Proof.Machine.execHostPortsUp s
  | .memoryScrubComplete => Sys2Proof.Machine.execMemoryScrubComplete s
  | .controllerAcceptsWrite gid => Sys2Proof.Machine.execControllerAcceptsWrite gid s
  | .linkTrainingComplete link => Sys2Proof.Machine.execLinkTrainingComplete link s
  | .dieSupplyChange die millivolts => Sys2Proof.Machine.execDieSupplyChange die millivolts s

end Sys2Proof.Machine
end

