-- ==== Sys2Proof/Machine/Step.lean ====
section
/-! DEFINITION. One step of the package: the next move of the agenda, or with none the turn of the next unit (log 1); and the
state in which the next step runs a given word (log 2). -/

namespace Sys2Proof.Machine

/-- The instruction that a fetched word is: a word that traps at decode is an ILLEGAL_WORD_ISSUE (02 R32). -/
def instrOf (w : Word) : Instr :=
  match decode w with
  | .ok i => i
  | .error _ => .illegalWordIssue w

/-- The slot pointer of the barrel that had its turn moves on (01 R13; 20 R409). -/
def State.rotate (s : State) : State :=
  if s.turn < 1024 then
    s.updCore (s.turn / 4) fun c => { c with rot := c.rot.setD 0 (s.turn % 4) ((c.rot.getD 0 (s.turn % 4) + 1) % 128) }
  else s

/-- What happens by itself after every move, in the same step: the part's own writes that waited are made (11 R245; 04 R76), loads that
waited for earlier accesses of their line are performed (06 R120), arrivals go on and barriers that are ready open (13 R296, R300), and
forced groups at a boundary are parked (20 R402). -/
def State.quiesce (s : State) : State := s.drainPend.releaseQueued.arrivals.openBarriers.parkForced
/-- What follows every move. -/
def afterMove (o : Out) (f : State → State) : Out := thenDo o fun s => f s.quiesce

/-- A unit's turn: its group issues the word it fetches; with no issue or on a miss nothing happens (01 R13; 13 R281,
R298). -/
def State.runTurn (s : State) : Out :=
  match s.issue with
  | none => .next s
  | some x => match s.fetchWord x with
    | none => .next s
    | some w => thenDo (exec (instrOf w) s) fun t => t.afterIssue (instrOf w) w x

/-- An event that the part or its surroundings make happen, as against the instructions of a group. -/
def Instr.spontaneous (i : Instr) : Bool :=
  match i with
  | .illegalWordIssue _ | .cycloRead _ | .acownerWrite _ => false
  | i => !i.hasWord

/-- A management request that must wait joins the waiting ones (21 R415). -/
def State.deferred (s : State) (m : Move) : State :=
  if s.mgmtDefer then { s with mgmtDefer := false, mgmtQ := s.mgmtQ ++ [m] } else s

/-- One move. -/
def runMove (m : Move) (s : State) : Out :=
  match m with
  | .turn u => afterMove { s with turn := u }.runTurn State.rotate
  | .event e => if Instr.spontaneous e then afterMove (exec e s) fun s => s.deferred m else .next s
  | .lateRequest r type => afterMove (s.lateRequest r type) fun s => s.deferred m
  | m => .next (s.fromOutside m)

/-- One step. While a thermal trip holds the part in reset only the reset pin acts: every other move is lost (21 R423). -/
def step (s : State) : Host.Outcome State Fault Refusal :=
  match s.phase, s.agenda with
  | .tripped, .event .resetPin :: rest => exec .resetPin { s with agenda := rest }
  | .tripped, _ :: rest => .next { s with agenda := rest }
  | .tripped, [] => .next s
  | _, m :: rest => runMove m { s with agenda := rest }
  | _, [] => afterMove s.runTurn fun t => { t.rotate with turn := (s.turn + 1) % 1028 }

/-- The state in which the very next step issues the word `w`: a partition, grid, team and group stand in slot 0 of barrel 0
of core 0, whose instruction cache holds the word at PC 0; for a word of privileged mode the control core of Q0 stands
instead (log 2). -/
def State.withFetchWord (s : State) (_nbits w : Nat) : State :=
  let w : Word := BitVec.ofNat 32 w
  let priv := match decode w with
    | .ok i => i.modeTrap false == some 0x02
    | .error _ => false
  let line : ILine := ⟨w :: List.replicate 31 0#32⟩
  let lanes : Vector Lane 32 := Vector.ofFn fun l => if priv && l.val ≠ 0 then { st := .exited } else {}
  let s := { s with agenda := [], phase := .ready, nextId := max s.nextId 2 }
  if priv then
    let s := s.updCore 256 fun c => { c with ilines := c.ilines.put (ilineKey 64 0) line }
    { s with turn := 1024, groups := s.groups.put 8192 { team := 0, lanes, priv := true } }
  else
    let s := s.updCore 0 fun c => { c with ilines := c.ilines.put (ilineKey 0 0) line, rot := c.rot.setD 0 0 0 }
    { s with
      turn := 0
      parts := s.parts.put 0 { domains := 1 }
      grids := s.grids.put 1 { part := 0, queue := 0, evQueue := 0, seq := 1, recd := {} }
      teams := s.teams.put 1 { grid := 1, core := 0 }
      groups := s.groups.put 0 { team := 1, lanes } }

end Sys2Proof.Machine
end

