-- ==== Sys2Proof/Safety.lean ====
section
/-! DEFINITION. What counts as a safe run, in the terms of the statements. -/

namespace Sys2Proof

/-- A state from which no number of steps faults or is refused. -/
def SafeFrom (s : Machine.State) : Prop := ∀ k, ∃ t, core.run k s = .next t

/-- The stored memory is in its canonical form. -/
def MemCanonical (s : Machine.State) : Prop := Machine.Memory.wf s.dram = true

/-- A property that every step from a state with it keeps. -/
def StepKeeps (P : Machine.State → Prop) : Prop := ∀ s t, P s → Machine.step s = .next t → P t

namespace Machine

/-! ### What a statement says an issue leaves -/

/-- What moving a lane on never changes of it: all but its PC, its state and its count of R284. -/
def Lane.still (v : Lane) : Lane := { v with pc := 0#32, st := .eligible, starve := 0 }

/-- What moving lanes on never changes of a group: all but where its lanes stand, the rejoin masks, the loop levels with their
counters, and the instruction it is inside of (13 R281 to R294). -/
def Group.still (g : Group) : Group :=
  { g.mapLanes (fun _ v => v.still) with
    rj := Vector.ofFn fun _ => 0#32, lc := Vector.ofFn fun _ => 0#32, levels := [], pin := none, wait := .none, acq := false }

/-- A step has changed one group and nothing else of the package. -/
def OnlyGroup (s t : State) (gid : Nat) (g' : Group) : Prop :=
  t.grp gid = some g' ∧ (∀ k, k ≠ gid → t.grp k = s.grp k) ∧ { t with groups := s.groups } = s

/-- An entry is as it was, but that reading it may have marked it poisoned (08 R173). -/
def RCell.near (c c' : RCell) : Prop := c' = c ∨ c' = c.scrub

/-- The operands of an issue are there: no word it reads or overwrites is pending, and no participating lane meets a poisoned
or uncorrectable word (06 R127; 08 R173, R175). -/
def Issue.Ready (x : Issue) (n : Nat) (part : Mask) (srcs waits : List Operand) : Prop :=
  x.g.pending n x.act waits = false ∧ ∀ l, Mask.has part l = true → x.g.operandTrap n srcs l = none

/-- A synchronous register result of the lanes of `done` (02 R22, R23; 08 R166, R167; 12 R271): the destination's words in each
of those lanes, or for an `s` destination the lowest lane's; nothing with nw or for `z`; the words pushed onto the latches and
folded into the signature; and every other register as it was. -/
structure Wrote (g : Group) (n : Nat) (done : Mask) (nw : Bool) (dst : Operand) (vals : LaneIx → List Word) (g' : Group) :
    Prop where
  window : nw = false → dst.r.toNat < 96 → ∀ l, Mask.has done l = true → ∀ i, i < dst.w →
    g'.cell n l (dst.r.toNat + i) = { val := (vals l).getD i 0#32 }
  uniform : nw = false → 97 ≤ dst.r.toNat → dst.r.toNat ≤ 119 → ∀ l0, Mask.low done = some l0 → ∀ i, i < dst.w →
    g'.s.getD {} (dst.r.toNat + i) = { val := (vals l0).getD i 0#32 }
  others : ∀ l k, ¬ (nw = false ∧ dst.r.toNat < 96 ∧ Mask.has done l = true ∧ ∃ i, i < dst.w ∧
      k = (g.lane l).slot n (dst.r.toNat + i)) →
    RCell.near ((g.lane l).stack.getD {} k) ((g'.lane l).stack.getD {} k)
  othersS : ∀ k, ¬ (nw = false ∧ 97 ≤ dst.r.toNat ∧ dst.r.toNat ≤ 119 ∧ done ≠ 0#32 ∧ ∃ i, i < dst.w ∧ k = dst.r.toNat + i) →
    RCell.near (g.s.getD {} k) (g'.s.getD {} k)
  latches : ∀ l, ∃ fw : Ring, (∀ i, i < 4 → RCell.near ((g.lane l).fw.get i) (fw.get i)) ∧
    (g'.lane l).fw = if Mask.has done l then (resultOf done dst vals l).foldl Ring.push fw else fw
  signature : ∀ l, (g'.lane l).rsig = if Mask.has done l && (!(decide (97 ≤ dst.r.toNat) && decide (dst.r.toNat ≤ 119)) ||
      Mask.low done == some l) then (resultOf done dst vals l).foldl (fun r w => r.rotateLeft 7 ^^^ w) (g.lane l).rsig
      else (g.lane l).rsig
  /-- the frame: nothing but registers, latches, signatures and `gp` has changed, and where the lanes stand -/
  rest : ∀ l, { (g'.lane l).still with stack := [], fw := {}, rsig := 0#32, nfold := 0 } =
    { (g.lane l).still with stack := [], fw := {}, rsig := 0#32, nfold := 0 }
  frame : { g'.still with lanes := g.lanes, s := [], gp := 0#32 } = { g.still with lanes := g.lanes, s := [], gp := 0#32 }

/-- An issue that writes no register: where the lanes stand may have changed, and entries it read may have been marked
poisoned; everything else of the group is as it was. -/
structure Moved (g g' : Group) : Prop where
  window : ∀ l k, RCell.near ((g.lane l).stack.getD {} k) ((g'.lane l).stack.getD {} k)
  uniform : ∀ k, RCell.near (g.s.getD {} k) (g'.s.getD {} k)
  latches : ∀ l i, i < 4 → RCell.near ((g.lane l).fw.get i) ((g'.lane l).fw.get i)
  rest : ∀ l, { (g'.lane l).still with stack := [], fw := {} } = { (g.lane l).still with stack := [], fw := {} }
  frame : { g'.still with lanes := g.lanes, s := [] } = { g.still with lanes := g.lanes, s := [] }

end Machine

end Sys2Proof
end

