-- ==== Sys2Proof/Certificates/Slice0/Obligations.lean ====
section
/-! DEFINITION. The statements about the model, and the vocabulary they are written in. -/

namespace Sys2Proof.Rules
open Sys2Proof Sys2Proof.Machine

/-! ### Instructions that compute a value in each lane -/

/-- The instruction neither ends a loop body for an active lane nor takes one out of a body, and no level waits to be decided:
the levels stay as they are (13 R293, R294). With no open level this holds. -/
def Steady (x : Issue) (next : LaneIx → Word) : Prop :=
  ∀ lv ∈ x.g.levels, lv.members ≠ lv.arrived ∧ lv.members ≠ 0#32 ∧
    ∀ l, Mask.has x.act l = true → Mask.has lv.arrived l = false ∧ (Mask.has lv.members l = true →
      lv.leaves (x.g.lane l).wb (next l) = false ∧
        ¬ (lv.wbn = (x.g.lane l).wb ∧ lv.stop = x.pc ∧ next l = lv.stop + 4#32))

/-- The lanes of a mask go on, each at its own next PC (13 R282). -/
def GoOn (_ : Issue) (m : Mask) (next : LaneIx → Word) (g' : Group) : Prop :=
  ∀ l, Mask.has m l = true → (g'.lane l).pc = next l ∧ (g'.lane l).st = .eligible

/-- The rejoin masks, the loop counters and the loop levels are as they were, and the group is inside of no instruction. -/
structure Kept (g g' : Group) : Prop where
  rejoin : g'.rj = g.rj
  counters : g'.lc = g.lc
  levels : g'.levels = g.levels
  outside : g'.pin = none ∧ g'.wait = .none

/-- What the spec gives such an instruction: its guard and nw bits, its sources, its destination, and what it computes in a
participating lane of an issue. -/
structure ValueRule where
  guard : Bool
  nw : Bool
  srcs : List Operand
  dst : Operand
  res : Issue → Nat → LaneIx → LaneRes → Prop

/-- The condition under which such an issue executes normally (06 R127; 08 R173, R175): no word it reads or overwrites is
pending, and no participating lane reads a poisoned or uncorrectable word. The window is resident (08 R159). -/
def ValueRule.Runs (r : ValueRule) (s : State) (x : Issue) : Prop :=
  s.issue = some x ∧ 96 ≤ s.stackOf x.g ∧
    x.Ready (s.stackOf x.g) (x.part r.guard) r.srcs (r.srcs ++ if r.nw then [] else [r.dst])

/-- What such an issue leaves: the result of each participating lane in the destination, the latches and the signature, the
`gp` bits it sets, and nothing else of the package but the FP counters (10 R208, R211); every active lane goes on behind the
instruction, and where no rejoin mask waits to be released, masks, levels and counters stay (13 R282, R289, R294). -/
def ValueRule.Leaves (r : ValueRule) (s : State) (x : Issue) (t : State) : Prop :=
  ∃ (g' : Group) (f : LaneIx → LaneRes), (∀ l, Mask.has (x.part r.guard) l = true → r.res x (s.stackOf x.g) l (f l)) ∧
    OnlyGroup (s.countFp x.g ((Mask.lanes (x.part r.guard)).flatMap fun l => (f l).ev)) t x.gid g' ∧
    Wrote x.g (s.stackOf x.g) (x.part r.guard) r.nw r.dst (fun l => (f l).words) g' ∧
    g'.gp = setGp x.g.gp (maskOf fun l => Mask.has (x.part r.guard) l && (f l).gp.isSome) (fun l => ((f l).gp).getD false) ∧
    (Steady x x.seq → GoOn x x.act x.seq g' ∧ ((∀ k, x.g.rejoinReady k = false) → Kept x.g g'))

/-- The instruction's rule holds of the model. -/
def ValueRule.Holds (r : ValueRule) (i : Instr) : Prop :=
  ∀ s x, r.Runs s x → ∃ t, exec i s = .next t ∧ r.Leaves s x t

/-- Two word sources, a word result. -/
def binary (o : A3) (f : Word → Word → Word) : ValueRule :=
  ⟨o.g, o.nw, [⟨o.a, 1⟩, ⟨o.b, 1⟩], ⟨o.d, 1⟩, fun x n l r => r = { words := [f (x.g.src n l o.a) (x.g.src n l o.b)] }⟩
/-- Three word sources, the third being d. -/
def ternary (o : A3) (f : Word → Word → Word → Word) : ValueRule :=
  ⟨o.g, o.nw, [⟨o.a, 1⟩, ⟨o.b, 1⟩, ⟨o.d, 1⟩], ⟨o.d, 1⟩, fun x n l r =>
    r = { words := [f (x.g.src n l o.a) (x.g.src n l o.b) (x.g.src n l o.d)] }⟩
/-- One word source, a word result related to it. -/
def unaryRel (o : A2) (p : Word → Word → Prop) : ValueRule :=
  ⟨o.g, o.nw, [⟨o.a, 1⟩], ⟨o.d, 1⟩, fun x n l r => ∃ w, p (x.g.src n l o.a) w ∧ r = { words := [w] }⟩
/-- One word source and an immediate. -/
def immediate (o : AI) (f : Word → Word → Word) : ValueRule :=
  ⟨false, o.nw, [⟨o.a, 1⟩], ⟨o.d, 1⟩, fun x n l r => r = { words := [f (x.g.src n l o.a) (o.imm.signExtend 32)] }⟩
/-- One word source and an amount. -/
def amount (o : AIsh) (f : Word → Nat → Word) : ValueRule :=
  ⟨false, o.nw, [⟨o.a, 1⟩], ⟨o.d, 1⟩, fun x n l r => r = { words := [f (x.g.src n l o.a) o.imm.toNat] }⟩
/-- The words of a pair result, low word first (02 R23). -/
def pairWords (v : Nat) : List Word := [BitVec.ofNat 32 v, BitVec.ofNat 32 (v / 2 ^ 32)]
/-- A compare of two words: 1 or 0 to d and to `gp` (10 R219). -/
def compare (o : A3) (p : Word → Word → Bool) : ValueRule :=
  ⟨o.g, o.nw, [⟨o.a, 1⟩, ⟨o.b, 1⟩], ⟨o.d, 1⟩, fun x n l r =>
    r = { words := [if p (x.g.src n l o.a) (x.g.src n l o.b) then 1#32 else 0#32],
          gp := some (p (x.g.src n l o.a) (x.g.src n l o.b)) }⟩
/-- A compare with an immediate. -/
def compareImm (o : AI) (p : Word → Word → Bool) : ValueRule :=
  ⟨false, o.nw, [⟨o.a, 1⟩], ⟨o.d, 1⟩, fun x n l r =>
    r = { words := [if p (x.g.src n l o.a) (o.imm.signExtend 32) then 1#32 else 0#32],
          gp := some (p (x.g.src n l o.a) (o.imm.signExtend 32)) }⟩

/-- The two-source integer operations (10 R212). -/
def arithmetic : Instr → Option ValueRule
  | .add o => some (binary o fun a b => BitVec.ofNat 32 (a.toNat + b.toNat))
  | .sub o => some (binary o fun a b => BitVec.ofInt 32 (a.toNat - b.toNat))
  | .mullo o => some (binary o fun a b => BitVec.ofNat 32 (a.toNat * b.toNat))
  | .maclo o => some (ternary o fun a b d => BitVec.ofNat 32 (d.toNat + a.toNat * b.toNat))
  | .mulhs o => some (binary o fun a b => BitVec.ofInt 32 (a.toInt * b.toInt / 2 ^ 32))
  | .mulhn o => some (binary o fun a b => BitVec.ofNat 32 (a.toNat * b.toNat / 2 ^ 32))
  | .mins o => some (binary o fun a b => BitVec.ofInt 32 (min a.toInt b.toInt))
  | .minn o => some (binary o fun a b => BitVec.ofNat 32 (min a.toNat b.toNat))
  | .maxs o => some (binary o fun a b => BitVec.ofInt 32 (max a.toInt b.toInt))
  | .maxn o => some (binary o fun a b => BitVec.ofNat 32 (max a.toNat b.toNat))
  | .and o => some (binary o fun a b => a &&& b)
  | .or o => some (binary o fun a b => a ||| b)
  | .xor o => some (binary o fun a b => a ^^^ b)
  | .andn o => some (binary o fun a b => a &&& ~~~b)
  | _ => none

/-- The shifts, the bit operations and the bit fields (10 R213 to R215). An amount of 32 or more leaves nothing of `a`, or 32
copies of its sign. -/
def bitOps : Instr → Option ValueRule
  | .shl o => some (binary o fun a b => BitVec.ofNat 32 (a.toNat * 2 ^ (b.toNat % 256)))
  | .shr o => some (binary o fun a b => BitVec.ofNat 32 (a.toNat / 2 ^ (b.toNat % 256)))
  | .sra o => some (binary o fun a b => BitVec.ofInt 32 (a.toInt / 2 ^ (b.toNat % 256)))
  | .rotl o => some (binary o fun a b => BitVec.ofNat 32 (a.toNat * 2 ^ (b.toNat % 32) + a.toNat / 2 ^ (32 - b.toNat % 32)))
  | .clz o => some (unaryRel o fun a w => w.toNat ≤ 32 ∧ a.toNat < 2 ^ (32 - w.toNat) ∧ (w.toNat < 32 → 2 ^ (31 - w.toNat) ≤ a.toNat))
  | .popc o => some (unaryRel o fun a w => w.toNat = ((List.range 32).filter fun i => a.getLsbD i).length)
  | .brev o => some (unaryRel o fun a w => ∀ i, i < 32 → w.getLsbD i = a.getLsbD (31 - i))
  | .bswap o => some (unaryRel o fun a w => ∀ i, i < 4 → w.extractLsb' (8 * i) 8 = a.extractLsb' (8 * (3 - i)) 8)
  | .bfx o => some (binary o fun a b =>
      BitVec.ofNat 32 (a.toNat / 2 ^ (b.toNat % 32) % 2 ^ min (b.toNat / 256 % 64) 32))
  | .bfi o => some
      ⟨o.g, o.nw, [⟨o.a, 1⟩, ⟨o.b, 1⟩, ⟨o.d, 1⟩], ⟨o.d, 1⟩, fun x n l r => ∃ w : Word, r = { words := [w] } ∧
        ∀ i, i < 32 → w.getLsbD i =
          if (x.g.src n l o.b).toNat % 32 ≤ i ∧ i < (x.g.src n l o.b).toNat % 32 + min ((x.g.src n l o.b).toNat / 256 % 64) 32
          then (x.g.src n l o.a).getLsbD (i - (x.g.src n l o.b).toNat % 32) else (x.g.src n l o.d).getLsbD i⟩
  | _ => none

/-- The 64-bit operations (10 R216). -/
def pairOps : Instr → Option ValueRule
  | .addd o => some (pairs o fun a b => a.toNat + b.toNat)
  | .subd o => some (pairs o fun a b => a.toNat + (2 ^ 64 - b.toNat))
  | .mulw o => some
      ⟨o.g, o.nw, [⟨o.a, 1⟩, ⟨o.b, 1⟩], ⟨o.d, 2⟩, fun x n l r =>
        r = { words := pairWords ((x.g.src n l o.a).toNat * (x.g.src n l o.b).toNat) }⟩
  | .mulws o => some
      ⟨o.g, o.nw, [⟨o.a, 1⟩, ⟨o.b, 1⟩], ⟨o.d, 2⟩, fun x n l r =>
        r = { words := pairWords (BitVec.ofInt 64 ((x.g.src n l o.a).toInt * (x.g.src n l o.b).toInt)).toNat }⟩
  | .shld o => some (shifts o fun a n => a.toNat * 2 ^ n)
  | .shrd o => some (shifts o fun a n => a.toNat / 2 ^ n)
  | .srad o => some (shifts o fun a n => (BitVec.ofInt 64 (a.toInt / 2 ^ n)).toNat)
  | _ => none
where
  pairs (o : A3) (f : Dword → Dword → Nat) : ValueRule :=
    ⟨o.g, o.nw, [⟨o.a, 2⟩, ⟨o.b, 2⟩], ⟨o.d, 2⟩, fun x n l r =>
      r = { words := pairWords (f (x.g.src2 n l o.a) (x.g.src2 n l o.b)) }⟩
  shifts (o : A3) (f : Dword → Nat → Nat) : ValueRule :=
    ⟨o.g, o.nw, [⟨o.a, 2⟩, ⟨o.b, 1⟩], ⟨o.d, 2⟩, fun x n l r =>
      r = { words := pairWords (f (x.g.src2 n l o.a) ((x.g.src n l o.b).toNat % 256)) }⟩

/-- The immediate operations and the constants (10 R217, R218). -/
def immediates : Instr → Option ValueRule
  | .addi o => some (immediate o fun a b => BitVec.ofNat 32 (a.toNat + b.toNat))
  | .andi o => some (immediate o fun a b => a &&& b)
  | .ori o => some (immediate o fun a b => a ||| b)
  | .xori o => some (immediate o fun a b => a ^^^ b)
  | .muli o => some (immediate o fun a b => BitVec.ofNat 32 (a.toNat * b.toNat))
  | .shli o => some (amount o fun a n => BitVec.ofNat 32 (a.toNat * 2 ^ n))
  | .shri o => some (amount o fun a n => BitVec.ofNat 32 (a.toNat / 2 ^ n))
  | .srai o => some (amount o fun a n => BitVec.ofInt 32 (a.toInt / 2 ^ n))
  | .rotli o => some (amount o fun a n => BitVec.ofNat 32 (a.toNat * 2 ^ n + a.toNat / 2 ^ (32 - n)))
  | .lih o => some ⟨false, false, [⟨o.d, 1⟩], ⟨o.d, 1⟩, fun x n l r =>
      r = { words := [BitVec.ofNat 32 (o.imm.toNat * 2 ^ 16 + (x.g.src n l o.d).toNat % 2 ^ 16)] }⟩
  | .lil o => some ⟨false, false, [⟨o.d, 1⟩], ⟨o.d, 1⟩, fun x n l r =>
      r = { words := [BitVec.ofNat 32 ((x.g.src n l o.d).toNat / 2 ^ 16 * 2 ^ 16 + o.imm.toNat)] }⟩
  | .lis o => some ⟨false, false, [], ⟨o.d, 1⟩, fun _ _ _ r => r = { words := [BitVec.ofInt 32 o.imm.toInt] }⟩
  | .adpc o => some ⟨false, false, [], ⟨o.d, 1⟩, fun x _ _ r =>
      r = { words := [BitVec.ofInt 32 (x.pc.toNat + 4 * o.imm.toInt)] }⟩
  | _ => none

/-- The integer compares (10 R219). -/
def compares : Instr → Option ValueRule
  | .ceq o => some (compare o fun a b => a.toNat = b.toNat)
  | .cne o => some (compare o fun a b => a.toNat ≠ b.toNat)
  | .clts o => some (compare o fun a b => a.toInt < b.toInt)
  | .cltn o => some (compare o fun a b => a.toNat < b.toNat)
  | .cles o => some (compare o fun a b => a.toInt ≤ b.toInt)
  | .clen o => some (compare o fun a b => a.toNat ≤ b.toNat)
  | .ceqi o => some (compareImm o fun a b => a.toNat = b.toNat)
  | .cltsi o => some (compareImm o fun a b => a.toInt < b.toInt)
  | .cltni o => some (compareImm o fun a b => a.toNat < b.toNat)
  | _ => none

/-- The instructions that select, move and read `gp` (10 R220); the choice reads `gp` as it stood before the issue. -/
def selects : Instr → Option ValueRule
  | .sel o => some
      ⟨o.g, o.nw, [⟨o.a, 1⟩, ⟨o.b, 1⟩], ⟨o.d, 1⟩, fun x n l r =>
        r = { words := [if x.g.gp.getLsbD l.val then x.g.src n l o.a else x.g.src n l o.b] }⟩
  | .mov o => some (unaryRel o fun a w => w = a)
  | .gprd o => some ⟨o.g, o.nw, [], ⟨o.d, 1⟩, fun x _ _ r => r = { words := [x.g.gp] }⟩
  | _ => none

end Sys2Proof.Rules

open Sys2Proof Sys2Proof.Machine Sys2Proof.Rules

/-- R212: each participating lane's destination gets the integer result modulo 2^32, the latches and the signature with it;
nothing else changes. -/
def Sys2Proof.Rules.IntegerArithmetic : Prop := ∀ i r, i.wellFormed = true → arithmetic i = some r → r.Holds i

/-- R213 to R215: shifts, counts, reversals and bit fields. -/
def Sys2Proof.Rules.IntegerBits : Prop := ∀ i r, i.wellFormed = true → bitOps i = some r → r.Holds i

/-- R216: the operations on 64-bit values, the low word in the even register of a pair. -/
def Sys2Proof.Rules.IntegerPairs : Prop := ∀ i r, i.wellFormed = true → pairOps i = some r → r.Holds i

/-- R217, R218: the immediate operations and the constants; `ADPC` adds to the instruction's own PC. -/
def Sys2Proof.Rules.IntegerImmediates : Prop := ∀ i r, i.wellFormed = true → immediates i = some r → r.Holds i

/-- The integer operations of one result: three-operand, bit, 64-bit and immediate forms (R212, R213, R214, R215, R216, R217, R218). -/
def Obligations.IntegerResults : Prop := Rules.IntegerArithmetic ∧ Rules.IntegerBits ∧ Rules.IntegerPairs ∧ Rules.IntegerImmediates

/-- R219: a compare writes 1 or 0 to d and the same outcome to the participating lane's `gp` bit, and no other lane's. -/
def Sys2Proof.Rules.IntegerCompares : Prop := ∀ i r, i.wellFormed = true → compares i = some r → r.Holds i

/-- R220: `SEL`, `MOV` and `GPRD`. -/
def Sys2Proof.Rules.SelectAndMove : Prop := ∀ i r, i.wellFormed = true → selects i = some r → r.Holds i

/-- R220: `GPWR` sets the `gp` bit of each participating lane to whether its a is nonzero, and changes nothing else but the
places of the lanes. -/
def Sys2Proof.Rules.GuardWrite : Prop :=
  ∀ (s : State) (x : Issue) (o : A1a), (Instr.gpwr o).wellFormed = true → s.issue = some x →
    x.Ready (s.stackOf x.g) (x.part o.g) [⟨o.a, 1⟩] [⟨o.a, 1⟩] →
    ∃ t g', exec (.gpwr o) s = .next t ∧ OnlyGroup s t x.gid g' ∧
      (Steady x x.seq → GoOn x x.act x.seq g' ∧ ((∀ k, x.g.rejoinReady k = false) → Kept x.g g')) ∧
      (∀ l, g'.gp.getLsbD l.val = if Mask.has (x.part o.g) l then x.g.src (s.stackOf x.g) l o.a != 0#32 else x.g.gp.getLsbD l.val) ∧
      (∀ l k, RCell.near ((x.g.lane l).stack.getD {} k) ((g'.lane l).stack.getD {} k)) ∧
      (∀ k, RCell.near (x.g.s.getD {} k) (g'.s.getD {} k)) ∧
      (∀ l, { (g'.lane l).still with stack := [] } = { (x.g.lane l).still with stack := [] }) ∧
      { g'.still with lanes := x.g.lanes, s := [], gp := 0#32 } = { x.g.still with lanes := x.g.lanes, s := [], gp := 0#32 }

/-- The integer compares, and the instructions that select by, read and write `gp` (R219, R220). -/
def Obligations.ComparesAndPredicates : Prop := Rules.IntegerCompares ∧ Rules.SelectAndMove ∧ Rules.GuardWrite

namespace Sys2Proof.Rules
open Sys2Proof Sys2Proof.Machine

/-! ### Floating point, conversions and cross-lane operations -/

/-- An FP result of words: the code in one register, with its events, each counted once (09 R200). -/
def single (r : FRes) : LaneRes := { words := [BitVec.ofNat 32 r.code], ev := onceEach r.ev }
/-- Two halves in one word, element 0 low (09 R183). -/
def packed (r0 r1 : FRes) : LaneRes := { words := [BitVec.ofNat 16 r1.code ++ BitVec.ofNat 16 r0.code], ev := onceEach (r0.ev ++ r1.ev) }

/-- An operation on each element of two or three word sources, under the captured `FMODE` (10 R221; 09 R183). -/
def elements (o : AF) (three : Bool) (op : Mode → Fmt → Nat → Nat → Nat → FRes) : ValueRule :=
  ⟨o.g, o.nw, [⟨o.a, 1⟩, ⟨o.b, 1⟩] ++ (if three then [⟨o.d, 1⟩] else []), ⟨o.d, 1⟩, fun x n l r =>
    r = match o.ty with
      | .f32 => single (op (modeOf x.g.fmode) fp32 (x.g.src n l o.a).toNat (x.g.src n l o.b).toNat (x.g.src n l o.d).toNat)
      | .f16x2 => packed (op (modeOf x.g.fmode) fp16 (half (x.g.src n l o.a) 0) (half (x.g.src n l o.b) 0) (half (x.g.src n l o.d) 0))
          (op (modeOf x.g.fmode) fp16 (half (x.g.src n l o.a) 1) (half (x.g.src n l o.b) 1) (half (x.g.src n l o.d) 1))
      | .bf16x2 => packed (op (modeOf x.g.fmode) bf16 (half (x.g.src n l o.a) 0) (half (x.g.src n l o.b) 0) (half (x.g.src n l o.d) 0))
          (op (modeOf x.g.fmode) bf16 (half (x.g.src n l o.a) 1) (half (x.g.src n l o.b) 1) (half (x.g.src n l o.d) 1))⟩

/-- One FP32 source under the captured `FMODE`. -/
def unaryFp (o : A2) (f : Word → Nat → LaneRes) : ValueRule :=
  ⟨o.g, o.nw, [⟨o.a, 1⟩], ⟨o.d, 1⟩, fun x n l r => r = f x.g.fmode (x.g.src n l o.a).toNat⟩

/-- The exact sum of two products and an FP32 value, rounded once (10 R223). -/
def dotRule (o : A3) (f : Fmt) : ValueRule :=
  ⟨o.g, o.nw, [⟨o.a, 1⟩, ⟨o.b, 1⟩, ⟨o.d, 1⟩], ⟨o.d, 1⟩, fun x n l r =>
    let m := modeOf x.g.fmode
    let a := x.g.src n l o.a
    let b := x.g.src n l o.b
    let d := (x.g.src n l o.d).toNat
    r = single (m.fin fp32 [(f, half a 0), (f, half a 1), (f, half b 0), (f, half b 1), (fp32, d)]
      (Fp.sum [(m.val f (half a 0)).mul (m.val f (half b 0)), (m.val f (half a 1)).mul (m.val f (half b 1)), m.val fp32 d]
        m.zeroNeg))⟩

/-- An FP compare of values after daz: a NaN makes every outcome but "unordered" false, and −0 equals +0 (10 R224). -/
def compareFp (o : A3) (p : Option (Int × Int) → Bool) : ValueRule :=
  ⟨o.g, o.nw, [⟨o.a, 1⟩, ⟨o.b, 1⟩], ⟨o.d, 1⟩, fun x n l r =>
    let m := modeOf x.g.fmode
    let a := m.dazCode fp32 (x.g.src n l o.a).toNat
    let b := m.dazCode fp32 (x.g.src n l o.b).toNat
    let t := p (if fp32.isNan a || fp32.isNan b then none else some (fp32.ordz a, fp32.ordz b))
    r = { words := [if t then 1#32 else 0#32], gp := some t }⟩

/-- The FP arithmetic, compares and sign operations (10 R221 to R225). -/
def floats : Instr → Option ValueRule
  | .fadd o => some (elements o false fun m f a b _ => m.fin f [(f, a), (f, b)] (Fp.sum [m.val f a, m.val f b] m.zeroNeg))
  | .fsub o => some (elements o false fun m f a b _ => m.fin f [(f, a), (f, b)] (Fp.sum [m.val f a, (m.val f b).negate] m.zeroNeg))
  | .fmul o => some (elements o false fun m f a b _ => m.fin f [(f, a), (f, b)] ((m.val f a).mul (m.val f b)))
  | .fma o => some (elements o true fun m f a b d =>
      m.fin f [(f, a), (f, b), (f, d)] (Fp.sum [(m.val f a).mul (m.val f b), m.val f d] m.zeroNeg))
  | .fmin o => some (elements o false fun m f a b _ => m.choose f false a b)
  | .fmax o => some (elements o false fun m f a b _ => m.choose f true a b)
  | .fdot2F16x2 o => some (dotRule o fp16)
  | .fdot2Bf16x2 o => some (dotRule o bf16)
  | .fceq o => some (compareFp o fun v => match v with | none => false | some (a, b) => a = b)
  | .fclt o => some (compareFp o fun v => match v with | none => false | some (a, b) => a < b)
  | .fcle o => some (compareFp o fun v => match v with | none => false | some (a, b) => a ≤ b)
  | .fcun o => some (compareFp o fun v => v.isNone)
  | .fabs o => some (unaryRel o fun a w => w.toNat = a.toNat % 2 ^ 31)
  | .fneg o => some (unaryRel o fun a w => w.toNat % 2 ^ 31 = a.toNat % 2 ^ 31 ∧ w.getLsbD 31 = !a.getLsbD 31)
  | .fcpsgn o => some (binary o fun a b => BitVec.ofNat 32 (a.toNat % 2 ^ 31 + b.toNat / 2 ^ 31 * 2 ^ 31))
  | .fclass o => some (unaryRel o fun a w => w = 1#32 <<< fclassBit a)
  | _ => none

/-- The special functions and the roundings to an integral value (10 R226 to R228). -/
def specials : Instr → Option ValueRule
  | .frcp o => some (unaryFp o fun w a => single (frcpRes w a))
  | .frsq o => some (unaryFp o fun w a => single (frsqRes w a))
  | .fsqrt o => some (unaryFp o fun w a => single (fsqrtRes w a))
  | .fex2 o => some (unaryFp o fun w a => single (fex2Res w a))
  | .flg2 o => some (unaryFp o fun w a => single (flg2Res w a))
  | .fsinpi o => some (unaryFp o fun w a => single (fsinpiRes w a))
  | .fcospi o => some (unaryFp o fun w a => single (fcospiRes w a))
  | .frint o => some (unaryFp o fun w a => { words := [BitVec.ofNat 32 (toIntegral (modeOf w) (modeOf w).rnd a)] })
  | .ffloor o => some (unaryFp o fun w a => { words := [BitVec.ofNat 32 (toIntegral (modeOf w) .rdn a)] })
  | .fceil o => some (unaryFp o fun w a => { words := [BitVec.ofNat 32 (toIntegral (modeOf w) .rup a)] })
  | .ftrunc o => some (unaryFp o fun w a => { words := [BitVec.ofNat 32 (toIntegral (modeOf w) .rtz a)] })
  | _ => none

/-- FP32 narrowed into one half of a word, the other half b's (09 R203). -/
def narrowing (o : A3) (t : Fmt) (high : Bool) : ValueRule :=
  ⟨o.g, o.nw, [⟨o.a, 1⟩, ⟨o.b, 1⟩], ⟨o.d, 1⟩, fun x n l r =>
    let m := modeOf x.g.fmode
    let a := (x.g.src n l o.a).toNat
    let b := x.g.src n l o.b
    let c := m.fin t [(fp32, a)] (m.val fp32 a)
    r = { words := [if high then BitVec.ofNat 16 c.code ++ b.extractLsb' 0 16 else b.extractLsb' 16 16 ++ BitVec.ofNat 16 c.code],
          ev := onceEach c.ev }⟩

/-- The conversions between FP32, the halves and integers, which no operand value makes trap (09 R203). -/
def conversions : Instr → Option ValueRule
  | .cvtfi o => some (unaryFp o fun w a => { words := [toInt32 (modeOf w) ((modeOf w).val fp32 a)] })
  | .cvtif o => some (unaryFp o fun w a =>
      single ((modeOf w).fin fp32 [] (.fin ((BitVec.ofNat 32 a).toInt < 0) (BitVec.ofNat 32 a).toInt.natAbs 0)))
  | .cvthf o => some (unaryFp o fun w a => single ((modeOf w).fin fp32 [(fp16, a % 2 ^ 16)] ((modeOf w).val fp16 (a % 2 ^ 16))))
  | .cvtbf o => some (unaryFp o fun w a => single ((modeOf w).fin fp32 [(bf16, a % 2 ^ 16)] ((modeOf w).val bf16 (a % 2 ^ 16))))
  | .cvtfhl o => some (narrowing o fp16 false)
  | .cvtfhh o => some (narrowing o fp16 true)
  | .cvtfbl o => some (narrowing o bf16 false)
  | .cvtfbh o => some (narrowing o bf16 true)
  | .amax4 o => some
      ⟨o.g, o.nw, [⟨o.a, 4⟩, ⟨o.b, 1⟩], ⟨o.d, 1⟩, fun x n l r =>
        r = { words := [amax (x.g.srcs n l ⟨o.a, 4⟩ ++ [x.g.src n l o.b])] }⟩
  | .fmtchk o => some
      ⟨o.g, o.nw, [⟨o.a, 1⟩], ⟨o.d, 1⟩, fun x n l r => ∃ w : Word, r = { words := [w] } ∧ w.toNat < 16 ∧
        w.getLsbD 0 = convValid (x.g.src n l o.a) ∧
        w.getLsbD 1 = (convValid (x.g.src n l o.a) && edNarrow ((x.g.src n l o.a).extractLsb' 0 16)) ∧
        w.getLsbD 2 = matrixValid (x.g.src n l o.a) ∧
        w.getLsbD 3 = decide (∀ k, Mask.has (x.part o.g) k = true → x.g.src n k o.a = x.g.src n l o.a)⟩
  | _ => none

/-- A conversion under a format word held in b (09 R204, R205): its element width in words on each side, and the codes it
takes and gives. -/
structure FormatRule where
  o : A3
  wa : Nat
  wd : Nat
  /-- a narrow kind is required -/
  narrow : Bool
  /-- the elements of the source words, their results under the word, and the words these make -/
  split : List Word → List Nat
  conv : Word → Nat → FRes
  join : List Nat → List Word

/-- The conversion of a lane. -/
def FormatRule.rule (r : FormatRule) : ValueRule :=
  ⟨r.o.g, r.o.nw, [⟨r.o.a, r.wa⟩, ⟨r.o.b, 1⟩], ⟨r.o.d, r.wd⟩, fun x n l v =>
    let rs := (r.split (x.g.srcs n l ⟨r.o.a, r.wa⟩)).map (r.conv (x.g.src n l r.o.b))
    v = { words := r.join (rs.map FRes.code), ev := onceEach (rs.flatMap FRes.ev) }⟩

/-- Four bytes as a word, element 0 lowest. -/
def fourBytes (c : List Nat) : List Word :=
  [BitVec.ofNat 32 (c.getD 0 0 % 256 + 256 * (c.getD 1 0 % 256) + 65536 * (c.getD 2 0 % 256) + 16777216 * (c.getD 3 0 % 256))]
/-- The four bytes of a word. -/
def splitBytes (ws : List Word) : List Nat := (List.range 4).map fun i => (ws.getD 0 0).toNat / 256 ^ i % 256
/-- The four halves of a pair of words. -/
def splitHalves (ws : List Word) : List Nat := (List.range 4).map fun i => (ws.getD (i / 2) 0).toNat / 65536 ^ (i % 2) % 65536
/-- Four halves as a pair of words. -/
def joinHalves (c : List Nat) : List Word :=
  [BitVec.ofNat 32 (c.getD 0 0 % 65536 + 65536 * (c.getD 1 0 % 65536)), BitVec.ofNat 32 (c.getD 2 0 % 65536 + 65536 * (c.getD 3 0 % 65536))]
/-- Words from codes, one each. -/
def joinWords (c : List Nat) : List Word := c.map (BitVec.ofNat 32)

def formatOps : Instr → Option FormatRule
  | .cvtfn o => some ⟨o, 1, 1, false, fun ws => ws.map BitVec.toNat, fun w c => convEncode w (fp32.decode c), joinWords⟩
  | .cvtnf o => some ⟨o, 1, 1, false, fun ws => ws.map BitVec.toNat, fun w c => convDecode w fp32 c, joinWords⟩
  | .pack8 o => some ⟨o, 4, 1, true, fun ws => ws.map BitVec.toNat, fun w c => convEncode w (fp32.decode c), fourBytes⟩
  | .pack8h o => some ⟨o, 2, 1, true, splitHalves, fun w c => convEncode w (fp16.decode c), fourBytes⟩
  | .pack8b o => some ⟨o, 2, 1, true, splitHalves, fun w c => convEncode w (bf16.decode c), fourBytes⟩
  | .unpk8 o => some ⟨o, 1, 4, true, splitBytes, fun w c => convDecode w fp32 c, joinWords⟩
  | .unpk8h o => some ⟨o, 1, 2, true, splitBytes, fun w c => convDecode w fp16 c, joinHalves⟩
  | .unpk8b o => some ⟨o, 1, 2, true, splitBytes, fun w c => convDecode w bf16 c, joinHalves⟩
  | _ => none

/-- The word of the lane is valid for the instruction (09 R207). -/
def FormatRule.Valid (r : FormatRule) (w : Word) : Prop :=
  convValid w = true ∧ (r.narrow = true → edNarrow (w.extractLsb' 0 16) = true)

/-- A shuffle: the source lane of each lane (10 R230). `own` is the source of the lane's own distance or index. -/
structure Shuffle where
  guard : Bool
  nw : Bool
  d : Reg
  a : Reg
  own : List Operand
  lane : Issue → Nat → LaneIx → LaneIx

/-- The lane a number names, or the lane itself when it lies outside 0..31. -/
def laneOr (n : Int) (l : LaneIx) : LaneIx := if h : 0 ≤ n ∧ n < 32 then ⟨n.toNat, by omega⟩ else l

def shuffles : Instr → Option Shuffle
  | .shfx o => some ⟨o.g, o.nw, o.d, o.a, [⟨o.b, 1⟩], fun x n l => laneOr (l.val ^^^ ((x.g.src n l o.b).toNat % 32) : Nat) l⟩
  | .shfup o => some ⟨o.g, o.nw, o.d, o.a, [⟨o.b, 1⟩], fun x n l => laneOr (l.val - ((x.g.src n l o.b).toNat % 256 : Nat)) l⟩
  | .shfdn o => some ⟨o.g, o.nw, o.d, o.a, [⟨o.b, 1⟩], fun x n l => laneOr (l.val + ((x.g.src n l o.b).toNat % 256 : Nat)) l⟩
  | .shfix o => some ⟨o.g, o.nw, o.d, o.a, [⟨o.b, 1⟩], fun x n l => laneOr ((x.g.src n l o.b).toNat % 32 : Nat) l⟩
  | .bcasti o => some ⟨false, o.nw, o.d, o.a, [], fun _ _ l => laneOr o.imm.toNat l⟩
  | .shfxi o => some ⟨false, o.nw, o.d, o.a, [], fun _ _ l => laneOr (l.val ^^^ o.imm.toNat : Nat) l⟩
  | _ => none

/-- Its rule: each participating lane receives the source lane's a, as it stood before the issue. -/
def Shuffle.rule (r : Shuffle) : ValueRule :=
  ⟨r.guard, r.nw, r.own, ⟨r.d, 1⟩, fun x n l v => v = { words := [x.g.src n (r.lane x n l) r.a] }⟩

/-- A vote, reduction or scan over the participating lanes' a (10 R231 to R233). -/
structure Collective where
  o : A2
  res : Word → List LaneIx → (LaneIx → Word) → LaneIx → LaneRes → Prop

/-- The lanes of a list up to lane l. -/
def lanesTo (ls : List LaneIx) (l : LaneIx) : List LaneIx := ls.filter fun k => k.val ≤ l.val

def collectives : Instr → Option Collective
  | .vall o => some ⟨o, fun _ p a _ r => r = { words := [if p.all fun k => a k != 0#32 then 1#32 else 0#32] }⟩
  | .vany o => some ⟨o, fun _ p a _ r => r = { words := [if p.any fun k => a k != 0#32 then 1#32 else 0#32] }⟩
  | .vbal o => some ⟨o, fun _ p a _ r => ∃ w : Word, r = { words := [w] } ∧
      ∀ k : LaneIx, w.getLsbD k.val = (decide (k ∈ p) && a k != 0#32)⟩
  | .vcnt o => some ⟨o, fun _ p a _ r => r = { words := [BitVec.ofNat 32 (p.filter fun k => a k != 0#32).length] }⟩
  | .redadd o => some ⟨o, fun _ p a _ r => r = { words := [BitVec.ofNat 32 (p.map fun k => (a k).toNat).sum] }⟩
  | .redmin o => some ⟨o, fun _ p a _ r => ∃ w : Word, r = { words := [w] } ∧ (∀ k ∈ p, w.toInt ≤ (a k).toInt) ∧ ∃ k ∈ p, w = a k⟩
  | .redmax o => some ⟨o, fun _ p a _ r => ∃ w : Word, r = { words := [w] } ∧ (∀ k ∈ p, (a k).toInt ≤ w.toInt) ∧ ∃ k ∈ p, w = a k⟩
  | .scanadd o => some ⟨o, fun _ p a l r => r = { words := [BitVec.ofNat 32 ((lanesTo p l).map fun k => (a k).toNat).sum] }⟩
  | .fredadd o => some ⟨o, fun w p a _ r => r = treeOf (modeOf w) p a⟩
  | .fscanadd o => some ⟨o, fun w p a l r => r = treeOf (modeOf w) (lanesTo p l) a⟩
  | _ => none
where
  treeOf (m : Mode) (p : List LaneIx) (a : LaneIx → Word) : LaneRes :=
    let v := tree m (maskOf fun k => decide (k ∈ p)) a
    { v with ev := onceEach v.ev }

def Collective.rule (r : Collective) : ValueRule :=
  ⟨r.o.g, r.o.nw, [], ⟨r.o.d, 1⟩, fun x n l v =>
    r.res x.g.fmode (Mask.lanes (x.part r.o.g)) (fun k => x.g.src n k r.o.a) l v⟩

end Sys2Proof.Rules

open Sys2Proof Sys2Proof.Machine Sys2Proof.Rules

/-- R221 to R225: FP arithmetic on one or two elements a register with one rounding, choices, compares and sign operations. -/
def Sys2Proof.Rules.FpArithmetic : Prop := ∀ i r, i.wellFormed = true → floats i = some r → r.Holds i

/-- R226, R228: the special functions and the roundings to integral complete with their results; what these results are is said by
`SpecialExactCases` and `IntegralRule` (O6) and by `SpecialFunctionBounds` (O55). -/
def Sys2Proof.Rules.FpSpecialFunctions : Prop := ∀ i r, i.wellFormed = true → specials i = some r → r.Holds i

/-- The FP operations, and the special functions (R221, R222, R223, R224, R225, R226, R228). -/
def Obligations.FloatingResults : Prop := Rules.FpArithmetic ∧ Rules.FpSpecialFunctions

/-- R203, R206: the conversions that take no format word. -/
def Sys2Proof.Rules.Conversions : Prop := ∀ i r, i.wellFormed = true → conversions i = some r → r.Holds i

/-- R204, R205, R207: a conversion under a format word converts every element when each participating lane's word is valid. -/
def Sys2Proof.Rules.FormatConversions : Prop :=
  ∀ i r, i.wellFormed = true → formatOps i = some r → ∀ s x, r.rule.Runs s x →
    (∀ l, Mask.has (x.part r.o.g) l = true → r.Valid (x.g.src (s.stackOf x.g) l r.o.b)) →
    ∃ t, exec i s = .next t ∧ r.rule.Leaves s x t

/-- The conversions between formats (R203, R206, R204, R205, R207). -/
def Obligations.ConversionResults : Prop := Rules.Conversions ∧ Rules.FormatConversions

/-- R230, R229: a shuffle gives each participating lane the a of its source lane, active or not, once a is pending in no lane;
an entry read may be marked poisoned. -/
def Sys2Proof.Rules.Shuffles : Prop :=
  ∀ i r, i.wellFormed = true → shuffles i = some r → ∀ s x, r.rule.Runs s x →
    x.g.pending (s.stackOf x.g) 0xFFFFFFFF#32 [⟨r.a, 1⟩] = false →
    (∀ l, Mask.has (x.part r.guard) l = true →
      x.g.operandTrap (s.stackOf x.g) [⟨r.a, 1⟩] (r.lane x (s.stackOf x.g) l) = none) →
    ∃ t, exec i s = .next t ∧ r.rule.Leaves s x t

/-- R231 to R233: votes, reductions and scans combine the participating lanes' a. -/
def Sys2Proof.Rules.VotesReductionsScans : Prop :=
  ∀ i r, i.wellFormed = true → collectives i = some r → ∀ s x, r.rule.Runs s x →
    x.g.pending (s.stackOf x.g) 0xFFFFFFFF#32 [⟨r.o.a, 1⟩] = false →
    (∀ l, Mask.has (x.part r.o.g) l = true → x.g.operandTrap (s.stackOf x.g) [⟨r.o.a, 1⟩] l = none) →
    ∃ t, exec i s = .next t ∧ r.rule.Leaves s x t

/-- The instructions whose lanes read each other (R230, R229, R231, R232, R233). -/
def Obligations.CrossLaneResults : Prop := Rules.Shuffles ∧ Rules.VotesReductionsScans

/-- R199: an exact magnitude m × 2^(e − q) becomes an integer by the rounding's rule: to nearest with ties to even or away, or
toward zero, down or up; a value that is an integer is unchanged. -/
def Sys2Proof.Rules.RoundingRule : Prop :=
  ∀ (neg : Bool) (m : Nat) (e q : Int) (v : ℚ), v = m * (2 : ℚ) ^ (e - q) →
    (∀ n, n = roundTo neg m e q .rne → |(n : ℚ) - v| ≤ 1 / 2 ∧ (|(n : ℚ) - v| = 1 / 2 → n % 2 = 0)) ∧
    (∀ n, n = roundTo neg m e q .rna → |(n : ℚ) - v| ≤ 1 / 2 ∧ (|(n : ℚ) - v| = 1 / 2 → v ≤ n)) ∧
    (∀ n, n = roundTo neg m e q .rtz → (n : ℚ) ≤ v ∧ v < n + 1) ∧
    (∀ n, n = roundTo neg m e q .rdn → if neg then v ≤ n ∧ (n : ℚ) < v + 1 else (n : ℚ) ≤ v ∧ v < n + 1) ∧
    (∀ n, n = roundTo neg m e q .rup → if neg then (n : ℚ) ≤ v ∧ v < n + 1 else v ≤ n ∧ (n : ℚ) < v + 1)

/-- A finite FP32 code has a value. -/
def Sys2Proof.Rules.Denotes (c : Nat) (v : ℚ) : Prop :=
  ∃ s m e, fp32.decode c = .fin s m e ∧ (if s then -1 else 1) * (m : ℚ) * 2 ^ e = v

/-- A source that DAZ leaves as it is. -/
def Sys2Proof.Rules.Reads (w : Word) (c : Nat) : Prop := c < 2 ^ 32 ∧ (modeOf w).dazCode fp32 c = c

/-- R227: the exact cases of the special functions, for zeros, infinities, negative sources, powers of two, integers and halves, and
`FRCP` of the smallest magnitudes; a power of two below 2^−126 is given where FTZ is clear. -/
def Sys2Proof.Rules.SpecialExactCases : Prop :=
  ∀ w : Word,
    (∀ z, z ≤ 1 → (frcpRes w (z * 2 ^ 31)).code = z * 2 ^ 31 + 0x7F800000 ∧
      (frcpRes w (z * 2 ^ 31 + 0x7F800000)).code = z * 2 ^ 31 ∧
      (frsqRes w (z * 2 ^ 31)).code = z * 2 ^ 31 + 0x7F800000 ∧
      (fex2Res w (z * 2 ^ 31)).code = 0x3F800000 ∧
      (flg2Res w (z * 2 ^ 31)).code = 0xFF800000 ∧
      (fsinpiRes w (z * 2 ^ 31)).code = z * 2 ^ 31 ∧
      (fcospiRes w (z * 2 ^ 31)).code = 0x3F800000 ∧
      (fsinpiRes w (z * 2 ^ 31 + 0x7F800000)).code = 0x7FC00000 ∧
      (fcospiRes w (z * 2 ^ 31 + 0x7F800000)).code = 0x7FC00000) ∧
    (frsqRes w 0x7F800000).code = 0 ∧ (fsqrtRes w 0x80000000).code = 0x80000000 ∧ (fsqrtRes w 0x7F800000).code = 0x7F800000 ∧
    (fex2Res w 0xFF800000).code = 0 ∧ (fex2Res w 0x7F800000).code = 0x7F800000 ∧ (flg2Res w 0x7F800000).code = 0x7F800000 ∧
    (∀ c, 0x80800000 ≤ c → c ≤ 0xFF800000 → (frsqRes w c).code = 0x7FC00000 ∧ (fsqrtRes w c).code = 0x7FC00000 ∧
      (flg2Res w c).code = 0x7FC00000) ∧
    (∀ z n : Nat, z ≤ 1 → 1 ≤ n → n ≤ 253 → (frcpRes w (z * 2 ^ 31 + n * 2 ^ 23)).code = z * 2 ^ 31 + (254 - n) * 2 ^ 23) ∧
    (∀ z k : Nat, z ≤ 1 → 1 ≤ k → k ≤ 0x200000 → Reads w (z * 2 ^ 31 + k) →
      frcpRes w (z * 2 ^ 31 + k) = ⟨z * 2 ^ 31 + 0x7F800000, [1, 2]⟩) ∧
    ∀ c, Reads w c →
      (∀ n : Int, Denotes c (2 ^ (2 * n)) → Denotes (frsqRes w c).code (2 ^ (-n))) ∧
      (∀ n : Int, Denotes c (2 ^ n) → Denotes (flg2Res w c).code n) ∧
      (∀ n : Int, Denotes c n → -149 ≤ n → n ≤ 127 → ((modeOf w).ftz = true → -126 ≤ n) → Denotes (fex2Res w c).code (2 ^ n)) ∧
      (∀ v : ℚ, Denotes c v → (128 ≤ v → fex2Res w c = ⟨0x7F800000, [1, 2]⟩) ∧ (v < -150 → fex2Res w c = ⟨0, [3]⟩)) ∧
      (∀ n : Int, Denotes c n → (n ≠ 0 → (fsinpiRes w c).code = if n < 0 then 2 ^ 31 else 0) ∧
        Denotes (fcospiRes w c).code (if n % 2 = 0 then 1 else -1)) ∧
      (∀ n : Int, Denotes c (n + 1 / 2) → Denotes (fsinpiRes w c).code (if n % 2 = 0 then 1 else -1) ∧ (fcospiRes w c).code = 0)

/-- R228: rounding to an integral value, the zero of a result taking the source's sign. A source that is a zero, an infinity or of
magnitude 2^23 or more is unchanged. -/
def Sys2Proof.Rules.IntegralRule : Prop :=
  ∀ (m : Mode) (rnd : Rnd) (c : Nat), c < 2 ^ 32 → fp32.isNan c = false → ∀ a r, a = m.dazCode fp32 c → r = toIntegral m rnd c →
    ((fp32.isInf a = true ∨ ∃ v, Denotes a v ∧ (v = 0 ∨ 2 ^ 23 ≤ |v|)) → r = a) ∧
    ∀ v, Denotes a v → ∃ n : Int, Denotes r n ∧ (n = 0 → fp32.neg r = fp32.neg a) ∧
      match rnd with
      | .rdn => (n : ℚ) ≤ v ∧ v < n + 1
      | .rup => v ≤ n ∧ (n : ℚ) < v + 1
      | .rtz => |(n : ℚ)| ≤ |v| ∧ |v| < |(n : ℚ)| + 1 ∧ 0 ≤ n * v
      | .rne => |(n : ℚ) - v| ≤ 1 / 2 ∧ (|(n : ℚ) - v| = 1 / 2 → n % 2 = 0)
      | .rna => |(n : ℚ) - v| ≤ 1 / 2 ∧ (|(n : ℚ) - v| = 1 / 2 → |v| ≤ |(n : ℚ)|)

/-- The rounding of a result, the exact cases of the special functions, and the roundings to integral (R199, R227, R228). -/
def Obligations.RoundingAndExactCases : Prop := Rules.RoundingRule ∧ Rules.SpecialExactCases ∧ Rules.IntegralRule

/-- The exponent of one ulp at a value (10 R226): that of the distance of the FP32 values adjacent to it, at least −149. -/
def Sys2Proof.Rules.UlpAt (v : ℚ) (u : Int) : Prop :=
  (u = -149 ∧ |v| < 2 ^ (-126 : Int)) ∨ (-149 ≤ u ∧ 2 ^ (u + 23) ≤ |v| ∧ |v| < 2 ^ (u + 24))

/-- A result is a finite FP32 value within k ulp of an approximation of the model (log 3). -/
def Sys2Proof.Rules.Near (r : FRes) (v : Fp) (k : Nat) : Prop :=
  ∃ s m e, fp32.decode r.code = .fin s m e ∧ within (.fin s m e) v k (ulpExp v) = true

/-- R226: with FTZ clear, `FRCP` and `FRSQ` of a finite source within their range give a value at most one ulp from 1/x and 1/√x
(said of squares), never above the largest finite value; `FSQRT` gives the root rounded once under RND. The results of `FEX2`,
`FLG2`, `FSINPI` and `FCOSPI` outside the exact cases lie within 2 ulp of the approximations the model computes in more than 100
bits, whose own distance from the functions is the model's and no rule of the spec (log 3). -/
def Obligations.SpecialFunctionBounds : Prop :=
  ∀ w c, Reads w c → (modeOf w).ftz = false →
    (∀ x : ℚ, Denotes c x → 2 ^ (-128 : Int) < |x| →
      ∃ v u, Denotes (frcpRes w c).code v ∧ UlpAt (1 / x) u ∧ |v - 1 / x| ≤ 2 ^ u ∧ |v| < 2 ^ 128) ∧
    (∀ x : ℚ, Denotes c x → 0 < x →
      (∃ v u, Denotes (frsqRes w c).code v ∧ 0 < v ∧ 2 ^ (2 * u + 46) * x ≤ 1 ∧ 1 < 2 ^ (2 * u + 48) * x ∧
        (v - 2 ^ u) ^ 2 * x ≤ 1 ∧ 1 ≤ (v + 2 ^ u) ^ 2 * x) ∧
      ∃ v u, Denotes (fsqrtRes w c).code v ∧ 0 < v ∧ 2 ^ (2 * u + 46) ≤ x ∧ x < 2 ^ (2 * u + 48) ∧
        match (modeOf w).rnd with
        | .rup => (v - 2 ^ u) ^ 2 < x ∧ x ≤ v ^ 2
        | .rne => (v - 2 ^ u / 2) ^ 2 ≤ x ∧ x ≤ (v + 2 ^ u / 2) ^ 2
        | _ => v ^ 2 ≤ x ∧ x < (v + 2 ^ u) ^ 2) ∧
    ∀ s m e, fp32.decode c = .fin s m e →
      (m ≠ 0 → -150 * 2 ^ 160 ≤ (Fp.fin s m e).fix 160 → (Fp.fin s m e).fix 160 < 128 * 2 ^ 160 →
        Near (fex2Res w c) (exp2Approx ((Fp.fin s m e).fix 160)) 2 ∨ (Fp.fin s m e).fix 160 % 2 ^ 160 = 0) ∧
      (m ≠ 0 → s = false → pow2Exp m e = none → Near (flg2Res w c) (log2Approx m e) 2) ∧
      (halves m e = none → Near (fsinpiRes w c) (sinPiApprox ((Fp.fin s m e).fix 320)) 2 ∧
        Near (fcospiRes w c) (sinPiApprox ((Fp.fin s m e).fix 320 + 2 ^ 319)) 2)

namespace Sys2Proof.Rules
open Sys2Proof Sys2Proof.Machine

/-! ### Control flow -/

/-- What a jump reads, where it goes, and whether it takes any target (13 R286, R287). -/
structure Jump where
  srcs : List Operand
  next : Issue → Nat → LaneIx → Word
  /-- the target must be a multiple of 4 -/
  aligned : Bool := false

def branchTo (o : AB) (p : Word → Word → Bool) : Jump :=
  ⟨[⟨o.a, 1⟩, ⟨o.b, 1⟩], fun x n l =>
    BitVec.ofInt 32 (x.pc.toNat + if p (x.g.src n l o.a) (x.g.src n l o.b) then 4 * o.off.toInt else 4), false⟩

def jumps : Instr → Option Jump
  | .beq o => some (branchTo o fun a b => a.toNat = b.toNat)
  | .bne o => some (branchTo o fun a b => a.toNat ≠ b.toNat)
  | .blts o => some (branchTo o fun a b => a.toInt < b.toInt)
  | .bltn o => some (branchTo o fun a b => a.toNat < b.toNat)
  | .bges o => some (branchTo o fun a b => b.toInt ≤ a.toInt)
  | .bgen o => some (branchTo o fun a b => b.toNat ≤ a.toNat)
  | .jmp off => some ⟨[], fun x _ _ => BitVec.ofInt 32 (x.pc.toNat + 4 * off.toInt), false⟩
  | .jmpr a => some ⟨[⟨a, 1⟩], fun x n l => x.g.src n l a, true⟩
  | .nop => some ⟨[], fun x _ _ => x.pc + 4#32, false⟩
  | _ => none

/-- A window move: what it reads, how far the window moves in a lane, what it links, and where it goes (08 R162, R165; 13
R288). -/
structure WindowMove where
  srcs : List Operand
  delta : Issue → Nat → LaneIx → Int
  links : Option (Issue → Word × Word)
  next : Issue → Nat → LaneIx → Word
  aligned : Bool := false

def windowMoves : Instr → Option WindowMove
  | .wadj imm => some ⟨[], fun _ _ _ => imm.toInt, none, fun x _ _ => x.pc + 4#32, false⟩
  | .call k off => some ⟨[], fun _ _ _ => k.toNat, some fun x => (k.setWidth 32, x.pc + 4#32),
      fun x _ _ => BitVec.ofInt 32 (x.pc.toNat + 4 * off.toInt), false⟩
  | .callr k a => some ⟨[⟨a, 1⟩], fun _ _ _ => k.toNat, some fun x => (k.setWidth 32, x.pc + 4#32),
      fun x n l => x.g.src n l a, true⟩
  | .ret => some ⟨[⟨94#7, 1⟩, ⟨95#7, 1⟩], fun x n l => -((x.g.src n l 94#7).toNat : Int), none, fun x n l => x.g.src n l 95#7, true⟩
  | _ => none

/-- The new wb of a lane. -/
def WindowMove.new (r : WindowMove) (s : State) (x : Issue) (l : LaneIx) : Int :=
  ((x.g.lane l).wb : Int) + r.delta x (s.stackOf x.g) l

/-- The move can be made: its operands are there, its target is aligned, the window does not leave the lane's stack and frame,
and the two entries it links are not pending (08 R162; 13 R288). -/
def WindowMove.Runs (r : WindowMove) (s : State) (x : Issue) : Prop :=
  s.issue = some x ∧ 96 ≤ s.stackOf x.g ∧ (∀ ms f, x.g.wait ≠ .window ms f) ∧
    x.Ready (s.stackOf x.g) x.act r.srcs r.srcs ∧
    ∀ l, Mask.has x.act l = true →
      (r.aligned = true → (r.next x (s.stackOf x.g) l).toNat % 4 = 0) ∧
      0 ≤ r.new s x l ∧ r.new s x l + 96 ≤ s.stackOf x.g + s.spillCap x.g ∧
      (r.links.isSome = true → ∀ i, i < 2 →
        ((x.g.lane l).stack.getD {} (((r.new s x l).toNat + 94 + i) % s.stackOf x.g)).pend = false)

/-- Every entry of the new window is resident in every active lane (08 R159): entries wlo to wlo + S − 1 are. -/
def WindowMove.Resident (r : WindowMove) (s : State) (x : Issue) : Prop :=
  ∀ l, Mask.has x.act l = true → (x.g.lane l).wlo ≤ (r.new s x l).toNat ∧
    (r.new s x l).toNat + 96 ≤ (x.g.lane l).wlo + s.stackOf x.g

end Sys2Proof.Rules

open Sys2Proof Sys2Proof.Machine Sys2Proof.Rules

/-- R286, R287, R297: branches and jumps send each active lane to its own next PC, the target in words from the instruction's
own PC, and change nothing else; `NOP` only goes on. A register jump needs a target that is a multiple of 4. -/
def Obligations.BranchesAndJumps : Prop :=
  ∀ i r, i.wellFormed = true → jumps i = some r → ∀ s x, s.issue = some x →
    x.Ready (s.stackOf x.g) x.act r.srcs r.srcs →
    (r.aligned = true → ∀ l, Mask.has x.act l = true → (r.next x (s.stackOf x.g) l).toNat % 4 = 0) →
    ∃ t g', exec i s = .next t ∧ OnlyGroup s t x.gid g' ∧ Moved x.g g' ∧
      (Steady x (r.next x (s.stackOf x.g)) → GoOn x x.act (r.next x (s.stackOf x.g)) g')

/-- R162, R165, R288: a window move whose new windows are resident completes at once: wb moves, a call puts the move and the
return address into `v94` and `v95` of the new window and folds them, and every other register stays. -/
def Sys2Proof.Rules.WindowMovesResident : Prop :=
  ∀ i r, i.wellFormed = true → windowMoves i = some r → ∀ s x, r.Runs s x → r.Resident s x →
    ∃ t g', exec i s = .next t ∧ OnlyGroup s t x.gid g' ∧
      (∀ l, Mask.has x.act l = true → (g'.lane l).wb = (r.new s x l).toNat) ∧
      (∀ l, Mask.has x.act l = false → (g'.lane l).wb = (x.g.lane l).wb) ∧
      (∀ f, r.links = some f → ∀ l, Mask.has x.act l = true →
        g'.cell (s.stackOf x.g) l 94 = { val := (f x).1 } ∧ g'.cell (s.stackOf x.g) l 95 = { val := (f x).2 }) ∧
      (∀ l k, ¬ (r.links.isSome = true ∧ Mask.has x.act l = true ∧
          (k = ((r.new s x l).toNat + 94) % s.stackOf x.g ∨ k = ((r.new s x l).toNat + 95) % s.stackOf x.g)) →
        RCell.near ((x.g.lane l).stack.getD {} k) ((g'.lane l).stack.getD {} k)) ∧
      (∀ l, (g'.lane l).rsig = match r.links with
        | some f => if Mask.has x.act l then (((x.g.lane l).rsig.rotateLeft 7 ^^^ (f x).1).rotateLeft 7) ^^^ (f x).2
            else (x.g.lane l).rsig
        | none => (x.g.lane l).rsig) ∧
      (∀ k, RCell.near (x.g.s.getD {} k) (g'.s.getD {} k)) ∧
      (∀ l i, i < 4 → RCell.near ((x.g.lane l).fw.get i) ((g'.lane l).fw.get i)) ∧
      (∀ l, { (g'.lane l).still with wb := 0, stack := [], fw := {}, rsig := 0#32, nfold := 0 } =
        { (x.g.lane l).still with wb := 0, stack := [], fw := {}, rsig := 0#32, nfold := 0 }) ∧
      { g'.still with lanes := x.g.lanes, s := [] } = { x.g.still with lanes := x.g.lanes, s := [] } ∧
      (x.g.levels = [] → GoOn x x.act (r.next x (s.stackOf x.g)) g')

/-- R162: a window move that needs entries spilled or filled parks its group inside the instruction, the windows unmoved, until
the spill engine has moved them. -/
def Sys2Proof.Rules.WindowMovesWait : Prop :=
  ∀ i r, i.wellFormed = true → windowMoves i = some r → ∀ s x, r.Runs s x → ¬ r.Resident s x →
    ∃ t g' moves, exec i s = .next t ∧ OnlyGroup s t x.gid g' ∧
      g' = { x.g with pin := some ⟨x.act, encode i⟩, wait := .window moves 0#32 } ∧
      ∀ l, Mask.has x.act l = true →
        ({ lane := l.val, wb := (r.new s x l).toNat, pc := r.next x (s.stackOf x.g) l } : WinMove) ∈ moves

/-- Window moves: calls, returns and `WADJ`, with the blocks resident and not (R162, R165, R288). -/
def Obligations.WindowMoves : Prop := Rules.WindowMovesResident ∧ Rules.WindowMovesWait

/-- R289, R290: each of the four instructions completes in every issue. `RJEN` adds the active lanes to the rejoin mask. In `RJWAIT`
the active lanes of the mask wait where they stand while another lane of the mask does not wait there; once all of them wait, the
mask becomes 0, and with no loop open they go on. `RJDROP` takes the active lanes out, and the mask becomes 0 when every lane left
in it waits. `RJCLR` makes the mask 0, and with no loop open every lane that waited there goes on. Registers stay, and the active
lanes that do not wait go on. -/
def Obligations.RejoinMasks : Prop :=
  ∀ (s : State) (x : Issue) (k : BitVec 3), s.issue = some x →
    let K : Fin 8 := Fin.ofNat 8 k.toNat
    let waiting := fun (m : Mask) => ∀ l, Mask.has m l = true → (x.g.lane l).st = .rejoin k.toNat
    (∃ t g', exec (.rjen k) s = .next t ∧ OnlyGroup s t x.gid g' ∧ g'.still = x.g.still ∧
      g'.rj.get K = x.g.rj.get K ||| x.act ∧ (Steady x x.seq → GoOn x x.act x.seq g')) ∧
    (∃ t g', exec (.rjwait k) s = .next t ∧ OnlyGroup s t x.gid g' ∧
      { g'.still with shed := x.g.shed, stopped := x.g.stopped } = x.g.still ∧
      (Steady x x.seq → GoOn x (x.act &&& ~~~(x.g.rj.get K)) x.seq g') ∧
      (waiting (x.g.rj.get K &&& ~~~x.act) → x.act &&& x.g.rj.get K ≠ 0#32 → g'.rj.get K = 0#32 ∧
        (x.g.levels = [] → GoOn x (x.act &&& x.g.rj.get K) (fun l => (x.g.lane l).pc + 4#32) g')) ∧
      (¬ waiting (x.g.rj.get K &&& ~~~x.act) → g'.rj.get K = x.g.rj.get K ∧
        ∀ l, Mask.has (x.act &&& x.g.rj.get K) l = true → (g'.lane l).st = .rejoin k.toNat ∧ (g'.lane l).pc = (x.g.lane l).pc)) ∧
    (∃ t g', exec (.rjdrop k) s = .next t ∧ OnlyGroup s t x.gid g' ∧ g'.still = x.g.still ∧
      (waiting (x.g.rj.get K &&& ~~~x.act) → g'.rj.get K = 0#32) ∧
      (¬ waiting (x.g.rj.get K &&& ~~~x.act) → g'.rj.get K = x.g.rj.get K &&& ~~~x.act) ∧
      (Steady x x.seq → GoOn x x.act x.seq g')) ∧
    (∃ t g', exec (.rjclr k) s = .next t ∧ OnlyGroup s t x.gid g' ∧ g'.still = x.g.still ∧ g'.rj.get K = 0#32 ∧
      (Steady x x.seq → GoOn x x.act x.seq g') ∧
      (x.g.levels = [] →
        ∀ l, (x.g.lane l).st = .rejoin k.toNat → Mask.has x.act l = false →
          (g'.lane l).st = .eligible ∧ (g'.lane l).pc = (x.g.lane l).pc + 4#32))

/-- R291, R292: `LOOP` reads its count in the lowest active lane, and once it is there and good the instruction completes or traps. A
length outside 1 to 256 traps with reason 1. A count of 0 skips the body. The lanes of the word that opened the innermost level
join that level and go to its start. Otherwise three open levels trap with reason 2, a body that does not lie inside the open
bodies of its window with reason 3, and a body whose last word is a jump, a call, `EXIT` or `LOOP` with reason 4; and where none
of these holds a level opens around the active lanes with that count. (The body does not wrap around the top of the addresses, and
its words are at hand.) -/
def Sys2Proof.Rules.LoopOpens : Prop :=
  ∀ (s : State) (x : Issue) (a : Reg) (len : BitVec 10) (l0 : LaneIx) (c start stop : Word),
    (Instr.loop a len).wellFormed = true → s.issue = some x → Mask.low x.act = some l0 →
    x.g.pending (s.stackOf x.g) (Mask.add 0#32 l0) [⟨a, 1⟩] = false → x.g.operandTrap (s.stackOf x.g) [⟨a, 1⟩] l0 = none →
    c = x.g.src (s.stackOf x.g) l0 a → start = x.pc + 4#32 → stop = x.pc + BitVec.ofNat 32 (4 * len.toNat) →
    let traps := fun (reason : Word) => ∃ t g', exec (.loop a len) s = .next t ∧ t.grp x.gid = some g' ∧
      g'.trap = some ⟨0x0B, x.pc, x.act, reason, 0#64, false⟩ ∧ g'.levels = x.g.levels
    let inside := ∀ lv ∈ x.g.levels, lv.wbn = (x.g.lane l0).wb → lv.start.toNat ≤ start.toNat ∧ stop.toNat ≤ lv.stop.toNat
    let joins := ∃ lv, x.g.levels.getLast? = some lv ∧ lv.opener = x.pc ∧ lv.wbn = (x.g.lane l0).wb
    let still := Steady x x.seq ∧ (∀ k, x.g.rejoinReady k = false) ∧ x.pc.toNat + 4 * len.toNat < 2 ^ 32 ∧
      ∀ l, Mask.has x.act l = true → (x.g.lane l).wb = (x.g.lane l0).wb
    (len.toNat = 0 ∨ 256 < len.toNat → traps 1#32) ∧
    (1 ≤ len.toNat → len.toNat ≤ 256 →
      (c = 0#32 → ∃ t g', exec (.loop a len) s = .next t ∧ OnlyGroup s t x.gid g' ∧ Moved x.g g' ∧
        (Steady x (fun _ => stop + 4#32) → GoOn x x.act (fun _ => stop + 4#32) g')) ∧
      (c ≠ 0#32 →
        (∀ lvs lv, x.g.levels = lvs ++ [lv] → lv.opener = x.pc → lv.wbn = (x.g.lane l0).wb → lv.start = start → lv.stop = stop →
          still → ∃ t g', exec (.loop a len) s = .next t ∧ OnlyGroup s t x.gid g' ∧ Moved x.g g' ∧ GoOn x x.act x.seq g' ∧
            g'.levels = lvs ++ [{ lv with members := lv.members ||| x.act }] ∧ g'.lc = x.g.lc) ∧
        (¬ joins → 3 ≤ x.g.levels.length → traps 2#32) ∧
        (¬ joins → x.g.levels.length < 3 → ¬ inside → traps 3#32) ∧
        (¬ joins → x.g.levels.length < 3 → inside → ∀ w, s.lastWord x.gid x.g (x.g.lane l0).wb start stop len.toNat = (s, .got [w]) →
          (0x40 ≤ w.toNat % 128 ∧ w.toNat % 128 ≤ 0x49 → traps 4#32) ∧
          (¬ (0x40 ≤ w.toNat % 128 ∧ w.toNat % 128 ≤ 0x49) → still →
            (∀ i, i < len.toNat → (s.fetchAt x.gid x.g (x.g.lane l0).wb (start + BitVec.ofNat 32 (4 * i))).isSome = true) →
            ∃ t g' buf, exec (.loop a len) s = .next t ∧ t.grp x.gid = some g' ∧ (∀ k, k ≠ x.gid → t.grp k = s.grp k) ∧
              { t with groups := s.groups, cores := s.cores } = s ∧ Moved x.g g' ∧ GoOn x x.act x.seq g' ∧
              g'.levels = x.g.levels ++ [⟨start, stop, (x.g.lane l0).wb, x.pc, x.act, 0#32, buf⟩] ∧
              (∀ k : Fin 3, g'.lc.get k = if k.val = x.g.levels.length then c else x.g.lc.get k)))))

/-- R294: with one level open, when the last of its members completes a `NOP` at its end, the members go back to its start with the
count one less while it is above 1, and otherwise the level closes and they go on behind it. -/
def Sys2Proof.Rules.LoopEnds : Prop :=
  ∀ (s : State) (x : Issue) (lv : Level), s.issue = some x → x.g.levels = [lv] →
    (∀ k, x.g.rejoinReady k = false) → (∀ l, Mask.has x.act l = true → (x.g.lane l).wb = lv.wbn) →
    lv.stop = x.pc → lv.members ≠ 0#32 → lv.members = lv.arrived ||| x.act → lv.arrived &&& x.act = 0#32 →
    (∀ l, Mask.has lv.arrived l = true → (x.g.lane l).st = .held 0) →
    ∃ t g', exec .nop s = .next t ∧ OnlyGroup s t x.gid g' ∧ g'.still = x.g.still ∧
      (1 < (x.g.lc.get 0).toNat → (∀ k : Fin 3, g'.lc.get k = if k = 0 then x.g.lc.get 0 - 1#32 else x.g.lc.get k) ∧
        g'.levels = [{ lv with arrived := 0#32 }] ∧ GoOn x lv.members (fun _ => lv.start) g') ∧
      ((x.g.lc.get 0).toNat ≤ 1 → g'.levels = [] ∧ GoOn x lv.members (fun _ => lv.stop + 4#32) g')

/-- Loop levels open, are joined and end, and the cases in which `LOOP` traps (R291, R292, R294). -/
def Obligations.Loops : Prop := Rules.LoopOpens ∧ Rules.LoopEnds

/-- R296: `BAR` makes the active lanes wait at their barrier where they stand; `BARA` marks them arrived and lets them go on,
when the group has not already arrived there; with a barrier already arrived at they wait. -/
def Sys2Proof.Rules.BarrierForms : Prop :=
  ∀ (s : State) (x : Issue) (n : BitVec 4), s.issue = some x → x.g.levels = [] → (∀ k, x.g.rejoinReady k = false) →
    (∃ t g', exec (.bar n) s = .next t ∧ OnlyGroup s t x.gid g' ∧
      (∀ l, { (g'.lane l) with starve := 0 } = if Mask.has x.act l
        then { x.g.lane l with st := .barrier n.toNat, second := x.g.arrivedAt n.toNat, starve := 0 }
        else { x.g.lane l with starve := 0 }) ∧
      { g'.still with lanes := x.g.lanes, shed := x.g.shed, stopped := x.g.stopped } = { x.g.still with lanes := x.g.lanes }) ∧
    (∃ t g', exec (.bara n) s = .next t ∧ OnlyGroup s t x.gid g' ∧
      (∀ l, Mask.has x.act l = true → if x.g.arrivedAt n.toNat
        then (g'.lane l).st = .barrier n.toNat ∧ (g'.lane l).second = true ∧ (g'.lane l).marks = (x.g.lane l).marks
        else (g'.lane l).st = .eligible ∧ (g'.lane l).pc = x.pc + 4#32 ∧
          ∀ k, k < 16 → (g'.lane l).marks.getLsbD k = (decide (k = n.toNat) || (x.g.lane l).marks.getLsbD k)) ∧
      (∀ l, Mask.has x.act l = false → { (g'.lane l) with starve := 0 } = { x.g.lane l with starve := 0 }) ∧
      (∀ l, { (g'.lane l).still with marks := 0#16, second := false } = { (x.g.lane l).still with marks := 0#16, second := false }) ∧
      { g'.still with lanes := x.g.lanes, shed := x.g.shed } = { x.g.still with lanes := x.g.lanes })

/-- What an opening of barrier n does to a group of the team: the arrival is over, every mark at n is cleared, and if lanes wait there
they are owed a release in the domain's waves (13 R296; 18 R359). -/
structure Sys2Proof.Rules.Opened (g g' : Group) (n : Nat) (grid : Bool) (clk : Clk) : Prop where
  marks : ∀ l k, k < 16 → (g'.lane l).marks.getLsbD k = (decide (k ≠ n) && (g.lane l).marks.getLsbD k)
  arrival : g'.arr.find n = none ∧ ∀ k, k ≠ n → g'.arr.find k = g.arr.find k
  clock : g'.vc = g.vc.join clk
  owed : g'.opened = if g.inState (.barrier n) = 0#32 then g.opened else g.opened ++ [(n, grid, g.inState (.barrier n))]
  others : ∀ l, { (g'.lane l) with marks := 0#16 } = { g.lane l with marks := 0#16 }
  rest : { g' with lanes := g.lanes, arr := g.arr, vc := g.vc, opened := g.opened } = g

/-- R296: a group at which every lane that has not exited waits or is marked performs its arrival's release once no store or atomic
issued before it is in flight and its clock is applied on its die; a group of which a lane does neither has not arrived. (The release
belongs to the arrival, log 15.) -/
def Sys2Proof.Rules.GroupArrives : Prop :=
  ∀ (s : State) (gid n : Nat) (g : Group), n < 16 → s.grp gid = some g → g.arr.find n = none →
    (g.arrivedAt n = false → s.arriveAt gid n = s) ∧
    (g.arrivedAt n = true → s.laneReqs gid ReqKind.writes = [] →
      ((s.team g.team).any (fun t => s.isGridBar t n) = true ∨ g.vc.le (s.applied (dieOf gid)) = true) →
      ∃ g', (s.arriveAt gid n).grp gid = some g' ∧ g'.here n = true ∧ g'.cc = g.vc ∧ g'.relCarry = none ∧
        (g'.arr.find n).map Arrival.rel = some g.vc ∧ { g' with arr := g.arr, cc := g.cc, relCarry := g.relCarry } = g ∧
        ∀ k, k ≠ gid → (s.arriveAt gid n).grp k = s.grp k)

/-- R296: a team barrier with a group that has not arrived stays shut. When every group of the team that has not retired has arrived,
its instance count rises by one, every mark is cleared, and the groups with waiting lanes join the release queues of their domains in
GRPIX order. Nothing else of the package changes. -/
def Sys2Proof.Rules.TeamBarrierOpens : Prop :=
  ∀ (s : State) (tid n : Nat) (tm : Team), n < 16 → s.groups.rising = true → s.team tid = some tm → s.isGridBar tm n = false →
    ((∃ e ∈ s.groupsOf tid, e.2.here n = false) → s.openBarrier tid n = s) ∧
    (s.groupsOf tid ≠ [] → (∀ e ∈ s.groupsOf tid, e.2.here n = true) → ∃ t, s.openBarrier tid n = t ∧
      t.team tid = some { tm with bars := tm.bars.setD 0 n (tm.bars.getD 0 n + 1) } ∧ (∀ k, k ≠ tid → t.team k = s.team k) ∧
      (∀ gid g, s.grp gid = some g → g.team = tid → g.priv = false → ∃ g', t.grp gid = some g' ∧ Opened g g' n false {}) ∧
      (∀ gid, (∀ g, s.grp gid = some g → g.team ≠ tid ∨ g.priv = true) → t.grp gid = s.grp gid) ∧
      (∀ d, t.domain d = { s.domain d with relq := (s.domain d).relq ++ ((s.byGrpix tid).filter fun e =>
        decide (domainOf (coreOf e.1) = d) && decide (e.2.inState (.barrier n) ≠ 0#32)).map Prod.fst }) ∧
      { t with teams := s.teams, groups := s.groups, domains := s.domains } = s)

/-- R354: at barrier 15 of a gang grid's launch team the groups' arrivals make the team arrive and join what the grid barrier orders; the
grid barrier opens when every launch team of the grid that has not retired has arrived, saved ones too: its instance count rises by
one, every team's does with it and its arrival is over, and each group is opened with the clocks that the arrivals released. -/
def Sys2Proof.Rules.GridBarrierOpens : Prop :=
  (∀ (s : State) (tid : Nat) (tm : Team), s.team tid = some tm → s.isGridBar tm 15 = true → tm.gridArr = false →
    s.groupsOf tid ≠ [] → (∀ e ∈ s.groupsOf tid, e.2.here 15 = true) →
    (s.openBarrier tid 15).team tid = some { tm with gridArr := true } ∧ (s.openBarrier tid 15).groups = s.groups ∧
      ∀ gr, s.grid tm.grid = some gr → (s.openBarrier tid 15).grid tm.grid =
        some { gr with barClk := gr.barClk.join (arrivalClk (s.groupsOf tid) 15) }) ∧
  (∀ (s : State) (gn : Nat), s.gridArrived gn = true ↔
    ((∃ e ∈ s.teamsOf gn, e.2.kind = .launch) ∨ ∃ v ∈ s.savedOf gn, v.team.kind = .launch) ∧
      (∀ e ∈ s.teamsOf gn, e.2.kind = .launch → e.2.gridArr = true) ∧
      ∀ v ∈ s.savedOf gn, v.team.kind = .launch → v.team.gridArr = true) ∧
  ∀ (s : State) (gn : Nat) (gr : Grid), s.groups.rising = true → s.teams.rising = true → s.grid gn = some gr →
    ∃ t, s.openGrid gn = t ∧ t.grid gn = some { gr with barInst := gr.barInst + 1, barClk := {} } ∧
      (∀ tid tm, s.team tid = some tm → tm.grid = gn → tm.kind = .launch →
        t.team tid = some { tm with bars := tm.bars.setD 0 15 (tm.bars.getD 0 15 + 1), gridArr := false } ∧
        ∀ gid g, s.grp gid = some g → g.team = tid → g.priv = false → ∃ g', t.grp gid = some g' ∧ Opened g g' 15 true gr.barClk) ∧
      ∀ key st, key ∈ gr.saved → s.streams.find key = some st →
        t.streams.find key = some { st with teams := st.teams.map fun v => v.openGrid gr.barClk }

/-- R296, R354: what `BAR` and `BARA` do, when a group arrives, and when a team barrier and the grid barrier open. The release in waves
is part of O40. -/
def Obligations.TeamBarriers : Prop :=
  Rules.BarrierForms ∧ Rules.GroupArrives ∧ Rules.TeamBarrierOpens ∧ Rules.GridBarrierOpens

/-- R297, R298, R300, R272: `YIELD` is a boundary at which a marked group parks and a stopping group stops; `IFENCE` makes open
loops issue through the instruction cache; `EXIT` retires the participating lanes; `SIGX` folds a into their signatures. -/
def Obligations.YieldFenceExitSign : Prop :=
  ∀ (s : State) (x : Issue), s.issue = some x →
    (∃ t g', exec .yield s = .next t ∧ OnlyGroup s t x.gid g' ∧ (Steady x x.seq → GoOn x x.act x.seq g') ∧
      g'.still = { x.g.still with shed := if x.g.shed = .marked then .parked else x.g.shed, stopped := x.g.stopped || x.g.stopping }) ∧
    (∃ t g', exec .ifence s = .next t ∧ OnlyGroup s t x.gid g' ∧ g'.still = x.g.still ∧ (∀ lv ∈ g'.levels, lv.buffered = false) ∧
      (Steady x x.seq → GoOn x x.act x.seq g')) ∧
    (∀ g, ∃ t g', exec (.exit g) s = .next t ∧ OnlyGroup s t x.gid g' ∧
      (∀ l, Mask.has (x.part g) l = true → (g'.lane l).st = .exited ∧ (g'.lane l).marks = 0#16 ∧ (g'.lane l).pc = (x.g.lane l).pc) ∧
      (x.g.levels = [] → GoOn x (x.act &&& ~~~(x.part g)) x.seq g') ∧
      (∀ (k : Fin 8) l, Mask.has (x.part g) l = true → Mask.has (g'.rj.get k) l = false) ∧
      (∀ l, { (g'.lane l).still with marks := 0#16, second := false } = { (x.g.lane l).still with marks := 0#16, second := false }) ∧
      { g'.still with lanes := x.g.lanes } = { x.g.still with lanes := x.g.lanes }) ∧
    (∀ o : A1a, (Instr.sigx o).wellFormed = true → x.Ready (s.stackOf x.g) (x.part o.g) [⟨o.a, 1⟩] [⟨o.a, 1⟩] →
      ∃ t g', exec (.sigx o) s = .next t ∧ OnlyGroup s t x.gid g' ∧ (Steady x x.seq → GoOn x x.act x.seq g') ∧
        (∀ l, (g'.lane l).rsig = if Mask.has (x.part o.g) l
          then (x.g.lane l).rsig.rotateLeft 7 ^^^ x.g.src (s.stackOf x.g) l o.a else (x.g.lane l).rsig) ∧
        (∀ l k, RCell.near ((x.g.lane l).stack.getD {} k) ((g'.lane l).stack.getD {} k)))

/-- R297, R362, R363: `TRAPC` and `BRK` trap the participating lanes with their cause, PC, lanes and (for `TRAPC`) the lowest
such lane's a; the others go on; the group's entry joins its die's trap queue. On a control core the trap stops that core and
raises the control-fault alert (R369). An issue with no participating lane traps nothing, and its lanes go on. -/
def Obligations.SoftwareTraps : Prop :=
  ∀ (s : State) (x : Issue) (i : Instr) (g : Bool) (srcs : List Operand) (code : Nat) (info : Word), s.issue = some x →
    ((∃ o : A1a, i = .trapc o ∧ g = o.g ∧ srcs = [⟨o.a, 1⟩] ∧ code = 0x11 ∧
        ∀ l, Mask.low (x.part o.g) = some l → info = x.g.src (s.stackOf x.g) l o.a) ∨
      (i = .brk g ∧ srcs = [] ∧ code = 0x10 ∧ info = 0#32)) →
    i.wellFormed = true → x.Ready (s.stackOf x.g) (x.part g) srcs srcs →
    (x.part g = 0#32 → ∃ t g', exec i s = .next t ∧ OnlyGroup s t x.gid g' ∧ Moved x.g g' ∧ (Steady x x.seq → GoOn x x.act x.seq g')) ∧
    (x.part g ≠ 0#32 → ∃ t g', exec i s = .next t ∧ t.grp x.gid = some g' ∧
      (Steady x x.seq → GoOn x (x.act &&& ~~~(x.part g)) x.seq g') ∧
      g'.trap = some ⟨code, x.pc, x.part g, info, 0#64, false⟩ ∧
      (∀ k, k ≠ x.gid → t.grp k = s.grp k) ∧
      (∀ l, Mask.has (x.part g) l = true → x.g.levels = [] → (∀ k, x.g.rejoinReady k = false) →
        (g'.lane l).pc = (x.g.lane l).pc ∧ (g'.lane l).st = (x.g.lane l).st) ∧
      (x.gid < 8192 → t.die (dieOf x.gid) = { s.die (dieOf x.gid) with trapQ := (s.die (dieOf x.gid)).trapQ ++ [x.gid] } ∧
        { t with groups := s.groups, dies := s.dies } = s) ∧
      (8192 ≤ x.gid → t.die (dieOf x.gid) = { s.die (dieOf x.gid) with ctrlStopped := true } ∧
        { t with groups := s.groups, dies := s.dies } =
          s.alert 3 0#64 (BitVec.ofNat 32 (dieOf x.gid)) (BitVec.ofNat 32 code) (x.pc.setWidth 64)))

namespace Sys2Proof.Rules
open Sys2Proof Sys2Proof.Machine

/-! ### Loads, stores and atomics -/

/-- The address of a format M access and of an indexed one (06 R131, R132). -/
def baseOff (o : AM) (size : Nat) (x : Issue) (n : Nat) (l : LaneIx) : Dword :=
  BitVec.ofInt 64 ((x.g.src2 n l o.a).toNat + o.off.toInt * size)
def baseIndex (a b : Reg) (size : Nat) (x : Issue) (n : Nat) (l : LaneIx) : Dword :=
  BitVec.ofInt 64 ((x.g.src2 n l a).toNat + (x.g.src n l b).toInt * size)

/-- A load or store: its guard and nw bits, its address operands, its register field, its size, whether it extends a sign, and
the address of a lane. -/
structure AccessForm where
  guard : Bool
  nw : Bool
  srcs : List Operand
  t : Reg
  size : Nat
  sext : Bool
  addr : Issue → Nat → LaneIx → Dword

def formOf (o : AM) (size : Nat) (sext : Bool) : AccessForm := ⟨o.g, false, [⟨o.a, 2⟩], o.t, size, sext, baseOff o size⟩

/-- The loads to a register (06 R131, R132). -/
def loads : Instr → Option AccessForm
  | .ldw o => some (formOf o 4 false)
  | .ldd o => some (formOf o 8 false)
  | .ldq o => some (formOf o 16 false)
  | .ldhn o => some (formOf o 2 false)
  | .ldhs o => some (formOf o 2 true)
  | .ldbn o => some (formOf o 1 false)
  | .ldbs o => some (formOf o 1 true)
  | .ldwx o => some ⟨o.g, o.nw, [⟨o.a, 2⟩, ⟨o.b, 1⟩], o.d, 4, false, baseIndex o.a o.b 4⟩
  | .lddx o => some ⟨o.g, o.nw, [⟨o.a, 2⟩, ⟨o.b, 1⟩], o.d, 8, false, baseIndex o.a o.b 8⟩
  | _ => none

/-- The stores (06 R131, R132). -/
def stores : Instr → Option AccessForm
  | .stw o => some (formOf o 4 false)
  | .std o => some (formOf o 8 false)
  | .stq o => some (formOf o 16 false)
  | .sth o => some (formOf o 2 false)
  | .stb o => some (formOf o 1 false)
  | .stwx o => some ⟨o.g, false, [⟨o.a, 2⟩, ⟨o.b, 1⟩], o.d, 4, false, baseIndex o.a o.b 4⟩
  | .stdx o => some ⟨o.g, false, [⟨o.a, 2⟩, ⟨o.b, 1⟩], o.d, 8, false, baseIndex o.a o.b 8⟩
  | _ => none

/-- The operand of the register field: words for the size. -/
def AccessForm.reg (f : AccessForm) : Operand := ⟨f.t, max 1 (f.size / 4)⟩

/-- Where a lane's access goes when it meets none of the conditions of 06 R126: to a scratchpad byte inside its team's block,
or to memory under a translation that the core holds and that permits it. -/
def Goes (s : State) (x : Issue) (store : Bool) (need : BitVec 4) (size : Nat) (l : LaneIx) (va : Dword) : Meet → Prop
  | .loc a => ∃ off, classify va = .localAp off ∧ off + size ≤ (s.locOf x.g).2.1 ∧ a = (s.locOf x.g).1 + off ∧
      (s.core (coreOf x.gid)).anyAbsent a size = false ∧ (store = true → (s.core (coreOf x.gid)).anyMarked a size = false)
  | .mem pa key => classify va = .global ∧ s.look (coreOf x.gid) (s.partOf x.g) va need (x.g.failedWalk l va) = .at pa key
  | _ => False

/-- The access executes normally: the operands are there, and each participating lane's address is aligned and goes where `m`
says (06 R126, R127; 05 R91). -/
def AccessForm.Runs (f : AccessForm) (s : State) (x : Issue) (store : Bool) (m : LaneIx → Meet) : Prop :=
  s.issue = some x ∧
    x.Ready (s.stackOf x.g) (x.part f.guard) (f.srcs ++ if store then [f.reg] else [])
      (f.srcs ++ if f.nw then [] else [f.reg]) ∧
    ∀ l, Mask.has (x.part f.guard) l = true → (f.addr x (s.stackOf x.g) l).toNat % f.size = 0 ∧
      Goes s x store (if store then needWrite else needRead) f.size l (f.addr x (s.stackOf x.g) l) (m l)

/-- Nothing of a group but where its lanes stand, its register entries and signatures, and the walks it was told of. -/
def KeepsGroup (g g' : Group) : Prop :=
  (∀ l, { (g'.lane l).still with stack := [], fw := {}, rsig := 0#32, nfold := 0 } =
    { (g.lane l).still with stack := [], fw := {}, rsig := 0#32, nfold := 0 }) ∧
  { g'.still with lanes := g.lanes, s := [], walkFail := [] } = { g.still with lanes := g.lanes, s := [], walkFail := [] }

/-- The bytes a lane stores, lowest first. -/
def AccessForm.bytes (f : AccessForm) (x : Issue) (n : Nat) (l : LaneIx) : List Byte :=
  ((x.g.srcs n l f.reg).flatMap bytesOf).take f.size

/-- The local forms: checks, offset, destination or data (06 R133, R134). -/
structure LocalForm where
  guard : Bool
  nw : Bool
  srcs : List Operand
  reg : Operand
  size : Nat
  off : Issue → Nat → LaneIx → Word

def localLoads : Instr → Option LocalForm
  | .llw o => some ⟨false, o.nw, [⟨o.a, 1⟩], ⟨o.d, 1⟩, 4, fun x n l => BitVec.ofInt 32 ((x.g.src n l o.a).toNat + 4 * o.imm.toInt)⟩
  | .lld o => some ⟨o.g, o.nw, [⟨o.a, 1⟩, ⟨o.b, 1⟩], ⟨o.d, 2⟩, 8, fun x n l => x.g.src n l o.a + x.g.src n l o.b⟩
  | .llq o => some ⟨o.g, o.nw, [⟨o.a, 1⟩, ⟨o.b, 1⟩], ⟨o.d, 4⟩, 16, fun x n l => x.g.src n l o.a + x.g.src n l o.b⟩
  | _ => none

def localStores : Instr → Option LocalForm
  | .lsw o => some ⟨false, true, [⟨o.a, 1⟩], ⟨o.d, 1⟩, 4, fun x n l => BitVec.ofInt 32 ((x.g.src n l o.a).toNat + 4 * o.imm.toInt)⟩
  | .lsd o => some ⟨o.g, true, [⟨o.a, 1⟩, ⟨o.b, 1⟩], ⟨o.d, 2⟩, 8, fun x n l => x.g.src n l o.a + x.g.src n l o.b⟩
  | .lsq o => some ⟨o.g, true, [⟨o.a, 1⟩, ⟨o.b, 1⟩], ⟨o.d, 4⟩, 16, fun x n l => x.g.src n l o.a + x.g.src n l o.b⟩
  | _ => none

/-- Each participating lane's offset is aligned and inside the team's block, no byte of it absent, and for a store none in a
marked granule (06 R134; 05 R90, R91). -/
def LocalForm.Fits (f : LocalForm) (s : State) (x : Issue) (store : Bool) : Prop :=
  ∀ l, Mask.has (x.part f.guard) l = true →
    (f.off x (s.stackOf x.g) l).toNat % f.size = 0 ∧ (f.off x (s.stackOf x.g) l).toNat + f.size ≤ (s.locOf x.g).2.1 ∧
    (s.core (coreOf x.gid)).anyAbsent ((s.locOf x.g).1 + (f.off x (s.stackOf x.g) l).toNat) f.size = false ∧
    (store = true → (s.core (coreOf x.gid)).anyMarked ((s.locOf x.g).1 + (f.off x (s.stackOf x.g) l).toNat) f.size = false)

/-- The scratchpad address of a lane. -/
def LocalForm.place (f : LocalForm) (s : State) (x : Issue) (l : LaneIx) : Nat :=
  (s.locOf x.g).1 + (f.off x (s.stackOf x.g) l).toNat

/-- What a core's scratchpad holds after lanes of a mask have stored `size` bytes at their places: each lane's own bytes where
no other lane stores, and every other byte as before; reads are the owner's (03 R66). -/
def Stored (k k' : Core) (owner : Nat) (m : Mask) (size : Nat) (place : LaneIx → Nat) (bytes : LaneIx → List Byte) : Prop :=
  (∀ l, Mask.has m l = true → (∀ j, Mask.has m j = true → j ≠ l → place j + size ≤ place l ∨ place l + size ≤ place j) →
    k'.scrRead owner (place l) size = bytes l) ∧
  (∀ a, (∀ l, Mask.has m l = true → a < place l ∨ place l + size ≤ a) → k'.scrByte owner a = k.scrByte owner a)

/-- The atomics (06 R135, R137). -/
structure AtomicForm where
  op : AtomOp
  order : MOrder
  scope : Scope
  d : Reg
  a : Reg
  b : Option Operand

def atomicOf (op : AtomOp) (o : AX) : AtomicForm := ⟨op, o.order, o.scope, o.d, o.a, some ⟨o.b, 1⟩⟩

def atomics : Instr → Option AtomicForm
  | .aadd o => some (atomicOf .add o)
  | .aand o => some (atomicOf .and o)
  | .aor o => some (atomicOf .or o)
  | .axor o => some (atomicOf .xor o)
  | .amins o => some (atomicOf .mins o)
  | .aminn o => some (atomicOf .minn o)
  | .amaxs o => some (atomicOf .maxs o)
  | .amaxn o => some (atomicOf .maxn o)
  | .aswap o => some (atomicOf .swap o)
  | .acas o => some ⟨.cas, o.order, o.scope, o.d, o.a, some ⟨o.b, 2⟩⟩
  | .afadd o => some (atomicOf .fadd o)
  | .ald o => some ⟨.ld, if o.acq then .acq else .rlx, o.scope, o.d, o.a, none⟩
  | .ast o => some ⟨.st, if o.rel then .rel else .rlx, o.scope, Reg.z, o.a, some ⟨o.b, 1⟩⟩
  | _ => none

/-- Word i of the operand in a lane, 0 without one. -/
def AtomicForm.word (f : AtomicForm) (x : Issue) (n : Nat) (l : LaneIx) (i : Nat) : Word :=
  match f.b with
  | some o => x.g.opWord n l o i
  | none => 0#32

end Sys2Proof.Rules

open Sys2Proof Sys2Proof.Machine Sys2Proof.Rules

/-- R131, R132, R118, R120, R127: each participating lane of a load puts one access in flight, for its address and size, to its
destination, whose entries become pending; a scratchpad value is already on its way back; a load of a line with earlier accesses of
the core in flight waits for those; else the value of a line that the L1 serves is on its way back, and any other access goes to its
home; and no byte of memory or scratchpad changes. (Where it waits, at the load and not before it, is log 42.) -/
def Sys2Proof.Rules.LoadsIssue : Prop :=
  ∀ i f, i.wellFormed = true → loads i = some f → ∀ s x m, f.Runs s x false m → 96 ≤ s.stackOf x.g →
    ∃ t g', exec i s = .next t ∧ t.grp x.gid = some g' ∧ (∀ k, k ≠ x.gid → t.grp k = s.grp k) ∧
      t.dram = s.dram ∧ t.l2 = s.l2 ∧ (∀ c a o, (t.core c).scrByte o a = (s.core c).scrByte o a) ∧ KeepsGroup x.g g' ∧
      (∀ l, Mask.has (x.part f.guard) l = true → ∃ rid r, s.nextId ≤ rid ∧ t.reqs.find rid = some r ∧
        r.maker = .lane x.gid l.val ∧ r.kind = .load f.size f.sext ∧ r.va = f.addr x (s.stackOf x.g) l ∧
        r.dst = dstOf x.g (s.stackOf x.g) (x.part f.guard) f.nw f.reg l ∧
        match m l with
        | .loc a => r.stage = .reply (loadWords f.size f.sext ((s.core (coreOf x.gid)).scrRead (s.locOf x.g).2.2 a f.size)) false
        | .mem pa key => r.pa = pa ∧ r.key = key ∧
          (∀ after, s.loadAfter (coreOf x.gid) (pa / 128) = some after → r.stage = .queued after) ∧
          (s.loadAfter (coreOf x.gid) (pa / 128) = none →
            s.l1Hit (s.memberOf (coreOf x.gid) x.g.team (pa / 128)) x.g.team pa key = none → r.stage = .sent) ∧
          (s.loadAfter (coreOf x.gid) (pa / 128) = none → ∀ ln, s.l1Hit (s.memberOf (coreOf x.gid) x.g.team (pa / 128)) x.g.team pa key = some ln →
            r.stage = .reply (loadWords f.size f.sext ((List.range f.size).map fun i => Tab.getD ln.data 0 (pa % 128 + i)))
              (ln.poison.getLsbD (pa / 64 % 2)))
        | _ => False) ∧
      (f.nw = false → f.t.toNat < 96 → ∀ l, Mask.has (x.part f.guard) l = true → ∀ k, k < f.reg.w →
        (g'.cell (s.stackOf x.g) l (f.t.toNat + k)).pend = true) ∧
      (f.nw = false → 97 ≤ f.t.toNat → x.part f.guard ≠ 0#32 → ∀ k, k < f.reg.w → (g'.s.getD {} (f.t.toNat + k)).pend = true) ∧
      (∀ l k, ¬ (f.nw = false ∧ f.t.toNat < 96 ∧ Mask.has (x.part f.guard) l = true ∧ ∃ j, j < f.reg.w ∧
        k = (x.g.lane l).slot (s.stackOf x.g) (f.t.toNat + j)) →
          RCell.near ((x.g.lane l).stack.getD {} k) ((g'.lane l).stack.getD {} k)) ∧
      (∀ k, ¬ (f.nw = false ∧ 97 ≤ f.t.toNat ∧ ∃ j, j < f.reg.w ∧ k = f.t.toNat + j) →
        RCell.near (x.g.s.getD {} k) (g'.s.getD {} k)) ∧
      (∀ l j, j < 4 → RCell.near ((x.g.lane l).fw.get j) ((g'.lane l).fw.get j)) ∧
      (Steady x x.seq → GoOn x x.act x.seq g')

/-- R119, R131, R132: each participating lane's store to memory puts one access with its bytes in flight, and its store to the
scratchpad writes its bytes there at issue; every other byte that its owner reads of the scratchpad stays, and no byte of memory
changes yet. -/
def Sys2Proof.Rules.StoresIssue : Prop :=
  ∀ i f, i.wellFormed = true → stores i = some f → ∀ s x m, f.Runs s x true m →
    ∃ t g', exec i s = .next t ∧ t.grp x.gid = some g' ∧ (∀ k, k ≠ x.gid → t.grp k = s.grp k) ∧
      t.dram = s.dram ∧ t.l2 = s.l2 ∧ (∀ c, c ≠ coreOf x.gid → t.core c = s.core c) ∧ Moved x.g { g' with walkFail := x.g.walkFail } ∧
      Stored (s.core (coreOf x.gid)) (t.core (coreOf x.gid)) (s.locOf x.g).2.2
        (maskOf fun l => Mask.has (x.part f.guard) l && (match m l with | .loc _ => true | _ => false)) f.size
        (fun l => (m l).place) (f.bytes x (s.stackOf x.g)) ∧
      (∀ l pa key, Mask.has (x.part f.guard) l = true → m l = .mem pa key → ∃ rid r, s.nextId ≤ rid ∧ t.reqs.find rid = some r ∧
        r.maker = .lane x.gid l.val ∧ r.kind = .store (f.bytes x (s.stackOf x.g) l) ∧ r.pa = pa ∧ r.key = key ∧ r.stage = .sent) ∧
      (Steady x x.seq → GoOn x x.act x.seq g')

/-- Loads and stores as they are issued (R131, R132, R118, R127, R119). -/
def Obligations.LoadsAndStoresIssue : Prop := Rules.LoadsIssue ∧ Rules.StoresIssue

/-- R130, R133, R134: a local load gives each participating lane the words its team's scratchpad holds at its offset. -/
def Sys2Proof.Rules.LocalLoads : Prop :=
  ∀ i f, i.wellFormed = true → localLoads i = some f → ∀ s x,
    (⟨f.guard, f.nw, f.srcs, f.reg, fun _ _ _ _ => True⟩ : ValueRule).Runs s x → f.Fits s x false →
    ∃ t g', exec i s = .next t ∧ OnlyGroup s t x.gid g' ∧
      Wrote x.g (s.stackOf x.g) (x.part f.guard) f.nw f.reg
        (fun l => wordsOf ((s.core (coreOf x.gid)).scrRead (s.locOf x.g).2.2 (f.place s x l) f.size)) g' ∧
      g'.gp = x.g.gp ∧ (Steady x x.seq → GoOn x x.act x.seq g')

/-- R133, R134: a local store puts each participating lane's words into its team's scratchpad at its offset and changes no other
byte. -/
def Sys2Proof.Rules.LocalStores : Prop :=
  ∀ i f, i.wellFormed = true → localStores i = some f → ∀ s x, s.issue = some x →
    x.Ready (s.stackOf x.g) (x.part f.guard) (f.srcs ++ [f.reg]) (f.srcs ++ [f.reg]) → f.Fits s x true →
    ∃ t g', exec i s = .next t ∧ t.grp x.gid = some g' ∧ (∀ k, k ≠ x.gid → t.grp k = s.grp k) ∧ Moved x.g g' ∧
      { t with groups := s.groups, cores := s.cores } = s ∧ (∀ c, c ≠ coreOf x.gid → t.core c = s.core c) ∧
      Stored (s.core (coreOf x.gid)) (t.core (coreOf x.gid)) (s.locOf x.g).2.2 (x.part f.guard) f.size (f.place s x)
        (fun l => (x.g.srcs (s.stackOf x.g) l f.reg).flatMap bytesOf) ∧
      (Steady x x.seq → GoOn x x.act x.seq g')

/-- Local loads and stores (R130, R133, R134). -/
def Obligations.LocalForms : Prop := Rules.LocalLoads ∧ Rules.LocalStores

/-- R135, R137, R148, R127: an atomic of a team outside a checked run whose lanes' addresses are aligned and held by the core, with a
releasing one's release point reached, puts one access per active lane in flight with its operation, operands, order and scope, marks
its destination pending, and the lanes go on. No byte of LPDDR-5X or of an L2 line changes at issue. -/
def Obligations.AtomicsIssue : Prop :=
  ∀ i f, i.wellFormed = true → atomics i = some f → ∀ (s : State) (x : Issue) (pa key : LaneIx → Nat), s.issue = some x →
    x.Ready (s.stackOf x.g) x.act (⟨f.a, 2⟩ :: f.b.toList) (⟨f.a, 2⟩ :: f.b.toList ++ [⟨f.d, 1⟩]) →
    (f.order.releases = true → s.releaseReady x.gid x.g f.scope = true) →
    (∀ l, Mask.has x.act l = true → (x.g.src2 (s.stackOf x.g) l f.a).toNat % 4 = 0 ∧
      Goes s x false needAtomic 4 l (x.g.src2 (s.stackOf x.g) l f.a) (.mem (pa l) (key l))) →
    ((s.team x.g.team).map Team.role).getD 0 = 0 →
    ∃ t g', exec i s = .next t ∧ t.grp x.gid = some g' ∧ (∀ k, k ≠ x.gid → t.grp k = s.grp k) ∧ t.dram = s.dram ∧
      (∀ k, (t.l2.find k).map L2Line.data = (s.l2.find k).map L2Line.data) ∧
      (∀ l, Mask.has x.act l = true → ∃ rid r, s.nextId ≤ rid ∧ t.reqs.find rid = some r ∧ r.maker = .lane x.gid l.val ∧
        r.kind = .atomic f.op (f.word x (s.stackOf x.g) l 0) (f.word x (s.stackOf x.g) l 1) ∧ r.pa = pa l ∧ r.key = key l ∧
        r.order = f.order ∧ r.scope = f.scope ∧ r.stage = .sent ∧
        r.dst = dstOf x.g (s.stackOf x.g) x.act false ⟨f.d, 1⟩ l) ∧
      (f.d.toNat < 96 → ∀ l, Mask.has x.act l = true → (g'.cell (s.stackOf x.g) l f.d.toNat).pend = true) ∧
      (97 ≤ f.d.toNat → (g'.s.getD {} f.d.toNat).pend = true) ∧
      (Steady x x.seq → GoOn x x.act x.seq g')

/-- R139, R147, R148, R150, R153: an acquire fence completes when every word its group has loaded is settled and its clocks are
applied, and joins what it has observed into its clock; a release fence when its earlier accesses allow it, and its following
writes carry the release; at device or system scope a sequentially consistent fence goes to the sequencer, waits there, and
then does both with the vector it was given. -/
def Obligations.Fences : Prop :=
  ∀ (s : State) (x : Issue) (order : MOrder) (scope : Scope), s.issue = some x →
    (¬ (order = .rlx ∧ (scope = .device ∨ scope = .system)) →
      (order ≠ .rel → s.settledFor x.gid x.g = true ∧
        ((scope = .device ∨ scope = .system) → (x.g.vc.join x.g.obs).le (s.applied (dieOf x.gid)) = true)) →
      (order ≠ .acq → s.releaseReady x.gid x.g scope = true) →
      ∃ t g', exec (.fence order scope) s = .next t ∧ t.grp x.gid = some g' ∧ (∀ k, k ≠ x.gid → t.grp k = s.grp k) ∧
        (order ≠ .rel → g'.readFrom = [] ∧ (x.g.vc.join x.g.obs).le g'.vc = true) ∧
        (order ≠ .acq → g'.relCarry = some scope) ∧ (order = .acq → g'.relCarry = x.g.relCarry) ∧
        (∀ l, { (g'.lane l).still with stack := [] } = { (x.g.lane l).still with stack := [] }) ∧
        (Steady x x.seq → GoOn x x.act x.seq g')) ∧
    ((scope = .device ∨ scope = .system) → (∀ v, x.g.wait ≠ .sequencer v) → s.releaseReady x.gid x.g scope = true →
      ∃ t g', exec (.fence .rlx scope) s = .next t ∧ OnlyGroup { s with scq := s.scq ++ [⟨x.gid⟩] } t x.gid g' ∧
        g' = { x.g with pin := some ⟨x.act, encode (.fence .rlx scope)⟩, wait := .sequencer none }) ∧
    ((scope = .device ∨ scope = .system) → ∀ vec, x.g.wait = .sequencer (some vec) → s.settledFor x.gid x.g = true →
      ((x.g.vc.join x.g.obs).join vec).le (s.applied (dieOf x.gid)) = true →
      ∃ t g', exec (.fence .rlx scope) s = .next t ∧ t.grp x.gid = some g' ∧ vec.le g'.vc = true ∧
        (x.g.vc.join x.g.obs).le g'.vc = true ∧ g'.relCarry = some scope ∧ g'.readFrom = [] ∧ g'.pin = none ∧ g'.wait = .none)

/-- R140: `CINV` drops each named line from the L1 that serves its core; `CWB` completes at once when the L2 holds none of its
lines, and otherwise waits inside the instruction until the controllers have accepted them. -/
def Sys2Proof.Rules.LineInstructions : Prop :=
  ∀ (s : State) (x : Issue) (o : A1a) (pa key : LaneIx → Nat), s.issue = some x →
    x.Ready (s.stackOf x.g) (x.part o.g) [⟨o.a, 2⟩] [⟨o.a, 2⟩] →
    (∀ l, Mask.has (x.part o.g) l = true → classify (x.g.src2 (s.stackOf x.g) l o.a) = .global ∧
      s.look (coreOf x.gid) (s.partOf x.g) (x.g.src2 (s.stackOf x.g) l o.a) needRead
        (x.g.failedWalk l (x.g.src2 (s.stackOf x.g) l o.a)) = .at (pa l) (key l)) →
    (∃ t g', exec (.cinv o) s = .next t ∧ t.grp x.gid = some g' ∧ t.dram = s.dram ∧ Moved x.g { g' with walkFail := x.g.walkFail } ∧
      (∀ l, Mask.has (x.part o.g) l = true →
        (t.core (s.memberOf (coreOf x.gid) x.g.team (pa l / 128))).l1.find (pa l / 128) = none) ∧
      (Steady x x.seq → GoOn x x.act x.seq g')) ∧
    ((∀ w, x.g.wait ≠ .writeBack w) →
      (∀ l, Mask.has (x.part o.g) l = true → s.laneOwes x.gid l (pa l / 256) = false) →
      ((∀ l, Mask.has (x.part o.g) l = true → s.l2.find (l2Key (s.home (pa l)) (pa l / 256)) = none) →
        ∃ t g', exec (.cwb o) s = .next t ∧ OnlyGroup s t x.gid g' ∧ Moved x.g { g' with walkFail := x.g.walkFail } ∧
          (Steady x x.seq → GoOn x x.act x.seq g')) ∧
      ((∃ l, Mask.has (x.part o.g) l = true ∧ (s.l2.find (l2Key (s.home (pa l)) (pa l / 256))).isSome = true) →
        ∃ t g' ls, exec (.cwb o) s = .next t ∧ OnlyGroup s t x.gid g' ∧ g'.pin = some ⟨x.act, encode (.cwb o)⟩ ∧
          g'.wait = .writeBack ls ∧ ∀ k, k ∈ ls ↔ ∃ l, Mask.has (x.part o.g) l = true ∧
            k = l2Key (s.home (pa l)) (pa l / 256) ∧ (s.l2.find k).isSome = true)) ∧
    (x.g.wait = .writeBack [] → ∃ t g', exec (.cwb o) s = .next t ∧ OnlyGroup s t x.gid g' ∧ g'.pin = none ∧ g'.wait = .none ∧
      (Steady x x.seq → GoOn x x.act x.seq g'))

/-- R140, R298: `PREF` of global addresses completes whatever their translation, writes no register and traps nothing; `ICINV` removes
each named code line from its core's instruction cache, and the loop bodies that hold words of it, and no other line. -/
def Sys2Proof.Rules.PrefetchAndInvalidateCode : Prop :=
  ∀ (s : State) (x : Issue), s.issue = some x →
    (∀ o : A1a, x.Ready (s.stackOf x.g) (x.part o.g) [⟨o.a, 2⟩] [⟨o.a, 2⟩] →
      (∀ l, Mask.has (x.part o.g) l = true → classify (x.g.src2 (s.stackOf x.g) l o.a) = .global) →
      ∃ t g', exec (.pref o) s = .next t ∧ t.grp x.gid = some g' ∧ (∀ k, k ≠ x.gid → t.grp k = s.grp k) ∧ Moved x.g g' ∧
        (Steady x x.seq → GoOn x x.act x.seq g')) ∧
    (∀ a : Reg, x.Ready (s.stackOf x.g) x.act [⟨a, 1⟩] [⟨a, 1⟩] →
      ∃ t g', exec (.icinv a) s = .next t ∧ t.grp x.gid = some g' ∧ (∀ k, k ≠ x.gid → t.grp k = s.grp k) ∧ Moved x.g g' ∧
        { t with groups := s.groups, cores := s.cores } = s ∧
        (∀ l, Mask.has x.act l = true → let va := s.codeBase x.g + (x.g.src (s.stackOf x.g) l a).setWidth 64
          (t.core (coreOf x.gid)).ilines.find (ilineKey (s.fetchPart x.g) va) = none ∧
            ∀ k, ∀ b ∈ (t.core (coreOf x.gid)).loopBuf.getD [] k, b.meets (s.fetchPart x.g) (va.toNat / 128) = false) ∧
        (∀ k, (∀ l, Mask.has x.act l = true →
            k ≠ ilineKey (s.fetchPart x.g) (s.codeBase x.g + (x.g.src (s.stackOf x.g) l a).setWidth 64)) →
          (t.core (coreOf x.gid)).ilines.find k = (s.core (coreOf x.gid)).ilines.find k) ∧
        (Steady x x.seq → GoOn x x.act x.seq g'))

/-- `CWB`, `CINV`, `PREF` and `ICINV` (R140, R298). -/
def Obligations.LineAndCodeInstructions : Prop := Rules.LineInstructions ∧ Rules.PrefetchAndInvalidateCode

namespace Sys2Proof.Rules
open Sys2Proof Sys2Proof.Machine

/-! ### Barrier objects, copies and transfers -/

/-- The issue belongs to no checked run (12 R259). -/
def Plain (s : State) (x : Issue) : Prop := ((s.team x.g.team).map Team.role).getD 0 = 0

/-- Where a lane stands does not change. -/
def Stays (x : Issue) (g' : Group) : Prop := ∀ l, (g'.lane l).pc = (x.g.lane l).pc ∧ (g'.lane l).st = (x.g.lane l).st

/-- The scratchpad byte at a lane's offset in its team's block. -/
def placeOf (s : State) (x : Issue) (tm : Team) (a : Reg) (l : LaneIx) : Nat :=
  tm.locBlk + (x.g.src (s.stackOf x.g) l a).toNat

/-- The issue of an instruction that reads n bytes of its team's scratchpad at an offset in `a`: the operands are there, and
each participating lane's offset is a multiple of 16 and inside the block (05 R101, R110). -/
structure LocalRuns (s : State) (x : Issue) (tm : Team) (part : Mask) (srcs waits : List Operand) (a : Reg) (size : Nat) : Prop where
  issue : s.issue = some x
  ready : x.Ready (s.stackOf x.g) part srcs waits
  team : s.team x.g.team = some tm
  core : tm.core = coreOf x.gid
  inside : ∀ l, Mask.has part l = true → (x.g.src (s.stackOf x.g) l a).toNat % 16 = 0 ∧
    (x.g.src (s.stackOf x.g) l a).toNat + size ≤ tm.locSize

/-- No two participating lanes name one offset. -/
def Apart (s : State) (x : Issue) (part : Mask) (a : Reg) : Prop :=
  ∀ l m, Mask.has part l = true → Mask.has part m = true → l ≠ m →
    x.g.src (s.stackOf x.g) l a ≠ x.g.src (s.stackOf x.g) m a

/-- What a barrier instruction leaves alone: registers, memory, other cores and every scratchpad byte outside the objects its
lanes name; only waits in `BWAIT` may have been answered in other groups. -/
structure OnlyObjects (s t : State) (x : Issue) (tm : Team) (part : Mask) (a : Reg) (g' : Group) : Prop where
  grp : t.grp x.gid = some g'
  moved : Moved x.g g'
  others : ∀ k gk, k ≠ x.gid → s.grp k = some gk → ∃ gk', t.grp k = some gk' ∧ { gk' with wait := gk.wait } = gk ∧
    ((∀ ws, gk.wait ≠ .object ws) → gk' = gk)
  frame : { t with groups := s.groups, cores := s.cores, teams := s.teams } = s
  cores : ∀ c, c ≠ tm.core → t.core c = s.core c
  bytes : ∀ b, (∀ l, Mask.has part l = true → b < placeOf s x tm a l ∨ placeOf s x tm a l + 16 ≤ b) →
    (t.core tm.core).scrByte tm.owner b = (s.core tm.core).scrByte tm.owner b
  marks : ∀ b, (∀ l, Mask.has part l = true → b / 16 ≠ placeOf s x tm a l / 16) →
    (t.core tm.core).marked b = (s.core tm.core).marked b

/-- The counts that the participating lanes bring to the object of a lane. -/
def counts (s : State) (x : Issue) (part : Mask) (a b : Reg) (l : LaneIx) : Nat :=
  (((Mask.lanes part).filter fun k => x.g.src (s.stackOf x.g) k a == x.g.src (s.stackOf x.g) l a).map fun k =>
    (x.g.src (s.stackOf x.g) k b).toNat).sum

/-- The rank of a lane among the lanes of a mask. -/
def rankOf (m : Mask) (l : LaneIx) : Nat := ((Mask.lanes m).filter fun k => k.val < l.val).length

/-- Each participating lane gets a ticket: GRPIX above the group's 16-bit copy sequence number, which rises by one a lane in
lane order (05 R97). -/
def Tickets (s : State) (x : Issue) (part : Mask) (nw : Bool) (d : Reg) (g' : Group) : Prop :=
  Wrote x.g (s.stackOf x.g) part nw ⟨d, 1⟩
      (fun l => [BitVec.ofNat 32 (x.g.grpix % 65536 * 65536 + (x.g.copySeq.toNat + rankOf part l) % 65536)])
      { g' with copySeq := x.g.copySeq } ∧
    g'.copySeq = x.g.copySeq + BitVec.ofNat 16 (Mask.lanes part).length

/-- The bytes of a lane's descriptor. -/
def descOf (s : State) (x : Issue) (tm : Team) (a : Reg) (size : Nat) (l : LaneIx) : List Byte :=
  (s.core tm.core).scrRead tm.owner (placeOf s x tm a l) size

/-- A copy instruction's descriptors can be read, their slots are free, and its register is (05 R91, R97, R101). -/
structure CopyRuns (s : State) (x : Issue) (tm : Team) (part : Mask) (nw : Bool) (d a : Reg) (size : Nat) : Prop where
  runs : LocalRuns s x tm part [⟨a, 1⟩] ([⟨a, 1⟩] ++ if nw then [] else [⟨d, 1⟩]) a size
  stack : 96 ≤ s.stackOf x.g
  plain : tm.role = 0
  present : ∀ l, Mask.has part l = true → (s.core tm.core).anyAbsent (placeOf s x tm a l) size = false
  room : (s.core tm.core).copies.length + (Mask.lanes part).length ≤ 128

/-- A transfer's descriptor passes its checks (05 R96, R112, R114). -/
def PutOk (s : State) (x : Issue) (tm : Team) (multi : Bool) (d : PutDesc) : Prop :=
  d.src + d.count ≤ tm.locSize ∧ s.putReason x.g.team multi d = none

/-- A transfer is in flight with its bytes, sent already where it carries no release, to destinations of which `go` holds. -/
def InFlight (s t : State) (x : Issue) (tm : Team) (kind : CopyKind) (ticket : Word) (d : PutDesc) (go : List PutDest → Prop) : Prop :=
  ∃ cid c, (t.core tm.core).copies.find cid = some c ∧ c.kind = kind ∧ c.team = x.g.team ∧ c.gid = x.gid ∧ c.ticket = ticket ∧
    c.obj = d.sobj ∧ c.robj = d.robj ∧ c.destOff = d.destOff ∧ c.ctrl = d.ctrl ∧
    c.bytes = (s.core tm.core).scrRead tm.owner (tm.locBlk + d.src) d.count ∧
    (ctrlRel d.ctrl = false → c.sent = true) ∧ go c.dests

/-- A station that a loop of the entry at the team's station reaches (04 R77). -/
def McReaches (tm : Team) (e : BitVec 128) (st : Nat) : Prop := (mcLoop e (tm.core % 64) st).isSome = true

/-! ### The matrix engine and the accumulators -/

/-- An `MMA`, `MMAS` or `MMAZ` passes its checks: operands alike in every active lane, a valid format word, a descriptor in place
that passes R242 for a split of w × h, the team's context in possession of the accumulators, room in the queue (11 R241, R242,
R243, R255). -/
structure MatrixRuns (s : State) (x : Issue) (tm : Team) (word : Word) (a b : Reg) (fmt : Word) (off w h : Nat) : Prop where
  issue : s.issue = some x
  fresh : ∀ r st, x.g.wait ≠ .mmas r st
  ready : x.Ready (s.stackOf x.g) x.act [⟨a, 1⟩, ⟨b, 1⟩] [⟨a, 1⟩, ⟨b, 1⟩]
  team : s.team x.g.team = some tm
  core : tm.core = coreOf x.gid
  alike : ∀ l, Mask.has x.act l = true → (x.g.src (s.stackOf x.g) l a).toNat = off ∧ x.g.src (s.stackOf x.g) l b = fmt
  format : matrixValid fmt = true
  inside : off % 16 = 0 ∧ off + 64 ≤ tm.locSize
  present : (s.core tm.core).anyAbsent (tm.locBlk + off) 64 = false
  checks : s.mmaReason word (x.g.team, tm)
    (MmaDesc.ofBytes ((s.core tm.core).scrRead tm.owner (tm.locBlk + off) 64)) fmt w h = none
  owner : tm.accCtx = (s.core tm.core).acOwner
  room : (s.core tm.core).mq.length < 16

/-- The operation a core's own `MMA` or `MMAZ` puts at the end of its queue. -/
def Queued (s t : State) (x : Issue) (tm : Team) (fmt : Word) (off : Nat) (zero : Bool) : Prop :=
  let d := MmaDesc.ofBytes ((s.core tm.core).scrRead tm.owner (tm.locBlk + off) 64)
  ∃ op : Mop, (t.core tm.core).mq = (s.core tm.core).mq ++ [op] ∧ op.team = x.g.team ∧ op.gid = x.gid ∧ op.a = d.a ∧ op.b = d.b ∧
    op.aStride = d.aStride ∧ op.bStride = d.bStride ∧ op.m = d.m ∧ op.n = d.n ∧ op.k = d.k ∧ op.accOff = d.accOff ∧
    op.accStride = d.accStride ∧ op.obj = d.obj ∧ op.ctrl = d.ctrl ∧ op.fmt = fmt ∧ op.zero = zero ∧ op.started = false ∧
    op.coll = none

/-- An accumulator instruction executes normally: operands there, the context in possession, each participating lane's k indices
from `lo` on inside the team's block and under no `MMA` that is not complete (11 R236, R255, R257). -/
structure AccRuns (s : State) (x : Issue) (tm : Team) (part : Mask) (srcs waits : List Operand) (idx : LaneIx → Nat × Nat) :
    Prop where
  issue : s.issue = some x
  ready : x.Ready (s.stackOf x.g) part srcs waits
  team : s.team x.g.team = some tm
  core : tm.core = coreOf x.gid
  owner : tm.accCtx = (s.core tm.core).acOwner
  inside : ∀ l, Mask.has part l = true → (idx l).2 = 0 ∨ (idx l).1 + (idx l).2 ≤ tm.accSize / 4
  free : ∀ l, Mask.has part l = true → s.accBusy (coreOf x.gid) x.g.team (idx l).1 (idx l).2 = false

/-- An accumulator as the team reads it (11 R234, R235). -/
def accOf (s : State) (tm : Team) (i : Nat) : Word := (s.core tm.core).accRead tm.owner (tm.accBlk / 4 + i)

/-- Values on their way back to the destination of the participating lanes, which is pending (06 R127; 11 R256). -/
def Returning (s t : State) (x : Issue) (part : Mask) (nw : Bool) (d : Reg) (g' : Group) (val : LaneIx → Word) : Prop :=
  (∀ l, Mask.has part l = true → ∃ rid r, s.nextId ≤ rid ∧ t.reqs.find rid = some r ∧ r.maker = .lane x.gid l.val ∧ r.kind = .acc ∧
    r.dst = dstOf x.g (s.stackOf x.g) part nw ⟨d, 1⟩ l ∧ r.stage = .reply [val l] false) ∧
  (nw = false → d.toNat < 96 → ∀ l, Mask.has part l = true → (g'.cell (s.stackOf x.g) l d.toNat).pend = true)

end Sys2Proof.Rules

open Sys2Proof Sys2Proof.Machine Sys2Proof.Rules

/-- R107, R109: `BINIT` marks each participating lane's granule and makes it an object that expects b, with nothing arrived, no
status and generation 0; `BKILL` sets the killed bit and error 0x06, advances the generation and unmarks the
granule. -/
def Sys2Proof.Rules.BarrierInitAndKill : Prop :=
  ∀ (s : State) (x : Issue) (tm : Team),
    (∀ o : A2ab, LocalRuns s x tm (x.part o.g) [⟨o.a, 1⟩, ⟨o.b, 1⟩] [⟨o.a, 1⟩, ⟨o.b, 1⟩] o.a 16 → Apart s x (x.part o.g) o.a →
      (∀ l, Mask.has (x.part o.g) l = true → (s.core tm.core).marked (placeOf s x tm o.a l) = false ∧
        (s.core tm.core).anyAbsent (placeOf s x tm o.a l) 16 = false) →
      ∃ t g', exec (.binit o) s = .next t ∧ OnlyObjects s t x tm (x.part o.g) o.a g' ∧
        (∀ l, Mask.has (x.part o.g) l = true → let k := t.core tm.core; let a := placeOf s x tm o.a l
          k.word a = x.g.src (s.stackOf x.g) l o.b ∧ k.word (a + 4) = 0#32 ∧ k.word (a + 8) = 0#32 ∧ k.word (a + 12) = 0#32 ∧
            k.marked a = true) ∧
        (Steady x x.seq → GoOn x x.act x.seq g')) ∧
    (∀ o : A1a, LocalRuns s x tm (x.part o.g) [⟨o.a, 1⟩] [⟨o.a, 1⟩] o.a 16 → Apart s x (x.part o.g) o.a →
      (∀ l, Mask.has (x.part o.g) l = true → (s.core tm.core).marked (placeOf s x tm o.a l) = true) →
      ∃ t g', exec (.bkill o) s = .next t ∧ OnlyObjects s t x tm (x.part o.g) o.a g' ∧
        (∀ l, Mask.has (x.part o.g) l = true → let k := t.core tm.core; let a := placeOf s x tm o.a l
          k.word a = (s.core tm.core).word a ∧ k.word (a + 4) = (s.core tm.core).word (a + 4) ∧
            k.word (a + 8) = statusErr ((s.core tm.core).word (a + 8) ||| 0x40000000#32) 6 ∧
            k.word (a + 12) = (s.core tm.core).word (a + 12) + 1#32 ∧ k.marked a = false) ∧
        (Steady x x.seq → GoOn x x.act x.seq g'))

/-- R104, R105, R109: `BARV` adds its lanes' counts to arrived, which saturates with the error bit set, and `BEXP` adds theirs to
expected, modulo 2^32; an object that becomes open by it advances its generation once. -/
def Sys2Proof.Rules.BarrierCounts : Prop :=
  ∀ (s : State) (x : Issue) (tm : Team) (o : A2ab),
    LocalRuns s x tm (x.part o.g) [⟨o.a, 1⟩, ⟨o.b, 1⟩] [⟨o.a, 1⟩, ⟨o.b, 1⟩] o.a 16 →
    (∀ l, Mask.has (x.part o.g) l = true → (s.core tm.core).marked (placeOf s x tm o.a l) = true) →
    (∃ t g', exec (.barv o) s = .next t ∧ OnlyObjects s t x tm (x.part o.g) o.a g' ∧
      (∀ l, Mask.has (x.part o.g) l = true → let k := s.core tm.core; let k' := t.core tm.core; let a := placeOf s x tm o.a l
        let sum := (k.word (a + 4)).toNat + counts s x (x.part o.g) o.a o.b l
        k'.word a = k.word a ∧ k'.word (a + 4) = BitVec.ofNat 32 (min sum (2 ^ 32 - 1)) ∧ k'.marked a = true ∧
          (sum < 2 ^ 32 → k'.word (a + 8) = k.word (a + 8) ∧
            k'.word (a + 12) = if k.isOpen a = false ∧ k'.isOpen a = true then k.word (a + 12) + 1#32 else k.word (a + 12)) ∧
          (2 ^ 32 ≤ sum → (k'.word (a + 8)).getLsbD 31 = true)) ∧
      (Steady x x.seq → GoOn x x.act x.seq g')) ∧
    (∃ t g', exec (.bexp o) s = .next t ∧ OnlyObjects s t x tm (x.part o.g) o.a g' ∧
      (∀ l, Mask.has (x.part o.g) l = true → let k := s.core tm.core; let k' := t.core tm.core; let a := placeOf s x tm o.a l
        k'.word a = BitVec.ofNat 32 ((k.word a).toNat + counts s x (x.part o.g) o.a o.b l) ∧
          k'.word (a + 4) = k.word (a + 4) ∧ k'.word (a + 8) = k.word (a + 8) ∧ k'.marked a = true ∧
          (Apart s x (x.part o.g) o.a →
            k'.word (a + 12) = if k.isOpen a = false ∧ k'.isOpen a = true then k.word (a + 12) + 1#32 else k.word (a + 12))) ∧
      (Steady x x.seq → GoOn x x.act x.seq g'))

/-- Barrier objects: initialisation, kill and counts (R107, R109, R104, R105). -/
def Obligations.BarrierObjects : Prop := Rules.BarrierInitAndKill ∧ Rules.BarrierCounts

/-- R105, R109, R111: `BTEST` writes an object's open bit and error bit; `BWAIT` completes at once with the status words when
every object it names is open, otherwise parks its group until each has released its lane, and then writes what they held. The clocks
that the objects' counts had brought when each released its lane join the group's (log 15). -/
def Obligations.BarrierTestAndWait : Prop :=
  ∀ (s : State) (x : Issue) (o : A2), (Instr.btest o).wellFormed = true → (Instr.bwait o).wellFormed = true → 96 ≤ s.stackOf x.g →
    let kept := fun (g' : Group) => { g' with vc := x.g.vc, shed := x.g.shed, stopped := x.g.stopped }
    (∀ tm : Team, tm.role = 0 →
      LocalRuns s x tm (x.part o.g) [⟨o.a, 1⟩] ([⟨o.a, 1⟩] ++ if o.nw then [] else [⟨o.d, 1⟩]) o.a 16 →
      (∀ l, Mask.has (x.part o.g) l = true → (s.core tm.core).marked (placeOf s x tm o.a l) = true) →
      let at_ := placeOf s x tm o.a
      let k := s.core tm.core
      (∃ t g', exec (.btest o) s = .next t ∧ OnlyGroup s t x.gid g' ∧ g'.gp = x.g.gp ∧
        Wrote x.g (s.stackOf x.g) (x.part o.g) o.nw ⟨o.d, 1⟩ (fun l => [BitVec.ofNat 32 ((if k.isOpen (at_ l) then 1 else 0) +
          (if (k.word (at_ l + 8)).getLsbD 31 then 2 else 0))]) g' ∧ (Steady x x.seq → GoOn x x.act x.seq g')) ∧
      ((∀ ws, x.g.wait ≠ .object ws) → (∀ l, Mask.has (x.part o.g) l = true → k.isOpen (at_ l) = true) →
        ∃ t g', exec (.bwait o) s = .next t ∧ OnlyGroup s t x.gid g' ∧ x.g.vc.le g'.vc = true ∧
          (o.d ≠ Reg.z → Wrote x.g (s.stackOf x.g) (x.part o.g) o.nw ⟨o.d, 1⟩ (fun l => [k.word (at_ l + 8)]) (kept g')) ∧
          (o.d = Reg.z → Moved x.g (kept g')) ∧ (Steady x x.seq → GoOn x x.act x.seq g')) ∧
      ((∀ ws, x.g.wait ≠ .object ws) → (∃ l, Mask.has (x.part o.g) l = true ∧ k.isOpen (at_ l) = false) →
        ∃ t g' ws, exec (.bwait o) s = .next t ∧ OnlyGroup s t x.gid g' ∧ Moved x.g (kept g') ∧ Stays x g' ∧
          g'.pin = some ⟨x.act, encode (.bwait o)⟩ ∧ g'.wait = .object ws ∧
          ws = (Mask.lanes (x.part o.g)).map fun l => ⟨l.val, (x.g.src (s.stackOf x.g) l o.a).toNat, k.word (at_ l + 12),
            if k.isOpen (at_ l) then some (k.word (at_ l + 8)) else none,
            if k.isOpen (at_ l) then s.objClock x.g.team (x.g.src (s.stackOf x.g) l o.a).toNat else {}⟩)) ∧
    (∀ ws, s.issue = some x → Plain s x → x.g.wait = .object ws → (∀ w ∈ ws, w.status.isSome = true) →
      ∃ t g', exec (.bwait o) s = .next t ∧ OnlyGroup s t x.gid g' ∧ x.g.vc.le g'.vc = true ∧ g'.pin = none ∧ g'.wait = .none ∧
        (o.d ≠ Reg.z → Wrote x.g (s.stackOf x.g) (x.part o.g) o.nw ⟨o.d, 1⟩ (fun l => [waitStatus ws l]) (kept g')) ∧
        (o.d = Reg.z → Moved x.g (kept g')) ∧ (Steady x x.seq → GoOn x x.act x.seq g'))

/-- R91, R97, R101, R114 to R116: `CPY`, `PUT` and `PUTM` read each participating lane's descriptor and put a copy or transfer
in flight for it, with its ticket; the bytes of a transfer are those its source holds at issue, and one without a release is sent at
once: a `PUT` to the team its destination word names, a `PUTM` to each core that its entry at its own station drops at and a loop of
it reaches. Not of these are a transfer whose path is down or whose package is no member of the scale-up domain, and one without an
entry. That the bytes are those of the issue is log 29. -/
def Sys2Proof.Rules.CopiesIssue : Prop :=
  ∀ (s : State) (x : Issue) (tm : Team) (o : A2), (Instr.cpy o).wellFormed = true → (Instr.put o).wellFormed = true →
    (Instr.putm o).wellFormed = true →
    (CopyRuns s x tm (x.part o.g) o.nw o.d o.a 48 →
      (∀ l, Mask.has (x.part o.g) l = true → let d := CopyDesc.ofBytes (descOf s x tm o.a 48 l)
        copyRangeTrap (encode (.cpy o)) d tm.locSize = none ∧ s.copyReason x.g.team d = none) →
      ∃ t g', exec (.cpy o) s = .next t ∧ t.grp x.gid = some g' ∧ Tickets s x (x.part o.g) o.nw o.d g' ∧
        { t with groups := s.groups, cores := s.cores, nextId := s.nextId } = s ∧ (∀ k, k ≠ x.gid → t.grp k = s.grp k) ∧
        (∀ l, Mask.has (x.part o.g) l = true → let d := CopyDesc.ofBytes (descOf s x tm o.a 48 l)
          ∃ cid c, (t.core tm.core).copies.find cid = some c ∧ c.kind = .copy ∧ c.team = x.g.team ∧ c.gid = x.gid ∧
            c.ticket = ticketOf x.g (rankOf (x.part o.g) l) ∧ c.src = d.src ∧ c.dst = d.dst ∧ c.rowBytes = d.rowBytes ∧
            c.rows = d.rows ∧ c.srcStride = d.srcStride ∧ c.dstStride = d.dstStride ∧ c.obj = d.obj ∧ c.ctrl = d.ctrl ∧
            c.landed = [] ∧ c.buf = []) ∧
        (Steady x x.seq → GoOn x x.act x.seq g')) ∧
    (CopyRuns s x tm (x.part o.g) o.nw o.d o.a 32 →
      ((∀ l, Mask.has (x.part o.g) l = true → let d := PutDesc.ofBytes (descOf s x tm o.a 32 l)
          PutOk s x tm false d ∧ s.pathDown (s.putPath tm.core (s.putDest x.g.team d.dest).1) = false ∧
            (256 ≤ (s.putDest x.g.team d.dest).1 → Config.inDomain ((s.putDest x.g.team d.dest).1 / 256 - 1) = true)) →
        ∃ t g', exec (.put o) s = .next t ∧ t.grp x.gid = some g' ∧ Tickets s x (x.part o.g) o.nw o.d g' ∧ t.dram = s.dram ∧
          (∀ k, k ≠ x.gid → t.grp k = s.grp k) ∧
          (∀ l, Mask.has (x.part o.g) l = true → let d := PutDesc.ofBytes (descOf s x tm o.a 32 l)
            InFlight s t x tm .put (ticketOf x.g (rankOf (x.part o.g) l)) d
              (fun ds => ∃ fl, ds = [{ core := (s.putDest x.g.team d.dest).1, tslot := (s.putDest x.g.team d.dest).2, flow := fl }])) ∧
          (Steady x x.seq → GoOn x x.act x.seq g')) ∧
      ((∀ l, Mask.has (x.part o.g) l = true → let d := PutDesc.ofBytes (descOf s x tm o.a 32 l)
          PutOk s x tm true d ∧ ∃ e, s.mcEntry (tm.core / 64) (tm.core % 64) d.dest.toNat ((s.partOf x.g).getD 0) = some e) →
        ∃ t g', exec (.putm o) s = .next t ∧ t.grp x.gid = some g' ∧ Tickets s x (x.part o.g) o.nw o.d g' ∧ t.dram = s.dram ∧
          (∀ k, k ≠ x.gid → t.grp k = s.grp k) ∧
          (∀ l, Mask.has (x.part o.g) l = true → let d := PutDesc.ofBytes (descOf s x tm o.a 32 l)
            InFlight s t x tm .putm (ticketOf x.g (rankOf (x.part o.g) l)) d fun dests => ctrlRel d.ctrl = false →
              ∀ e, s.mcEntry (tm.core / 64) (tm.core % 64) d.dest.toNat ((s.partOf x.g).getD 0) = some e →
                ∀ k ∈ mcDrops (tm.core / 64) e, McReaches tm e (k % 64) → { core := k, tslot := gridSlot } ∈ dests) ∧
          (Steady x x.seq → GoOn x x.act x.seq g')))

/-- R97, R101: with tickets whose bits 31:21 are 0, `CPYWAIT` parks its group while a participating lane's ticket names a copy of
its team in flight and otherwise goes on; `CPYST` writes 1 where the ticket names none, and 0 where it does. -/
def Sys2Proof.Rules.CopyTickets : Prop :=
  ∀ (s : State) (x : Issue), s.issue = some x →
    (∀ o : A1a, x.Ready (s.stackOf x.g) (x.part o.g) [⟨o.a, 1⟩] [⟨o.a, 1⟩] →
      (∀ l, Mask.has (x.part o.g) l = true → (x.g.src (s.stackOf x.g) l o.a).toNat < 2 ^ 21) →
      let flying := fun l => s.inFlight (coreOf x.gid) x.g.team (x.g.src (s.stackOf x.g) l o.a)
      ((∀ l, Mask.has (x.part o.g) l = true → flying l = false) → ∃ t g', exec (.cpywait o) s = .next t ∧ OnlyGroup s t x.gid g' ∧
        Moved x.g g' ∧ (Steady x x.seq → GoOn x x.act x.seq g')) ∧
      ((∃ l, Mask.has (x.part o.g) l = true ∧ flying l = true) → exec (.cpywait o) s = .next s)) ∧
    (∀ o : A2, (Instr.cpyst o).wellFormed = true → Plain s x → (⟨o.g, o.nw, [⟨o.a, 1⟩], ⟨o.d, 1⟩, fun _ _ _ _ => True⟩ : ValueRule).Runs s x →
      (∀ l, Mask.has (x.part o.g) l = true → (x.g.src (s.stackOf x.g) l o.a).toNat < 2 ^ 21) →
      ∃ t g', exec (.cpyst o) s = .next t ∧ OnlyGroup s t x.gid g' ∧ g'.gp = x.g.gp ∧
        Wrote x.g (s.stackOf x.g) (x.part o.g) o.nw ⟨o.d, 1⟩ (fun l =>
          [if s.inFlight (coreOf x.gid) x.g.team (x.g.src (s.stackOf x.g) l o.a) then 0#32 else 1#32]) g' ∧
        (Steady x x.seq → GoOn x x.act x.seq g'))

/-- Copies as they are issued, and their tickets (R91, R97, R101, R114, R115, R116). -/
def Obligations.Copies : Prop := Rules.CopiesIssue ∧ Rules.CopyTickets

/-- R240, R241, R243, R249, R251: an `MMA` or `MMAZ` that passes its checks enters its core's queue and the group goes on; an
`MMAS` of a cluster of one does too, and one of a larger cluster waits for its instance, goes on when that has started, and
traps with the instance's reason when it was turned away. -/
def Obligations.MatrixIssue : Prop :=
  ∀ (s : State) (x : Issue) (tm : Team) (a b : Reg) (fmt : Word) (off : Nat),
    (∀ i zero, (i = .mma a b ∧ zero = false) ∨ (i = .mmaz a b ∧ zero = true) ∨ (i = .mmas a b ∧ zero = false ∧ s.clusterOf tm = (1, 1)) →
      MatrixRuns s x tm (encode i) a b fmt off 1 1 →
      ∃ t g', exec i s = .next t ∧ t.grp x.gid = some g' ∧ (∀ k, k ≠ x.gid → t.grp k = s.grp k) ∧ Moved x.g g' ∧
        { t with groups := s.groups, cores := s.cores, nextId := s.nextId } = s ∧ Queued s t x tm fmt off zero ∧
        (Steady x x.seq → GoOn x x.act x.seq g')) ∧
    (∀ w h, s.clusterOf tm = (w, h) → w * h ≠ 1 → MatrixRuns s x tm (encode (.mmas a b)) a b fmt off w h →
      ∃ t g' e, exec (.mmas a b) s = .next t ∧ t.grp x.gid = some g' ∧ (∀ k, k ≠ x.gid → t.grp k = s.grp k) ∧ Moved x.g g' ∧
        Stays x g' ∧ g'.pin = some ⟨x.act, encode (.mmas a b)⟩ ∧ g'.wait = .mmas none false ∧
        (t.core tm.core).mwait.find x.gid = some e ∧ e.fmt = fmt ∧
        e.desc = (s.core tm.core).scrRead tm.owner (tm.locBlk + off) 64) ∧
    (s.issue = some x → x.g.wait = .mmas none true →
      ∃ t g', exec (.mmas a b) s = .next t ∧ OnlyGroup s t x.gid g' ∧ g'.still = x.g.still ∧ g'.pin = none ∧ g'.wait = .none ∧
        (Steady x x.seq → GoOn x x.act x.seq g')) ∧
    (∀ r st, s.issue = some x → x.g.wait = .mmas (some r) st →
      ∃ t g', exec (.mmas a b) s = .next t ∧ t.grp x.gid = some g' ∧
        g'.trap = some ⟨0x0F, x.pc, x.act, BitVec.ofNat 32 r, 0#64, false⟩)

/-- R234 to R236, R256: `ACRD` returns each participating lane's accumulator a + lane, and `ACCVT` the codes of the four from
a + 4 × lane packed under conversion word b; `ACWR` writes d, the highest of the lanes that name one index prevailing; `ACZ`
zeroes b accumulators from a on. The team's other accumulators stay. -/
def Obligations.AccumulatorInstructions : Prop :=
  ∀ (s : State) (x : Issue) (tm : Team), 96 ≤ s.stackOf x.g →
    let src := x.g.src (s.stackOf x.g)
    (∀ o : A2, AccRuns s x tm (x.part o.g) [⟨o.a, 1⟩] ([⟨o.a, 1⟩] ++ if o.nw then [] else [⟨o.d, 1⟩])
        (fun l => ((src l o.a).toNat + l.val, 1)) →
      ∃ t g', exec (.acrd o) s = .next t ∧ t.grp x.gid = some g' ∧ (∀ k, k ≠ x.gid → t.grp k = s.grp k) ∧ KeepsGroup x.g g' ∧
        Returning s t x (x.part o.g) o.nw o.d g' (fun l => accOf s tm ((src l o.a).toNat + l.val)) ∧ t.cores = s.cores ∧
        t.dram = s.dram ∧ (Steady x x.seq → GoOn x x.act x.seq g')) ∧
    (∀ o : A3, AccRuns s x tm (x.part o.g) [⟨o.a, 1⟩, ⟨o.b, 1⟩] ([⟨o.a, 1⟩, ⟨o.b, 1⟩] ++ if o.nw then [] else [⟨o.d, 1⟩])
        (fun l => ((src l o.a).toNat + 4 * l.val, 4)) →
      (∀ l, Mask.has (x.part o.g) l = true → convValid (src l o.b) = true ∧ edNarrow ((src l o.b).extractLsb' 0 16) = true) →
      ∃ t g', exec (.accvt o) s = .next t ∧ t.grp x.gid = some g' ∧ (∀ k, k ≠ x.gid → t.grp k = s.grp k) ∧ KeepsGroup x.g g' ∧
        Returning s t x (x.part o.g) o.nw o.d g' (fun l => ofBytes4 ((List.range 4).map fun i =>
          (convEncode (src l o.b) (fp32.decode (accOf s tm ((src l o.a).toNat + 4 * l.val + i)).toNat)).code)) ∧
        t.cores = s.cores ∧ t.dram = s.dram ∧ (Steady x x.seq → GoOn x x.act x.seq g')) ∧
    (∀ o : A2s, AccRuns s x tm (x.part o.g) [⟨o.a, 1⟩, ⟨o.d, 1⟩] [⟨o.a, 1⟩, ⟨o.d, 1⟩] (fun l => ((src l o.a).toNat + l.val, 1)) →
      ∃ t g', exec (.acwr o) s = .next t ∧ t.grp x.gid = some g' ∧ (∀ k, k ≠ x.gid → t.grp k = s.grp k) ∧ Moved x.g g' ∧
        { t with groups := s.groups, cores := s.cores } = s ∧
        (∀ l, Mask.has (x.part o.g) l = true →
          (∀ m, Mask.has (x.part o.g) m = true → l.val < m.val → (src m o.a).toNat + m.val ≠ (src l o.a).toNat + l.val) →
          accOf t tm ((src l o.a).toNat + l.val) = src l o.d) ∧
        (∀ i, (∀ l, Mask.has (x.part o.g) l = true → (src l o.a).toNat + l.val ≠ i) → accOf t tm i = accOf s tm i) ∧
        (Steady x x.seq → GoOn x x.act x.seq g')) ∧
    (∀ o : A2ab, AccRuns s x tm (x.part o.g) [⟨o.a, 1⟩, ⟨o.b, 1⟩] [⟨o.a, 1⟩, ⟨o.b, 1⟩]
        (fun l => ((src l o.a).toNat, (src l o.b).toNat)) →
      ∃ t g', exec (.acz o) s = .next t ∧ t.grp x.gid = some g' ∧ (∀ k, k ≠ x.gid → t.grp k = s.grp k) ∧ Moved x.g g' ∧
        { t with groups := s.groups, cores := s.cores } = s ∧
        (∀ i, accOf t tm i = if ∃ l, Mask.has (x.part o.g) l = true ∧ (src l o.a).toNat ≤ i ∧ i < (src l o.a).toNat + (src l o.b).toNat
          then 0#32 else accOf s tm i) ∧
        (Steady x x.seq → GoOn x x.act x.seq g'))

namespace Sys2Proof.Rules
open Sys2Proof Sys2Proof.Machine

/-! ### Tasks, launches and refinement grids -/

/-- A group of a refinement grid (17 R329). -/
structure Refining (s : State) (x : Issue) (tm : Team) (gr : Grid) (r : Refine) : Prop where
  issue : s.issue = some x
  stack : 96 ≤ s.stackOf x.g
  team : s.team x.g.team = some tm
  plain : tm.role = 0
  grid : s.grid tm.grid = some gr
  refine : gr.refine = some r

/-- The group but for what a release point sets: its carried clock and its pending release (07 R150). -/
def Unreleased (x : Issue) (g' : Group) : Group := { g' with cc := x.g.cc, relCarry := x.g.relCarry }

/-- An event of a grid's tile is on its way to the task unit (17 R332). -/
def TaskSent (t : State) (tm : Team) (e : TaskEv) : Prop :=
  ∃ gr q id, t.grid tm.grid = some gr ∧ gr.refine = some q ∧ q.ev.find id = some e

/-- Reads of the scoreboard on their way, one for each participating lane (17 R338). -/
def BoardReads (s t : State) (x : Issue) (part : Mask) (nw : Bool) (dst : Operand) (g' : Group) (kind : LaneIx → ReqKind → Prop) :
    Prop :=
  (∀ l, Mask.has part l = true → ∃ rid r, s.nextId ≤ rid ∧ t.reqs.find rid = some r ∧ r.maker = .lane x.gid l.val ∧ kind l r.kind ∧
    r.dst = dstOf x.g (s.stackOf x.g) part nw dst l ∧ r.stage = .sent) ∧
  (nw = false → ∀ l, Mask.has part l = true → ∀ k, k < dst.w → dst.r.toNat + k < 96 →
    (g'.cell (s.stackOf x.g) l (dst.r.toNat + k)).pend = true)

end Sys2Proof.Rules

open Sys2Proof Sys2Proof.Machine Sys2Proof.Rules

/-- R321 to R323, R328: `SPAWN` gives each participating lane outcome 0, 1 or 2. A task goes to the open bin of its grid and entry,
which its thirty-second task triggers, else to the lowest free bin, else to the overflow queue (outcome 1), else nowhere
(outcome 2). -/
def Sys2Proof.Rules.SpawnOutcomes : Prop :=
  ∀ (s : State) (x : Issue) (tm : Team) (o : A3), (Instr.spawn o).wellFormed = true → s.issue = some x →
    s.team x.g.team = some tm → tm.role = 0 → 96 ≤ s.stackOf x.g →
    x.Ready (s.stackOf x.g) (x.part o.g) [⟨o.a, 1⟩, ⟨o.b, 8⟩] ([⟨o.a, 1⟩, ⟨o.b, 8⟩] ++ if o.nw then [] else [⟨o.d, 1⟩]) →
    s.releaseReady x.gid x.g .team = true →
    (∀ l, Mask.has (x.part o.g) l = true → (x.g.src (s.stackOf x.g) l o.a).toNat % 4 = 0) →
    ∃ t g', ∃ out : LaneIx → Word, exec (.spawn o) s = .next t ∧ t.grp x.gid = some g' ∧ (∀ k, k ≠ x.gid → t.grp k = s.grp k) ∧
      (∀ l, Mask.has (x.part o.g) l = true → out l = 0#32 ∨ out l = 1#32 ∨ out l = 2#32) ∧
      Wrote x.g (s.stackOf x.g) (x.part o.g) o.nw ⟨o.d, 1⟩ (fun l => [out l]) (Unreleased x g') ∧
      (Steady x x.seq → GoOn x x.act x.seq g') ∧
      (∀ l, x.part o.g = Mask.add 0#32 l →
        let c := coreOf x.gid
        let pc := x.g.src (s.stackOf x.g) l o.a
        let task : Task := ⟨tm.grid, pc, x.g.srcs (s.stackOf x.g) l ⟨o.b, 8⟩, x.g.vc⟩
        (∀ b v, (s.core c).openBin tm.grid pc = some b → (s.core c).bins.find b = some v → out l = 0#32 ∧
          (t.core c).bins.find b = some { v with tasks := v.tasks ++ [task], triggered := decide (v.tasks.length = 31) }) ∧
        ((s.core c).openBin tm.grid pc = none →
          (∀ b, b < 16 → (s.core c).bins.find b = none → (∀ j, j < b → (s.core c).bins.find j ≠ none) → out l = 0#32 ∧
            (t.core c).bins.find b = some ⟨tm.grid, pc, [task], max 1 tm.binTimer.toNat, false⟩) ∧
          ((∀ b, b < 16 → (s.core c).bins.find b ≠ none) →
            let q? := (s.die (dieOfCore c)).overflow.find ((s.partOf x.g).getD 0)
            (∀ q, q? = some q → q.tasks.length < q.room → out l = 1#32 ∧
              (t.die (dieOfCore c)).overflow.find ((s.partOf x.g).getD 0) = some { q with tasks := q.tasks ++ [task] }) ∧
            ((∀ q, q? = some q → q.room ≤ q.tasks.length) → out l = 2#32 ∧ t.cores = s.cores ∧ t.dies = s.dies))))

/-- R302, R304, R326 to R328: `SFLUSH` triggers the bins of its core that hold tasks of its grid at an entry a participating lane
names; `LAUNCH` answers 1 for a record that fails its checks, 2 for a foreign owner tag, 3 when the device launch queue is full,
and otherwise puts the record into that queue and answers 0. Where every record fails its checks it is no release. -/
def Sys2Proof.Rules.FlushAndLaunch : Prop :=
  ∀ (s : State) (x : Issue) (tm : Team), tm.role = 0 →
    (∀ o : A1a, s.issue = some x → s.team x.g.team = some tm → x.Ready (s.stackOf x.g) (x.part o.g) [⟨o.a, 1⟩] [⟨o.a, 1⟩] →
      ∃ t g', exec (.sflush o) s = .next t ∧ t.grp x.gid = some g' ∧ (∀ k, k ≠ x.gid → t.grp k = s.grp k) ∧ Moved x.g g' ∧
        { t with groups := s.groups, cores := s.cores } = s ∧ (∀ c, c ≠ coreOf x.gid → t.core c = s.core c) ∧
        (∀ b v, (s.core (coreOf x.gid)).bins.find b = some v → ∃ v', (t.core (coreOf x.gid)).bins.find b = some v' ∧
          { v' with triggered := v.triggered } = v ∧ (v'.triggered = true ↔ v.triggered = true ∨ (v.grid = tm.grid ∧
            ∃ l, Mask.has (x.part o.g) l = true ∧ x.g.src (s.stackOf x.g) l o.a = v.entry))) ∧
        (Steady x x.seq → GoOn x x.act x.seq g')) ∧
    (∀ o : A2, (Instr.launch o).wellFormed = true → 96 ≤ s.stackOf x.g →
      LocalRuns s x tm (x.part o.g) [⟨o.a, 1⟩] ([⟨o.a, 1⟩] ++ if o.nw then [] else [⟨o.d, 1⟩]) o.a 64 →
      (∀ l, Mask.has (x.part o.g) l = true → (s.core tm.core).anyAbsent (placeOf s x tm o.a l) 64 = false) →
      (∀ l, Mask.has (x.part o.g) l = true → s.descReady ((s.partOf x.g).getD 0) (LaunchRec.ofBytes (descOf s x tm o.a 64 l)) = true) →
      let refused := ∀ l, Mask.has (x.part o.g) l = true → (LaunchRec.ofBytes (descOf s x tm o.a 64 l)).ok = false
      s.releaseReady x.gid x.g .device = true ∨ refused →
      ∃ t g', ∃ out : LaneIx → Word, exec (.launch o) s = .next t ∧ t.grp x.gid = some g' ∧ (∀ k, k ≠ x.gid → t.grp k = s.grp k) ∧
        (∀ l, Mask.has (x.part o.g) l = true → (out l).toNat ≤ 3) ∧
        Wrote x.g (s.stackOf x.g) (x.part o.g) o.nw ⟨o.d, 1⟩ (fun l => [out l]) (Unreleased x g') ∧
        (refused → Unreleased x g' = g') ∧ (Steady x x.seq → GoOn x x.act x.seq g') ∧
        (∀ l p pp parent, x.part o.g = Mask.add 0#32 l → s.partOf x.g = some p → s.part p = some pp → s.gridOf x.g = some parent →
          let r := LaunchRec.ofBytes (descOf s x tm o.a 64 l)
          (r.ok = false ∨ r.codeBase.toNat % 8192 ≠ 0 → out l = 1#32 ∧ t.part p = some pp) ∧
          (r.ok = true → r.codeBase.toNat % 8192 = 0 → r.isGrid = false →
            (r.owner ≠ parent.recd.owner → out l = 2#32 ∧ t.part p = some pp) ∧
            (r.owner = parent.recd.owner → 256 ≤ pp.devq.length → out l = 3#32 ∧ t.part p = some pp) ∧
            (r.owner = parent.recd.owner → pp.devq.length < 256 → out l = 0#32 ∧
              t.part p = some { pp with devq := pp.devq ++ [⟨r, parent.evQueue, pp.clk⟩] }))))

/-- Spawns, flushes and launches (R321, R322, R323, R328, R302, R304, R326, R327). -/
def Obligations.Tasks : Prop := Rules.SpawnOutcomes ∧ Rules.FlushAndLaunch

/-- R334 to R337: `VPUB` and `VFIN` send a publication of each tile their lanes name and wait inside the instruction for as
many answers as there are distinct tiles, which they then write; `VSTOP` sends a stop for each; `VSTALE` writes its run's stale mark, or
under KILLST makes the lanes of a stale run exit; both leave STATUS bit 2 set for a stale run (under KILLST, where R336 names no bit,
that is log 32). -/
def Sys2Proof.Rules.TilePublications : Prop :=
  ∀ (s : State) (x : Issue) (tm : Team) (gr : Grid) (r : Refine), Refining s x tm gr r →
    let src := x.g.src (s.stackOf x.g)
    (∀ i (o : A2) fin, i.wellFormed = true → (i = .vpub o ∧ fin = false) ∨ (i = .vfin o ∧ fin = true) →
      ((∀ ans n, x.g.wait ≠ .taskUnit ans n) → x.part o.g ≠ 0#32 → s.releaseReady x.gid x.g .device = true →
        x.Ready (s.stackOf x.g) (x.part o.g) [⟨o.a, 1⟩] ([⟨o.a, 1⟩] ++ if o.nw then [] else [⟨o.d, 1⟩]) →
        (∀ l, Mask.has (x.part o.g) l = true → ∃ n, r.index (src l o.a) = some n) →
        ∃ t g', exec i s = .next t ∧ t.grp x.gid = some g' ∧ (∀ k, k ≠ x.gid → t.grp k = s.grp k) ∧
          Moved x.g (Unreleased x g') ∧ Stays x g' ∧ g'.cc = x.g.vc ∧ g'.pin = some ⟨x.act, encode i⟩ ∧
          g'.wait = .taskUnit [] ((Mask.lanes (x.part o.g)).map fun l => src l o.a).eraseDups.length ∧
          ∀ l n, Mask.has (x.part o.g) l = true → r.index (src l o.a) = some n → TaskSent t tm (.pub n fin (some x.gid) x.g.vc)) ∧
      (∀ ans n, x.g.wait = .taskUnit ans n → n ≤ ans.length →
        ∃ t g', exec i s = .next t ∧ OnlyGroup s t x.gid g' ∧ g'.pin = none ∧ g'.wait = .none ∧ g'.gp = x.g.gp ∧
          Wrote x.g (s.stackOf x.g) (x.part o.g) o.nw ⟨o.d, 1⟩
            (fun l => [((ans.find? fun e => e.1 == (src l o.a).toNat).map Prod.snd).getD 0#32]) g' ∧
          (Steady x x.seq → GoOn x x.act x.seq g'))) ∧
    (∀ o : A1a, x.Ready (s.stackOf x.g) (x.part o.g) [⟨o.a, 1⟩] [⟨o.a, 1⟩] →
      (∀ l, Mask.has (x.part o.g) l = true → ∃ n, r.index (src l o.a) = some n) →
      ∃ t g', exec (.vstop o) s = .next t ∧ t.grp x.gid = some g' ∧ (∀ k, k ≠ x.gid → t.grp k = s.grp k) ∧ Moved x.g g' ∧
        (∀ l n, Mask.has (x.part o.g) l = true → r.index (src l o.a) = some n → TaskSent t tm (.stop n)) ∧
        (Steady x x.seq → GoOn x x.act x.seq g')) ∧
    (∀ o : A1d, (Instr.vstale o).wellFormed = true → x.part o.g ≠ 0#32 →
      x.Ready (s.stackOf x.g) (x.part o.g) [] (if o.nw then [] else [⟨o.d, 1⟩]) →
      ∃ t g', exec (.vstale o) s = .next t ∧ OnlyGroup s t x.gid g' ∧
        g'.status = (if x.g.stale then x.g.status ||| 4#32 else x.g.status) ∧
        (¬ (x.g.stale = true ∧ gr.recd.killst = true) →
          Wrote x.g (s.stackOf x.g) (x.part o.g) o.nw ⟨o.d, 1⟩ (fun _ => [if x.g.stale then 1#32 else 0#32])
            { g' with status := x.g.status } ∧ (Steady x x.seq → GoOn x x.act x.seq g')) ∧
        (x.g.stale = true → gr.recd.killst = true →
          (∀ l, Mask.has (x.part o.g) l = true → (g'.lane l).st = .exited ∧ (g'.lane l).pc = (x.g.lane l).pc ∧
            (g'.lane l).stack = (x.g.lane l).stack) ∧
          (x.g.levels = [] → GoOn x (x.act &&& ~~~(x.part o.g)) x.seq g')))

/-- R338, R339: `VRD` sends a read of the named tile or of the grid's status for each participating lane, `VSEEN` one of the run's
SEEN value, and their destinations are pending; `VSLACK` goes on at slack water and otherwise waits where it stands, inside
the instruction. -/
def Sys2Proof.Rules.TileReads : Prop :=
  ∀ (s : State) (x : Issue) (tm : Team) (gr : Grid) (r : Refine), Refining s x tm gr r →
    let src := x.g.src (s.stackOf x.g)
    (∀ o : A2, x.Ready (s.stackOf x.g) (x.part o.g) [⟨o.a, 1⟩] ([⟨o.a, 1⟩] ++ if o.nw then [] else [⟨o.d, 2⟩]) →
      (∀ l, Mask.has (x.part o.g) l = true → src l o.a = 0xFFFFFFFF#32 ∨ ∃ n, r.index (src l o.a) = some n) →
      ∃ t g', exec (.vrd o) s = .next t ∧ t.grp x.gid = some g' ∧ (∀ k, k ≠ x.gid → t.grp k = s.grp k) ∧ KeepsGroup x.g g' ∧
        t.dram = s.dram ∧ BoardReads s t x (x.part o.g) o.nw ⟨o.d, 2⟩ g'
          (fun l k => ∃ n, k = .tileRead (r.index (src l o.a)) n) ∧ (Steady x x.seq → GoOn x x.act x.seq g')) ∧
    (∀ o : A1d, x.Ready (s.stackOf x.g) (x.part o.g) [] (if o.nw then [] else [⟨o.d, 1⟩]) →
      ∃ t g', exec (.vseen o) s = .next t ∧ t.grp x.gid = some g' ∧ (∀ k, k ≠ x.gid → t.grp k = s.grp k) ∧ KeepsGroup x.g g' ∧
        t.dram = s.dram ∧ BoardReads s t x (x.part o.g) o.nw ⟨o.d, 1⟩ g' (fun _ k => k = .seenRead) ∧
        (Steady x x.seq → GoOn x x.act x.seq g')) ∧
    (∃ t g', exec .vslack s = .next t ∧ OnlyGroup s t x.gid g' ∧ Moved x.g { g' with shed := x.g.shed, stopped := x.g.stopped } ∧
      (r.slack = true → Steady x x.seq → GoOn x x.act x.seq g') ∧
      (r.slack = false → Stays x g' ∧ g'.pin = some ⟨x.act, encode .vslack⟩ ∧ g'.wait = .slack ∧ g'.levels = x.g.levels))

/-- Tile publications and reads (R334, R335, R336, R337, R338, R339). -/
def Obligations.Tiles : Prop := Rules.TilePublications ∧ Rules.TileReads

namespace Sys2Proof.Rules
open Sys2Proof Sys2Proof.Machine

/-! ### System registers -/

/-- The system registers of a group and its lanes, by selector (08 R176, R178; 13 R281, R291). -/
def groupRegisters (s : State) (x : Issue) (l : LaneIx) : List (Nat × Word) :=
  [(0x020, x.g.gp), (0x021, x.act), (0x022, BitVec.ofNat 32 (x.g.lane l).wb), (0x023, BitVec.ofNat 32 (x.g.lane l).wlo),
   (0x024, BitVec.ofNat 32 (s.stackOf x.g)), (0x033, BitVec.ofNat 32 x.g.levels.length), (0x040, x.g.fmode), (0x050, x.g.status),
   (0x052, x.g.cychi), (0x028, x.g.rj.get 0), (0x029, x.g.rj.get 1), (0x02A, x.g.rj.get 2), (0x02B, x.g.rj.get 3),
   (0x02C, x.g.rj.get 4), (0x02D, x.g.rj.get 5), (0x02E, x.g.rj.get 6), (0x02F, x.g.rj.get 7), (0x030, x.g.lc.get 0),
   (0x031, x.g.lc.get 1), (0x032, x.g.lc.get 2)]

/-- Those of a user group's identity and of its team's. -/
def teamRegisters (x : Issue) (tm : Team) (l : LaneIx) : List (Nat × Word) :=
  [(0x010, BitVec.ofNat 32 tm.x), (0x011, BitVec.ofNat 32 tm.y), (0x012, BitVec.ofNat 32 tm.z), (0x013, BitVec.ofNat 32 x.g.grpix),
   (0x014, BitVec.ofNat 32 tm.groups), (0x015, BitVec.ofNat 32 tm.rank), (0x017, BitVec.ofNat 32 tm.lin),
   (0x019, BitVec.ofNat 32 tm.locSize), (0x060, BitVec.ofNat 32 tm.role), (0x061, tm.sl), (0x062, tm.sh), (0x063, (x.g.lane l).rsig),
   (0x070, x.g.tilexy), (0x071, x.g.tilever), (0x072, x.g.gridid), (0x081, BitVec.ofNat 32 tm.accBlk),
   (0x082, BitVec.ofNat 32 tm.accSize), (0x090, BitVec.ofNat 32 x.g.pclass), (0x0A0, tm.binTimer.setWidth 32)]

/-- Those of its core, its bias domain and its die (19 R364). -/
def unitRegisters (s : State) (x : Issue) : List (Nat × Word) :=
  let die := s.die (dieOf x.gid)
  [(0x001, s.pkgId.setWidth 32), (0x053, (s.core (s.regCore x.gid)).dropCnt), (0x080, (s.core (s.regCore x.gid)).acOwner.setWidth 32),
   (0x091, BitVec.ofNat 32 s.power.permits), (0x092, BitVec.ofNat 32 (s.domain (domainOf (s.regCore x.gid))).st),
   (0x093, (s.domain (domainOf (s.regCore x.gid))).islope), (0x100, die.tcause), (0x101, die.tpc), (0x102, die.tlanes),
   (0x103, die.taddr.lo), (0x104, die.taddr.hi), (0x105, die.tgroup), (0x106, die.dwsel), (0x107, die.tinfo)]

end Sys2Proof.Rules

open Sys2Proof Sys2Proof.Machine Sys2Proof.Rules

/-- R176 to R180, R271: in a mode that may read it, `GETS` writes a system register's value to d in each active lane; the reads
of RUNROLE and of the signatures are not folded; a read of CYCLO (also `CYCLO_READ`) writes the low half of the domain's counter
and captures its high half, the counter having counted on unless the domain is idle. On a control core DROPCNT, ISLOPE, DOMSTATE and
CYCLO are those of the core that DWSEL names (log 8); how far CYCLO has counted is log 14. -/
def Sys2Proof.Rules.SystemRegisterReads : Prop :=
  ∀ (s : State) (x : Issue) (d : Reg) (sel : BitVec 10), (Instr.gets d sel).wellFormed = true → s.issue = some x →
    96 ≤ s.stackOf x.g → Plain s x →
    x.Ready (s.stackOf x.g) x.act [] [⟨d, 1⟩] →
    ((x.g.priv = true ∨ sel.toNat < 0x100 ∨ 0x107 < sel.toNat) → sel ≠ 0x051#10 →
      ∃ t g', exec (.gets d sel) s = .next t ∧ OnlyGroup s t x.gid g' ∧ g'.gp = x.g.gp ∧
        (sel ∉ [0x060#10, 0x061#10, 0x062#10, 0x063#10] →
          Wrote x.g (s.stackOf x.g) x.act false ⟨d, 1⟩ (fun l => [s.sysReg x l sel.toNat]) g') ∧
        (sel ∈ [0x060#10, 0x061#10, 0x062#10, 0x063#10] → (∀ l, (g'.lane l).rsig = (x.g.lane l).rsig) ∧
          (d.toNat < 96 → ∀ l, Mask.has x.act l = true →
            g'.cell (s.stackOf x.g) l d.toNat = { val := s.sysReg x l sel.toNat })) ∧
        (Steady x x.seq → GoOn x x.act x.seq g')) ∧
    (∀ i, i = .gets d 0x051#10 ∨ i = .cycloRead d →
      ∃ t g' n, exec i s = .next t ∧ t.grp x.gid = some g' ∧ (∀ k, k ≠ x.gid → t.grp k = s.grp k) ∧
        let dom := domainOf (s.regCore x.gid)
        let c : Dword := if (s.domain dom).st = 3 then (s.domain dom).clk else (s.domain dom).clk + BitVec.ofNat 64 n
        (t.domain dom).clk = c ∧ g'.cychi = c.hi ∧
          Wrote x.g (s.stackOf x.g) x.act false ⟨d, 1⟩ (fun _ => [c.lo]) { g' with cychi := x.g.cychi } ∧
          (Steady x x.seq → GoOn x x.act x.seq g')) ∧
    (∀ l, (∀ e ∈ groupRegisters s x l ++ unitRegisters s x, s.sysReg x l e.1 = e.2) ∧
      (x.g.priv = false → ∀ tm, s.team x.g.team = some tm → ∀ e ∈ teamRegisters x tm l, s.sysReg x l e.1 = e.2))

/-- R177, R181, R255: in a mode that may write it, `PUTS` gives a register the lowest active lane's a: gp, a rejoin mask, a loop
counter, DROPCNT and TPC whole, FMODE and ISLOPE with their reserved bits 0, DWSEL likewise, STATUS cleared by ones, BINTIMER the
low 16 bits. A write of ACOWNER (also `ACOWNER_WRITE`) parks its control core until `ACOWNER_CHANGE` has made it. On a control core
DROPCNT and ISLOPE are those of the core that DWSEL names (log 8). -/
def Sys2Proof.Rules.SystemRegisterWrites : Prop :=
  ∀ (s : State) (x : Issue) (a : Reg) (l0 : LaneIx) (v : Word), s.issue = some x → Mask.low x.act = some l0 →
    v = x.g.src (s.stackOf x.g) l0 a → x.Ready (s.stackOf x.g) x.act [⟨a, 1⟩] [⟨a, 1⟩] →
    (∀ sel : BitVec 10, sel ≠ 0x080#10 → (Instr.puts sel a).modeTrap x.g.priv = none →
      ∃ t g', exec (.puts sel a) s = .next t ∧ t.grp x.gid = some g' ∧ (∀ k, k ≠ x.gid → t.grp k = s.grp k) ∧
        Moved x.g { g' with gp := x.g.gp, fmode := x.g.fmode, status := x.g.status } ∧
        g'.gp = (if sel = 0x020#10 then v else x.g.gp) ∧ g'.fmode = (if sel = 0x040#10 then v &&& 0x1F#32 else x.g.fmode) ∧
        g'.status = (if sel = 0x050#10 then x.g.status &&& ~~~v else x.g.status) ∧
        ((∀ l k, (x.g.lane l).st ≠ .rejoin k) → ∀ k : Fin 8,
          g'.rj.get k = if sel.toNat = 0x028 + k.val then v else x.g.rj.get k) ∧
        (x.g.levels = [] → ∀ k : Fin 3, g'.lc.get k = if sel.toNat = 0x030 + k.val then v else x.g.lc.get k) ∧
        { t with groups := s.groups, cores := s.cores, domains := s.domains, teams := s.teams, dies := s.dies } = s ∧
        (∀ c, t.core c = if sel = 0x053#10 ∧ c = s.regCore x.gid then { s.core c with dropCnt := v } else s.core c) ∧
        (∀ n, t.domain n = if sel = 0x093#10 ∧ n = domainOf (s.regCore x.gid) then { s.domain n with islope := v &&& 0x00FFFFFF#32 }
          else s.domain n) ∧
        (∀ n, t.team n = if sel = 0x0A0#10 ∧ n = x.g.team ∧ x.g.priv = false
          then (s.team n).map fun tm => { tm with binTimer := v.setWidth 16 } else s.team n) ∧
        (∀ n, t.die n = if n ≠ dieOf x.gid then s.die n else if sel = 0x101#10 then { s.die n with tpc := v }
          else if sel = 0x106#10 then { s.die n with dwsel := v &&& 0xF03F07DF#32 } else s.die n) ∧
        (sel.toNat < 0x028 ∨ 0x032 < sel.toNat → Steady x x.seq → GoOn x x.act x.seq g')) ∧
    (∀ i, i = .puts 0x080#10 a ∨ i = .acownerWrite a → x.g.priv = true →
      ((∀ c w b, x.g.wait ≠ .acowner c w b) → ∃ t g', exec i s = .next t ∧ OnlyGroup s t x.gid g' ∧ Moved x.g g' ∧ Stays x g' ∧
        g'.pin = some ⟨x.act, encode (.puts 0x080#10 a)⟩ ∧ g'.wait = .acowner (s.regCore x.gid) v false) ∧
      (∀ c w, x.g.wait = .acowner c w true → ∃ t g', exec i s = .next t ∧ OnlyGroup s t x.gid g' ∧ Moved x.g g' ∧ g'.pin = none ∧
        g'.wait = .none ∧ (Steady x x.seq → GoOn x x.act x.seq g')))

/-- Reads and writes of system registers (R176, R177, R178, R179, R180, R271, R181, R255). -/
def Obligations.SystemRegisters : Prop := Rules.SystemRegisterReads ∧ Rules.SystemRegisterWrites

/-- R370 to R372: a control core's `DWRD` writes each lane's item and status, changing nothing else; its `DWWR` makes the write and
writes the status. A window register of a stopped group, for one, reads as its entry and is written there. Status 6 for a space that
is none, then 1 for an empty slot, then 2 for a group that runs, come before what an index would give (log 30). -/
def Obligations.DebugWindow : Prop :=
  ∀ (s : State) (x : Issue), s.issue = some x → x.g.priv = true → 8192 ≤ x.gid → x.gid < 8196 → 96 ≤ s.stackOf x.g →
    let die := dieOf x.gid
    (∀ d a (w st : LaneIx → Word), (Instr.dwrd d a).wellFormed = true →
      x.Ready (s.stackOf x.g) x.act [⟨a, 1⟩] [⟨d, 2⟩, ⟨a, 1⟩] →
      (∀ l, Mask.has x.act l = true → s.dwRead die (x.g.src (s.stackOf x.g) l a).toNat = .value (w l) (st l)) →
      ∃ t g', exec (.dwrd d a) s = .next t ∧ OnlyGroup s t x.gid g' ∧ g'.gp = x.g.gp ∧
        Wrote x.g (s.stackOf x.g) x.act false ⟨d, 2⟩ (fun l => [w l, st l]) g' ∧ (Steady x x.seq → GoOn x x.act x.seq g')) ∧
    (∀ d a b l0 s' w st, (Instr.dwwr d a b).wellFormed = true →
      x.Ready (s.stackOf x.g) x.act [⟨a, 1⟩, ⟨b, 1⟩] [⟨d, 1⟩, ⟨a, 1⟩, ⟨b, 1⟩] → x.act = Mask.add 0#32 l0 →
      s.dwWrite die (x.g.src (s.stackOf x.g) l0 a).toNat (x.g.src (s.stackOf x.g) l0 b) = (s', .value w st) →
      ∃ t g', exec (.dwwr d a b) s = .next t ∧ OnlyGroup s' t x.gid g' ∧ g'.gp = x.g.gp ∧
        Wrote x.g (s.stackOf x.g) x.act false ⟨d, 1⟩ (fun _ => [st]) g' ∧ (Steady x x.seq → GoOn x x.act x.seq g')) ∧
    (∀ i v g, s.grp (dwGid die (s.die die)) = some g → g.dwStopped = true → (s.die die).dwSpace = 0 → i < 96 →
      let l : LaneIx := Fin.ofNat 32 (s.die die).dwLane
      s.dwRead die i = .value (g.cell (s.stackOf g) l i).val 0#32 ∧
        ∃ s' g', s.dwWrite die i v = (s', .value 0#32 0#32) ∧ OnlyGroup s s' (dwGid die (s.die die)) g' ∧
          (g'.cell (s.stackOf g) l i).val = v ∧ (g'.cell (s.stackOf g) l i).pois = false ∧ (∀ k, k ≠ l → g'.lane k = g.lane k)) ∧
    (∀ i, (10 ≤ (s.die die).dwSpace → s.dwRead die i = .value 0#32 6#32) ∧
      ((s.die die).dwSpace < 9 → (s.die die).dwSpace ≠ 7 →
        (s.grp (dwGid die (s.die die)) = none → s.dwRead die i = .value 0#32 1#32) ∧
        ∀ g, s.grp (dwGid die (s.die die)) = some g → g.dwStopped = false → s.dwRead die i = .value 0#32 2#32))

/-- R363, R364, R367: `HALT` waits while its die has no trap, message or request; otherwise it loads the head of the trap queue
into the trap registers, unless a trap is still loaded, and writes what it found: bit 0 a loaded trap, bit 1 a message, bit 2 a
request. The message and the request that it reports are then pending no longer (log 39). -/
def Sys2Proof.Rules.HaltReports : Prop :=
  ∀ (s : State) (x : Issue) (d : Reg), (Instr.halt d).wellFormed = true → s.issue = some x → x.g.priv = true →
    96 ≤ s.stackOf x.g → x.Ready (s.stackOf x.g) x.act [] [⟨d, 1⟩] →
    let die := dieOf x.gid
    let k := s.die die
    ((k.tgroup.getLsbD 31 = true ∨ k.trapQ = []) → k.msgPend = false → k.reqPend = false → exec (.halt d) s = .next s) ∧
    (¬ ((k.tgroup.getLsbD 31 = true ∨ k.trapQ = []) ∧ k.msgPend = false ∧ k.reqPend = false) →
      ∃ t g', exec (.halt d) s = .next t ∧ t.grp x.gid = some g' ∧ g'.gp = x.g.gp ∧ (t.die die).msgPend = false ∧
        (t.die die).reqPend = false ∧
        Wrote x.g (s.stackOf x.g) x.act false ⟨d, 1⟩ (fun _ => [BitVec.ofNat 32 (((t.die die).tgroup.getLsbD 31).toNat +
          2 * k.msgPend.toNat + 4 * k.reqPend.toNat)]) g' ∧
        (Steady x x.seq → GoOn x x.act x.seq g') ∧
        (k.tgroup.getLsbD 31 = true → t.die die = { k with msgPend := false, reqPend := false }) ∧
        (∀ gid rest tr, k.tgroup.getLsbD 31 = false → k.trapQ = gid :: rest → (s.grp gid).bind Group.trap = some tr →
          (t.grp gid).bind Group.trap = some { tr with loaded := true } ∧
          t.die die = { k with
            msgPend := false, reqPend := false, trapQ := rest, tcause := BitVec.ofNat 32 tr.code, tpc := tr.pc
            tlanes := tr.lanes, taddr := tr.addr, tinfo := tr.info
            tgroup := 0x80000000#32 ||| (BitVec.ofNat 32 (coreOf gid % 64) <<< 8) ||| BitVec.ofNat 32 (slotOf gid) }))

/-- R364, R368, R369: with a trap loaded, `TRET` ends it: TGROUP.LOADED clears. Action 0 resumes the group, each lane of TLANES at
TPC, whose bits [1:0] a PC does not take (02 R19; log 30); action 1 kills the group; action 2 faults its grid with the trap's cause;
action 3 kills the grid. With none loaded it does nothing. -/
def Sys2Proof.Rules.TrapReturns : Prop :=
  ∀ (s : State) (x : Issue) (a : Reg) (l0 : LaneIx), s.issue = some x → x.g.priv = true → 8192 ≤ x.gid → x.gid < 8196 →
    Mask.low x.act = some l0 → x.Ready (s.stackOf x.g) x.act [⟨a, 1⟩] [⟨Reg.z, 1⟩, ⟨a, 1⟩] →
    let die := dieOf x.gid
    let k := s.die die
    let gid := loadedGid die k
    let act := (x.g.src (s.stackOf x.g) l0 a).toNat % 4
    (k.tgroup.getLsbD 31 = false → ∃ t g', exec (.tret a) s = .next t ∧ OnlyGroup s t x.gid g' ∧ Moved x.g g' ∧
      (Steady x x.seq → GoOn x x.act x.seq g')) ∧
    (∀ g tr tm, k.tgroup.getLsbD 31 = true → s.grp gid = some g → g.priv = false → s.team g.team = some tm → g.trap = some tr →
      tr.loaded = true → s.tretWaits die (x.g.src (s.stackOf x.g) l0 a) = false →
      ∃ t x' g', exec (.tret a) s = .next t ∧ t.grp x.gid = some x' ∧ t.grp gid = some g' ∧ g'.trap = none ∧
        (Steady x x.seq → GoOn x x.act x.seq x') ∧ (t.die die).tgroup = k.tgroup &&& 0x7FFFFFFF#32 ∧
        (act = 0 → { t with groups := s.groups, dies := s.dies } = s ∧ (∀ j, j ≠ x.gid → j ≠ gid → t.grp j = s.grp j) ∧
          (g.levels = [] → (∀ j, g.rejoinReady j = false) → ∀ l, g'.lane l =
            if Mask.has k.tlanes l then { g.lane l with pc := k.tpc &&& 0xFFFFFFFC#32 } else g.lane l)) ∧
        (act ≠ 0 → ∀ l, (g'.lane l).st = .exited) ∧
        (2 ≤ act → ∀ gr, s.grid tm.grid = some gr → gr.ended = .running →
          ∃ gr', t.grid tm.grid = some gr' ∧ gr'.ended = if act = 2 then .faulted k.tcause.toNat else .killed))

/-- `HALT` and `TRET` (R363, R364, R367, R368, R369). -/
def Obligations.HaltAndTrapReturn : Prop := Rules.HaltReports ∧ Rules.TrapReturns

/-- R51, R52: bytes written into a line at its home are read back there under the same key, and a sector of the line that was valid
under that key keeps its other bytes. -/
def Obligations.WritesReadBack : Prop :=
  ∀ (s : State) (pa key : Nat) (bs : List Byte), bs ≠ [] → pa % 256 + bs.length ≤ 256 →
    ((s.writeLine pa key bs).readHome pa key bs.length).2.1 = bs ∧
    ∀ l, s.l2.find (l2Key (s.home pa) (pa / 256)) = some l → l.key = key → l.lid = s.lid key →
      ∃ l', (s.writeLine pa key bs).l2.find (l2Key (s.home pa) (pa / 256)) = some l' ∧
        ∀ i, i < 256 → (i < pa % 256 ∨ pa % 256 + bs.length ≤ i) → l.valid.getLsbD (i / 64) = true →
          l'.data.getD 0 i = l.data.getD 0 i

/-- R118, R119, R123, R135, R136, R262, R264: an access that has reached its home and is first there is performed: a store becomes
current in its home die's open epoch, and its bytes are read there from then on, a checked run's is held in a version way or waits for
one; a load takes the bytes at the home, its run's own version in front; an atomic takes the old word and in the same step writes the
new one, or none. (Reading back is said of a line in another slice than its granule's dirty bit.) -/
def Sys2Proof.Rules.AccessesAtHome : Prop :=
  ∀ (s : State) (rid : Nat) (r : Req), s.reqs.find rid = some r → s.atHome rid r = true →
    let epoch := (s.die (s.home r.pa / 64)).epoch
    let apart := s.home (s.granuleAt r.pa).1 ≠ s.home r.pa
    (∀ bs, r.kind = .store bs →
      (r.held = none → ∃ t, exec (.storeCurrentAtHome rid) s = .next t ∧
        t = (s.makeCurrent rid r.part r.pa r.key bs r.cc r.rel).1.setReq rid { r with stage := .current, epoch := epoch } ∧
        (bs ≠ [] → r.pa % 256 + bs.length ≤ 256 → apart → (t.readHome r.pa r.key bs.length).2.1 = bs)) ∧
      (∀ num tm, r.held = some num → s.team r.team = some tm → tm.holds = true →
        (s.wayFree r.team tm.grid r.home (r.pa / 256) r.key = true → ∃ t v, exec (.storeCurrentAtHome rid) s = .next t ∧
          t.reqs.find rid = none ∧ t.verOf r.team r.home (r.pa / 256) r.key = some v ∧ v.over r.pa bs = bs ∧ tm.relNo ≤ v.num) ∧
        (s.wayFree r.team tm.grid r.home (r.pa / 256) r.key = false → ∃ t, exec (.storeCurrentAtHome rid) s = .next t ∧
          t.dram = s.dram ∧ t.l2 = s.l2 ∧ t.reqs.find rid = some { r with stage := .blocked } ∧
          ∀ gid ln g, r.maker = .lane gid ln → s.grp gid = some g →
            t.grp gid = some { g with blocked := true, stalled := true }))) ∧
    (∀ size sext, r.kind = .load size sext →
      let read := s.readFor r.team r.pa r.key size
      ∃ t r', exec (.loadAtHome rid) s = .next t ∧ t.reqs.find rid = some r' ∧
        r'.stage = .reply (loadWords size sext read.2.1) read.2.2 ∧ r'.maker = r.maker ∧ r'.dst = r.dst ∧ ∀ k, t.grp k = s.grp k) ∧
    (∀ op b b1, r.kind = .atomic op b b1 →
      let read := s.readHome r.pa r.key 4
      let old := wordOf read.2.1
      (read.2.2 = true → ∃ t r', exec (.atomicAtHome rid) s = .next t ∧ t.reqs.find rid = some r' ∧ r'.stage = .reply [old] true ∧
        t.dram = read.1.dram ∧ t.l2 = read.1.l2 ∧ r.home ∈ t.suspectSlices) ∧
      (read.2.2 = false → op.apply old b b1 = none → ∃ t r', exec (.atomicAtHome rid) s = .next t ∧
        t.reqs.find rid = some r' ∧ r'.stage = .reply [old] false ∧ r'.epoch = r.epoch ∧ t.dram = read.1.dram ∧ t.l2 = read.1.l2) ∧
      (read.2.2 = false → ∀ v, op.apply old b b1 = some v → ∃ t r', exec (.atomicAtHome rid) s = .next t ∧
        r'.stage = .reply [old] false ∧ r'.epoch = epoch ∧ r'.maker = r.maker ∧ r'.dst = r.dst ∧
        t = (read.1.makeCurrent rid r.part r.pa r.key (bytesOf v) r.cc r.rel).1.setReq rid r' ∧
        (r.pa % 256 ≤ 252 → apart → (t.readHome r.pa r.key 4).2.1 = bytesOf v)))

/-- R135: the new word of each integer atomic; a compare that fails and a read write none. -/
def Sys2Proof.Rules.AtomicResults : Prop :=
  ∀ old b b1 : Word,
    AtomOp.apply .add old b b1 = some (BitVec.ofNat 32 (old.toNat + b.toNat)) ∧ AtomOp.apply .and old b b1 = some (old &&& b) ∧
    AtomOp.apply .or old b b1 = some (old ||| b) ∧ AtomOp.apply .xor old b b1 = some (old ^^^ b) ∧
    AtomOp.apply .mins old b b1 = some (BitVec.ofInt 32 (min old.toInt b.toInt)) ∧
    AtomOp.apply .maxs old b b1 = some (BitVec.ofInt 32 (max old.toInt b.toInt)) ∧
    AtomOp.apply .minn old b b1 = some (BitVec.ofNat 32 (min old.toNat b.toNat)) ∧
    AtomOp.apply .maxn old b b1 = some (BitVec.ofNat 32 (max old.toNat b.toNat)) ∧
    AtomOp.apply .swap old b b1 = some b ∧ AtomOp.apply .st old b b1 = some b ∧ AtomOp.apply .ld old b b1 = none ∧
    AtomOp.apply .cas b b b1 = some b1 ∧ (old ≠ b → AtomOp.apply .cas old b b1 = none)

/-- R136: `AFADD` writes the sum of two binary32 values rounded once to nearest even, without any mode; a NaN, or infinities of both
signs, give 0x7FC00000; an exact zero sum is +0 but of −0 and −0. -/
def Sys2Proof.Rules.FloatAtomic : Prop :=
  ∀ old b b1 : Word, ∃ r, AtomOp.apply .fadd old b b1 = some r ∧
    (fp32.isNan old.toNat = true ∨ fp32.isNan b.toNat = true → r = 0x7FC00000#32) ∧
    (∀ s, fp32.decode old.toNat = .inf s → fp32.decode b.toNat = .inf (!s) → r = 0x7FC00000#32) ∧
    (∀ s, fp32.decode old.toNat = .inf s → fp32.isNan b.toNat = false → fp32.decode b.toNat ≠ .inf (!s) → r = old) ∧
    (∀ s, fp32.decode b.toNat = .inf s → fp32.isNan old.toNat = false → fp32.decode old.toNat ≠ .inf (!s) → r = b) ∧
    ∀ x y, Denotes old.toNat x → Denotes b.toNat y → ∃ (s : Bool) (m : ℕ) (e : ℤ), (if s then (-1 : ℚ) else 1) * m * 2 ^ e = x + y ∧
      (x + y = 0 → (s = true ↔ old = 0x80000000#32 ∧ b = 0x80000000#32)) ∧
      r.toNat = (fp32.encode 0 .rne false (.fin s m e)).code

/-- Accesses at their home and the results of atomics (R135, R118, R119, R123, R136, R262, R264). -/
def Obligations.AtomicsAtHome : Prop := Rules.AtomicResults ∧ Rules.FloatAtomic ∧ Rules.AccessesAtHome

/-- R118, R119, R147, R149, R170, R171, R174: an update that is first on its path and whose causal past is applied changes its
sharer's L1 line, if still held, and a fill puts its line there; once a current write's condition holds, its home settles it and
returns its acknowledgement, and when that has come its epoch is joined into its group's clock; a value that has come back is
written to its slots or `s` registers, whose pending bits clear, joins its clock into the group's observed clock, and is dropped
and counted when its allocation has gone or its group has been killed; the reply of an atomic that wrote leaves its home settled, once the condition of its
acknowledgement holds. -/
def Obligations.UpdatesAndReturns : Prop :=
  ∀ s : State,
    (∀ uid u, s.upds.find uid = some u → s.updFirst uid u = true →
      (u.isFill = false → (∀ e, e < 4 → e ≠ u.src.val → u.cc.get e ≤ (s.applied (u.core / 64)).get e) →
        (∀ v ∈ s.upds, v.2.isFill = false → ¬ (v.2.src = u.src ∧ v.2.core / 64 = u.core / 64 ∧ v.2.epoch < u.epoch)) →
        ∃ t, exec (.sharerUpdateApply uid) s = .next t ∧ t.upds.find uid = none ∧ { t with cores := s.cores, upds := s.upds } = s ∧
          (∀ c, c ≠ u.core → t.core c = s.core c) ∧
          ((s.core u.core).l1.find u.line = none → t.cores = s.cores) ∧
          ∀ l, (s.core u.core).l1.find u.line = some l → u.cells ≠ [] → ∃ l', (t.core u.core).l1.find u.line = some l' ∧
            l'.data = (l.poke u.line u.cells).data ∧ l'.key = l.key) ∧
      (u.isFill = true → ∃ t, exec (.sharerUpdateApply uid) s = .next t ∧ t.upds.find uid = none ∧ t.groups = s.groups ∧
        ∀ l, u.fill = some l → ∃ l', (t.core u.core).l1.find u.line = some l' ∧ l'.key = l.key ∧
          getBytes l'.data 0 128 = getBytes l.data 0 128)) ∧
    (∀ rid r, s.reqs.find rid = some r →
      let comes := fun own : Clk => ∃ t, exec (.storeAck rid) s = .next t ∧ t.reqs.find rid = none ∧ t.dram = s.dram ∧
        (∀ gid ln g, r.maker = .lane gid ln → s.grp gid = some g →
          t.grp gid = some (if g.team = r.team then { g with vc := g.vc.join own } else g)) ∧
        (∀ k, (∀ ln, r.maker ≠ .lane k ln) → t.grp k = s.grp k)
      (r.stage = .current → s.ackReady rid r.home = true → (s.replyLegs r = [] → comes (Clk.one (r.home / 64) r.epoch)) ∧
        (s.replyLegs r ≠ [] → ∃ t r', exec (.storeAck rid) s = .next t ∧ t.reqs.find rid = some r' ∧ r'.stage = .acked ∧
          r'.epoch = 0 ∧ r'.own = Clk.one (r.home / 64) r.epoch ∧ t.groups = s.groups ∧ t.inTransit (.reply rid) = true)) ∧
      (r.stage = .acked → s.inTransit (.reply rid) = false → comes r.own)) ∧
    (∀ rid r gid ln ws bad, s.reqs.find rid = some r → r.maker = .lane gid ln → r.stage = .reply ws bad →
      (r.epoch ≠ 0 → s.ackReady rid r.home = true → s.replyLegs r ≠ [] → ∃ t r', exec (.asyncReturn rid) s = .next t ∧
        t.reqs.find rid = some r' ∧ r'.stage = r.stage ∧ r'.epoch = 0 ∧ r'.own = Clk.one (r.home / 64) r.epoch ∧
        t.groups = s.groups ∧ t.inTransit (.reply rid) = true) ∧
      (r.epoch = 0 → s.returnReady rid r = true → r.logIx = none →
        (∀ g, s.grp gid = some g → g.tag = r.tag → g.team = r.team → r.dead = false →
          ∃ t g', exec (.asyncReturn rid) s = .next t ∧ t.dram = s.dram ∧ t.reqs.find rid = none ∧
            t.grp gid = some g' ∧ (∀ k, k ≠ gid → t.grp k = s.grp k) ∧ g'.obs = g.obs.join r.wclk ∧
            (r.order.acquires = false → g'.vc = g.vc.join r.own) ∧
            (∀ ss, r.dst = .slots ss → ss.Nodup → g'.s = g.s ∧ ∀ l : LaneIx, ∀ k,
              (g'.lane l).stack.getD {} k = if l.val = ln % 32 ∧ k ∈ ss.take ws.length
                then { val := ws.getD (ss.idxOf k) 0#32, pois := bad } else (g.lane l).stack.getD {} k) ∧
            (∀ rs, r.dst = .sregs rs → rs.Nodup → (∀ l, (g'.lane l).stack = (g.lane l).stack) ∧ ∀ k,
              g'.s.getD {} k = if k ∈ rs.take ws.length then { val := ws.getD (rs.idxOf k) 0#32, pois := bad } else g.s.getD {} k) ∧
            (r.dst = .none → g'.s = g.s ∧ ∀ l, (g'.lane l).stack = (g.lane l).stack)) ∧
        ((∀ g, s.grp gid = some g → g.tag ≠ r.tag ∨ g.team ≠ r.team ∨ r.dead = true) →
          ∃ t, exec (.asyncReturn rid) s = .next t ∧ t.reqs.find rid = none ∧ t.dram = s.dram ∧
            (∀ k g, s.grp k = some g → ∃ g', t.grp k = some g' ∧ { g' with vc := g.vc } = g) ∧
            (t.core r.core).dropCnt.toNat = min ((s.core r.core).dropCnt.toNat + 1) 0xFFFFFFFF)))

/-- R149, R150, R153: a die's epoch closes by one; a close marker that has come behind every update of its epoch advances the die's
applied number for its source by one; the sequencer serves one fence by closing every die's epoch, and gives it the four numbers
it closed. -/
def Obligations.EpochsAndSequencer : Prop :=
  ∀ s : State,
    (∀ d : Die, ∃ t, exec (.epochClose d) s = .next t ∧ (∀ n, (t.die n).epoch = (s.die n).epoch + if n = d.val then 1 else 0) ∧
      (∀ n, (t.die n).markers = (s.die n).markers) ∧ t.groups = s.groups ∧ t.dram = s.dram) ∧
    (∀ dst src : Die, src ≠ dst → let n := (s.die dst.val).markers.get src.val + 1
      n < (s.die src.val).epoch → s.inTransit (.marker src dst n) = false →
      (∀ u ∈ s.upds, u.2.isFill = false → u.2.src = src → u.2.core / 64 = dst.val → u.2.epoch ≤ n → s.inTransit (.upd u.1) = false) →
      ∃ t, exec (.closeMarkerArrive dst src) s = .next t ∧ { t with dies := s.dies } = s ∧
        (t.die dst.val).markers = (s.die dst.val).markers.set src.val n ∧ ∀ d, d ≠ dst.val → t.die d = s.die d) ∧
    (∀ q rest, s.scq = q :: rest → ∃ t, exec .sequencerServe s = .next t ∧ t.scq = rest ∧
      (∀ d, d < 4 → (t.die d).epoch = (s.die d).epoch + 1) ∧ (∀ k, k ≠ q.gid → t.grp k = s.grp k) ∧
      ∀ g, s.grp q.gid = some g → g.wait = .sequencer none →
        t.grp q.gid = some { g with wait := .sequencer (some
          ⟨(s.die 0).epoch, (s.die 1).epoch, (s.die 2).epoch, (s.die 3).epoch⟩) })

/-- R56, R57, R60, R140, R161 to R164, R298: where the lines and paths it needs are free, a page walk that ends lets its lanes
issue again, with the entry in their core's TLB, or with the failed walk noted; a spilled block's 32 words stand in the frame and its
lane's lowest resident entry rises by 32, its uncorrectable words counted as poisoned; a filled one lowers it by 32 and puts the frame's
words into the entries; an instruction-cache miss ends with its line or a code-fetch trap; and a `CWB` group goes on once its lines
are written back: each is still valid, clean, and LPDDR-5X holds the bytes of its dirty sectors. (The words in the frame are said of a
block in another slice than its granule's dirty bit.) -/
def Obligations.WalksWindowsAndFills : Prop :=
  ∀ s : State,
    (∀ (d : Die) n w, ((s.die d.val).walks.take 64).find? (fun v => v.id == n) = some w →
      let walk := s.walkTables false d.val w.part (BitVec.ofNat 64 (w.vpage * 2 ^ 13))
      walk.2 ≠ .wait → ∃ t, exec (.translationWalkDone d n) s = .next t ∧ (∀ v ∈ (t.die d.val).walks, v.id ≠ n) ∧
        ∀ gid ln va g, (gid, ln, va) ∈ w.waiters → s.grp gid = some g → ∃ g', t.grp gid = some g' ∧
          Mask.has g'.walk (Fin.ofNat 32 ln) = false ∧ { g' with walk := g.walk, walkFail := g.walkFail } = g ∧
          (∀ e, walk.2 = .leaf e → e ∈ (t.core (coreOf gid)).tlb ∧ g'.walkFail = g.walkFail) ∧
          (∀ lv, walk.2 = .absent lv → (ln, va, lv) ∈ g'.walkFail)) ∧
    (∀ gid g l b pa key s1, s.grp gid = some g → g.nextMove (s.stackOf g) true = some (l, b) →
      (∀ i, i < 32 → ((g.lane l).stack.getD {} (((g.lane l).wlo + i) % s.stackOf g)).pend = false) →
      classify (s.blockVa gid l.val (g.lane l).wlo) = .global →
      s.lookNow (coreOf gid) ((s.partOf g).getD 0) (s.blockVa gid l.val (g.lane l).wlo) needWrite = (s1, .at pa key) →
      s1.engineReady (coreOf gid) ((s1.partOf g).getD 31) pa key 128 = true →
      let cell := fun i => (g.lane l).stack.getD {} (((g.lane l).wlo + i) % s.stackOf g)
      ∃ t, exec (.spillBlock gid) s = .next t ∧ (∀ k, k ≠ gid → t.grp k = s.grp k) ∧
        t.grp gid = some (g.setLane l { (g.lane l) with wlo := (g.lane l).wlo + 32 }) ∧
        (pa % 128 = 0 → s1.home (s1.granuleAt pa).1 ≠ s1.home pa →
          (t.readHome pa key 128).2.1 = (List.range 32).flatMap fun i => bytesOf (cell i).val) ∧
        (t.core (coreOf gid)).poisoned = (s.core (coreOf gid)).poisoned + (List.range 32).countP fun i => (cell i).unc) ∧
    (∀ gid g l b pa key s1, s.grp gid = some g → 96 ≤ s.stackOf g → g.nextMove (s.stackOf g) false = some (l, b) →
      classify (s.blockVa gid l.val ((g.lane l).wlo - 32)) = .global →
      s.lookNow (coreOf gid) ((s.partOf g).getD 0) (s.blockVa gid l.val ((g.lane l).wlo - 32)) needRead = (s1, .at pa key) →
      s1.engineReady (coreOf gid) ((s1.partOf g).getD 31) pa key 128 = true →
      let r0 := s1.readHome pa key 64
      let r1 := r0.1.readHome (pa + 64) key 64
      ∃ t g', exec (.fillBlock gid) s = .next t ∧ t.grp gid = some g' ∧ (∀ k, k ≠ gid → t.grp k = s.grp k) ∧
        (g'.lane l).wlo = (g.lane l).wlo - 32 ∧ (g'.lane l).wb = (g.lane l).wb ∧ (∀ k, k ≠ l → g'.lane k = g.lane k) ∧
        ∀ i, i < 32 → (g'.lane l).stack.getD {} (((g.lane l).wlo - 32 + i) % s.stackOf g) =
          { val := (wordsOf (r0.2.1 ++ r1.2.1)).getD i 0#32, pois := if i < 16 then r0.2.2 else r1.2.2 }) ∧
    (∀ gid g x, s.grp gid = some g → issueOf gid g = some x → s.fetchWord x = none →
      let fill := s.fetchLine (coreOf gid) (s.partOf g) (s.fetchVa g x.pc)
      (fill.2 = .got () → ∃ t, exec (.icacheFill gid) s = .next t ∧ t.groups = s.groups ∧
        (t.ilineWord (coreOf gid) (s.fetchPart g) (s.fetchVa g x.pc)).isSome = true) ∧
      (fill.2 = .fails → ∃ t g', exec (.icacheFill gid) s = .next t ∧ t.grp gid = some g' ∧
        g'.trap = some ⟨0x12, x.pc, x.act, 0#32, s.fetchVa g x.pc, false⟩)) ∧
    (∀ gid g ls, s.grp gid = some g → g.wait = .writeBack ls → (∀ k ∈ ls, s.backOpen k = true) →
      ∃ t, exec (.controllerAcceptsWrite gid) s = .next t ∧ t.grp gid = some { g with wait := .writeBack [] } ∧
        (∀ k, k ≠ gid → t.grp k = s.grp k) ∧ ((∀ k ∈ ls, ∀ j ∈ ls, k % 2 ^ 32 = j % 2 ^ 32 → k = j) →
          ∀ k ∈ ls, ∀ l, s.l2.find k = some l → t.l2.find k = some { l with dirty := 0#4 } ∧
            ∀ i, i < 4 → l.dirty.getLsbD i = true → l.valid.getLsbD i = true →
              (t.dramSector l.lid (4 * (k % 2 ^ 32) + i)).1 = getBytes l.data (64 * i) 64))

/-- R73 to R76, R81, R82, R84, R85: an empty container of a packet's partition takes it when it is first on its path, and a packet
that rides its loop first on its path leaves at its station when an ejection buffer is free, a multicast one going on in its container
to the next station that ejects it; an up link sends its next
unacknowledged edge flit or, with no audit due, packs up to four loop flits into a new one while its window and replay buffer have
room; the receiver accepts the flit it expects into a buffer and answers with the credits it owes, refuses one with a bad CRC, and
retrains at the 16th refusal within 65,536 flits or when a flit finds all 392 buffers in use; an answer takes the acknowledged flits
out of the replay buffer and gives the window its credits, and a refusal sends again from the first flit left, which takes no further
window (log 28); an audit sets the window to 384 − D − the flits sent since. -/
def Sys2Proof.Rules.PacketsAndFlits : Prop :=
  ∀ s : State,
    (∀ pid p g rest d a b n, s.packets.find pid = some p → p.legs = g :: rest → g.onDie = some (d, a, b) → g.loopNo = some n →
      s.firstOn p g = true →
      (∀ c, p.on = none → c < loopContainers n → s.slotOwner d n (c % 16) = p.part → (∀ e ∈ s.packets, e.2.rides d n c = false) →
        (s.injectInto pid c).packets.find pid = some { p with on := some c, seq := s.nextId }) ∧
      (∀ c, p.on = some c → ejectKey d n b ∉ s.ejFull → s.cuts = [] → pid < s.nextId →
        ∃ t, exec (.loopPacketEject pid) s = .next t ∧ t.groups = s.groups ∧ t.dram = s.dram ∧
          (rest = [] → t.packets.find pid = none) ∧
          (rest ≠ [] → (∀ core cid ident die seen stops, p.cargo ≠ .mput core cid ident die seen stops) →
            ∃ q, t.packets.find pid = some { p with legs := rest, on := none, seq := q }) ∧
          (rest ≠ [] → ∀ core cid ident die seen stops, p.cargo = .mput core cid ident die seen stops →
            t.packets.find pid = some { p with legs := rest, cargo := .mput core cid ident die seen (stops.drop 1) }))) ∧
    (∀ l, let d := s.link l
      (d.state = 1 →
        (∀ f, d.replay[d.sentTo]? = some f → ∃ t, exec (.edgeFlitSend l) s = .next t ∧ { t with links := s.links } = s ∧
          t.link l = { d with wire := d.wire ++ [f], sentTo := d.sentTo + 1 }) ∧
        (d.replay[d.sentTo]? = none → d.queue ≠ [] → 0 < d.win → d.replay.length < 1024 → d.auditDue = false →
          ∃ t f, exec (.edgeFlitSend l) s = .next t ∧ { t with links := s.links } = s ∧
            f = { seq := d.nextSeq, lanes := d.queue.take 4 } ∧
            (t.link l).wire = d.wire ++ [f] ∧ (t.link l).replay = d.replay ++ [f] ∧ (t.link l).queue = d.queue.drop 4 ∧
            (t.link l).win = d.win - 1 ∧ (t.link l).nextSeq = (d.nextSeq + 1) % 65536)) ∧
      (∀ f rest, d.wire = f :: rest → d.expect < 65536 → f.audit = none →
        let recent := d.refused.filter fun n => d.seenFlits + 1 < n + 65536
        (f.seq = d.expect → f.bad = false → d.inUse < 392 → ∃ t, exec (.edgeFlitReceive l true) s = .next t ∧
          (t.link l).wire = rest ∧ (t.link l).inUse = d.inUse + 1 ∧ (t.link l).expect = (d.expect + 1) % 65536 ∧
          (t.link l).acks = d.acks ++
            [{ upto := f.seq, credits := d.owed, d := d.dOwed.map fun n => (n + 2 ^ 32 - d.freed) % 2 ^ 32 }]) ∧
        (f.seq = d.expect → 392 ≤ d.inUse → ∃ t, exec (.edgeFlitReceive l true) s = .next t ∧ ∀ rev,
          (t.link ⟨l.link, rev⟩).state = 2 ∧ (t.link ⟨l.link, rev⟩).wire = []) ∧
        (recent.length < 15 → d.inUse < 392 → ∃ t a, exec (.edgeFlitReceive l false) s = .next t ∧ (t.link l).wire = rest ∧
          (t.link l).acks = d.acks ++ [a] ∧ a.nak = true ∧ (t.link l).expect = d.expect ∧
          (t.link l).refused = (d.seenFlits + 1) :: recent) ∧
        (15 ≤ recent.length → ∃ t, exec (.edgeFlitReceive l false) s = .next t ∧ ∀ rev,
          (t.link ⟨l.link, rev⟩).state = 2 ∧ (t.link ⟨l.link, rev⟩).wire = [])) ∧
      (∀ a rest i, d.acks = a :: rest → (d.replay.findIdx? fun f => f.seq == a.upto) = some i →
        let w : Int := 384 - (a.d.getD 0) - ((d.sent + 2 ^ 32 - d.audited) % 2 ^ 32 : Nat)
        (a.nak = false → ∃ t, exec (.edgeAckReceive l) s = .next t ∧ { t with links := s.links } = s ∧
          (t.link l).replay = d.replay.drop (i + 1) ∧ (t.link l).acks = rest ∧ (t.link l).sentTo = d.sentTo - (i + 1) ∧
          (t.link l).win = if a.d = none then d.win + a.credits else w) ∧
        (a.nak = true → ∃ t, exec (.edgeNakReceive l) s = .next t ∧ { t with links := s.links } = s ∧
          (t.link l).replay = d.replay.drop (i + 1) ∧ (t.link l).acks = rest ∧ (t.link l).sentTo = 0 ∧
          (t.link l).win = if a.d = none then d.win + a.credits else w)) ∧
      (d.state = 1 → 4096 ≤ (d.sent + 2 ^ 32 - d.audited) % 2 ^ 32 → ∃ t, exec (.windowAuditSend l) s = .next t ∧
        t.link l = { d with audited := d.sent, wire := d.wire ++ [{ seq := 0, lanes := [], audit := some d.sent }] }) ∧
      (∀ f n rest, d.wire = f :: rest → f.audit = some n → f.bad = false →
        (∃ t, exec (.windowAuditReceive l true) s = .next t ∧ t.link l = { d with wire := rest, dOwed := some n }) ∧
        (∃ t, exec (.windowAuditReceive l false) s = .next t ∧ t.link l = { d with wire := rest })))

/-- R83, R86, R87: loss of lock starts retraining, which loses what is on the wire and counts once; retraining or training that ends
brings the link up, to resend from the last acknowledgement; a link that fails to retrain goes down and posts an event; the flows
of a Rutik plane that goes down move, both ways, to the next plane that is not down (log 40), ahead of what is queued there. -/
def Sys2Proof.Rules.LinkStates : Prop :=
  ∀ (s : State) (n : Nat), let up := (s.link ⟨n, false⟩).state
    (up = 1 → ∃ t, exec (.linkLossOfLock n) s = .next t ∧ { t with links := s.links } = s ∧ ∀ rev,
      t.link ⟨n, rev⟩ = { s.link ⟨n, rev⟩ with
        state := 2, wire := [], seenFlits := 0, refused := [], retrain := min ((s.link ⟨n, rev⟩).retrain + 1) 4095 }) ∧
    (up = 2 → ∃ t, exec (.linkRetrainDone n) s = .next t ∧ { t with links := s.links } = s ∧ ∀ rev,
      t.link ⟨n, rev⟩ = { s.link ⟨n, rev⟩ with state := 1, sentTo := 0 }) ∧
    (up = 0 → ∃ t, exec (.linkTrainingComplete n) s = .next t ∧ { t with links := s.links } = s ∧ ∀ rev,
      t.link ⟨n, rev⟩ = { s.link ⟨n, rev⟩ with state := 1, sentTo := 0 }) ∧
    (up = 2 → ∃ t, exec (.linkDown n) s = .next t ∧ t.out = s.out ++ [.firmware "link down" n] ∧ ∀ rev,
      t.link ⟨n, rev⟩ = { s.link ⟨n, rev⟩ with state := 3 }) ∧
    (∀ q, n < 16 → s.nextPlane n = some q → q < 16 ∧ q ≠ n ∧ ∃ t, exec (.rutikPlaneDown n) s = .next t ∧
      (∀ rev, let l : LinkId := ⟨8 + n, rev⟩
        let pids := ((s.link l).replay.flatMap EFlit.lanes ++ (s.link l).queue).map Prod.fst
        (t.link l).state = 3 ∧ (t.link l).queue = [] ∧ (t.link l).replay = [] ∧ (t.link ⟨8 + q, rev⟩).queue =
          ((s.packets.filter fun e => pids.contains e.1).flatMap fun e => (List.range e.2.flits).map fun i => (e.1, i)) ++
            (s.link ⟨8 + q, rev⟩).queue) ∧
      let turn := fun (g : Leg) =>
        if g = .link ⟨8 + n, false⟩ then .link ⟨8 + q, false⟩ else if g = .link ⟨8 + n, true⟩ then .link ⟨8 + q, true⟩ else g
      ∀ pid p, s.packets.find pid = some p → t.packets.find pid = some { p with legs := p.legs.map turn })

/-- Packets, flits and link states (R73, R74, R75, R76, R81, R82, R84, R85, R83, R86, R87). -/
def Obligations.PacketsAndLinks : Prop := Rules.PacketsAndFlits ∧ Rules.LinkStates

namespace Sys2Proof.Rules
open Sys2Proof Sys2Proof.Machine

/-! ### Copies, transfers and matrix operations as they run -/

/-- A copy has ended on an error: it has left flight, and its object, if it has one, has had the error applied, which releases
the waiters (05 R99, R104, R105). -/
def CopyFailed (s t : State) (core cid : Nat) (c : Copy) (code : Nat) : Prop :=
  (t.core core).copies.find cid = none ∧
    (s.objMarked c.team c.obj = true → let k := s.coreOfTeam c.team; let a := s.locBase c.team + c.obj
      (t.core k).word (a + 8) = statusErr ((s.core k).word (a + 8)) code ∧
        (t.core k).word (a + 12) = (s.core k).word (a + 12) + 1#32)

/-- A piece of n bytes has landed: after the last one the copy leaves flight, or with REL its last count awaits the release (05
R94, R97, R98). -/
def PieceLanded (t : State) (core cid : Nat) (c : Copy) (row piece n : Nat) : Prop :=
  let c1 := { c with landed := (row, piece) :: c.landed }
  (c1.allIn = false → ∃ c', (t.core core).copies.find cid = some c' ∧ c'.landed = c1.landed ∧ c'.last = none) ∧
    (c1.allIn = true → ctrlRel c.ctrl = false → (t.core core).copies.find cid = none) ∧
    (c1.allIn = true → ctrlRel c.ctrl = true → ∃ c', (t.core core).copies.find cid = some c' ∧ c'.last = some n)

/-- The running teams of a cluster's plain run. -/
def plainRun (s : State) (grid cluster : Nat) : List (Nat × Team) :=
  s.teams.filter fun e => e.2.grid == grid && e.2.cluster == cluster && e.2.kind == .launch && e.2.role == 0

/-- The teams of a cluster's plain run that a save has taken from their cores (19 R375). -/
def savedRun (s : State) (grid cluster : Nat) : Nat :=
  (s.savedTeams grid).countP fun t => t.cluster == cluster && t.kind == .launch && t.role == 0

/-- The groups of a team that wait for an `MMAS` instance. -/
def waitersOf (s : State) (t : Nat × Team) : List (Nat × MmasWait) :=
  (s.core t.2.core).mwait.filter fun e => ((s.grp e.1).map Group.team) == some t.1

/-- The group goes on from its wait in `MMAS`: turned away with a reason, or started. -/
def MmasAnswer (t : State) (gid : Nat) (w : Wait) : Prop := ∃ g', t.grp gid = some g' ∧ g'.wait = w

end Sys2Proof.Rules

open Sys2Proof Sys2Proof.Machine Sys2Proof.Rules

/-- R87, R91, R94, R95, R98, R99, R104, R107, R115, R116: a read piece of a copy waits, converted, to land; a row that leaves its
base's class and a read that fails end the copy with their error; a piece that lands in unmarked scratchpad bytes is in place, but for
bytes that a later copy has taken, one of a plain run that lands in memory reads back there when a later copy has taken none of it,
and each counts, the last one ending the copy; a piece without a version way waits; a transfer is sent once its release is met, one
received by a team of its owner lands, counts and is answered, one for another package takes its number in its flow as it is sent and
leaves on the plane of the flow in that order, and the sender's last answer ends it. The 64-byte pieces and what a later copy takes
are log 19, the plane that stands in for one that is down log 40. -/
def Obligations.EngineCopies : Prop :=
  ∀ (s : State) (core cid : Nat) (c : Copy), (s.core core).copies.find cid = some c → s.suspended core c.gid c.team = false →
    (∀ row piece lo a n, c.kind = .copy → row < c.rows → (c.pieces row)[piece]? = some (lo, a, n) →
      s.engineAcquired core c.ctrl c.acq c.vc c.obs = true → (row, piece) ∉ c.landed → (∀ b ∈ c.buf, ¬ (b.1 = row ∧ b.2.1 = piece)) →
      let start := rowStart c.src row c.srcStride
      let need := srcRange (convOf c.ctrl) lo n
      (rowInClass c.src start c.rowBytes = false →
        ∃ t, exec (.copyReadReturn core cid row piece) s = .next t ∧ CopyFailed s t core cid c 0x0C) ∧
      (rowInClass c.src start c.rowBytes = true → ∀ s1 r,
        s.engineRead core c.team cid (start + BitVec.ofNat 64 need.1) need.2 = (s1, r) →
        (∀ bs clk, r = .ok bs clk → ∃ t, exec (.copyReadReturn core cid row piece) s = .next t ∧
          (t.core core).copies.find cid = some { c with
            buf := (row, piece, convertPiece (convOf c.ctrl) lo n bs) :: c.buf, wc := c.wc.join clk }) ∧
        (∀ code, r = .err code →
          ∃ t, exec (.copyReadReturn core cid row piece) s = .next t ∧ CopyFailed s t core cid c code))) ∧
    (∀ row piece lo a n bs, c.last = none → (c.pieces row)[piece]? = some (lo, a, n) →
      (c.buf.find? fun b => b.1 == row && b.2.1 == piece) = some (row, piece, bs) →
      rowInClass c.dst (rowStart c.dst row c.dstStride) (dstRowBytes (convOf c.ctrl) c.rowBytes) = true →
      (∀ off tm, classify (BitVec.ofNat 64 a) = .localAp off → s.team c.team = some tm → tm.core = core → tm.locBlk % 128 = 0 →
        (∀ i, i < bs.length → (s.core core).marked (tm.locBlk + off + i) = false) →
        ∃ t, exec (.copyLanding core cid row piece) s = .next t ∧ PieceLanded t core cid c row piece bs.length ∧
          (∀ i, (h : i < bs.length) → (t.core core).scrByte tm.owner (tm.locBlk + off + i) =
            if c.cedes true (tm.locBlk + off + i) then (s.core core).scrByte tm.owner (tm.locBlk + off + i) else bs[i]) ∧
          (s.objMarked c.team c.obj = true → (s.core core).lineTag.getD 0 ((tm.locBlk + c.obj) / 128) = tm.owner →
            (({ c with landed := (row, piece) :: c.landed } : Copy).allIn = false ∨ ctrlRel c.ctrl = false) →
            ((t.core core).word (tm.locBlk + c.obj + 4)).toNat =
              min (((s.core core).word (tm.locBlk + c.obj + 4)).toNat + bs.length) 0xFFFFFFFF)) ∧
      (classify (BitVec.ofNat 64 a) = .global →
        (∀ s1, s.engineStore core cid c (BitVec.ofNat 64 a) bs = .done s1 →
          ∃ t, exec (.copyLanding core cid row piece) s = .next t ∧ PieceLanded t core cid c row piece bs.length ∧
            ∀ tm s0 pa key, s.team c.team = some tm → tm.holds = false → bs ≠ [] → pa % 256 + bs.length ≤ 256 →
              s.lookNow core ((s.partOf { team := c.team }).getD 0) (BitVec.ofNat 64 a) needWrite = (s0, .at pa key) →
              (∀ i, i < bs.length → c.cedes false (pa + i) = false) → s.home (s.granuleAt pa).1 ≠ s.home pa →
              (t.readHome pa key bs.length).2.1 = bs) ∧
        (∀ s1 code, s.engineStore core cid c (BitVec.ofNat 64 a) bs = .err s1 code →
          ∃ t, exec (.copyLanding core cid row piece) s = .next t ∧ CopyFailed s t core cid c code) ∧
        (∀ home set, s.engineStore core cid c (BitVec.ofNat 64 a) bs = .noWay home set →
          ∃ t, exec (.copyLanding core cid row piece) s = .next t ∧ t.groups = s.groups ∧
            (t.core core).copies.find cid = some { c with blocked := some (home, set) }))) ∧
    (∀ row piece n, c.last = some n → (∀ r ∈ c.stores, s.reqs.find r = none) →
      ∃ t, exec (.copyLanding core cid row piece) s = .next t ∧ (t.core core).copies.find cid = none) ∧
    (∀ dest, c.kind ≠ .copy → c.sent = false →
      (s.putReleased core c = false → exec (.putReceive core cid dest) s = .next s) ∧
      (s.putReleased core c = true → c.kind = .put → let dst := (c.dests.head?.map PutDest.core).getD core
        (256 ≤ dst → Config.inDomain (dst / 256 - 1) = true) → s.pathDown (s.putPath core dst) = false →
        ∃ t, exec (.putReceive core cid dest) s = .next t ∧
          (dst < 256 → (t.core core).copies.find cid = some { c with sent := true }) ∧
          (256 ≤ dst → let flow := flowKey core dst
            t.flowOut.getD 0 flow = s.flowOut.getD 0 flow + 1 ∧ (t.core core).copies.find cid =
              some (({ c with sent := true } : Copy).setDest 0 fun v => { v with flow := s.flowOut.getD 0 flow })))) ∧
    (∀ dest d, c.kind ≠ .copy → c.sent = true → c.dests[dest]? = some d → d.stage = 0 → s.putOut core cid dest = false →
      (d.core < 256 → ∃ t e, exec (.putReceive core cid dest) s = .next t ∧
        (t.core core).copies.find cid = some (c.setDest dest fun v => v.replied e) ∧
        let owner := ((s.team c.team).map Team.owner).getD 0
        let grid := ((s.team c.team).map Team.grid).getD 0
        let rcv := s.teams.find? fun e => e.2.core == d.core && e.2.owner == owner &&
          (if d.tslot = gridSlot then e.2.grid == grid else e.2.tslot == d.tslot)
        (rcv = none → e = [8]) ∧
        (∀ tid tm, rcv = some (tid, tm) → s.team tid = some tm → tm.locBlk % 128 = 0 →
          (tm.locSize < c.destOff + c.bytes.length → e = [9]) ∧
          (c.destOff + c.bytes.length ≤ tm.locSize →
            (∀ i, i < c.bytes.length → (s.core d.core).marked (tm.locBlk + c.destOff + i) = false) →
            (e = if s.objMarked tid c.robj then [] else [0x0B]) ∧
              ∀ i, (h : i < c.bytes.length) → (t.core d.core).scrByte tm.owner (tm.locBlk + c.destOff + i) = c.bytes[i]))) ∧
      (256 ≤ d.core → (s.flowBehind core d = true → exec (.putReceive core cid dest) s = .next s) ∧
        (s.flowBehind core d = false → ∃ t e, exec (.putReceive core cid dest) s = .next t ∧ let plane := s.planeOf core d.core
          t.out = s.out ++ [.rutik plane (d.core / 256 - 1) core cid dest d.flow c.bytes] ∧
          (t.core core).copies.find cid = some (c.setDest dest fun v => v.replied e) ∧
          ∃ v ∈ t.packets, v.2.cargo = .putReply core cid dest ∧ v.2.legs = inPath plane core))) ∧
    (∀ dest d, c.dests[dest]? = some d → d.stage = 1 → s.inTransit (.putReply core cid dest) = false →
      let c' := c.setDest dest fun v => { v with stage := 2 }
      let last := (∀ v ∈ c'.dests, v.stage = 2) ∧ s.mcastOut core cid = false
      let k := s.coreOfTeam c.team
      let a := s.locBase c.team + c.obj
      ∃ t, exec (.putReply core cid dest) s = .next t ∧
        (¬ last → (t.core core).copies.find cid = some { c' with erred := c.erred ++ d.codes }) ∧
        (last → (t.core core).copies.find cid = none) ∧
        (∀ code, d.codes = [code] → s.objMarked c.team c.obj = true →
          (t.core k).word (a + 8) = statusErr ((s.core k).word (a + 8)) code) ∧
        (last → d.codes = [] → c.erred = [] → s.objMarked c.team c.obj = true →
          ((t.core k).word (a + 4)).toNat = min (((s.core k).word (a + 4)).toNat + c.bytes.length) 0xFFFFFFFF))

/-- R236, R243 to R247, R250 to R252, R255: the first operation of a queue that has not started starts; an `MMAS` instance that
every team of its cluster has reached starts on each of their cores, waits for a partner that a save has taken from its core, and
turns its groups away when they disagree or a partner is missing; a needed operand piece is taken; an operation whose pieces are all taken leaves the queue with each accumulator of
its tile the chunk sums added in order, and one that failed applies its error; `ACOWNER` takes the waiting context number. -/
def Obligations.MatrixEvents : Prop :=
  ∀ s : State,
    (∀ core o, ((s.core core).mq.find? fun o => !o.started) = some o → s.suspended core o.gid o.team = false →
      ∃ t, exec (.mmaQueueStart core) s = .next t ∧ { t with cores := s.cores } = s ∧
        (t.core core).mq = (s.core core).mq.map fun p => if p.id = o.id then { p with started := true } else p) ∧
    (∀ grid cluster gr t0 rest, s.grid grid = some gr → plainRun s grid cluster = t0 :: rest →
      (∀ e ∈ s.teams, e.2.grid = grid → e.2.cluster = cluster → e.2.kind = .launch → e.2.role = 0) →
      ∃ t, exec (.mmasInstanceStart grid cluster) s = .next t ∧
        ((t0 :: rest).length + savedRun s grid cluster < gr.recd.w * gr.recd.h → ∀ v ∈ t0 :: rest, ∀ e ∈ waitersOf s v,
          MmasAnswer t e.1 (.mmas (some 0x15) false)) ∧
        ((t0 :: rest).length < gr.recd.w * gr.recd.h → gr.recd.w * gr.recd.h ≤ (t0 :: rest).length + savedRun s grid cluster →
          t = s) ∧
        (gr.recd.w * gr.recd.h ≤ (t0 :: rest).length → ∀ gid0 e0,
          ((waitersOf s t0).find? fun e => (t0 :: rest).all fun v => (s.mmasOf v e.2.n).isSome) = some (gid0, e0) →
          ((∃ v ∈ t0 :: rest, ∃ gid e, s.mmasOf v e0.n = some (gid, e) ∧ e.common ≠ e0.common) →
            ∀ v ∈ t0 :: rest, ∀ gid e, s.mmasOf v e0.n = some (gid, e) → MmasAnswer t gid (.mmas (some 0x14) false)) ∧
          ((∀ v ∈ t0 :: rest, ∀ gid e, s.mmasOf v e0.n = some (gid, e) → e.common = e0.common) →
            (∀ v ∈ t0 :: rest, (s.core v.2.core).mq.length < 16) →
            ∀ v ∈ t0 :: rest, ∀ gid e, s.mmasOf v e0.n = some (gid, e) → MmasAnswer t gid (.mmas none true) ∧
              ∃ op ∈ (t.core v.2.core).mq, op.team = v.1 ∧ op.gid = gid ∧ op.started = false ∧ op.coll.isSome = true ∧
                let d := MmaDesc.ofBytes e.desc
                op.m = d.m / gr.recd.h ∧ op.n = d.n / gr.recd.w ∧ op.k = d.k ∧ op.row = v.2.rank / gr.recd.w ∧
                  op.col = v.2.rank % gr.recd.w))) ∧
    (∀ core id o isB va, s.mop core id = some o → o.started = true → s.suspended core o.gid o.team = false →
      o.lacks isB va = true → s.readsBand core o isB = true → s.bandAcquired core o isB = true →
      (∀ off tm, classify va = .localAp off → o.isLoc isB = true → s.team o.team = some tm →
        (s.core core).anyAbsent (tm.locBlk + off) 16 = false →
        ∃ t, exec (.mmaOperandRead core id isB va) s = .next t ∧ { t with cores := s.cores } = s ∧
          t.mop core id = some (o.take isB va ((s.core core).scrRead tm.owner (tm.locBlk + off) 16))) ∧
      (∀ s1 pa key s2 r, classify va = .global → o.isLoc isB = false → o.coll = none →
        s.lookNow core ((s.partOf { team := o.team }).getD 0) va needRead = (s1, .at pa key) →
        s1.pinRoom (l2Key (s1.home pa) (pa / 256)) = true → s1.engineRead core o.team o.id va 64 = (s2, r) →
        (∀ bs clk, r = .ok bs clk → ∃ t o', exec (.mmaOperandRead core id isB va) s = .next t ∧ t.mop core id = some o' ∧
          (o'.buf isB).find (va.toNat / 64) = some bs ∧ o'.failed = none) ∧
        (∀ code, r = .err code → ∃ t o', exec (.mmaOperandRead core id isB va) s = .next t ∧ t.mop core id = some o' ∧
          o'.failed = some code))) ∧
    (∀ core id o tm, s.mop core id = some o → o.started = true → s.suspended core o.gid o.team = false →
      s.mopFirst core o = true → s.team o.team = some tm → tm.core = core →
      (o.failed = none → o.allRead = true → o.n ≤ o.accStride →
        ∃ t, exec (.mmaComplete core id) s = .next t ∧ (t.core core).mq = (s.core core).mq.filter (fun p => p.id ≠ id) ∧
          (∀ i j, i < o.m → j < o.n → let k := o.accOff + i * o.accStride + j
            accOf t tm k = (o.chunks i j).foldl accStep (if o.zero then 0#32 else accOf s tm k)) ∧
          (∀ k, (∀ i j, i < o.m → j < o.n → o.accOff + i * o.accStride + j ≠ k) → accOf t tm k = accOf s tm k) ∧
          (s.objMarked o.team o.obj = true → ((t.core core).word (tm.locBlk + o.obj + 4)).toNat =
            min (((s.core core).word (tm.locBlk + o.obj + 4)).toNat + 1) 0xFFFFFFFF)) ∧
      (∀ code, o.failed = some code →
        ∃ t, exec (.mmaComplete core id) s = .next t ∧ (t.core core).mq = (s.core core).mq.filter (fun p => p.id ≠ id) ∧
          (s.objMarked o.team o.obj = true → (t.core core).word (tm.locBlk + o.obj + 8) =
            statusErr ((s.core core).word (tm.locBlk + o.obj + 8)) code))) ∧
    (∀ (die : Die) g core v, s.grp (ctrlGid die.val) = some g → g.wait = .acowner core v false → s.ownerIdle core = true →
      ∃ t, exec (.acownerChange die) s = .next t ∧ { t with cores := s.cores, groups := s.groups } = s ∧
        (t.core core).acOwner = v.setWidth 16 ∧ t.grp (ctrlGid die.val) = some { g with wait := .acowner core v true } ∧
        (∀ k, k ≠ ctrlGid die.val → t.grp k = s.grp k) ∧ ∀ k, k ≠ core → t.core k = s.core k)

namespace Sys2Proof.Rules
open Sys2Proof Sys2Proof.Machine

/-! ### Retirement and checking -/

/-- An event of a kind has been posted to a host queue: its count has risen, saturating, and when the queue has a notification queue
pair a SEND has gone out, or goes out with the event's write, which still waits (18 R346; log 26). -/
def Posted (s t : State) (part queue kind : Nat) : Prop :=
  (t.hqueue part queue).events.getD 0 kind = min ((s.hqueue part queue).events.getD 0 kind + 1) 0xFFFFFFFF ∧
    ((s.hqueue part queue).nqp ≠ 0 → ∃ bs, let note : Msg := .send (s.hqueue part queue).nqp queue kind bs
      note ∈ t.out ∨ ∃ va cc, .write part va bs (some note) cc ∈ t.pend)

/-- A unit whose winner's run commits, with that run (12 R274). -/
def committing (run : Nat) (k : Check) : Bool :=
  match k.phase with
  | .commit role => (k.runs role).contains run
  | _ => false

/-- A unit's primary holds a version in a set of a slice, or, for log space, log blocks of a partition (12 R267, R278). -/
def holdsThere (s : State) (set? : Option (Nat × Nat)) (part : Nat) (k : Check) : Bool :=
  match set? with
  | some (home, set) => s.vers.any fun v => k.teams1.contains v.run && v.home == home && setOf v.ln == set
  | none => !k.blocks.isEmpty && ((s.grid k.grid).map Grid.part) == some part

/-- The unit as the last rank of its shadow run leaves it (12 R268, R273). -/
def shadowDone (k : Check) (tid : Nat) (tm : Team) : Check :=
  { k with
    acted := k.acted || tm.acted, pubs := k.pubs ++ tm.held.map fun p => (tid, p)
    sig2 := k.sig2 ++ [(tm.rank, ⟨tm.sh, tm.sl, tm.rs, tm.ls, tm.core⟩)], div2 := k.div2 || tm.diverged }

end Sys2Proof.Rules

open Sys2Proof Sys2Proof.Machine Sys2Proof.Rules

/-- R90, R301, R331, R349: a group whose lanes have exited and to which nothing is owed retires, its clock joining its grid's; its
team ends with its last group, and retires when its engine work is done: its marks go and its die counts it; a grid of which
nothing is left ends, its completion record's status saying how. -/
def Obligations.Retirement : Prop :=
  ∀ s : State,
    (∀ gid g tm gr, s.grp gid = some g → g.priv = false → g.live = 0#32 → g.trap = none →
      (∀ e ∈ s.reqs, ∀ ln, e.2.maker = .lane gid ln → e.2.team = g.team → e.2.dead = true ∧ e.2.kind.writes = false) →
      s.team g.team = some tm → tm.check = none → tm.role < 2 →
      s.grid tm.grid = some gr →
      ∃ t tm', exec (.groupRetire gid) s = .next t ∧ t.grp gid = none ∧ (∀ k, k ≠ gid → t.grp k = s.grp k) ∧
        t.team g.team = some tm' ∧ tm'.rs = tm.rs + g.rsTerm ∧
        (tm'.ending = true ↔ tm.ending = true ∨ ∀ e ∈ s.groups, e.1 ≠ gid → e.2.team = g.team → e.2.priv = true) ∧
        t.grid tm.grid = some { gr with vc := gr.vc.join g.vc } ∧ t.cores = s.cores ∧ t.dram = s.dram) ∧
    (∀ tid tm, s.team tid = some tm → tm.ending = true → s.groupsOf tid = [] → s.engineIdle (tid, tm) = true → tm.check = none →
      ∃ t, exec (.teamRetire tid) s = .next t ∧ t.team tid = none ∧ (t.die (tm.core / 64)).retired = (s.die (tm.core / 64)).retired + 1 ∧
        (∀ m ∈ (t.core tm.core).marks, m ∈ (s.core tm.core).marks ∧
          ¬ (tm.locBlk ≤ 16 * m ∧ 16 * m < tm.locBlk + roundBlock tm.locSize)) ∧
        (∀ i gr r, tm.kind = .tile i → tm.role ≤ 1 → s.grid tm.grid = some gr → gr.refine = some r → TaskSent t tm (.runEnd i))) ∧
    (∀ n g, s.grid n = some g → s.gridDone n g = true → s.partReady g.part g.recd.complAddr 128 needWrite = true →
      let status : Word := if g.ended = .running then 1#32 else if g.ended = .killed then 9#32 else 5#32
      ∃ t, exec (.gridEnd n) s = .next t ∧ t.grid n = none ∧ (∀ k, k ≠ n → t.grid k = s.grid k) ∧
        let w := s.writeCompletion g.part g.recd.complAddr status (completionBody g.queue g.seq g.counts g.fp) g.vc
        t.dram = w.dram ∧ t.l2 = w.l2)

/-- R201, R267, R273, R274, R277 to R279: a shadow run that matches its primary is counted and the primary commits, one that does
not queues a third run; a commit makes the versions of the lowest release number current; a hold timeout, of a group or, as log 25
reads it, of a copy, posts a stall once, or under policy 1 releases the oldest retired unit that holds what is waited for, or with none
the group's own, unchecked, and queues a parked shadow run again; a demerit expires after W retirements; an FP counter that reaches its
threshold posts its event once. -/
def Obligations.CheckingEvents : Prop :=
  ∀ s : State,
    (∀ tid tm n k gr, s.team tid = some tm → tm.ending = true → s.groupsOf tid = [] → s.engineIdle (tid, tm) = true →
      tm.check = some n → tm.role = 2 → s.check n = some k → k.phase = .shadow → tid ∈ k.teams2 → k.ranks = k.sig2.length + 1 →
      s.grid k.grid = some gr →
      let k' := shadowDone k tid tm
      ∃ t, exec (.teamRetire tid) s = .next t ∧ t.team tid = none ∧
        (k'.agree 1 2 = true → (∃ gr', t.grid k.grid = some gr' ∧ gr'.counts = { gr.counts with matched := gr.counts.matched + 1 }) ∧
          ∀ c, t.check n = some c → c.phase = .commit 1) ∧
        (k'.agree 1 2 = false → t.check n = some { k' with phase := .queueThird })) ∧
    (∀ run n m k, (s.checks.find? fun e => committing run e.2) = some (m, k) → s.nextNum k = some n →
      (∀ v ∈ s.vers, v.run = run → v.num = n → s.verReady v = true) →
      ∃ t, exec (.commit run n) s = .next t ∧ (∀ v ∈ t.vers, ¬ (v.run = run ∧ v.num = n)) ∧
        t.l2 = (s.commitNumber m run n).l2 ∧ t.dram = (s.commitNumber m run n).dram) ∧
    (∀ gid g tm own gr, s.grp gid = some g → s.team g.team = some tm → tm.check = some own → s.grid tm.grid = some gr →
      let policy1 := gr.recd.flags.getLsbD 3
      (policy1 = false → g.stalled = true → g.stallPosted = false → ∃ t, exec (.holdTimeout gid) s = .next t ∧
        t.grp gid = some { g with stallPosted := true } ∧ t.out = s.out ++ [.firmware "hold stall" gid]) ∧
      (policy1 = false → g.stalled = true → g.stallPosted = true → (∀ c ∈ (s.core (coreOf gid)).copies, c.2.gid = gid →
        c.2.blocked = none) → exec (.holdTimeout gid) s = .next s) ∧
      (policy1 = false → g.stalled = false → ∀ cid c, c.team = g.team → c.stallPosted = false →
        ((s.core (coreOf gid)).copies.find? fun c => c.2.gid == gid && c.2.blocked.isSome) = some (cid, c) →
        ∃ t, exec (.holdTimeout gid) s = .next t ∧ t.groups = s.groups ∧ t.out = s.out ++ [.firmware "hold stall" gid]) ∧
      (policy1 = true → g.stalled = true → tm.role < 2 →
        let set? := (s.reqs.find? fun e => e.2.stage == .blocked && e.2.gid? == some gid).map fun (e : Nat × Req) =>
          (e.2.home, Machine.setOf (e.2.pa / 256))
        let part := (s.partOf g).getD 0
        let n := s.holdVictim set? part own
        ((n = own ∧ ∀ e ∈ s.checks, e.2.retired = true → holdsThere s set? part e.2 = false) ∨
          ∃ e ∈ s.checks, e.1 = n ∧ e.2.retired = true ∧ holdsThere s set? part e.2 = true ∧
            ∀ f ∈ s.checks, f.2.retired = true → holdsThere s set? part f.2 = true → e.2.retiredAt ≤ f.2.retiredAt) ∧
        (s.releasable n = false → exec (.holdTimeout gid) s = .next s) ∧
        (s.releasable n = true → ∃ t g', exec (.holdTimeout gid) s = .next t ∧ t.grp gid = some g' ∧
          g'.status.getLsbD 1 = true ∧ g'.stalled = g'.blocked ∧ t.check n = none)) ∧
      (policy1 = true → g.shed = .parked → tm.role = 2 → ∀ k, s.check own = some k → ∃ t k', exec (.holdTimeout gid) s = .next t ∧
        t.check own = some k' ∧ k'.phase = .queueShadow ∧ k'.teams2 = [] ∧ k'.sig2 = [])) ∧
    (∀ core n d, (s.core core).demerits[n]? = some d → d + s.demeritW ≤ (s.die (core / 64)).retired →
      ∃ t, exec (.demeritExpire core n) s = .next t ∧ { t with cores := s.cores } = s ∧
        t.core core = { s.core core with demerits := (s.core core).demerits.eraseIdx n } ∧ ∀ c, c ≠ core → t.core c = s.core c) ∧
    (∀ grid g p counter, s.grid grid = some g → s.part g.part = some p → counter < 16 → g.recd.fpThreshold ≠ 0 →
      g.recd.fpThreshold ≤ g.fp.getD 0 counter →
      (g.fpPosted.getLsbD counter = false → ∃ t, exec (.fpThresholdEvent grid counter) s = .next t ∧
        t.grid grid = some { g with fpPosted := g.fpPosted ||| (1#16 <<< counter) } ∧ Posted s t g.part g.evQueue 1) ∧
      (g.fpPosted.getLsbD counter = true → exec (.fpThresholdEvent grid counter) s = .next s))

namespace Sys2Proof.Rules
open Sys2Proof Sys2Proof.Machine

/-! ### Tasks, queues and placement -/

/-- Tasks have started as one group on a core: lane l of it at the entry with task l's arguments from v0 on, the lanes beyond the
tasks exited; its grid's bin sequence number has risen (17 R324). -/
def TasksStarted (s t : State) (grid core : Nat) (gr : Grid) (tasks : List Task) : Prop :=
  ∃ tid tm gid g' gr', s.nextId ≤ tid ∧ t.team tid = some tm ∧ tm.grid = grid ∧ tm.core = core ∧ tm.kind = .bin gr.binSeq ∧
    coreOf gid = core ∧ s.grp gid = none ∧ t.grp gid = some g' ∧ g'.team = tid ∧
    (∀ l : LaneIx, l.val < tasks.length → (g'.lane l).st = .eligible ∧ some (g'.lane l).pc = tasks.head?.map Task.entry) ∧
    (∀ l : LaneIx, tasks.length ≤ l.val → (g'.lane l).st = .exited) ∧
    (∀ l : LaneIx, ∀ a k w, tasks[l.val]? = some a → a.args[k]? = some w → (g'.lane l).stack.getD {} k = { val := w }) ∧
    t.grid grid = some gr' ∧ gr'.binSeq = gr.binSeq + 1

/-- A group of tasks may start on a core and fits there (17 R322 to R324; 18 R351, R352). -/
structure MayStart (s : State) (grid core : Nat) (gr : Grid) (a : Alloc) : Prop where
  active : s.grid grid = some gr
  start : s.mayStart grid gr = true
  fits : ({ s with grids := s.grids.put grid { gr with vacated := [] } } : State).coreOk grid 1 core = true
  room : s.allocOn core (gr.recd.need 1) = some a

end Sys2Proof.Rules

open Sys2Proof Sys2Proof.Machine Sys2Proof.Rules

/-- R322 to R324, R330 to R332, R335 to R337: an expired timer triggers its bin; a triggered bin, and the tasks at the head of an
overflow queue as its memory holds them, start as one group where one may start and fits; the task unit's clock fires every tile that may, applies a
publication, a stop or a run's end that has reached it, and under RESTART marks running runs whose inputs have moved. -/
def Obligations.TaskUnit : Prop :=
  ∀ s : State,
    (∀ core bin b, (s.core core).bins.find bin = some b → ∃ t, exec (.binTimerExpire core bin) s = .next t ∧
      { t with cores := s.cores } = s ∧ (∀ c, c ≠ core → t.core c = s.core c) ∧ ∀ k, (t.core core).bins.find k =
        if k = bin then some { b with triggered := true } else (s.core core).bins.find k) ∧
    (∀ core bin b gr a, (s.core core).bins.find bin = some b → b.triggered = true → MayStart s b.grid core gr a →
      ∃ t, exec (.binGroupStart core bin) s = .next t ∧ TasksStarted s t b.grid core gr b.tasks ∧
        (t.core core).bins.find bin = none) ∧
    (let s0 := s.dropDeadTasks fun _ => false
      ∀ (die : Die) part core q h gr a, (s0.die die.val).overflow.find part = some q → s0.pend = [] →
      (∀ i, i < min 32 q.tasks.length → s0.partReady part (q.place i) 64 needRead = true) →
      let stored := ((q.tasks.take 32).zipIdx).map fun e => s0.storedTask part q e.2 e.1
      stored.head? = some h → MayStart s0 h.grid core gr a →
      let ts := stored.takeWhile fun k => k.grid == h.grid && k.entry == h.entry
      ∃ t q', exec (.overflowDrain die part core) s = .next t ∧ TasksStarted s t h.grid core gr ts ∧
        (t.die die.val).overflow.find part = some q' ∧ q'.tasks = q.tasks.drop ts.length ∧
          q'.head = (q.head + ts.length) % max 1 q.room) ∧
    (∀ grid gr r, s.grid grid = some gr → gr.refine = some r → gr.ended = .running →
      let allowed := (s.domain (((s.part gr.part).map Part.lowDomain).getD 0)).allowed
      ∃ t q, exec (.taskUnitClock grid) s = .next t ∧ t.grid grid = some { gr with refine := some q } ∧
        (r.arrived = [] → q.ev = r.ev ∧ ∀ i, i < r.w * r.h → q.tile i =
          if r.fires allowed i then { r.tile i with
            seen := r.sum i, runs := min ((r.tile i).runs + 1) 255, queued := true } else r.tile i) ∧
        (∀ id e, r.ev = [(id, e)] → r.arrived = [id] → q.ev = [] ∧
          (∀ i fin reply clk, e = .pub i fin reply clk →
            let v := r.tile i
            let frozen := v.final || v.stopped
            (q.tile i).version = (if frozen then v.version else min (v.version + 1) 65535) ∧
              (q.tile i).final = (v.final || (!frozen && (fin || decide (65534 ≤ v.version)))) ∧
              ∀ gid g ans n, reply = some gid → s.grp gid = some g → g.wait = .taskUnit ans n → ∃ g', t.grp gid = some g' ∧
                g'.wait = .taskUnit (ans ++ [((r.coord i).toNat,
                  if frozen then 0#32 else BitVec.ofNat 32 (min (v.version + 1) 65535))]) n) ∧
          (∀ i, e = .stop i → (q.tile i).stopped = true ∧ (q.tile i).queued = false ∧ ∀ f ∈ q.fired, f.tile ≠ i) ∧
          (∀ i, e = .runEnd i → (q.tile i).running = false)) ∧
        (gr.recd.restart = true → ∀ gid g tm i, s.grp gid = some g → g.priv = false → s.team g.team = some tm → tm.grid = grid →
          tm.role ≤ 1 → tm.kind = .tile i → i < r.w * r.h → (q.tile i).running = true → (q.tile i).seen < q.sum i →
          ∃ g', t.grp gid = some g' ∧ g'.stale = true) ∧
        (gr.recd.restart = false → ∀ gid, (t.grp gid).map Group.stale = (s.grp gid).map Group.stale))

/-- R345, R347, R348, R350 to R353, R355, R356, R359: a write to a doorbell word takes its queue's TAIL, and a queue then holding too
many records stops; the dispatcher takes one record of the first queue in its order, which becomes an active grid, is refused, waits for a
free refinement grid number, or cannot be read and stops the queue; placement puts the first candidate, if it fits, where the placer chose, and otherwise places nothing;
a compaction moves a block with its contents to a lower address; a release wave lets the first GPW groups of a domain's queue go. -/
def Obligations.Scheduling : Prop :=
  ∀ s : State,
    (∀ qp rem (val : Dword), s.doorbellOf qp rem = none → exec (.doorbellWrite qp rem val) s = .next s) ∧
    (∀ qp rem part p queue (val : Dword), s.doorbellOf qp rem = some (part, queue) → s.part part = some p →
      let q := s.hqueue part queue
      let tail := val.extractLsb' 0 32
      (∃ v, s.qps.find qp = some v ∧ v.st = .ready ∧ v.part = part ∧ rem.rkey = Config.doorbellKey part ∧ queue < 64 ∧
        rem.va.toNat = pageBase part + 8 * queue) ∧
      (q.tail = tail → exec (.doorbellWrite qp rem val) s = .next s) ∧
      (q.tail ≠ tail → ∃ t, exec (.doorbellWrite qp rem val) s = .next t ∧ (t.hqueue part queue).tail = tail ∧
        let full := q.en && !q.stopped && decide (q.size < (tail - q.head).toNat)
        (full = true → (t.hqueue part queue).stopped = true ∧ (t.hqueue part queue).err = 1 ∧ Posted s t part queue 5) ∧
        (full = false → t.hqueue part queue = { q with tail := tail, clk := p.clk }))) ∧
    (∀ part p q rest, s.part part = some p → p.destroying = none → (s.grids.countP fun g => g.2.part == part) < 64 →
      s.serveOrder part = q :: rest → s.headReady part q = true →
      (∀ s1, s.headRecord part q = (s1, none) → ∃ t, exec (.dispatch part) s = .next t ∧ t.grids = s.grids ∧
        (t.hqueue part q).stopped = true ∧ (t.hqueue part q).err = 2) ∧
      (∀ s1 r ev, s.headRecord part q = (s1, some (r, ev)) → r.isGrid = false →
        ∃ t p', exec (.dispatch part) s = .next t ∧ t.part part = some p' ∧ p'.seq = p.seq + 1 ∧
          p'.lastServed.getD 64 ((s1.queueLevel part q).getD 0) = q ∧
          (q = 64 → p'.devq = p.devq.drop 1) ∧ (q ≠ 64 → (t.hqueue part q).head = (s.hqueue part q).head + 1) ∧
          (r.ok = false ∨ r.codeBase.toNat % 8192 ≠ 0 → t.grids = s.grids ∧ Posted s t part ev 0) ∧
          (r.ok = true → r.codeBase.toNat % 8192 = 0 →
            (s1.takeRecord part q).1.refuseMore part r (decide (q ≠ 64) && (s.hqueue part q).gang) = none →
            ∃ n gr, t.grid n = some gr ∧ gr.part = part ∧ gr.queue = q ∧ gr.evQueue = ev ∧ gr.seq = p.seq ∧ gr.recd = r ∧
              gr.refine = none ∧ gr.ended = .running ∧ gr.nextCluster = 0)) ∧
      (∀ s1 r ev, s.headRecord part q = (s1, some (r, ev)) → s.gridWaits part r = true → rest = [] →
        exec (.dispatch part) s = .next s1)) ∧
    (∀ part p c, s.part part = some p → ((s.reserveAll part).candidates part).head? = some c →
      let s1 := s.reserveAll part
      (s1.tryPlace c = none → ∃ t, exec (.placement part) s = .next t ∧ t.teams = s.teams ∧ t.groups = s.groups) ∧
      (∀ i gr ps, c.what = .cluster i → s1.grid c.grid = some gr →
        s1.slotsOpen c.grid gr.part false (gr.recd.groups * (gr.recd.w * gr.recd.h)) = true →
        s1.placeFirst c.grid (gr.recd.need gr.recd.groups) gr.recd.w gr.recd.h = some ps →
        ∃ t gr', exec (.placement part) s = .next t ∧ t.grid c.grid = some gr' ∧ gr'.nextCluster = i + 1 ∧
          ∀ rank core a, (ps[rank]?) = some (core, a) → ∃ tid tm, t.team tid = some tm ∧ tm.grid = c.grid ∧ tm.core = core ∧
            tm.rank = rank ∧ tm.cluster = i ∧ tm.groups = gr.recd.groups ∧ tm.locBlk = a.loc ∧ tm.accBlk = a.acc ∧
            ∀ n slot, a.slots[n]? = some slot → ∃ g', s.grp (32 * core + slot) = none ∧ t.grp (32 * core + slot) = some g' ∧
              g'.team = tid ∧ g'.grpix = n ∧ ∀ l, (g'.lane l).st = .eligible ∧ (g'.lane l).pc = gr.recd.entry ∧
                (g'.lane l).stack.getD {} 0 = { val := BitVec.ofNat 32 (32 * n + l.val) })) ∧
    (∀ core c b a tm, (s.partAt core).bind s.firstCandidate = some (c, false) →
      s.compactMove c = some (core, some (b, a)) → s.mayMove b = true → s.team b.tid = some tm →
      ∃ t, exec (.compactorMove core b.pool b.tid b.ix) s = .next t ∧ a < b.addr ∧
        { t with cores := s.cores, teams := s.teams } = s ∧
        (b.pool = 1 → t.team b.tid = some { tm with locBlk := a } ∧
          ∀ i, i < b.size → (t.core core).scratch.getD 0 (a + i) = (s.core core).scratch.getD 0 (b.addr + i)) ∧
        (b.pool = 2 → t.team b.tid = some { tm with accBlk := a } ∧
          ∀ i, i < b.size / 4 → (t.core core).acc.getD 0 (a / 4 + i) = (s.core core).acc.getD 0 (b.addr / 4 + i)) ∧
        (b.pool = 0 → t.team b.tid = some { tm with regBlks := tm.regBlks.set b.ix a } ∧
          ∀ i, i < b.size / 8192 → (t.core core).regTag.getD 0 (a / 8192 + i) = (s.core core).regTag.getD 0 (b.addr / 8192 + i))) ∧
    (∀ dom, let d := s.domain dom; let n := max 1 (d.islope.extractLsb' 0 8).toNat
      (d.relq.take n).Nodup → ∃ t, exec (.releaseWave dom) s = .next t ∧ { t with groups := s.groups, domains := s.domains } = s ∧
        t.domain dom = { d with relq := d.relq.drop n } ∧ (∀ gid, gid ∉ d.relq.take n → t.grp gid = s.grp gid) ∧
        ∀ gid g, gid ∈ d.relq.take n → s.grp gid = some g →
          let al := (s.domain (domainOf (coreOf gid))).allowed
          (g.pclass < al → t.grp gid = some g) ∧
          (al ≤ g.pclass → g.opened = [] → t.grp gid = some { g with shed := .running }) ∧
          (al ≤ g.pclass → ∀ b grid m wait, g.opened = (b, grid, m) :: wait → g.levels = [] →
            ∃ g', t.grp gid = some g' ∧ g'.shed = .running ∧ g'.opened = wait ∧ g'.acq = (g.acq || grid) ∧
              ∀ l, (g.lane l).st = .barrier b → Mask.has m l = true → (g'.lane l).st = .eligible ∧ (g'.lane l).pc = (g.lane l).pc + 4#32))

namespace Sys2Proof.Rules
open Sys2Proof Sys2Proof.Machine

/-! ### Management requests, pre-emption, cuts and contexts -/

/-- Firmware handles a request at once: the management connection is open, no other request is being handled, and the message is
well formed (21 R414, R415). -/
structure Handled (s : State) (r : MReq) : Prop where
  runs : s.fwRuns = true
  open_ : s.mgmtConn = true
  free : s.mgmtBusy = false
  good : r.bad = false
  part : r.part < 16 ∨ r.part = 255

/-- The request has been answered by one message with a status and a body, the first to leave (21 R414). -/
def Answered (s t : State) (r : MReq) (type status : Nat) (body : List Byte) : Prop :=
  t.out = s.out ++ [.reply r type status body]

/-- The request has been answered among what has left. -/
def AnsweredIn (t : State) (r : MReq) (type status : Nat) : Prop := .reply r type status [] ∈ t.out

/-- Alerts leave the part at once: a management connection is open and the part is ready (21 R415, R422). -/
def Sends (s : State) : Prop := s.mgmtConn = true ∧ s.phase = .ready

/-- An alert is raised: sent where alerts leave at once, otherwise kept (21 R415, R422, R424). -/
def Alerted (s t : State) (kind : Nat) (id : Dword) (a b : Word) (c : Dword) : Prop :=
  (Sends s → .alert kind id a b c ∈ t.out) ∧ (¬ Sends s → .alert kind id a b c ∈ t.alerts)

/-- A team has been taken off its core into a stream: its groups are gone; their registers, and the scratchpad bytes as its owner
reads them, are in its record (19 R375, R383; 03 R66). -/
def Saved (s t : State) (tid : Nat) (tm : Team) (key : Nat) : Prop :=
  t.team tid = none ∧ (∀ gid g, s.grp gid = some g → g.team = tid → g.priv = false → t.grp gid = none) ∧
    ∃ st v, t.streams.find key = some st ∧ v ∈ st.teams ∧ v.tid = tid ∧
      (∀ gid g, s.grp gid = some g → g.team = tid → g.priv = false → g.opened = [] →
        ∃ e ∈ v.groups, e.1 = g.grpix ∧ e.2.lanes = g.lanes ∧ e.2.s = g.s ∧ e.2.vc = g.vc) ∧
      v.scratch = (s.core tm.core).scrRead tm.owner tm.locBlk tm.locSize

/-- A message of a migration session has left: its header, its enciphered payload and its tag (19 R387). -/
def EbbSent (t : State) (e : Ebb) (n type key count region off : Nat) (payload : List Byte) : Prop :=
  let h := ebbHeader { e with seq := n } type key count region off
  let c := gcmSeal e.setup.migKey (ebbIv e.setup n) h payload
  .migration (h ++ c.1 ++ c.2) ∈ t.out

/-- Every group of a team is stopped. -/
def TeamStopped (s t : State) (tid : Nat) : Prop :=
  ∀ gid g, s.grp gid = some g → g.team = tid → g.priv = false → ∃ g', t.grp gid = some g' ∧ g'.stopped = true

end Sys2Proof.Rules

open Sys2Proof Sys2Proof.Machine Sys2Proof.Rules

/-- R374, R375, R378, R380: a pre-emption is accepted, keeps its grid off the vacated cores and stops the groups on them, at once
or cooperatively, and 200 µs later all of them; a stopped team whose awaited accesses are there is saved; a cut is accepted,
suspends its grids and starts at Q0's control station; a marker closes its source at a station, whose first marker stops the
job's groups on its core; and a cut that every station has completed is reported. The number of a pre-emption's stream, 2^64 and
above, is log 11; that markers close pairs of stations, and that the cut starts at station 64, are log 33. -/
def Obligations.PreemptionAndCuts : Prop :=
  ∀ s : State,
    (∀ r seq cores imm p grid gr, Handled s r → r.part < 16 → s.part r.part = some p → 1 ≤ cores → cores ≤ 256 →
      s.gridSeq r.part seq = some (grid, gr) → s.grid grid = some gr →
      ∃ t, exec (.preemption r seq cores imm) s = .next t ∧ AnsweredIn t r 0x40 1 ∧
        t.grid grid = some { gr with vacated := (gr.vacated ++ s.vacate grid cores).dedup } ∧
        ∀ tm gid g, s.grp gid = some g → g.priv = false → s.team g.team = some tm → tm.grid = grid → tm.core ∈ s.vacate grid cores →
          ∃ g', t.grp gid = some g' ∧ (imm = true ∨ g.atRest gid = true → g'.stopped = true) ∧
            (imm = false → g.atRest gid = false → g'.stopping = true)) ∧
    (∃ t, exec .preemptForce s = .next t ∧ { t with groups := s.groups } = s ∧
      ∀ q ∈ s.preempts, ∀ tid ∈ q.teams, TeamStopped s t tid) ∧
    (∀ tid tm gr, s.team tid = some tm → tm.role < 2 → s.grid tm.grid = some gr → s.cuts = [] →
      (∃ q ∈ s.preempts, tid ∈ q.teams) → s.saveReady tid = true →
      ∃ t key gr', exec (.teamSave tid) s = .next t ∧ 2 ^ 64 ≤ key ∧ Saved s t tid tm key ∧ t.grid tm.grid = some gr' ∧
        key ∈ gr'.saved) ∧
    (∀ r seqs num p, Handled s r → r.part < 16 → s.part r.part = some p → seqs ≠ [] → seqs.length ≤ 8 →
      (∀ q ∈ seqs, (s.gridSeq r.part q).isSome = true) → (∀ k ∈ s.cuts, k.num ≠ num) →
      ∃ t k, exec (.cut r seqs num) s = .next t ∧ Answered s t r 0x40 1 [] ∧ t.cuts = s.cuts ++ [k] ∧ k.num = num ∧
        k.met.find 64 = some s.nextId ∧ k.closed = [] ∧ k.complete = false ∧
        ∀ q ∈ seqs, ∀ grid gr, s.gridSeq r.part q = some (grid, gr) → grid ∈ k.grids ∧
          (s.grid grid = some gr → t.grid grid = some { gr with suspended := true })) ∧
    (∀ (die : Die) station src num k mark, s.cuts = [k] → k.num = num → k.met.find src = some mark → station < 72 →
      let here := 72 * die.val + station
      (here, src) ∉ k.closed → src ∈ cutSources die.val station → s.beforeMarker src here mark = false →
      ∃ t k', exec (.cutMarkerReceive die station src num) s = .next t ∧ t.cuts = [k'] ∧ k'.closed = k.closed ++ [(here, src)] ∧
        (∀ n, k.met.find here = some n → k'.met = k.met ∧ t.groups = s.groups) ∧
        (k.met.find here = none → k'.met.find here = some s.nextId ∧ (station < 64 →
          ∀ tid tm, s.team tid = some tm → tm.core = 64 * die.val + station → tm.grid ∈ k.grids → TeamStopped s t tid))) ∧
    (∀ num k, (s.cuts.find? fun c => c.num == num) = some k → k.complete = false → s.cutDone k = true →
      ∃ t, exec (.cutComplete num) s = .next t ∧ (Sends s → Alerted s t 2 k.req.id 0 0x40 0) ∧
        ∀ c ∈ t.cuts, c.num = num → c.complete = true)

/-- R373, R375, R384: a context request starts its die's context unit, or is refused with status 4 while that runs; a running
save stops its slot's team and, when it can be saved, ends with the team in the stream at its address; a running restore waits
while a line or a path that it needs is closed, and ends with the stream's teams on its core, or with why it did not; a command
that has ended sets the status, and completes its request. Status 4 for a second command is log 35, what stands at a stream address
log 11, the stop of a save log 30. -/
def Obligations.ContextCommands : Prop :=
  ∀ (s : State) (die : Die), let u := (s.die die.val).ctx
    (∀ (c : CtxReq) i cmd, (i = .contextSave die (some c) ∧ cmd = 1#32) ∨ (i = .contextRestore die (some c) ∧ cmd = 2#32) →
      Handled s c.req → c.core < 64 → c.slot < 32 →
      (u.running = true → ∃ t, exec i s = .next t ∧ Answered s t c.req 0x40 4 [] ∧ (t.die die.val).ctx = u) ∧
      (u.running = false → ∃ t, exec i s = .next t ∧ Answered s t c.req 0x40 1 [] ∧ (t.die die.val).ctx =
        { addr := c.addr, command := cmd, status := 1, running := true, core := 64 * die.val + c.core, slot := c.slot
          via := some c.req, result := none })) ∧
    (u.running = true → u.command = 1#32 → u.result = none →
      (s.grp (32 * u.core + u.slot) = none → ∃ t, exec (.contextSave die none) s = .next t ∧
        (t.die die.val).ctx = { u with result := some 4 } ∧ t.groups = s.groups) ∧
      (∀ g tm, s.grp (32 * u.core + u.slot) = some g → s.team g.team = some tm → tm.role < 2 →
        let s1 := s.stopForSave g.team
        (s1.saveReady g.team = false ∨ s1.saveAt die.val g.team u.addr = none →
          ∃ t, exec (.contextSave die none) s = .next t ∧ { t with groups := s.groups } = s ∧ TeamStopped s t g.team) ∧
        (∀ s2, s1.saveReady g.team = true → s1.saveAt die.val g.team u.addr = some s2 → ∃ t, exec (.contextSave die none) s = .next t ∧
          Saved s t g.team tm u.addr.toNat ∧ (t.die die.val).ctx.result = some 0))) ∧
    (u.running = true → u.command = 2#32 → u.result = none →
      let key := u.addr.toNat
      let waits := exec (.contextRestore die none) s = .next s
      let fails := fun (n : Nat) => ∃ t, exec (.contextRestore die none) s = .next t ∧
        (t.die die.val).ctx = { u with result := some n } ∧ t.groups = s.groups
      (∀ s1, s.streamAt die.val key = (s1, none) → waits) ∧ (∀ s1, s.streamAt die.val key = (s1, some none) → fails 2) ∧
      (∀ s1 st g, s.streamAt die.val key = (s1, some (some st)) → s.grid st.grid = some g →
        (u.core ∉ s.coresOf st.part (u.core / 64) ∨ (s.core u.core).fenced = true → fails 5) ∧
        (u.core ∈ s.coresOf st.part (u.core / 64) → (s.core u.core).fenced = false →
          let room := s.slotsOpen st.grid st.part false (st.teams.map fun v => v.groups.length).sum = true ∧ ∀ v ∈ st.teams,
            s.coreOk st.grid (if v.team.kind = .launch then g.recd.w * g.recd.h else 1) u.core = true ∧
              s.rankFits g v.team u.core = true
          (¬ room → fails 3) ∧ (room → s.jobReady st = false → waits) ∧ (room → s.jobReady st = true →
            let s2 := ({ s1 with streams := s1.streams.put key st } : State).replayJob st
            let vs := ((s2.streams.find key).map Stream.teams).getD []
            (State.restoreOn s s2 g u.core vs = .wait → waits) ∧
            (∀ s3 n, State.restoreOn s s2 g u.core vs = .done s3 n → n ≠ 0 → n = 3 ∧ fails 3) ∧
            (∀ s3, State.restoreOn s s2 g u.core vs = .done s3 0 →
              ∃ t, exec (.contextRestore die none) s = .next t ∧ (t.die die.val).ctx.result = some 0 ∧ t.streams.find key = none ∧
                ∀ v ∈ vs, ∃ tm, t.team v.tid = some tm ∧ tm.core = u.core))))) ∧
    (∀ n, u.running = true → u.result = some n → ∃ t, exec (.contextCommandDone die) s = .next t ∧
      (t.die die.val).ctx = { u with running := false, result := none, status := BitVec.ofNat 32 n, via := none } ∧
      ∀ r, u.via = some r → Alerted s t 2 r.id (if n = 0 then 0#32 else 4#32) 0x40 0)

/-- R385 to R388: a migration session opens; a pass sends a region's dirty granules, one enciphered message each, and its end once
every region is done, and the next waits for the acknowledgements; the destination aborts on an authentication or header failure
or a pass count that differs, accepts each sequence number once, and places granules; a record stream that has come whole ends the
session; the final copy runs once the job has stopped and every message is acknowledged, and then the session ends. Status 4 for a
second session is log 35; one region for each pass event, the wait of one that the pass has copied, the release of the job's checked
units before the last pass, and a job that waits for grid numbers, are log 11. -/
def Obligations.Migration : Prop :=
  ∀ s : State,
    (∀ r e, Handled s r → e.part < 16 →
      (s.ebb = none → (e.dest ∈ s.ueAddr ∨ (s.part e.part).isSome = true) →
        ∃ t, exec (.migrationSession r e) s = .next t ∧ Answered s t r 0x41 1 [] ∧
          t.ebb = some { setup := e, req := r, isSource := !s.ueAddr.contains e.dest }) ∧
      (s.ebb.isSome = true → ∃ t, exec (.migrationSession r e) s = .next t ∧ Answered s t r 0x41 4 [] ∧ t.ebb = s.ebb)) ∧
    (∀ e region s1 gs, s.ebb = some e → e.isSource = true → e.final = false → region ∈ s.regionsOf e.setup.part →
      region ∉ e.scanned → s.regionReady e.setup region = true → s.dirtyGranules region = (s1, gs) →
      ∃ t e', exec (.ebbPass region) s = .next t ∧ t.ebb = some e' ∧ e'.scanned = e.scanned ++ [region] ∧ e'.pass = e.pass ∧
        e'.sentInPass = e.sentInPass + gs.length ∧
        (gs = [] → t.l2 = (s1.clearBitmap region).l2 ∧ t.dram = (s1.clearBitmap region).dram) ∧
        (∀ g ∈ gs, ∃ n bs, EbbSent t e n 1 (ebbKey e.setup (region * 2 ^ 30 + g * 4096)) 4096 region (g * 4096) bs) ∧
        ((∀ x ∈ s.regionsOf e.setup.part, x ∈ e.scanned ++ [region]) → ∃ n, EbbSent t e n 3 0 0 0 e'.sentInPass [])) ∧
    (∀ e region, s.ebb = some e → region ∈ s.regionsOf e.setup.part →
      (region ∈ e.scanned ∧ e.unacked ≠ []) ∨ s.regionReady e.setup region = false →
      exec (.ebbPass region) s = .next s) ∧
    (∀ e header rest, s.ebb = some e →
      let m := ebbRead e.setup (header ++ rest)
      let i := Instr.ebbMessageReceive header rest
      let abort := fun (t : State) (why : Word) => t.ebb = none ∧ .migrationAbort e.setup.session ∈ t.out ∧ Alerted s t 8 0 e.setup.session why m.seq ∧
        Alerted s t 2 e.req.id 4 0x41 0
      (m.payload = none → ∃ t, exec i s = .next t ∧ (Sends s → abort t 1#32)) ∧
      (∀ bs, m.payload = some bs →
        (ebbHeaderOk m e = false → ∃ t, exec i s = .next t ∧ (Sends s → abort t 3#32)) ∧
        (ebbHeaderOk m e = true → e.isSource = false →
          (m.seq.toNat ∈ e.accepted → ∃ t, exec i s = .next t ∧ t = { s with out := s.out ++ [.migrationAck m.seq] }) ∧
          (m.seq.toNat ∉ e.accepted → let placed := e.placed.getD 0 m.pass
            (m.type = 1 →
              let pa := ((e.setup.regionMap.find? fun x => x.1 == m.region).map Prod.snd).getD 0 * 2 ^ 30 + m.off
              (s.ebbReady (s.ebbPart e) pa m.key 4096 = false → exec i s = .next s) ∧
              (s.ebbReady (s.ebbPart e) pa m.key 4096 = true → ∃ t e', exec i s = .next t ∧ t.ebb = some e' ∧
                e'.placed.getD 0 m.pass = placed + 1 ∧ e'.accepted = m.seq.toNat :: e.accepted ∧ .migrationAck m.seq ∈ t.out ∧
                let w := (s.machineWrite (s.ebbPart e) pa m.key 0 bs {} none).1
                t.dram = w.dram ∧ t.l2 = w.l2)) ∧
            (m.type = 3 → m.off = placed → ∃ t, exec i s = .next t ∧
              t.ebb = some { e with accepted := m.seq.toNat :: e.accepted } ∧ t.out = s.out ++ [.migrationAck m.seq]) ∧
            (m.type = 3 → m.off ≠ placed → ∃ t, exec i s = .next t ∧ (Sends s → abort t 2#32)) ∧
            (m.type = 2 → let stream := e.stream.put m.seq.toNat bs
              (readStream (chunksSoFar stream) = none → ∃ t, exec i s = .next t ∧
                t.ebb = some { e with accepted := m.seq.toNat :: e.accepted, stream } ∧ t.out = s.out ++ [.migrationAck m.seq]) ∧
              (∀ rs, readStream (chunksSoFar stream) = some rs →
                let ends := fun (status : Word) => ∃ t, exec i s = .next t ∧ t.ebb = none ∧ .migrationAck m.seq ∈ t.out ∧
                  (Sends s → Alerted s t 2 e.req.id status 0x41 0)
                (jobOf rs = none → ends 4#32) ∧ ∀ j, jobOf rs = some j →
                  (s.jobFits (s.ebbPart e) j = false → exec i s = .next s) ∧ (s.jobFits (s.ebbPart e) j = true → ends 0#32))))))) ∧
    (∀ e, s.ebb = some e → e.isSource = true → (∃ g ∈ s.grids, g.2.part = e.setup.part ∧ g.2.suspended = true) →
      (∀ v ∈ s.teams, ∀ gr, s.grid v.2.grid = some gr → ¬ (gr.part = e.setup.part ∧ gr.suspended = true)) →
      (∀ k ∈ s.cuts, k.part ≠ e.setup.part) →
      let ready := ∀ x ∈ s.regionsOf e.setup.part, s.regionReady e.setup x = true
      (¬ ready → exec .ebbFinalCopy s = .next s) ∧
      (ready → e.final = false → e.unacked = [] → (e.scanned = [] ∨ ∀ x ∈ s.regionsOf e.setup.part, x ∈ e.scanned) →
        (∀ k ∈ s.checks, s.releasable k.1 = true) →
        ∃ t e', exec .ebbFinalCopy s = .next t ∧ t.ebb = some e' ∧ e'.final = true ∧
          e'.pass = if e.scanned = [] then e.pass else e.pass + 1) ∧
      (e.final = false → e.unacked ≠ [] → exec .ebbFinalCopy s = .next s) ∧
      (ready → e.final = true → ∃ t n, exec .ebbFinalCopy s = .next t ∧ t.ebb = none ∧ .firmware "late writes" n ∈ t.out ∧
        (Sends s → Alerted s t 2 e.req.id 0 0x41 0)))

namespace Sys2Proof.Rules
open Sys2Proof Sys2Proof.Machine

/-! ### Power, shedding and heat -/

/-- The allowed class has taken a new value: every domain's copy follows; each running group of a lower class is marked; of the
others a marked one loses its mark, a stopped one that waits for nothing else joins its domain's release queue, and one that waits on
is stopped no longer; they join in descending class, then ascending core and slot (20 R400 to R402, R406). -/
def ClassSet (s t : State) (a : Nat) : Prop :=
  t.power.allowed = a ∧ (a ≠ s.power.allowed → (∀ n, n < 16 → (t.domain n).allowed = a) ∧
    (∀ gid g, s.grp gid = some g → g.priv = false →
      (g.shed = .running → g.pclass < a → t.grp gid = some { g with shed := .marked }) ∧
      (g.shed = .marked → a ≤ g.pclass → t.grp gid = some { g with shed := .running }) ∧
      (g.shed = .parked ∨ g.shed = .forced → a ≤ g.pclass → g.opened = [] →
        (s.waitsElse gid g = true → t.grp gid = some { g with shed := .running }) ∧
        (s.waitsElse gid g = false → t.grp gid = some g ∧ gid ∈ (t.domain (domainOf (coreOf gid))).relq))) ∧
    ((s.groups.map Prod.fst).Nodup → ∀ n, ∃ l, (t.domain n).relq = (s.domain n).relq ++ l ∧ l.Pairwise fun x y =>
      ∀ g h, s.grp x = some g → s.grp y = some h → h.pclass < g.pclass ∨ (g.pclass = h.pclass ∧ x ≤ y)))

/-- The claims that the arbiter answers, in its order (20 R394). -/
def claimOrder (s : State) (arrived : BitVec 16) : List Nat :=
  ((List.range 16).map fun i => (s.power.lastGranted + 1 + i) % 16).filter fun k =>
    arrived.getLsbD k && (s.domain k).claimed && !(s.domain k).answered

/-- The part right after a reset in a phase: what has left it, the fused values and the model's own agenda and counter stay, and the
number of its resets, with which identifier 0's key pair is a new one, has risen (21 R422; 03 R62). -/
def FreshPackage (s t : State) (phase : BootPhase) (out : List Msg) : Prop :=
  t = { State.reset with
    agenda := s.agenda, out := s.out ++ out, fusedMin := s.fusedMin, freeCtr := s.freeCtr, boot := s.boot + 1, phase }

end Sys2Proof.Rules

open Sys2Proof Sys2Proof.Machine Sys2Proof.Rules

/-- R390, R391, R393 to R396, R409: a domain without a resident group can be put into idle, and wakes to nominal; a domain with a
group that may boost claims; the arbiter grants claims in its rotating order while permits last, and the next order starts after the
last domain granted; at a boundary, which waits for the answer to a claim (log 36), the domain takes its next state, one that must fall
nominal at once though a claim granted for the interval stays charged (log 36), and every sixteenth wholly idle interval, and no other,
adds a permit up to the pool's size; the supply switches the write-assist. -/
def Obligations.BiasDomains : Prop :=
  ∀ s : State,
    (∀ dom, dom < 16 → s.fwRuns = true → (s.domain dom).st ≠ 3 → s.occupied dom = false →
      ∃ t, exec (.domainIdleEnter dom) s = .next t ∧ { t with domains := s.domains } = s ∧ (t.domain dom).st = 3 ∧
        (t.domain dom).granted = false ∧ ∀ n, n ≠ dom → t.domain n = s.domain n) ∧
    (∀ dom, s.occupied dom = true → exec (.domainIdleEnter dom) s = .next s) ∧
    (∀ dom, (s.domain dom).st = 3 → ∃ t, exec (.domainWake dom) s = .next t ∧ { t with domains := s.domains } = s ∧
      (t.domain dom).st = 0 ∧ (t.domain dom).clk = (s.domain dom).clk ∧ ∀ n, n ≠ dom → t.domain n = s.domain n) ∧
    (∀ dom part p gid g, dom < 16 → (s.domain dom).st ≠ 3 → (s.domain dom).claimed = false →
      (s.parts.find? fun e => e.2.domains.getLsbD dom) = some (part, p) → s.power.boostEnable.testBit part = true →
      s.power.poolSize ≠ 0 → s.grp gid = some g → g.priv = false → domainOf (coreOf gid) = dom → s.power.boostClass ≤ g.pclass →
      (s.domain dom).allowed ≤ g.pclass →
      (s.power.refuse = false → ∃ t, exec (.boostClaim dom) s = .next t ∧ { t with domains := s.domains } = s ∧
        t.domain dom = { s.domain dom with claimed := true, answered := false, granted := false }) ∧
      (s.power.refuse = true → exec (.boostClaim dom) s = .next s)) ∧
    (∀ arrived, ∃ t, exec (.permitArbitration arrived) s = .next t ∧
      t.power.permits = s.power.permits - (claimOrder s arrived).length ∧
      (∀ i k, (claimOrder s arrived)[i]? = some k → t.domain k =
        { s.domain k with answered := true, granted := decide (i < s.power.permits) || (s.domain k).granted }) ∧
      (∀ k, k ∉ claimOrder s arrived → t.domain k = s.domain k) ∧ t.groups = s.groups ∧
      t.power.lastGranted = ((claimOrder s arrived).take s.power.permits).getLastD s.power.lastGranted) ∧
    (∀ dom, (s.domain dom).claimed = true → (s.domain dom).answered = false → exec (.domainIntervalBoundary dom) s = .next s) ∧
    (∀ dom, dom < 16 → (s.domain dom).st ≠ 3 → ((s.domain dom).claimed = false ∨ (s.domain dom).answered = true) → let d := s.domain dom
      let idle := d.st = 0 ∧ d.idleSoFar = true ∧ s.occupied dom = false
      ∃ t, exec (.domainIntervalBoundary dom) s = .next t ∧ (t.domain dom).claimed = false ∧ (t.domain dom).granted = false ∧
        (t.domain dom).fall = false ∧ (t.domain dom).idleSoFar = !s.occupied dom ∧
        (t.domain dom).st = (if d.st = 2 ∧ d.fall = true then 0 else if d.granted = true then 2
          else if d.st = 2 ∧ d.claimed = true then 1 else 0) ∧
        (idle → (t.domain dom).idleCount = d.idleCount + 1 ∧ ((d.idleCount + 1) % 16 = 0 →
          t.power = { s.power with permits := min (s.power.permits + 1) s.power.poolSize }) ∧
          ((d.idleCount + 1) % 16 ≠ 0 → t.power = s.power)) ∧
        (¬ idle → (t.domain dom).idleCount = d.idleCount ∧ t.power = s.power)) ∧
    (∀ (die : Die) mv, ∃ t, exec (.dieSupplyChange die mv) s = .next t ∧ { t with dies := s.dies } = s ∧
      t.die die.val = { s.die die.val with lowV := decide (mv < 700) } ∧ ∀ n, n ≠ die.val → t.die n = s.die n)

/-- R397 to R402, R406, R408, R409, R423: a valid frame sheds at once up to its strict class, and restores to its release class 20 ms
after the last change; an invalid one does nothing; a telemetry loss raises its alert and applies the loss class; a marked group
is stopped, at once at an instruction's boundary and otherwise at its end; a control step above the cap refuses boost and, the second
time, lowers the duty of partitions above their floors, of all to 4 when none is (log 36), one at or below 95% of it raises duties; the
domains of a hot die have duty 4 until it has cooled, and at 115 °C the part resets and signals. -/
def Obligations.TelemetryAndHeat : Prop :=
  ∀ s : State,
    (∀ f us, (Frame.ok f s.power = false → exec (.telemetryFrame f us) s = .next s) ∧ (Frame.ok f s.power = true →
      let p := s.power.countGap f.seq
      ∃ t, exec (.telemetryFrame f us) s = .next t ∧ t.power.lastSeq = some f.seq ∧ t.power.tloss = false ∧
        (s.power.allowed < p.strict f → ClassSet s t (p.strict f) ∧ t.power.lastChange = us) ∧
        (p.strict f ≤ s.power.allowed → p.release f < s.power.allowed → s.power.lastChange + 20000 ≤ us →
          ClassSet s t (p.release f) ∧ t.power.lastChange = us) ∧
        (p.strict f ≤ s.power.allowed → (s.power.allowed ≤ p.release f ∨ us < s.power.lastChange + 20000) →
          t = { s with power := p }))) ∧
    (∀ us, (s.power.tloss = true → exec (.telemetryLoss us) s = .next s) ∧ (s.power.tloss = false →
      ∃ t, exec (.telemetryLoss us) s = .next t ∧ t.power.tloss = true ∧ t.power.lastSeq = none ∧ Alerted s t 5 0 0 0 0 ∧
        (s.power.lossClass ≤ 7 → ClassSet s t s.power.lossClass) ∧
        (8 ≤ s.power.lossClass → t.power.allowed = s.power.allowed ∧ t.groups = s.groups))) ∧
    (∀ gid g, s.grp gid = some g → g.shed = .marked → ∃ t, exec (.shedForce gid) s = .next t ∧
      t.grp gid = some { g with shed := if g.pin = none then .parked else .forced } ∧ { t with groups := s.groups } = s ∧
      ∀ k, k ≠ gid → t.grp k = s.grp k) ∧
    (∀ gid g, s.grp gid = some g → g.shed = .forced → g.pin = none → s.parkForced.grp gid = some { g with shed := .parked }) ∧
    (∀ total at_, let cap := max s.power.cap 340
      let above := fun n => decide (s.power.effFloor n < at_.getD n 0)
      ∃ t, exec (.powerControlStep total at_) s = .next t ∧ t.power.refuse = decide (cap < total) ∧
        t.power.overLast = decide (cap < total) ∧
        (cap < total → (∀ n, n < 16 → (t.domain n).fall = ((s.domain n).fall || (s.domain n).st == 2)) ∧
          (s.power.overLast = false → t.parts = s.parts) ∧
          (s.power.overLast = true →
            let low := fun n d => if above n then max (d - 1) 4 else d
            ((∃ e ∈ s.parts, above e.1 = true ∧ low e.1 e.2.duty ≠ 4) → ∀ n p, s.part n = some p →
              t.part n = some { p with duty := low n p.duty }) ∧
            ((∀ e ∈ s.parts, above e.1 = true → low e.1 e.2.duty = 4) → t.power.capHit = true ∧ Alerted s t 6 0 4 0 0 ∧
              ∀ n p, s.part n = some p → t.part n = some { p with duty := 4 }))) ∧
        (total ≤ cap → t.domains = s.domains ∧ (total * 100 ≤ cap * 95 → ∀ n p, s.part n = some p →
          t.part n = some { p with duty := min (p.duty + 1) 16 }) ∧ (cap * 95 < total * 100 → t.parts = s.parts))) ∧
    (∀ (die : Die) temp, (105 < temp → (s.die die.val).hot = false → ∃ t, exec (.thermalThrottle die temp) s = .next t ∧
        (t.die die.val).hot = true ∧ Alerted s t 7 0 (BitVec.ofNat 32 die.val) (BitVec.ofNat 32 temp) 0 ∧
        ∀ core, core / 64 = die.val → t.dutyOf core = 4) ∧
      (temp < 100 → ∃ t, exec (.thermalRecover die temp) s = .next t ∧ { t with dies := s.dies } = s ∧
        t.die die.val = { s.die die.val with hot := false } ∧ ∀ core part p, core / 64 = die.val →
          (s.parts.find? fun e => e.2.domains.getLsbD (domainOf core)) = some (part, p) → t.dutyOf core = p.duty) ∧
      (115 ≤ temp → ∃ t, exec (.thermalTrip die temp) s = .next t ∧ FreshPackage s t .tripped [.thermalTrip]))

namespace Sys2Proof.Rules
open Sys2Proof Sys2Proof.Machine

/-! ### Bring-up, queue pairs and the management requests -/

/-- The ROM handles a request: the ports are up and firmware has not started (21 R414, R418). -/
structure RomHandled (s : State) (r : MReq) : Prop where
  phase : s.phase = .romPorts
  open_ : s.mgmtConn = true
  free : s.mgmtBusy = false
  good : r.bad = false
  part : r.part < 16 ∨ r.part = 255

/-- A request that names a partition is handled. -/
structure HandledFor (s : State) (r : MReq) (p : Part) : Prop where
  handled : Handled s r
  part : s.part r.part = some p
  one : r.part < 16

/-- The event brings a request of the management set, which is not the one being handled (21 R415, R416). -/
def isRequest (s : State) (i : Instr) (q : MReq × Nat) : Prop :=
  Instr.request i = some q ∧ (∀ c, s.mgmtCur = some c → c.1 ≠ q.1) ∧ ∀ n p, s.part n = some p → p.destroying ≠ some q.1

/-- The die whose firmware a request concerns, Q0's for one that concerns the package (19 R367; log 39). -/
def dieOfRequest : Instr → Nat
  | .contextSave d _ | .contextRestore d _ => d.val
  | .regionTableWrite _ d _ _ | .regionFlush _ d _ | .slotTableWrite _ d _ _ | .multicastEntryLoad _ d _ _ _
  | .overflowQueueSet _ d _ _ => d
  | .unfence _ c => c / 64
  | _ => 0

end Sys2Proof.Rules

open Sys2Proof Sys2Proof.Machine Sys2Proof.Rules

/-- R88, R412, R413, R422, R427: an RDMA write lands and a read is served in the partition of its ready queue pair, or a remote access
error answers; a write with the doorbell page's key rings its doorbells; a scale-out packet lands like host RDMA; a REQ is answered
with a REP or a REJ, an RTU makes its queue pair ready and sends the alerts that waited once the part is ready, a DREQ ends the
connection; the reset pin and a package reset start bring-up, the ports come up, and the end of the scrub leaves memory zero, under
identifier 0, and the ready alert first. The state after a DREQ and the order of a package reset's reply are log 35. -/
def Obligations.HostAndBringUp : Prop :=
  ∀ s : State,
    (∀ qp part rem bytes s1 ok, s.qpPart qp = some part → rem.rkey ≠ Config.doorbellKey part →
      s.partWrite part rem.va bytes {} none = (s1, ok) → s.partReady part rem.va bytes.length needWrite ioStation = true →
      (globalRange rem.va bytes.length = true → ok = true → exec (.rdmaWrite qp rem bytes) s = .next s1) ∧
      (globalRange rem.va bytes.length = false ∨ ok = false → ∃ t, exec (.rdmaWrite qp rem bytes) s = .next t ∧
        t = { s with out := s.out ++ [.remoteError qp] })) ∧
    (∀ qp part rem bytes, s.qpPart qp = some part → rem.rkey = Config.doorbellKey part → let va := rem.va.toNat
      (∀ queue, queue < 64 → va = pageBase part + 8 * queue → bytes.length = 8 → exec (.rdmaWrite qp rem bytes) s =
        exec (.doorbellWrite qp rem (BitVec.ofNat 64 (natOfBytes bytes))) s) ∧
      (va < pageBase part ∨ pageBase part + 8192 < va + bytes.length → ∃ t, exec (.rdmaWrite qp rem bytes) s = .next t ∧
        t = { s with out := s.out ++ [.remoteError qp] })) ∧
    (∀ qp part (va : Dword) len s1 r, s.qpPart qp = some part → s.partRead part va len = (s1, r) →
      s.partReady part va len needRead ioStation = true →
      (∀ bs, globalRange va len = true → r = some bs → ∃ t, exec (.rdmaRead qp va len) s = .next t ∧
        t.out = s.out ++ [.readData qp bs]) ∧
      (globalRange va len = false ∨ r = none → ∃ t, exec (.rdmaRead qp va len) s = .next t ∧
        t.out = s.out ++ [.remoteError qp])) ∧
    (∀ part p (va : Dword) bytes, s.fwRuns = true → s.part part = some p → globalRange va bytes.length = true →
      s.partReady part va bytes.length needWrite ioStation = true →
      exec (.uecPacketReceive part va bytes) s = .next (s.partWrite part va bytes {} none).1) ∧
    (∀ service src, s.portsUp = true →
      (∃ t, exec (.cmReq service src false) s = .next t ∧ t = { s with out := s.out ++ [.rej service] }) ∧
      (s.mgmtConn = true → ∃ t, exec (.cmReq mgmtService src true) s = .next t ∧
        t = { s with out := s.out ++ [.rej mgmtService] }) ∧
      (s.mgmtConn = false → (s.fwRuns = false ∨ src ∈ s.fw.allow) → ∃ t psn,
        exec (.cmReq mgmtService src true) s = .next t ∧
        t = { s with out := s.out ++ [.rep 2 mgmtService psn], mgmtWait := true, freeCtr := s.freeCtr + 1 }) ∧
      (s.fwRuns = true → src ∉ s.fw.allow → ∃ t, exec (.cmReq mgmtService src true) s = .next t ∧
        t = { s with out := s.out ++ [.rej mgmtService] }) ∧
      (service ≠ mgmtService → (∀ e ∈ s.qps, e.2.service = service → e.2.st = .ready) →
        ∃ t, exec (.cmReq service src true) s = .next t ∧ t = { s with out := s.out ++ [.rej service] }) ∧
      (∀ n q, service ≠ mgmtService → (n, q) ∈ s.qps → q.service = service → q.st = .created →
        ∃ t m q' psn, exec (.cmReq service src true) s = .next t ∧ t.out = s.out ++ [.rep m service psn] ∧ t.qps.find m = some q' ∧
          q'.service = service ∧ q'.st = .connecting)) ∧
    (s.mgmtWait = true → ∃ t, exec (.cmRtu 2) s = .next t ∧
      (s.phase = .ready → t = { s with mgmtWait := false, mgmtConn := true, out := s.out ++ s.alerts, alerts := [] }) ∧
      (s.phase ≠ .ready → t = { s with mgmtWait := false, mgmtConn := true })) ∧
    (∀ qp q, qp ≠ 2 → s.qps.find qp = some q →
      (q.st = .connecting → ∃ t, exec (.cmRtu qp) s = .next t ∧ { t with qps := s.qps } = s ∧
        t.qps.find qp = some { q with st := .ready }) ∧
      (q.st ≠ .created → ∃ t, exec (.cmDreq qp) s = .next t ∧ t.out = s.out ++ [.drep qp] ∧
        t.qps.find qp = some { q with st := .created })) ∧
    (s.mgmtConn = true → ∃ t, exec (.cmDreq 2) s = .next t ∧ t.out = s.out ++ [.drep 2] ∧ t.mgmtConn = false ∧ t.mgmtWait = false) ∧
    (∃ t, exec .resetPin s = .next t ∧ FreshPackage s t .rom []) ∧
    (∀ r, (Handled s r ∨ RomHandled s r) → ∃ t, exec (.packageReset r) s = .next t ∧
      FreshPackage s t .rom [.reply r 0x4F 0 []]) ∧
    (s.phase = .rom → ∃ t, exec .hostPortsUp s = .next t ∧ t = { s with phase := .romPorts }) ∧
    (s.phase = .training → ∃ t, exec .memoryScrubComplete s = .next t ∧ t.dram = [] ∧ t.dramKey = [] ∧ t.dramBad = [] ∧
      t.phase = .ready ∧ t.groups = s.groups ∧
      let kept := .alert 1 0 s.fw.version 0 0 :: s.alerts.drop (s.alerts.length + 1 - 256)
      (s.mgmtConn = true → t.out = s.out ++ kept ∧ t.alerts = []) ∧ (s.mgmtConn = false → t.alerts = kept ∧ t.out = s.out))

/-- R414, R415: a management request without a connection is lost; one that arrives while another is being handled waits; before
firmware runs, a type the ROM does not answer gets status 5; a malformed message, and one whose partition is out of range, gets status
3; an unknown type gets status 2, and a request that firmware handles leaves a message pending for the die it concerns, Q0's where it
concerns the package (log 39). A message is malformed when its body's length, its reserved bits, its request status or its body's
fields are wrong; its header reads from its bytes as it is laid out. -/
def Obligations.ManagementRules : Prop :=
  (∀ (s : State) (i : Instr) (q : MReq × Nat), isRequest s i q →
    let wrong := q.1.bad = true ∨ (16 ≤ q.1.part ∧ q.1.part ≠ 255)
    (s.mgmtConn = false ∨ s.portsUp = false → exec i s = .next s) ∧
    (s.portsUp = true → s.mgmtConn = true → s.mgmtBusy = true → exec i s = .next { s with mgmtDefer := true }) ∧
    (s.phase = .romPorts → s.mgmtConn = true → s.mgmtBusy = false →
      (q.2 ∉ romTypes → ∃ t, exec i s = .next t ∧ t = { s with out := s.out ++ [.reply q.1 q.2 5 []] }) ∧
      (q.2 ∈ romTypes → wrong → ∃ t, exec i s = .next t ∧ t = { s with out := s.out ++ [.reply q.1 q.2 3 []] })) ∧
    (s.fwRuns = true → s.mgmtConn = true → s.mgmtBusy = false → wrong → ∃ t, exec i s = .next t ∧ Answered s t q.1 q.2 3 [] ∧
      { t with out := s.out, dies := s.dies } = s ∧ let d := dieOfRequest i
      t.die d = { s.die d with msgPend := true } ∧ ∀ k, k ≠ d → t.die k = s.die k) ∧
    (∀ r type, i = .unknownRequest r type → Handled s r → type ∉ knownTypes → ∃ t, exec i s = .next t ∧ Answered s t r type 2 [] ∧
      (t.die 0).msgPend = true)) ∧
  (∀ r : MReq, r.bad = true ↔ r.badBody = true ∨ r.status ≠ 0 ∨ r.resv ≠ 0 ∨ 65536 < r.len.toNat ∨ r.body ≠ r.len.toNat) ∧
  (∀ (type status len part : Nat) (id : Dword) (resv : BitVec 120) (body : List Byte),
    type < 2 ^ 16 → status < 2 ^ 16 → len < 2 ^ 32 → part < 256 →
    readRequest (headerBytes type status len id part resv ++ body) = some (type, {
      id, part, status := BitVec.ofNat 16 status, len := BitVec.ofNat 32 len, resv, body := body.length }))

/-- R280, R418, R425, R427, R410, R86: the requests that read: the identity, the health record with its sequence number, unsigned in
the ROM phase, the doorbell page, the power status word and a link's status word; and the ROM's: it collects the image's chunks, and
starts an image that passes its checks on the four control cores, which ends the ROM phase. The bodies of the replies with the status
words, and that the sequence number rises before the record, are log 35; that lane 0 of a control core runs is log 8. -/
def Obligations.ManagementReads : Prop :=
  ∀ s : State,
    (∀ r, Handled s r ∨ RomHandled s r → ∃ t, exec (.identity r) s = .next t ∧ Answered s t r 0x01 0 s.identityBody) ∧
    (∀ r, Handled s r → ∃ t sig, exec (.healthRecord r) s = .next t ∧ t.fynilSeq = s.fynilSeq + 1 ∧ sig.length = 96 ∧
      ∃ body, body.length = 512 ∧ body.take 4 = [0x46, 0x59, 0x4E, 0x4C] ∧ (body.drop 8).take 8 = bytesOfNat 8 (s.fynilSeq + 1) ∧
        Answered s t r 0x04 0 (body ++ sig)) ∧
    (∀ r, RomHandled s r → ∃ t, exec (.healthRecord r) s = .next t ∧ t.fynilSeq = s.fynilSeq + 1 ∧
      Answered s t r 0x04 0 (s.fynilBody (s.fynilSeq + 1) ++ List.replicate 96 0#8)) ∧
    (∀ r p, HandledFor s r p → ∃ t, exec (.doorbellPageRead r) s = .next t ∧ Answered s t r 0x14 0
      (bytesOfNat 8 (8192 * Config.doorbellPage r.part) ++ bytesOf (Config.doorbellKey r.part) ++ [0, 0, 0, 0])) ∧
    (∀ r, Handled s r → ∃ t w, exec (.powerStatusRead r) s = .next t ∧ Answered s t r 0x30 0 (bytesOf w) ∧
      (s.power.gaps < 65536 → s.power.allowed < 8 → w.toNat = s.power.gaps + s.power.allowed * 2 ^ 24 +
        s.power.capHit.toNat * 2 ^ 28 + s.power.floorDef.toNat * 2 ^ 29 + s.power.capLow.toNat * 2 ^ 30 +
        s.power.tloss.toNat * 2 ^ 31)) ∧
    (∀ r l, Handled s r → l.link < 24 → ∃ t w, exec (.linkStatusRead r l) s = .next t ∧ Answered s t r 0x32 0 (bytesOfNat 8 w) ∧
      let d := s.link l
      (d.state < 4 → d.mcDrop < 16 → d.nakCount < 4096 → d.retrain < 4096 → d.audGain < 65536 → d.audLoss < 65536 →
        w = d.state + d.mcDrop * 2 ^ 4 + d.nakCount * 2 ^ 8 + d.retrain * 2 ^ 20 + d.audGain * 2 ^ 32 + d.audLoss * 2 ^ 48)) ∧
    (∀ r off data, RomHandled s r → off.toNat + data.length ≤ 2 ^ 24 →
      ∃ t, exec (.firmwareChunk r off data) s = .next t ∧ Answered s t r 0x02 0 [] ∧
        (∀ i, (h : i < data.length) → Tab.getD t.fw.image 0 (off.toNat + i) = data[i]) ∧
        (∀ a, a < off.toNat ∨ off.toNat + data.length ≤ a → Tab.getD t.fw.image 0 a = Tab.getD s.fw.image 0 a) ∧
        t.fw.got = s.fw.got ++ [(off.toNat, data.length)]) ∧
    (∀ r off data, RomHandled s r → 2 ^ 24 < off.toNat + data.length →
      ∃ t, exec (.firmwareChunk r off data) s = .next t ∧ Answered s t r 0x02 4 [] ∧ t.fw = s.fw) ∧
    (∀ r, RomHandled s r →
      (s.fw.passes s.fusedMin = false → ∃ t, exec (.firmwareStart r) s = .next t ∧ Answered s t r 0x03 4 [] ∧ t.phase = s.phase) ∧
      (s.fw.passes s.fusedMin = true → ∃ t, exec (.firmwareStart r) s = .next t ∧ Answered s t r 0x03 0 [] ∧ t.phase = .training ∧
        t.fusedMin = wordOf (getBytes s.fw.image 4 4) ∧ t.fw.size = (wordOf (getBytes s.fw.image 8 4)).toNat ∧
        ∀ d, d < 4 → ∃ g, t.grp (8192 + d) = some g ∧ g.priv = true ∧ (g.lane 0).st = .eligible ∧
          (g.lane 0).pc = wordOf (getBytes s.fw.image 12 4) &&& 0xFFFFFFFC#32))

/-- R49, R61, R76, R78, R369, R419, R426: partitions are created on free domains and destroyed once their grids have ended; a region
entry is replaced, and slot tables are loaded, their reserved bits ignored (00 R6 over 21 R414: the model's choice, log 45); a
flush, once nothing holds a line of its region, leaves none of them; multicast entries are loaded; a shootdown drops the matching
translations, and every table line that its partition's walks had kept (log 35), and is answered when the accesses of before are done; a
grid is killed. A partition's destruction is two events, the kill of its grids and the completion (log 26). -/
def Obligations.PartitionsAndRegions : Prop :=
  ∀ s : State,
    (∀ r mask, Handled s r → r.part < 16 →
      (mask ≠ 0 → s.part r.part = none → (∀ e ∈ s.parts, e.2.domains &&& mask = 0) →
        ∃ t, exec (.partitionCreate r mask) s = .next t ∧ Answered s t r 0x10 0 [] ∧ t.part r.part = some { domains := mask } ∧
          ∀ n, n ≠ r.part → t.part n = s.part n) ∧
      ((mask = 0 ∨ (s.part r.part).isSome = true ∨ ∃ e ∈ s.parts, e.2.domains &&& mask ≠ 0) →
        ∃ t, exec (.partitionCreate r mask) s = .next t ∧ Answered s t r 0x10 4 [] ∧ t.parts = s.parts)) ∧
    (∀ r p, HandledFor s r p → p.destroying = none → ∃ t p', exec (.partitionDestroy r) s = .next t ∧ t.part r.part = some p' ∧
      p'.destroying = some r ∧ p'.devq = [] ∧ ∀ n g, s.grid n = some g → g.part = r.part →
        ∃ g', t.grid n = some g' ∧ g'.ended ≠ .running ∧ g'.saved = []) ∧
    (∀ r p, s.part r.part = some p → p.destroying = some r → (∀ e ∈ s.grids, e.2.part ≠ r.part) → s.pend = [] →
      (∀ x ∈ s.regionsOf r.part, s.regionHeld (x / 256) (x % 256) = false) →
      ∃ t, exec (.partitionDestroy r) s = .next t ∧ AnsweredIn t r 0x10 0 ∧ t.part r.part = none ∧
        (∀ e ∈ t.qps, e.2.part ≠ r.part) ∧ (∀ e ∈ t.slotTab, e.2 ≠ r.part) ∧ (∀ e ∈ t.streams, e.2.part ≠ r.part) ∧
        ∀ c, ∀ e ∈ (t.core c).tlb, e.part ≠ r.part) ∧
    (∀ r die idx entry, Handled s r → die < 4 → idx < 256 →
      ∃ t, exec (.regionTableWrite r die idx entry) s = .next t ∧ Answered s t r 0x11 0 [] ∧
        (∀ i, (t.die die).region.getD 0 i = if i = idx then entry &&& 0xFFFFFF803F#64 else (s.die die).region.getD 0 i) ∧
        ∀ d, d ≠ die → t.die d = s.die d) ∧
    (∀ r die idx, Handled s r → die < 4 → idx < 256 → ∃ t, exec (.regionFlush r die idx) s = .next t ∧ Answered s t r 0x11 1 [] ∧
      t.flushes = s.flushes ++ [(r, die, idx)]) ∧
    (∀ die idx f, (s.flushes.find? fun f => f.2.1 == die && f.2.2 == idx) = some f → s.regionHeld die idx = false →
      ∃ t, exec (.regionFlushDrained die idx) s = .next t ∧ t.flushes = s.flushes.erase f ∧
        (∀ e ∈ t.l2, e.1 % 2 ^ 32 / 2 ^ 22 ≠ 256 * die + idx) ∧ Alerted s t 2 f.1.id 0 0x11 0) ∧
    (∀ r die loop owners, Handled s r → die < 4 → loop < 28 → owners.length = 16 →
      ∃ t, exec (.slotTableWrite r die loop owners) s = .next t ∧ AnsweredIn t r 0x12 0 ∧
        (∀ k, (h : k < owners.length) → t.slotTab.getD 31 (16 * (28 * die + loop) + k) = owners[k] % 32) ∧
        (∀ k, k / 16 ≠ 28 * die + loop → t.slotTab.getD 31 k = s.slotTab.getD 31 k)) ∧
    (∀ r die station ident entry, Handled s r → die < 4 → station < 72 → ident < 4096 →
      (mcRefused ident entry = false → ∃ t, exec (.multicastEntryLoad r die station ident entry) s = .next t ∧
        Answered s t r 0x13 0 [] ∧ ∀ k, t.mcast.getD 0 k = if k = (72 * die + station) * 4096 + ident then entry else s.mcast.getD 0 k) ∧
      (mcRefused ident entry = true → ∃ t, exec (.multicastEntryLoad r die station ident entry) s = .next t ∧
        Answered s t r 0x13 4 [] ∧ t.mcast = s.mcast)) ∧
    (∀ r p range, HandledFor s r p → ∃ t n h, exec (.tlbShootdown r range) s = .next t ∧ t.out = s.out ∧
      (∀ c, ∀ e ∈ (t.core c).tlb, e.meets r.part range = false) ∧ (∀ d, ∀ e ∈ (t.die d).pteCache, e.part ≠ r.part) ∧
      t.shoots.find n = some h ∧ h.req = r ∧ ∀ e ∈ s.reqs, e.2.part = r.part → e.2.waiting = true → e.1 ∈ h.reqs) ∧
    (∀ n h, s.shoots.find n = some h → (∀ k ∈ h.reqs, ∀ r, s.reqs.find k = some r → r.waiting = false) →
      ∃ t, exec (.tlbShootdownComplete n) s = .next t ∧ Answered s t h.req 0x16 0 [] ∧ t.shoots.find n = none) ∧
    (∀ r p seq n g, HandledFor s r p → s.gridSeq r.part seq = some (n, g) → s.grid n = some g →
      ∃ t g', exec (.killGrid r seq) s = .next t ∧ Answered s t r 0x42 0 [] ∧ t.grid n = some g' ∧
        g'.ended = (if g.ended = .running then .killed else g.ended))

/-- R57, R161, R267, R277, R278, R280, R323, R344, R345, R392, R408, R410, R412, R420, R421, R83, R86: the requests that set a value
within its limits have it taken, a queue descriptor and a curve point without their reserved bits (00 R6 over 21 R414: the model's
choice, log 45), and are answered with status 0; a link that is reset keeps its queues and replay buffers (log 28), tasks that are
queued move with their overflow queue (log 32). -/
def Sys2Proof.Rules.SettingsTaken : Prop :=
  ∀ (s : State) (r : MReq), Handled s r →
    (∀ p, HandledFor s r p →
      (∀ queue desc, queue < 64 →
        let size := (desc.extractLsb' 7 5).toNat
        let q := s.hqueue r.part queue
        4 ≤ size → size ≤ 16 → ∃ t, exec (.hostQueueDescriptorWrite r queue desc) s = .next t ∧ AnsweredIn t r 0x14 0 ∧
          (t.hqueue r.part queue).desc = desc &&& 0xFFFFFF00000000FFFFFFFFFFFFFFF9#128 ∧
          (t.hqueue r.part queue).head = (if q.en = false ∧ desc.getLsbD 0 = true then 0 else q.head)) ∧
      (∀ base frame, base.toNat % 8192 = 0 → frame % 8192 = 0 → frame ≤ 2 ^ 21 → ∃ t, exec (.spillPoolSet r base frame) s = .next t ∧
        Answered s t r 0x15 0 [] ∧ t.part r.part = some { p with poolBase := base, frame }) ∧
      (∀ base size, size % 2 ^ 18 = 0 → 2 ^ 18 ≤ size → size ≤ 2 ^ 30 → ∃ t, exec (.logRegionSet r base size) s = .next t ∧
        Answered s t r 0x15 0 [] ∧ t.part r.part = some { p with logBase := base, logSize := size }) ∧
      (∀ die base tasks, die < 4 → 2 ^ 16 ≤ tasks → tasks ≤ 2 ^ 24 →
        let queued := (((s.die die).overflow.find r.part).map Overflow.tasks).getD []
        queued.length ≤ tasks → ∃ t q, exec (.overflowQueueSet r die base tasks) s = .next t ∧ AnsweredIn t r 0x15 0 ∧
          (t.die die).overflow.find r.part = some q ∧ q.base = base ∧ q.room = tasks ∧ q.tasks = queued) ∧
      (∀ us, 10 ≤ us → us ≤ 100000 → ∃ t, exec (.holdTimeoutSet r us) s = .next t ∧ Answered s t r 0x15 0 [] ∧
        t.part r.part = some { p with holdUs := us }) ∧
      (∀ root : Option Dword, (∀ a, root = some a → a.toNat % 4096 = 0 ∧ a.toNat < 2 ^ 40) →
        ∃ t, exec (.pageTableRootSet r root) s = .next t ∧ Answered s t r 0x16 0 [] ∧
          t.part r.part = some { p with root := root.map BitVec.toNat }) ∧
      (∀ service, (∃ m, 2 < m ∧ m ≤ 4096 ∧ s.qps.find m = none) → ∃ t n, exec (.dataQpCreate r service) s = .next t ∧
        Answered s t r 0x17 0 [] ∧ 2 < n ∧ n ≤ 4096 ∧ s.qps.find n = none ∧
        t.qps.find n = some { part := r.part, service, st := .created }) ∧
      (∀ n q, s.qps.find n = some q → q.part = r.part → ∃ t, exec (.dataQpDestroy r n) s = .next t ∧ Answered s t r 0x17 0 [] ∧
        t.qps.find n = none)) ∧
    (∀ ident point wrapped pair, keyBody point wrapped = true → newPair ident point wrapped = some pair →
      (s.keys.find ident = none → ∃ t, exec (.keyInstall r ident point wrapped) s = .next t ∧ Answered s t r 0x20 0 [] ∧
        t.keys.find ident = some s.nextId ∧ t.keyPairs.getD [] s.nextId = pair ∧ ∀ k, k ≠ ident → t.keys.find k = s.keys.find k) ∧
      ((s.keys.find ident).isSome = true → s.keyInUse ident = false → ∃ t n, exec (.keyReplace r ident point wrapped) s = .next t ∧
        AnsweredIn t r 0x20 0 ∧ t.keys.find ident = some n ∧ s.nextId ≤ n ∧ t.keyPairs.getD [] n = pair ∧ ∀ e ∈ t.l2, e.2.key ≠ ident)) ∧
    (∀ ident, s.keyInUse ident = false → ident ≠ 0 → (s.keys.find ident).isSome = true →
      ∃ t, exec (.keyDestroy r ident) s = .next t ∧ AnsweredIn t r 0x20 0 ∧ t.keys.find ident = none ∧
        (∀ e ∈ t.l2, e.2.key ≠ ident) ∧ ∀ v ∈ s.vers, v.key = ident → ∀ g, s.grid v.grid = some g →
          ∃ g', t.grid v.grid = some g' ∧ g'.ended ≠ .running) ∧
    (∀ x, PowerSetting.ok x = true → ∃ t, exec (.powerSettingsWrite r x) s = .next t ∧ AnsweredIn t r 0x30 0 ∧
      { t.power with capLow := s.power.capLow, floorDef := s.power.floorDef } = s.power.write x ∧
      (∀ v, x = .packageCap v → t.power.capLow = (s.power.capLow || decide (v < 340)))) ∧
    (∀ val, ∃ t, exec (.powerStatusClear r val) s = .next t ∧ Answered s t r 0x30 0 [] ∧ t.power = { s.power with
      capLow := s.power.capLow && !val.getLsbD 30, floorDef := s.power.floorDef && !val.getLsbD 29
      capHit := s.power.capHit && !val.getLsbD 28, gaps := if val.extractLsb' 0 16 = 0xFFFF#16 then 0 else s.power.gaps }) ∧
    (∀ threshold e, 1 ≤ threshold → threshold ≤ 255 → 10 ≤ e → e ≤ 30 →
      ∃ t, exec (.demeritPolicySet r threshold (2 ^ e)) s = .next t ∧ AnsweredIn t r 0x31 0 ∧ t.demeritT = threshold ∧
        t.demeritW = 2 ^ e ∧ ∀ c, c < 256 → (t.core c).demerits = (s.core c).demerits ∧ ((t.core c).fenced = true ↔
          (s.core c).fenced = true ∨ threshold ≤
            ((s.core c).demerits.filter fun d => (s.die (c / 64)).retired < d + 2 ^ e).length)) ∧
    (∀ core, core < 256 → ∃ t, exec (.unfence r core) s = .next t ∧ Answered s t r 0x31 0 [] ∧
      t.core core = { s.core core with fenced := false, demerits := [] } ∧ ∀ c, c ≠ core → t.core c = s.core c) ∧
    (∃ t, exec (.suspectSliceClear r) s = .next t ∧ Answered s t r 0x31 0 [] ∧ t.suspectSlices = []) ∧
    (∀ l val, l.link < 24 → ∃ t, exec (.linkStatusClear r l val) s = .next t ∧ Answered s t r 0x32 0 [] ∧
      t.link l = (s.link l).clear val) ∧
    (∀ n, n < 24 → ∃ t, exec (.linkReset r n) s = .next t ∧ Answered s t r 0x32 0 [] ∧ ∀ rev, t.link ⟨n, rev⟩ =
      { s.link ⟨n, rev⟩ with state := 0, wire := [], seenFlits := 0, refused := [] }) ∧
    (∀ n, n < 512 → ∃ t, exec (.packageNumberSet r n) s = .next t ∧ Answered s t r 0x33 0 [] ∧ t.pkgId.toNat = n) ∧
    (∀ addrs, addrs.length = 8 → ∃ t, exec (.ueAddressSet r addrs) s = .next t ∧ Answered s t r 0x33 0 [] ∧ t.ueAddr = addrs)

/-- R6, R414 and the limits of the same rules: outside them a request is refused with status 4, or with status 3 where a number of its
body is none of a die, a queue, a core, a link or a package, and what it names keeps its value; so is one for a queue pair or a key that
does not exist, one that finds none free, and one for identifier 0. -/
def Sys2Proof.Rules.SettingsRefused : Prop :=
  ∀ (s : State) (r : MReq), Handled s r →
    let refused := fun (i : Instr) (type status : Nat) => ∃ t, exec i s = .next t ∧ Answered s t r type status [] ∧
      ∃ d, { t with out := s.out, dies := s.dies } = s ∧ t.die d = { s.die d with msgPend := true } ∧ ∀ k, k ≠ d → t.die k = s.die k
    (∀ p, HandledFor s r p →
      (∀ queue desc, let size := (desc.extractLsb' 7 5).toNat
        (64 ≤ queue → refused (.hostQueueDescriptorWrite r queue desc) 0x14 3) ∧
        (queue < 64 → size < 4 ∨ 16 < size → refused (.hostQueueDescriptorWrite r queue desc) 0x14 4)) ∧
      (∀ base frame, base.toNat % 8192 ≠ 0 ∨ frame % 8192 ≠ 0 ∨ 2 ^ 21 < frame → refused (.spillPoolSet r base frame) 0x15 4) ∧
      (∀ base size, size % 2 ^ 18 ≠ 0 ∨ size < 2 ^ 18 ∨ 2 ^ 30 < size → refused (.logRegionSet r base size) 0x15 4) ∧
      (∀ die base tasks, (4 ≤ die → refused (.overflowQueueSet r die base tasks) 0x15 3) ∧ (die < 4 →
        tasks < 2 ^ 16 ∨ 2 ^ 24 < tasks ∨ (∃ q, (s.die die).overflow.find r.part = some q ∧ tasks < q.tasks.length) →
        refused (.overflowQueueSet r die base tasks) 0x15 4)) ∧
      (∀ us, us < 10 ∨ 100000 < us → refused (.holdTimeoutSet r us) 0x15 4) ∧
      (∀ a : Dword, a.toNat % 4096 ≠ 0 ∨ 2 ^ 40 ≤ a.toNat → refused (.pageTableRootSet r (some a)) 0x16 4) ∧
      (∀ service, (∀ m, 2 < m → m ≤ 4096 → (s.qps.find m).isSome = true) → refused (.dataQpCreate r service) 0x17 4) ∧
      (∀ n, (∀ q, s.qps.find n = some q → q.part ≠ r.part) → refused (.dataQpDestroy r n) 0x17 4)) ∧
    (∀ ident point wrapped,
      (keyBody point wrapped = false →
        refused (.keyInstall r ident point wrapped) 0x20 3 ∧ refused (.keyReplace r ident point wrapped) 0x20 3) ∧
      (keyBody point wrapped = true →
        (newPair ident point wrapped = none ∨ (s.keys.find ident).isSome = true → refused (.keyInstall r ident point wrapped) 0x20 4) ∧
        (newPair ident point wrapped = none ∨ s.keys.find ident = none → refused (.keyReplace r ident point wrapped) 0x20 4))) ∧
    (∀ ident, ident = 0 ∨ s.keys.find ident = none → refused (.keyDestroy r ident) 0x20 4) ∧
    (∀ x, PowerSetting.ok x = false → refused (.powerSettingsWrite r x) 0x30 4) ∧
    (∀ threshold window, threshold < 1 ∨ 255 < threshold ∨ (∀ e, 10 ≤ e → e ≤ 30 → window ≠ 2 ^ e) →
      refused (.demeritPolicySet r threshold window) 0x31 4) ∧
    (∀ core, 256 ≤ core → refused (.unfence r core) 0x31 3) ∧
    (∀ l val, 24 ≤ l.link → refused (.linkStatusClear r l val) 0x32 3) ∧ (∀ n, 24 ≤ n → refused (.linkReset r n) 0x32 3) ∧
    (∀ n, 512 ≤ n → refused (.packageNumberSet r n) 0x33 3) ∧
    (∀ addrs, addrs.length ≠ 8 → refused (.ueAddressSet r addrs) 0x33 3)

/-- R64, R415: a destruction or replacement of a key under which an access is in flight goes on being handled, and is made and answered
once there is none (log 27). -/
def Sys2Proof.Rules.KeyChangeWaits : Prop :=
  ∀ (s : State) (r : MReq) (ident : Nat),
    (Handled s r → s.keyInUse ident = true → ident ≠ 0 → (s.keys.find ident).isSome = true →
      ∃ t, exec (.keyDestroy r ident) s = .next t ∧ t.mgmtCur = some (r, ident, none) ∧ t.out = s.out ∧ t.keys = s.keys ∧
        t.mgmtBusy = true) ∧
    (s.mgmtCur = some (r, ident, none) →
      (s.keyInUse ident = true → exec (.keyDestroy r ident) s = .next s) ∧
      (s.keyInUse ident = false → ∃ t, exec (.keyDestroy r ident) s = .next t ∧ AnsweredIn t r 0x20 0 ∧ t.keys.find ident = none ∧
        t.mgmtCur = none)) ∧
    (∀ point wrapped pair, newPair ident point wrapped = some pair → s.mgmtCur = some (r, ident, some pair) →
      (s.keyInUse ident = true → exec (.keyReplace r ident point wrapped) s = .next s) ∧
      (s.keyInUse ident = false → ∃ t n, exec (.keyReplace r ident point wrapped) s = .next t ∧ AnsweredIn t r 0x20 0 ∧
        t.keys.find ident = some n ∧ t.keyPairs.getD [] n = pair ∧ t.mgmtCur = none))

/-- The requests that set a value, within and outside their limits (R57, R64, R65, R161, R267, R277, R278, R280, R323, R344, R345,
R392, R408, R410, R412, R420, R421, R83, R86). -/
def Obligations.ManagementSettings : Prop := Rules.SettingsTaken ∧ Rules.SettingsRefused ∧ Rules.KeyChangeWaits

namespace Sys2Proof.Rules
open Sys2Proof Sys2Proof.Machine

/-! ### Words, steps, traps -/

/-- A word, what the spec says it is, and nothing else: the instruction, or `none` where the word is illegal. -/
def specWords : List (Word × Option Instr) := [
  (0x0040_4181#32, some (.add ⟨false, false, 3, 1, 2⟩)),
  (0x7FE0_C190#32, some (.addi ⟨false, 3, 3, 0x3FF⟩)),
  (0xBFFF_829C#32, some (.lis ⟨5, 0xFFFE⟩)),
  (0xEC82_0522#32, some (.fmul ⟨true, true, .bf16x2, 10, 8, 100⟩)),
  (0x7FC1_03D0#32, some (.ldw ⟨false, 7, 4, 0x3FE⟩)),
  (0x60C1_01E0#32, some (.aadd ⟨.acq, .device, 3, 4, 6⟩)),
  (0x7FB8_00C4#32, some (.bne ⟨1, 96, 0x3FD⟩)),
  (0x000A_0641#32, some (.call 12 40)),
  (0x0A38_017C#32, some (.gets 2 0x051)),
  (0x0C18_304C#32, some .nop),
  (0x3C18_3042#32, some (.exit false)),
  (0x7C18_3042#32, some (.exit true)),
  (0x0000_0000#32, none), (0xFFFF_FFFF#32, none), (0x0040_4186#32, none), (0x0040_7C01#32, none), (0x2040_4103#32, none)]

/-- A trap `tr` has been taken on the issue, and the instruction has done nothing else (19 R362, R363, R369): the group has the
trap's record and every lane stands where it stood; a group of a core is last in its die's trap queue, a control core is
stopped and a control-fault alert is raised. -/
def Trapped (s t : State) (x : Issue) (tr : Trap) : Prop :=
  (∃ g', t.grp x.gid = some g' ∧ g'.trap = some tr ∧
    (∀ l, { (g'.lane l) with starve := 0 } = { (x.g.lane l) with starve := 0 }) ∧
    { g' with lanes := x.g.lanes, trap := none, pin := none, wait := .none, acq := false } =
      { x.g with trap := none, pin := none, wait := .none, acq := false }) ∧
  (∀ k, k ≠ x.gid → t.grp k = s.grp k) ∧ (∀ d, d ≠ dieOf x.gid → t.die d = s.die d) ∧
  (x.gid < 8192 →
    t.die (dieOf x.gid) = { (s.die (dieOf x.gid)) with trapQ := (s.die (dieOf x.gid)).trapQ ++ [x.gid] } ∧
    { t with groups := s.groups, dies := s.dies } = s) ∧
  (8192 ≤ x.gid →
    t.die (dieOf x.gid) = { (s.die (dieOf x.gid)) with ctrlStopped := true } ∧
    ({ t with groups := s.groups, dies := s.dies } =
      s.alert 3 0 (BitVec.ofNat 32 (dieOf x.gid)) (BitVec.ofNat 32 tr.code) (tr.pc.setWidth 64)))

/-- The group of an issue is parked with the trap `tr` of lanes of its own (19 R362, R363): in those lanes no register has
changed, and without loop levels they stand at the instruction. -/
def TrapLeft (t : State) (x : Issue) (tr : Trap) : Prop :=
  (∃ g', t.grp x.gid = some g' ∧ g'.trap = some tr ∧ ∀ l, Mask.has tr.lanes l = true →
    (x.g.levels = [] → (g'.lane l).pc = x.pc) ∧
    ∀ k, RCell.near ((x.g.lane l).stack.getD {} k) ((g'.lane l).stack.getD {} k)) ∧
  (x.gid < 8192 → x.gid ∈ (t.die (dieOf x.gid)).trapQ) ∧ (8192 ≤ x.gid → (t.die (dieOf x.gid)).ctrlStopped = true)

/-- The lane reads a poisoned word, and an uncorrectable one. -/
def readsPoison (x : Issue) (n : Nat) (srcs : List Operand) (l : LaneIx) : Bool :=
  srcs.any fun o => o.regs.any fun r => (x.g.cell n l r).pois
def readsUnc (x : Issue) (n : Nat) (srcs : List Operand) (l : LaneIx) : Bool :=
  srcs.any fun o => o.regs.any fun r => (x.g.cell n l r).unc

/-- The instructions of format A and I whose rules are value rules. -/
def valueRule (i : Instr) : Option ValueRule :=
  (arithmetic i).or ((bitOps i).or ((pairOps i).or ((immediates i).or ((compares i).or (selects i)))))

/-- What a lane's load or store meets instead of going on: the cause, and what TINFO and TADDR take from it (06 R126; 19
R365). -/
def Refuses (i : Instr) (f : AccessForm) (s : State) (x : Issue) (store : Bool) (l : LaneIx) (code : Nat) (info : Word)
    (addr : Dword) : Prop :=
  let va := f.addr x (s.stackOf x.g) l
  let need := if store then needWrite else needRead
  let acc := if store then 1 else 0
  (va.toNat % f.size ≠ 0 ∧ code = 0x03 ∧ info = encode i ∧ addr = va) ∨
  (va.toNat % f.size = 0 ∧
    ((classify va = .misuse ∧ code = 0x13 ∧ info = encode i ∧ addr = va) ∨
     (∃ off, classify va = .localAp off ∧
       ((s.locOf x.g).2.1 < off + f.size ∧ code = 0x0E ∧ info = 0#32 ∧ addr = BitVec.ofNat 64 off ∨
        off + f.size ≤ (s.locOf x.g).2.1 ∧ store = true ∧
          (s.core (coreOf x.gid)).anyMarked ((s.locOf x.g).1 + off) f.size = true ∧ code = 0x08 ∧ info = encode i ∧ addr = va)) ∨
     (classify va = .global ∧ addr = va ∧
       ((∃ lv, s.look (coreOf x.gid) (s.partOf x.g) va need (x.g.failedWalk l va) = .absent lv ∧ code = 0x04 ∧
          info = BitVec.ofNat 32 (acc + 256 * lv)) ∨
        (∃ r : Bool, s.look (coreOf x.gid) (s.partOf x.g) va need (x.g.failedWalk l va) = .protect r ∧ code = 0x05 ∧
          info = BitVec.ofNat 32 (acc + if r then 4 else 0))))))

/-- The step's next state after an instruction: what happens by itself is done, the slot pointer and the turn move on. -/
def turned (s t : State) : State := { t.quiesce.rotate with turn := (s.turn + 1) % 1028 }

end Sys2Proof.Rules

open Sys2Proof Sys2Proof.Machine Sys2Proof.Rules

/-- R34 and the words that 02 writes out: each decodes to the instruction, or to none. -/
def Obligations.DecodeSpecWords : Prop :=
  ∀ e ∈ specWords, match e.2 with
    | some i => decode e.1 = .ok i ∧ encode i = e.1
    | none => ∃ r, decode e.1 = .error r

/-- R19, R20, R29: every well-formed instruction with a word is what its word decodes to, with every operand; and a word that
decodes is the word of its instruction, which is well-formed (R31). -/
def Obligations.DecodeEncode : Prop :=
  (∀ i : Instr, i.wellFormed = true → i.hasWord = true → decode (encode i) = .ok i) ∧
  (∀ w i, decode w = .ok i → encode i = w ∧ i.wellFormed = true ∧ i.hasWord = true)

/-- R13 (with the model's agenda, log 1): a step with nothing on the agenda runs the instruction that the word at the PC of the
unit's issue decodes to, or takes an illegal word's trap, then an issue that waits for an operand keeps its lanes (log 46), what
happens by itself is done (writes and loads that waited, arrivals, barriers, stops), and the turn moves on; without an issue, or on a
miss, the instruction alone is left out. An agenda's event or turn is run instead. A group outside any loop body and any instruction
fetches the word that the instruction cache holds at its code base plus PC. -/
def Obligations.StepRunsDecoded : Prop :=
  (∀ s : State, s.phase ≠ .tripped → s.agenda = [] →
    (∀ x w i t, s.issue = some x → s.fetchWord x = some w → decode w = .ok i → exec i s = .next t →
      step s = .next (turned s (t.afterIssue i w x))) ∧
    (∀ x w e t, s.issue = some x → s.fetchWord x = some w → decode w = .error e → exec (.illegalWordIssue w) s = .next t →
      step s = .next (turned s (t.afterIssue (.illegalWordIssue w) w x))) ∧
    ((∀ x, s.issue = some x → s.fetchWord x = none) → step s = .next (turned s s))) ∧
  (∀ (s : State) rest, s.phase ≠ .tripped →
    (∀ e t, s.agenda = .event e :: rest → Instr.spontaneous e = true → exec e { s with agenda := rest } = .next t →
      step s = .next (t.quiesce.deferred (.event e))) ∧
    (∀ e, s.agenda = .event e :: rest → Instr.spontaneous e = false → step s = .next { s with agenda := rest }) ∧
    (∀ u x w i t, s.agenda = .turn u :: rest → ({ s with agenda := rest, turn := u } : State).issue = some x →
      ({ s with agenda := rest, turn := u } : State).fetchWord x = some w → decode w = .ok i →
      exec i { s with agenda := rest, turn := u } = .next t → step s = .next (t.afterIssue i w x).quiesce.rotate)) ∧
  (∀ (s : State) (x : Issue), x.g.pin = none → x.g.levels = [] →
    s.fetchWord x = s.ilineWord (coreOf x.gid) (s.fetchPart x.g) (s.codeBase x.g + x.pc.setWidth 64))

/-- Every instruction and event has its meaning: `exec` answers a next state for each, in every state; and so does every step, the
package that a thermal trip holds in reset among them, where only the reset pin acts and every other move is lost (R423). -/
def Obligations.AlwaysAnswers : Prop :=
  (∀ (i : Instr) (s : State), ∃ t, exec i s = .next t) ∧ (∀ s : State, ∃ t, step s = .next t) ∧
  (∀ s : State, s.phase = .tripped → (s.agenda = [] → step s = .next s) ∧ ∀ m rest, s.agenda = m :: rest →
    (m ≠ .event .resetPin → step s = .next { s with agenda := rest }) ∧
    (m = .event .resetPin → ∃ t, step s = .next t ∧ FreshPackage { s with agenda := rest } t .rom []))

/-- R31, R32, R33, R176: an illegal word and a privileged word issued in user mode trap every active lane with the word in TINFO, and
have no other effect; so does a privileged write of a register that may not be written (log 21). -/
def Obligations.DecodeTraps : Prop :=
  ∀ (s : State) (x : Issue), s.issue = some x →
    (∀ w e, decode w = .error e → ∃ t, exec (.illegalWordIssue w) s = .next t ∧
      Trapped s t x ⟨0x01, x.pc, x.act, w, 0, false⟩) ∧
    (x.g.priv = false → ∀ i, (∃ d a b : Reg, i = .dwrd d a ∨ i = .dwwr d a b ∨ i = .tret a ∨ i = .halt d ∨
        ∃ sel : BitVec 10, 0x100 ≤ sel.toNat ∧ sel.toNat ≤ 0x107 ∧ (i = .gets d sel ∨ i = .puts sel a)) →
      ∃ t, exec i s = .next t ∧ Trapped s t x ⟨0x02, x.pc, x.act, encode i, 0, false⟩) ∧
    (∀ (sel : BitVec 10) (a : Reg), writableIn sel.toNat x.g.priv = false →
      (x.g.priv = true ∨ sel.toNat < 0x100 ∨ 0x107 < sel.toNat) →
      ∃ t, exec (.puts sel a) s = .next t ∧ Trapped s t x ⟨0x01, x.pc, x.act, encode (.puts sel a), 0, false⟩)

/-- R173, R175, R362: an instruction that computes a value traps the participating lanes that read a poisoned word, or where none
does, those that read an uncorrectable one; TINFO names the field and the word of the lowest of them. -/
def Obligations.OperandTraps : Prop :=
  ∀ i r, i.wellFormed = true → valueRule i = some r → ∀ (s : State) (x : Issue), s.issue = some x → x.g.pin = none →
    x.g.pending (s.stackOf x.g) x.act (r.srcs ++ if r.nw then [] else [r.dst]) = false →
    let poison := maskOf fun l => Mask.has (x.part r.guard) l && readsPoison x (s.stackOf x.g) r.srcs l
    let unc := maskOf fun l => Mask.has (x.part r.guard) l && readsUnc x (s.stackOf x.g) r.srcs l
    (∀ l0, Mask.low poison = some l0 → ∃ t info o k, exec i s = .next t ∧
      TrapLeft t x ⟨0x09, x.pc, poison, info, 0, false⟩ ∧ o ∈ r.srcs ∧ k < o.w ∧
      (x.g.cell (s.stackOf x.g) l0 (o.regs.getD k 96)).pois = true ∧ info = o.r.setWidth 32 ||| (BitVec.ofNat 32 k <<< 8)) ∧
    (∀ l0, poison = 0#32 → Mask.low unc = some l0 → ∃ t info o k, exec i s = .next t ∧
      TrapLeft t x ⟨0x0A, x.pc, unc, info, 0, false⟩ ∧ o ∈ r.srcs ∧ k < o.w ∧
      (x.g.cell (s.stackOf x.g) l0 (o.regs.getD k 96)).unc = true ∧ info = o.r.setWidth 32 ||| (BitVec.ofNat 32 k <<< 8))

/-- R126, R362, R365: the lanes of a load or store that all meet one condition trap with its cause, and TINFO and TADDR of the
lowest of them; the others' accesses go on, no trapped lane puts an access in flight, and no byte of memory changes. -/
def Obligations.AccessTraps : Prop :=
  ∀ (i : Instr) (f : AccessForm) (store : Bool), i.wellFormed = true → (if store then stores i else loads i) = some f →
    ∀ (s : State) (x : Issue) (m : LaneIx → Meet) (bad : Mask) (code : Nat), s.issue = some x → x.g.pin = none →
    x.Ready (s.stackOf x.g) (x.part f.guard) (f.srcs ++ if store then [f.reg] else []) (f.srcs ++ if f.nw then [] else [f.reg]) →
    bad ≠ 0#32 → (∀ l, Mask.has bad l = true → Mask.has (x.part f.guard) l = true ∧ ∃ info addr, Refuses i f s x store l code info addr) →
    (∀ l, Mask.has (x.part f.guard) l = true → Mask.has bad l = false → (f.addr x (s.stackOf x.g) l).toNat % f.size = 0 ∧
      Goes s x store (if store then needWrite else needRead) f.size l (f.addr x (s.stackOf x.g) l) (m l)) →
    ∃ (t : State) (info : Word) (addr : Dword) (l0 : LaneIx), exec i s = .next t ∧ Mask.low bad = some l0 ∧
      Refuses i f s x store l0 code info addr ∧ TrapLeft t x ⟨code, x.pc, bad, info, addr, false⟩ ∧ t.dram = s.dram ∧
      ∀ rid r, t.reqs.find rid = some r → s.reqs.find rid = some r ∨
        ∃ l, Mask.has (x.part f.guard) l = true ∧ Mask.has bad l = false ∧ r.maker = .lane x.gid l.val

/-- Every step keeps the stored memory in its canonical form: addresses strictly rising, no entry equal to what an unlisted
address reads as. -/
def Obligations.MemCanonicalKept : Prop := StepKeeps MemCanonical

/-- R422 with the reset values of R176, R277, R344, R392 and R49: right after reset the ROM has started with the host ports down,
no partition, group or connection exists, no region is assigned, memory is in canonical form, and the settings and a queue's
descriptor hold their reset values. -/
def Obligations.ResetState : Prop :=
  MemCanonical State.reset ∧ State.reset.phase = .rom ∧ State.reset.groups = [] ∧ State.reset.teams = [] ∧
  State.reset.grids = [] ∧ State.reset.parts = [] ∧ State.reset.mgmtConn = false ∧ State.reset.out = [] ∧
  State.reset.demeritT = 3 ∧ State.reset.demeritW = 2 ^ 20 ∧ State.reset.suspectSlices = [] ∧
  (∀ c, (State.reset.core c).dropCnt = 0 ∧ (State.reset.core c).acOwner = 0) ∧
  (∀ n, (State.reset.domain n).islope = 0x0000_4008#32 ∧ (State.reset.domain n).st = 0) ∧
  (∀ d, (State.reset.die d).trapQ = [] ∧ (State.reset.die d).loaded = false) ∧
  State.reset.power.permits = 64 ∧ State.reset.power.poolSize = 64 ∧ State.reset.power.boostEnable = 0xFFFF ∧
  State.reset.power.boostClass = 4 ∧ State.reset.power.nomFreq = 50000 ∧ State.reset.power.nomVolt = 50000 ∧
  State.reset.power.voltHyst = 500 ∧ State.reset.power.lossTimeout = 10 ∧ State.reset.power.lossClass = 8 ∧
  State.reset.power.cap = 2600 ∧ State.reset.power.allowed = 0 ∧ State.reset.power.shelfSrc = 0 ∧ State.reset.power.shelfType = 0 ∧
  (∀ i, State.reset.power.freqCurve.getD 0 i = 0 ∧ State.reset.power.voltCurve.getD 0 i = 0 ∧ State.reset.power.floors.getD 0 i = 0) ∧
  (∀ d i, let e := (State.reset.die d).region.getD 0 i
    e.getLsbD 0 = false ∧ e.extractLsb' 1 5 = 0#5 ∧ regionAssigned e = false) ∧
  (∀ part queue, let q := (State.reset.hqueue part queue).desc
    q.extractLsb' 96 24 = 0 ∧ q.extractLsb' 12 52 = 0 ∧ (q.extractLsb' 7 5).toNat = 4 ∧ q.extractLsb' 4 3 = 0 ∧ q.getLsbD 3 = false ∧
      q.getLsbD 0 = false)
end

