-- ==== Sys2Proof/Laws/Crypto.lean ====
section
/-! SUPPORT. Lengths of what AES-256-GCM makes, and how a sealed message of a migration session reads (19 R387). -/

namespace Sys2Proof.Machine

/-- A key schedule is 60 words of 4 bytes. -/
theorem schedule_words (key : List Byte) (h : key.length = 32) :
    (aesSchedule key).length = 60 ∧ ∀ i < 60, ((aesSchedule key)[i]?.getD []).length = 4 := by
  have hb : (blocksOfLen 4 key).length = 8 ∧ ∀ i < 8, ((blocksOfLen 4 key)[i]?.getD []).length = 4 := by
    simp only [blocksOfLen, h, List.length_map, List.length_range, true_and]
    intro i hi
    simp [hi, h]
    omega
  unfold aesSchedule
  suffices H : ∀ n, ∀ acc, acc = (List.range n).foldl (fun (acc : List (List Byte) × Byte) k =>
    let i := k + 8
    let w := acc.1
    let prev := w.getD (i - 1) []
    let t := if i % 8 = 0 then xorBytes ((prev.drop 1 ++ prev.take 1).map aesSub) [acc.2, 0, 0, 0]
      else if i % 8 = 4 then prev.map aesSub else prev
    (w ++ [xorBytes (w.getD (i - 8) []) t], if i % 8 = 0 then aesX acc.2 else acc.2)) (blocksOfLen 4 key, 1#8) →
      acc.1.length = n + 8 ∧ ∀ i < n + 8, (acc.1[i]?.getD []).length = 4 by exact H 52 _ rfl
  intro n
  induction n with
  | zero => rintro acc rfl; exact hb
  | succ n ih =>
    rintro acc rfl
    rw [List.range_succ, List.foldl_append]
    have := ih _ rfl
    generalize (List.range n).foldl _ _ = a at this ⊢
    obtain ⟨hl, hw⟩ := this
    simp only [List.foldl_cons, List.foldl_nil, List.length_append, hl, List.length_singleton]
    refine ⟨by trivial, fun i hi => ?_⟩
    by_cases hn : i < n + 8
    · rw [List.getElem?_append_left (by omega)]; exact hw i hn
    · rw [List.getElem?_append_right (by omega), show i - a.1.length = 0 by omega]
      have h1 := hw (n + 7) (by omega)
      have h2 := hw n (by omega)
      simp only [List.getElem?_cons_zero, Option.getD_some, xorBytes, List.length_zipWith, List.getD_eq_getElem?_getD,
        Nat.add_sub_cancel, show n + 8 - 1 = n + 7 by omega, h2]
      split_ifs <;> simp [h1]
/-- An enciphered block has 16 bytes. -/
theorem aesEnc_length (key blk : List Byte) (h : key.length = 32) : (aesEnc key blk).length = 16 := by
  have hk : (aesRoundKey (aesSchedule key) 14).length = 16 := by
    obtain ⟨hl, hw⟩ := schedule_words key h
    generalize aesSchedule key = ks at hl hw
    have : ks.drop (4 * 14) = [ks[56]?.getD [], ks[57]?.getD [], ks[58]?.getD [], ks[59]?.getD []] := by
      refine List.ext_getElem (by simp [hl]) fun i h1 h2 => ?_
      simp only [List.length_cons, List.length_nil] at h2
      (rcases i with _ | _ | _ | _ | i <;> simp [hl]); omega
    simp [aesRoundKey, this, hw 56, hw 57, hw 58, hw 59]
  simp [aesEnc, xorBytes, hk, aesShift]
/-- A ciphertext is as long as its data. -/
theorem gcmCtr_length (key iv d : List Byte) (h : key.length = 32) : (gcmCtr key iv d).length = d.length := by
  have e : ∀ k n, (((List.range n).map fun i => ((d.drop (16 * i)).take 16)).zipIdx.map fun e =>
      (xorBytes e.1 (aesEnc key (iv ++ bytesOfBE 4 (e.2 + k)))).length).sum = min (16 * n) d.length := by
    intro k n
    induction n with
    | zero => simp
    | succ n ih =>
      rw [List.range_succ, List.map_append, List.zipIdx_append, List.map_append, List.sum_append, ih]
      simp [xorBytes, aesEnc_length key _ h]
      omega
  simp only [gcmCtr, blocksOfLen, List.length_flatMap, e]
  omega
/-- A tag has 16 bytes. -/
theorem gcmTag_length (key iv aad ct : List Byte) (h : key.length = 32) : (gcmTag key iv aad ct).length = 16 := by
  simp [gcmTag, xorBytes, aesEnc_length key _ h, bytesOfBE]
/-- A message whose tag is right reads as its header and its deciphered payload. -/
theorem ebbRead_sealed (e : EbbSetup) (h ct : List Byte) (hh : h.length = 32) (hk : e.migKey.length = 32) :
    let iv := ebbIv e (natOfBytes ((h.drop 16).take 8))
    ebbRead e (h ++ (ct ++ gcmTag e.migKey iv h ct)) = { ebbRead e h with payload := some (gcmCtr e.migKey iv ct) } := by
  intro iv
  have ht := gcmTag_length e.migKey iv h ct hk
  have h1 : (h ++ (ct ++ gcmTag e.migKey iv h ct)).take 32 = h := by rw [← hh]; simp
  have h2 : (h ++ (ct ++ gcmTag e.migKey iv h ct)).drop 32 = ct ++ gcmTag e.migKey iv h ct := by rw [← hh]; simp
  have h3 : (h ++ (ct ++ gcmTag e.migKey iv h ct)).length = 48 + ct.length := by simp [hh, ht]; omega
  have h4 : (h ++ (ct ++ gcmTag e.migKey iv h ct)).drop (48 + ct.length - 16) = gcmTag e.migKey iv h ct := by
    rw [show 48 + ct.length - 16 = 32 + ct.length by omega, ← List.drop_drop, h2]; simp
  have h5 : h.take 32 = h := by rw [← hh]; simp
  unfold ebbRead
  simp only [h1, h2, h3, h4, h5]
  rw [if_neg (by omega)]
  simp [gcmOpen, iv]

end Sys2Proof.Machine
end

