-- ==== Sys2Proof/Laws/State.lean ====
section
/-! SUPPORT. What every named update of the state and of a group leaves in every field. -/

namespace Sys2Proof.Machine

section setGrpFields
variable (s : State) (k : Nat) (v : Group)
@[simp] theorem State.setGrp_agenda : (s.setGrp k v).agenda = s.agenda := rfl
@[simp] theorem State.setGrp_turn : (s.setGrp k v).turn = s.turn := rfl
@[simp] theorem State.setGrp_freeCtr : (s.setGrp k v).freeCtr = s.freeCtr := rfl
@[simp] theorem State.setGrp_nextId : (s.setGrp k v).nextId = s.nextId := rfl
@[simp] theorem State.setGrp_out : (s.setGrp k v).out = s.out := rfl
@[simp] theorem State.setGrp_groups : (s.setGrp k v).groups = s.groups.put k v := rfl
@[simp] theorem State.setGrp_teams : (s.setGrp k v).teams = s.teams := rfl
@[simp] theorem State.setGrp_grids : (s.setGrp k v).grids = s.grids := rfl
@[simp] theorem State.setGrp_checks : (s.setGrp k v).checks = s.checks := rfl
@[simp] theorem State.setGrp_cores : (s.setGrp k v).cores = s.cores := rfl
@[simp] theorem State.setGrp_dies : (s.setGrp k v).dies = s.dies := rfl
@[simp] theorem State.setGrp_domains : (s.setGrp k v).domains = s.domains := rfl
@[simp] theorem State.setGrp_dram : (s.setGrp k v).dram = s.dram := rfl
@[simp] theorem State.setGrp_dramKey : (s.setGrp k v).dramKey = s.dramKey := rfl
@[simp] theorem State.setGrp_dramBad : (s.setGrp k v).dramBad = s.dramBad := rfl
@[simp] theorem State.setGrp_l2 : (s.setGrp k v).l2 = s.l2 := rfl
@[simp] theorem State.setGrp_wclk : (s.setGrp k v).wclk = s.wclk := rfl
@[simp] theorem State.setGrp_rels : (s.setGrp k v).rels = s.rels := rfl
@[simp] theorem State.setGrp_vers : (s.setGrp k v).vers = s.vers := rfl
@[simp] theorem State.setGrp_reqs : (s.setGrp k v).reqs = s.reqs := rfl
@[simp] theorem State.setGrp_upds : (s.setGrp k v).upds = s.upds := rfl
@[simp] theorem State.setGrp_scq : (s.setGrp k v).scq = s.scq := rfl
@[simp] theorem State.setGrp_boot : (s.setGrp k v).boot = s.boot := rfl
@[simp] theorem State.setGrp_keys : (s.setGrp k v).keys = s.keys := rfl
@[simp] theorem State.setGrp_keyPairs : (s.setGrp k v).keyPairs = s.keyPairs := rfl
@[simp] theorem State.setGrp_pend : (s.setGrp k v).pend = s.pend := rfl
@[simp] theorem State.setGrp_shoots : (s.setGrp k v).shoots = s.shoots := rfl
@[simp] theorem State.setGrp_lruClock : (s.setGrp k v).lruClock = s.lruClock := rfl
@[simp] theorem State.setGrp_suspectSlices : (s.setGrp k v).suspectSlices = s.suspectSlices := rfl
@[simp] theorem State.setGrp_sliceCorrected : (s.setGrp k v).sliceCorrected = s.sliceCorrected := rfl
@[simp] theorem State.setGrp_packets : (s.setGrp k v).packets = s.packets := rfl
@[simp] theorem State.setGrp_ejFull : (s.setGrp k v).ejFull = s.ejFull := rfl
@[simp] theorem State.setGrp_slotTab : (s.setGrp k v).slotTab = s.slotTab := rfl
@[simp] theorem State.setGrp_mcast : (s.setGrp k v).mcast = s.mcast := rfl
@[simp] theorem State.setGrp_links : (s.setGrp k v).links = s.links := rfl
@[simp] theorem State.setGrp_pkgId : (s.setGrp k v).pkgId = s.pkgId := rfl
@[simp] theorem State.setGrp_ueAddr : (s.setGrp k v).ueAddr = s.ueAddr := rfl
@[simp] theorem State.setGrp_flowOut : (s.setGrp k v).flowOut = s.flowOut := rfl
@[simp] theorem State.setGrp_flowIn : (s.setGrp k v).flowIn = s.flowIn := rfl
@[simp] theorem State.setGrp_foreign : (s.setGrp k v).foreign = s.foreign := rfl
@[simp] theorem State.setGrp_parts : (s.setGrp k v).parts = s.parts := rfl
@[simp] theorem State.setGrp_flushes : (s.setGrp k v).flushes = s.flushes := rfl
@[simp] theorem State.setGrp_qps : (s.setGrp k v).qps = s.qps := rfl
@[simp] theorem State.setGrp_phase : (s.setGrp k v).phase = s.phase := rfl
@[simp] theorem State.setGrp_fw : (s.setGrp k v).fw = s.fw := rfl
@[simp] theorem State.setGrp_fusedMin : (s.setGrp k v).fusedMin = s.fusedMin := rfl
@[simp] theorem State.setGrp_mgmtConn : (s.setGrp k v).mgmtConn = s.mgmtConn := rfl
@[simp] theorem State.setGrp_mgmtWait : (s.setGrp k v).mgmtWait = s.mgmtWait := rfl
@[simp] theorem State.setGrp_mgmtQ : (s.setGrp k v).mgmtQ = s.mgmtQ := rfl
@[simp] theorem State.setGrp_mgmtDefer : (s.setGrp k v).mgmtDefer = s.mgmtDefer := rfl
@[simp] theorem State.setGrp_mgmtCur : (s.setGrp k v).mgmtCur = s.mgmtCur := rfl
@[simp] theorem State.setGrp_alerts : (s.setGrp k v).alerts = s.alerts := rfl
@[simp] theorem State.setGrp_demeritT : (s.setGrp k v).demeritT = s.demeritT := rfl
@[simp] theorem State.setGrp_demeritW : (s.setGrp k v).demeritW = s.demeritW := rfl
@[simp] theorem State.setGrp_fynil : (s.setGrp k v).fynil = s.fynil := rfl
@[simp] theorem State.setGrp_fynilSeq : (s.setGrp k v).fynilSeq = s.fynilSeq := rfl
@[simp] theorem State.setGrp_power : (s.setGrp k v).power = s.power := rfl
@[simp] theorem State.setGrp_preempts : (s.setGrp k v).preempts = s.preempts := rfl
@[simp] theorem State.setGrp_cuts : (s.setGrp k v).cuts = s.cuts := rfl
@[simp] theorem State.setGrp_streams : (s.setGrp k v).streams = s.streams := rfl
@[simp] theorem State.setGrp_ebb : (s.setGrp k v).ebb = s.ebb := rfl
end setGrpFields
section updGrpFields
variable (s : State) (k : Nat) (f : Group → Group)
@[simp] theorem State.updGrp_agenda : (s.updGrp k f).agenda = s.agenda := rfl
@[simp] theorem State.updGrp_turn : (s.updGrp k f).turn = s.turn := rfl
@[simp] theorem State.updGrp_freeCtr : (s.updGrp k f).freeCtr = s.freeCtr := rfl
@[simp] theorem State.updGrp_nextId : (s.updGrp k f).nextId = s.nextId := rfl
@[simp] theorem State.updGrp_out : (s.updGrp k f).out = s.out := rfl
@[simp] theorem State.updGrp_groups : (s.updGrp k f).groups = s.groups.upd k f := rfl
@[simp] theorem State.updGrp_teams : (s.updGrp k f).teams = s.teams := rfl
@[simp] theorem State.updGrp_grids : (s.updGrp k f).grids = s.grids := rfl
@[simp] theorem State.updGrp_checks : (s.updGrp k f).checks = s.checks := rfl
@[simp] theorem State.updGrp_cores : (s.updGrp k f).cores = s.cores := rfl
@[simp] theorem State.updGrp_dies : (s.updGrp k f).dies = s.dies := rfl
@[simp] theorem State.updGrp_domains : (s.updGrp k f).domains = s.domains := rfl
@[simp] theorem State.updGrp_dram : (s.updGrp k f).dram = s.dram := rfl
@[simp] theorem State.updGrp_dramKey : (s.updGrp k f).dramKey = s.dramKey := rfl
@[simp] theorem State.updGrp_dramBad : (s.updGrp k f).dramBad = s.dramBad := rfl
@[simp] theorem State.updGrp_l2 : (s.updGrp k f).l2 = s.l2 := rfl
@[simp] theorem State.updGrp_wclk : (s.updGrp k f).wclk = s.wclk := rfl
@[simp] theorem State.updGrp_rels : (s.updGrp k f).rels = s.rels := rfl
@[simp] theorem State.updGrp_vers : (s.updGrp k f).vers = s.vers := rfl
@[simp] theorem State.updGrp_reqs : (s.updGrp k f).reqs = s.reqs := rfl
@[simp] theorem State.updGrp_upds : (s.updGrp k f).upds = s.upds := rfl
@[simp] theorem State.updGrp_scq : (s.updGrp k f).scq = s.scq := rfl
@[simp] theorem State.updGrp_boot : (s.updGrp k f).boot = s.boot := rfl
@[simp] theorem State.updGrp_keys : (s.updGrp k f).keys = s.keys := rfl
@[simp] theorem State.updGrp_keyPairs : (s.updGrp k f).keyPairs = s.keyPairs := rfl
@[simp] theorem State.updGrp_pend : (s.updGrp k f).pend = s.pend := rfl
@[simp] theorem State.updGrp_shoots : (s.updGrp k f).shoots = s.shoots := rfl
@[simp] theorem State.updGrp_lruClock : (s.updGrp k f).lruClock = s.lruClock := rfl
@[simp] theorem State.updGrp_suspectSlices : (s.updGrp k f).suspectSlices = s.suspectSlices := rfl
@[simp] theorem State.updGrp_sliceCorrected : (s.updGrp k f).sliceCorrected = s.sliceCorrected := rfl
@[simp] theorem State.updGrp_packets : (s.updGrp k f).packets = s.packets := rfl
@[simp] theorem State.updGrp_ejFull : (s.updGrp k f).ejFull = s.ejFull := rfl
@[simp] theorem State.updGrp_slotTab : (s.updGrp k f).slotTab = s.slotTab := rfl
@[simp] theorem State.updGrp_mcast : (s.updGrp k f).mcast = s.mcast := rfl
@[simp] theorem State.updGrp_links : (s.updGrp k f).links = s.links := rfl
@[simp] theorem State.updGrp_pkgId : (s.updGrp k f).pkgId = s.pkgId := rfl
@[simp] theorem State.updGrp_ueAddr : (s.updGrp k f).ueAddr = s.ueAddr := rfl
@[simp] theorem State.updGrp_flowOut : (s.updGrp k f).flowOut = s.flowOut := rfl
@[simp] theorem State.updGrp_flowIn : (s.updGrp k f).flowIn = s.flowIn := rfl
@[simp] theorem State.updGrp_foreign : (s.updGrp k f).foreign = s.foreign := rfl
@[simp] theorem State.updGrp_parts : (s.updGrp k f).parts = s.parts := rfl
@[simp] theorem State.updGrp_flushes : (s.updGrp k f).flushes = s.flushes := rfl
@[simp] theorem State.updGrp_qps : (s.updGrp k f).qps = s.qps := rfl
@[simp] theorem State.updGrp_phase : (s.updGrp k f).phase = s.phase := rfl
@[simp] theorem State.updGrp_fw : (s.updGrp k f).fw = s.fw := rfl
@[simp] theorem State.updGrp_fusedMin : (s.updGrp k f).fusedMin = s.fusedMin := rfl
@[simp] theorem State.updGrp_mgmtConn : (s.updGrp k f).mgmtConn = s.mgmtConn := rfl
@[simp] theorem State.updGrp_mgmtWait : (s.updGrp k f).mgmtWait = s.mgmtWait := rfl
@[simp] theorem State.updGrp_mgmtQ : (s.updGrp k f).mgmtQ = s.mgmtQ := rfl
@[simp] theorem State.updGrp_mgmtDefer : (s.updGrp k f).mgmtDefer = s.mgmtDefer := rfl
@[simp] theorem State.updGrp_mgmtCur : (s.updGrp k f).mgmtCur = s.mgmtCur := rfl
@[simp] theorem State.updGrp_alerts : (s.updGrp k f).alerts = s.alerts := rfl
@[simp] theorem State.updGrp_demeritT : (s.updGrp k f).demeritT = s.demeritT := rfl
@[simp] theorem State.updGrp_demeritW : (s.updGrp k f).demeritW = s.demeritW := rfl
@[simp] theorem State.updGrp_fynil : (s.updGrp k f).fynil = s.fynil := rfl
@[simp] theorem State.updGrp_fynilSeq : (s.updGrp k f).fynilSeq = s.fynilSeq := rfl
@[simp] theorem State.updGrp_power : (s.updGrp k f).power = s.power := rfl
@[simp] theorem State.updGrp_preempts : (s.updGrp k f).preempts = s.preempts := rfl
@[simp] theorem State.updGrp_cuts : (s.updGrp k f).cuts = s.cuts := rfl
@[simp] theorem State.updGrp_streams : (s.updGrp k f).streams = s.streams := rfl
@[simp] theorem State.updGrp_ebb : (s.updGrp k f).ebb = s.ebb := rfl
end updGrpFields
section delGrpFields
variable (s : State) (k : Nat)
@[simp] theorem State.delGrp_agenda : (s.delGrp k).agenda = s.agenda := rfl
@[simp] theorem State.delGrp_turn : (s.delGrp k).turn = s.turn := rfl
@[simp] theorem State.delGrp_freeCtr : (s.delGrp k).freeCtr = s.freeCtr := rfl
@[simp] theorem State.delGrp_nextId : (s.delGrp k).nextId = s.nextId := rfl
@[simp] theorem State.delGrp_out : (s.delGrp k).out = s.out := rfl
@[simp] theorem State.delGrp_groups : (s.delGrp k).groups = s.groups.del k := rfl
@[simp] theorem State.delGrp_teams : (s.delGrp k).teams = s.teams := rfl
@[simp] theorem State.delGrp_grids : (s.delGrp k).grids = s.grids := rfl
@[simp] theorem State.delGrp_checks : (s.delGrp k).checks = s.checks := rfl
@[simp] theorem State.delGrp_cores : (s.delGrp k).cores = s.cores := rfl
@[simp] theorem State.delGrp_dies : (s.delGrp k).dies = s.dies := rfl
@[simp] theorem State.delGrp_domains : (s.delGrp k).domains = s.domains := rfl
@[simp] theorem State.delGrp_dram : (s.delGrp k).dram = s.dram := rfl
@[simp] theorem State.delGrp_dramKey : (s.delGrp k).dramKey = s.dramKey := rfl
@[simp] theorem State.delGrp_dramBad : (s.delGrp k).dramBad = s.dramBad := rfl
@[simp] theorem State.delGrp_l2 : (s.delGrp k).l2 = s.l2 := rfl
@[simp] theorem State.delGrp_wclk : (s.delGrp k).wclk = s.wclk := rfl
@[simp] theorem State.delGrp_rels : (s.delGrp k).rels = s.rels := rfl
@[simp] theorem State.delGrp_vers : (s.delGrp k).vers = s.vers := rfl
@[simp] theorem State.delGrp_reqs : (s.delGrp k).reqs = s.reqs := rfl
@[simp] theorem State.delGrp_upds : (s.delGrp k).upds = s.upds := rfl
@[simp] theorem State.delGrp_scq : (s.delGrp k).scq = s.scq := rfl
@[simp] theorem State.delGrp_boot : (s.delGrp k).boot = s.boot := rfl
@[simp] theorem State.delGrp_keys : (s.delGrp k).keys = s.keys := rfl
@[simp] theorem State.delGrp_keyPairs : (s.delGrp k).keyPairs = s.keyPairs := rfl
@[simp] theorem State.delGrp_pend : (s.delGrp k).pend = s.pend := rfl
@[simp] theorem State.delGrp_shoots : (s.delGrp k).shoots = s.shoots := rfl
@[simp] theorem State.delGrp_lruClock : (s.delGrp k).lruClock = s.lruClock := rfl
@[simp] theorem State.delGrp_suspectSlices : (s.delGrp k).suspectSlices = s.suspectSlices := rfl
@[simp] theorem State.delGrp_sliceCorrected : (s.delGrp k).sliceCorrected = s.sliceCorrected := rfl
@[simp] theorem State.delGrp_packets : (s.delGrp k).packets = s.packets := rfl
@[simp] theorem State.delGrp_ejFull : (s.delGrp k).ejFull = s.ejFull := rfl
@[simp] theorem State.delGrp_slotTab : (s.delGrp k).slotTab = s.slotTab := rfl
@[simp] theorem State.delGrp_mcast : (s.delGrp k).mcast = s.mcast := rfl
@[simp] theorem State.delGrp_links : (s.delGrp k).links = s.links := rfl
@[simp] theorem State.delGrp_pkgId : (s.delGrp k).pkgId = s.pkgId := rfl
@[simp] theorem State.delGrp_ueAddr : (s.delGrp k).ueAddr = s.ueAddr := rfl
@[simp] theorem State.delGrp_flowOut : (s.delGrp k).flowOut = s.flowOut := rfl
@[simp] theorem State.delGrp_flowIn : (s.delGrp k).flowIn = s.flowIn := rfl
@[simp] theorem State.delGrp_foreign : (s.delGrp k).foreign = s.foreign := rfl
@[simp] theorem State.delGrp_parts : (s.delGrp k).parts = s.parts := rfl
@[simp] theorem State.delGrp_flushes : (s.delGrp k).flushes = s.flushes := rfl
@[simp] theorem State.delGrp_qps : (s.delGrp k).qps = s.qps := rfl
@[simp] theorem State.delGrp_phase : (s.delGrp k).phase = s.phase := rfl
@[simp] theorem State.delGrp_fw : (s.delGrp k).fw = s.fw := rfl
@[simp] theorem State.delGrp_fusedMin : (s.delGrp k).fusedMin = s.fusedMin := rfl
@[simp] theorem State.delGrp_mgmtConn : (s.delGrp k).mgmtConn = s.mgmtConn := rfl
@[simp] theorem State.delGrp_mgmtWait : (s.delGrp k).mgmtWait = s.mgmtWait := rfl
@[simp] theorem State.delGrp_mgmtQ : (s.delGrp k).mgmtQ = s.mgmtQ := rfl
@[simp] theorem State.delGrp_mgmtDefer : (s.delGrp k).mgmtDefer = s.mgmtDefer := rfl
@[simp] theorem State.delGrp_mgmtCur : (s.delGrp k).mgmtCur = s.mgmtCur := rfl
@[simp] theorem State.delGrp_alerts : (s.delGrp k).alerts = s.alerts := rfl
@[simp] theorem State.delGrp_demeritT : (s.delGrp k).demeritT = s.demeritT := rfl
@[simp] theorem State.delGrp_demeritW : (s.delGrp k).demeritW = s.demeritW := rfl
@[simp] theorem State.delGrp_fynil : (s.delGrp k).fynil = s.fynil := rfl
@[simp] theorem State.delGrp_fynilSeq : (s.delGrp k).fynilSeq = s.fynilSeq := rfl
@[simp] theorem State.delGrp_power : (s.delGrp k).power = s.power := rfl
@[simp] theorem State.delGrp_preempts : (s.delGrp k).preempts = s.preempts := rfl
@[simp] theorem State.delGrp_cuts : (s.delGrp k).cuts = s.cuts := rfl
@[simp] theorem State.delGrp_streams : (s.delGrp k).streams = s.streams := rfl
@[simp] theorem State.delGrp_ebb : (s.delGrp k).ebb = s.ebb := rfl
end delGrpFields
section updTeamFields
variable (s : State) (k : Nat) (f : Team → Team)
@[simp] theorem State.updTeam_agenda : (s.updTeam k f).agenda = s.agenda := rfl
@[simp] theorem State.updTeam_turn : (s.updTeam k f).turn = s.turn := rfl
@[simp] theorem State.updTeam_freeCtr : (s.updTeam k f).freeCtr = s.freeCtr := rfl
@[simp] theorem State.updTeam_nextId : (s.updTeam k f).nextId = s.nextId := rfl
@[simp] theorem State.updTeam_out : (s.updTeam k f).out = s.out := rfl
@[simp] theorem State.updTeam_groups : (s.updTeam k f).groups = s.groups := rfl
@[simp] theorem State.updTeam_teams : (s.updTeam k f).teams = s.teams.upd k f := rfl
@[simp] theorem State.updTeam_grids : (s.updTeam k f).grids = s.grids := rfl
@[simp] theorem State.updTeam_checks : (s.updTeam k f).checks = s.checks := rfl
@[simp] theorem State.updTeam_cores : (s.updTeam k f).cores = s.cores := rfl
@[simp] theorem State.updTeam_dies : (s.updTeam k f).dies = s.dies := rfl
@[simp] theorem State.updTeam_domains : (s.updTeam k f).domains = s.domains := rfl
@[simp] theorem State.updTeam_dram : (s.updTeam k f).dram = s.dram := rfl
@[simp] theorem State.updTeam_dramKey : (s.updTeam k f).dramKey = s.dramKey := rfl
@[simp] theorem State.updTeam_dramBad : (s.updTeam k f).dramBad = s.dramBad := rfl
@[simp] theorem State.updTeam_l2 : (s.updTeam k f).l2 = s.l2 := rfl
@[simp] theorem State.updTeam_wclk : (s.updTeam k f).wclk = s.wclk := rfl
@[simp] theorem State.updTeam_rels : (s.updTeam k f).rels = s.rels := rfl
@[simp] theorem State.updTeam_vers : (s.updTeam k f).vers = s.vers := rfl
@[simp] theorem State.updTeam_reqs : (s.updTeam k f).reqs = s.reqs := rfl
@[simp] theorem State.updTeam_upds : (s.updTeam k f).upds = s.upds := rfl
@[simp] theorem State.updTeam_scq : (s.updTeam k f).scq = s.scq := rfl
@[simp] theorem State.updTeam_boot : (s.updTeam k f).boot = s.boot := rfl
@[simp] theorem State.updTeam_keys : (s.updTeam k f).keys = s.keys := rfl
@[simp] theorem State.updTeam_keyPairs : (s.updTeam k f).keyPairs = s.keyPairs := rfl
@[simp] theorem State.updTeam_pend : (s.updTeam k f).pend = s.pend := rfl
@[simp] theorem State.updTeam_shoots : (s.updTeam k f).shoots = s.shoots := rfl
@[simp] theorem State.updTeam_lruClock : (s.updTeam k f).lruClock = s.lruClock := rfl
@[simp] theorem State.updTeam_suspectSlices : (s.updTeam k f).suspectSlices = s.suspectSlices := rfl
@[simp] theorem State.updTeam_sliceCorrected : (s.updTeam k f).sliceCorrected = s.sliceCorrected := rfl
@[simp] theorem State.updTeam_packets : (s.updTeam k f).packets = s.packets := rfl
@[simp] theorem State.updTeam_ejFull : (s.updTeam k f).ejFull = s.ejFull := rfl
@[simp] theorem State.updTeam_slotTab : (s.updTeam k f).slotTab = s.slotTab := rfl
@[simp] theorem State.updTeam_mcast : (s.updTeam k f).mcast = s.mcast := rfl
@[simp] theorem State.updTeam_links : (s.updTeam k f).links = s.links := rfl
@[simp] theorem State.updTeam_pkgId : (s.updTeam k f).pkgId = s.pkgId := rfl
@[simp] theorem State.updTeam_ueAddr : (s.updTeam k f).ueAddr = s.ueAddr := rfl
@[simp] theorem State.updTeam_flowOut : (s.updTeam k f).flowOut = s.flowOut := rfl
@[simp] theorem State.updTeam_flowIn : (s.updTeam k f).flowIn = s.flowIn := rfl
@[simp] theorem State.updTeam_foreign : (s.updTeam k f).foreign = s.foreign := rfl
@[simp] theorem State.updTeam_parts : (s.updTeam k f).parts = s.parts := rfl
@[simp] theorem State.updTeam_flushes : (s.updTeam k f).flushes = s.flushes := rfl
@[simp] theorem State.updTeam_qps : (s.updTeam k f).qps = s.qps := rfl
@[simp] theorem State.updTeam_phase : (s.updTeam k f).phase = s.phase := rfl
@[simp] theorem State.updTeam_fw : (s.updTeam k f).fw = s.fw := rfl
@[simp] theorem State.updTeam_fusedMin : (s.updTeam k f).fusedMin = s.fusedMin := rfl
@[simp] theorem State.updTeam_mgmtConn : (s.updTeam k f).mgmtConn = s.mgmtConn := rfl
@[simp] theorem State.updTeam_mgmtWait : (s.updTeam k f).mgmtWait = s.mgmtWait := rfl
@[simp] theorem State.updTeam_mgmtQ : (s.updTeam k f).mgmtQ = s.mgmtQ := rfl
@[simp] theorem State.updTeam_mgmtDefer : (s.updTeam k f).mgmtDefer = s.mgmtDefer := rfl
@[simp] theorem State.updTeam_mgmtCur : (s.updTeam k f).mgmtCur = s.mgmtCur := rfl
@[simp] theorem State.updTeam_alerts : (s.updTeam k f).alerts = s.alerts := rfl
@[simp] theorem State.updTeam_demeritT : (s.updTeam k f).demeritT = s.demeritT := rfl
@[simp] theorem State.updTeam_demeritW : (s.updTeam k f).demeritW = s.demeritW := rfl
@[simp] theorem State.updTeam_fynil : (s.updTeam k f).fynil = s.fynil := rfl
@[simp] theorem State.updTeam_fynilSeq : (s.updTeam k f).fynilSeq = s.fynilSeq := rfl
@[simp] theorem State.updTeam_power : (s.updTeam k f).power = s.power := rfl
@[simp] theorem State.updTeam_preempts : (s.updTeam k f).preempts = s.preempts := rfl
@[simp] theorem State.updTeam_cuts : (s.updTeam k f).cuts = s.cuts := rfl
@[simp] theorem State.updTeam_streams : (s.updTeam k f).streams = s.streams := rfl
@[simp] theorem State.updTeam_ebb : (s.updTeam k f).ebb = s.ebb := rfl
end updTeamFields
section updGridFields
variable (s : State) (k : Nat) (f : Grid → Grid)
@[simp] theorem State.updGrid_agenda : (s.updGrid k f).agenda = s.agenda := rfl
@[simp] theorem State.updGrid_turn : (s.updGrid k f).turn = s.turn := rfl
@[simp] theorem State.updGrid_freeCtr : (s.updGrid k f).freeCtr = s.freeCtr := rfl
@[simp] theorem State.updGrid_nextId : (s.updGrid k f).nextId = s.nextId := rfl
@[simp] theorem State.updGrid_out : (s.updGrid k f).out = s.out := rfl
@[simp] theorem State.updGrid_groups : (s.updGrid k f).groups = s.groups := rfl
@[simp] theorem State.updGrid_teams : (s.updGrid k f).teams = s.teams := rfl
@[simp] theorem State.updGrid_grids : (s.updGrid k f).grids = s.grids.upd k f := rfl
@[simp] theorem State.updGrid_checks : (s.updGrid k f).checks = s.checks := rfl
@[simp] theorem State.updGrid_cores : (s.updGrid k f).cores = s.cores := rfl
@[simp] theorem State.updGrid_dies : (s.updGrid k f).dies = s.dies := rfl
@[simp] theorem State.updGrid_domains : (s.updGrid k f).domains = s.domains := rfl
@[simp] theorem State.updGrid_dram : (s.updGrid k f).dram = s.dram := rfl
@[simp] theorem State.updGrid_dramKey : (s.updGrid k f).dramKey = s.dramKey := rfl
@[simp] theorem State.updGrid_dramBad : (s.updGrid k f).dramBad = s.dramBad := rfl
@[simp] theorem State.updGrid_l2 : (s.updGrid k f).l2 = s.l2 := rfl
@[simp] theorem State.updGrid_wclk : (s.updGrid k f).wclk = s.wclk := rfl
@[simp] theorem State.updGrid_rels : (s.updGrid k f).rels = s.rels := rfl
@[simp] theorem State.updGrid_vers : (s.updGrid k f).vers = s.vers := rfl
@[simp] theorem State.updGrid_reqs : (s.updGrid k f).reqs = s.reqs := rfl
@[simp] theorem State.updGrid_upds : (s.updGrid k f).upds = s.upds := rfl
@[simp] theorem State.updGrid_scq : (s.updGrid k f).scq = s.scq := rfl
@[simp] theorem State.updGrid_boot : (s.updGrid k f).boot = s.boot := rfl
@[simp] theorem State.updGrid_keys : (s.updGrid k f).keys = s.keys := rfl
@[simp] theorem State.updGrid_keyPairs : (s.updGrid k f).keyPairs = s.keyPairs := rfl
@[simp] theorem State.updGrid_pend : (s.updGrid k f).pend = s.pend := rfl
@[simp] theorem State.updGrid_shoots : (s.updGrid k f).shoots = s.shoots := rfl
@[simp] theorem State.updGrid_lruClock : (s.updGrid k f).lruClock = s.lruClock := rfl
@[simp] theorem State.updGrid_suspectSlices : (s.updGrid k f).suspectSlices = s.suspectSlices := rfl
@[simp] theorem State.updGrid_sliceCorrected : (s.updGrid k f).sliceCorrected = s.sliceCorrected := rfl
@[simp] theorem State.updGrid_packets : (s.updGrid k f).packets = s.packets := rfl
@[simp] theorem State.updGrid_ejFull : (s.updGrid k f).ejFull = s.ejFull := rfl
@[simp] theorem State.updGrid_slotTab : (s.updGrid k f).slotTab = s.slotTab := rfl
@[simp] theorem State.updGrid_mcast : (s.updGrid k f).mcast = s.mcast := rfl
@[simp] theorem State.updGrid_links : (s.updGrid k f).links = s.links := rfl
@[simp] theorem State.updGrid_pkgId : (s.updGrid k f).pkgId = s.pkgId := rfl
@[simp] theorem State.updGrid_ueAddr : (s.updGrid k f).ueAddr = s.ueAddr := rfl
@[simp] theorem State.updGrid_flowOut : (s.updGrid k f).flowOut = s.flowOut := rfl
@[simp] theorem State.updGrid_flowIn : (s.updGrid k f).flowIn = s.flowIn := rfl
@[simp] theorem State.updGrid_foreign : (s.updGrid k f).foreign = s.foreign := rfl
@[simp] theorem State.updGrid_parts : (s.updGrid k f).parts = s.parts := rfl
@[simp] theorem State.updGrid_flushes : (s.updGrid k f).flushes = s.flushes := rfl
@[simp] theorem State.updGrid_qps : (s.updGrid k f).qps = s.qps := rfl
@[simp] theorem State.updGrid_phase : (s.updGrid k f).phase = s.phase := rfl
@[simp] theorem State.updGrid_fw : (s.updGrid k f).fw = s.fw := rfl
@[simp] theorem State.updGrid_fusedMin : (s.updGrid k f).fusedMin = s.fusedMin := rfl
@[simp] theorem State.updGrid_mgmtConn : (s.updGrid k f).mgmtConn = s.mgmtConn := rfl
@[simp] theorem State.updGrid_mgmtWait : (s.updGrid k f).mgmtWait = s.mgmtWait := rfl
@[simp] theorem State.updGrid_mgmtQ : (s.updGrid k f).mgmtQ = s.mgmtQ := rfl
@[simp] theorem State.updGrid_mgmtDefer : (s.updGrid k f).mgmtDefer = s.mgmtDefer := rfl
@[simp] theorem State.updGrid_mgmtCur : (s.updGrid k f).mgmtCur = s.mgmtCur := rfl
@[simp] theorem State.updGrid_alerts : (s.updGrid k f).alerts = s.alerts := rfl
@[simp] theorem State.updGrid_demeritT : (s.updGrid k f).demeritT = s.demeritT := rfl
@[simp] theorem State.updGrid_demeritW : (s.updGrid k f).demeritW = s.demeritW := rfl
@[simp] theorem State.updGrid_fynil : (s.updGrid k f).fynil = s.fynil := rfl
@[simp] theorem State.updGrid_fynilSeq : (s.updGrid k f).fynilSeq = s.fynilSeq := rfl
@[simp] theorem State.updGrid_power : (s.updGrid k f).power = s.power := rfl
@[simp] theorem State.updGrid_preempts : (s.updGrid k f).preempts = s.preempts := rfl
@[simp] theorem State.updGrid_cuts : (s.updGrid k f).cuts = s.cuts := rfl
@[simp] theorem State.updGrid_streams : (s.updGrid k f).streams = s.streams := rfl
@[simp] theorem State.updGrid_ebb : (s.updGrid k f).ebb = s.ebb := rfl
end updGridFields
section setCoreFields
variable (s : State) (k : Nat) (v : Core)
@[simp] theorem State.setCore_agenda : (s.setCore k v).agenda = s.agenda := rfl
@[simp] theorem State.setCore_turn : (s.setCore k v).turn = s.turn := rfl
@[simp] theorem State.setCore_freeCtr : (s.setCore k v).freeCtr = s.freeCtr := rfl
@[simp] theorem State.setCore_nextId : (s.setCore k v).nextId = s.nextId := rfl
@[simp] theorem State.setCore_out : (s.setCore k v).out = s.out := rfl
@[simp] theorem State.setCore_groups : (s.setCore k v).groups = s.groups := rfl
@[simp] theorem State.setCore_teams : (s.setCore k v).teams = s.teams := rfl
@[simp] theorem State.setCore_grids : (s.setCore k v).grids = s.grids := rfl
@[simp] theorem State.setCore_checks : (s.setCore k v).checks = s.checks := rfl
@[simp] theorem State.setCore_cores : (s.setCore k v).cores = s.cores.setD {} k v := rfl
@[simp] theorem State.setCore_dies : (s.setCore k v).dies = s.dies := rfl
@[simp] theorem State.setCore_domains : (s.setCore k v).domains = s.domains := rfl
@[simp] theorem State.setCore_dram : (s.setCore k v).dram = s.dram := rfl
@[simp] theorem State.setCore_dramKey : (s.setCore k v).dramKey = s.dramKey := rfl
@[simp] theorem State.setCore_dramBad : (s.setCore k v).dramBad = s.dramBad := rfl
@[simp] theorem State.setCore_l2 : (s.setCore k v).l2 = s.l2 := rfl
@[simp] theorem State.setCore_wclk : (s.setCore k v).wclk = s.wclk := rfl
@[simp] theorem State.setCore_rels : (s.setCore k v).rels = s.rels := rfl
@[simp] theorem State.setCore_vers : (s.setCore k v).vers = s.vers := rfl
@[simp] theorem State.setCore_reqs : (s.setCore k v).reqs = s.reqs := rfl
@[simp] theorem State.setCore_upds : (s.setCore k v).upds = s.upds := rfl
@[simp] theorem State.setCore_scq : (s.setCore k v).scq = s.scq := rfl
@[simp] theorem State.setCore_boot : (s.setCore k v).boot = s.boot := rfl
@[simp] theorem State.setCore_keys : (s.setCore k v).keys = s.keys := rfl
@[simp] theorem State.setCore_keyPairs : (s.setCore k v).keyPairs = s.keyPairs := rfl
@[simp] theorem State.setCore_pend : (s.setCore k v).pend = s.pend := rfl
@[simp] theorem State.setCore_shoots : (s.setCore k v).shoots = s.shoots := rfl
@[simp] theorem State.setCore_lruClock : (s.setCore k v).lruClock = s.lruClock := rfl
@[simp] theorem State.setCore_suspectSlices : (s.setCore k v).suspectSlices = s.suspectSlices := rfl
@[simp] theorem State.setCore_sliceCorrected : (s.setCore k v).sliceCorrected = s.sliceCorrected := rfl
@[simp] theorem State.setCore_packets : (s.setCore k v).packets = s.packets := rfl
@[simp] theorem State.setCore_ejFull : (s.setCore k v).ejFull = s.ejFull := rfl
@[simp] theorem State.setCore_slotTab : (s.setCore k v).slotTab = s.slotTab := rfl
@[simp] theorem State.setCore_mcast : (s.setCore k v).mcast = s.mcast := rfl
@[simp] theorem State.setCore_links : (s.setCore k v).links = s.links := rfl
@[simp] theorem State.setCore_pkgId : (s.setCore k v).pkgId = s.pkgId := rfl
@[simp] theorem State.setCore_ueAddr : (s.setCore k v).ueAddr = s.ueAddr := rfl
@[simp] theorem State.setCore_flowOut : (s.setCore k v).flowOut = s.flowOut := rfl
@[simp] theorem State.setCore_flowIn : (s.setCore k v).flowIn = s.flowIn := rfl
@[simp] theorem State.setCore_foreign : (s.setCore k v).foreign = s.foreign := rfl
@[simp] theorem State.setCore_parts : (s.setCore k v).parts = s.parts := rfl
@[simp] theorem State.setCore_flushes : (s.setCore k v).flushes = s.flushes := rfl
@[simp] theorem State.setCore_qps : (s.setCore k v).qps = s.qps := rfl
@[simp] theorem State.setCore_phase : (s.setCore k v).phase = s.phase := rfl
@[simp] theorem State.setCore_fw : (s.setCore k v).fw = s.fw := rfl
@[simp] theorem State.setCore_fusedMin : (s.setCore k v).fusedMin = s.fusedMin := rfl
@[simp] theorem State.setCore_mgmtConn : (s.setCore k v).mgmtConn = s.mgmtConn := rfl
@[simp] theorem State.setCore_mgmtWait : (s.setCore k v).mgmtWait = s.mgmtWait := rfl
@[simp] theorem State.setCore_mgmtQ : (s.setCore k v).mgmtQ = s.mgmtQ := rfl
@[simp] theorem State.setCore_mgmtDefer : (s.setCore k v).mgmtDefer = s.mgmtDefer := rfl
@[simp] theorem State.setCore_mgmtCur : (s.setCore k v).mgmtCur = s.mgmtCur := rfl
@[simp] theorem State.setCore_alerts : (s.setCore k v).alerts = s.alerts := rfl
@[simp] theorem State.setCore_demeritT : (s.setCore k v).demeritT = s.demeritT := rfl
@[simp] theorem State.setCore_demeritW : (s.setCore k v).demeritW = s.demeritW := rfl
@[simp] theorem State.setCore_fynil : (s.setCore k v).fynil = s.fynil := rfl
@[simp] theorem State.setCore_fynilSeq : (s.setCore k v).fynilSeq = s.fynilSeq := rfl
@[simp] theorem State.setCore_power : (s.setCore k v).power = s.power := rfl
@[simp] theorem State.setCore_preempts : (s.setCore k v).preempts = s.preempts := rfl
@[simp] theorem State.setCore_cuts : (s.setCore k v).cuts = s.cuts := rfl
@[simp] theorem State.setCore_streams : (s.setCore k v).streams = s.streams := rfl
@[simp] theorem State.setCore_ebb : (s.setCore k v).ebb = s.ebb := rfl
end setCoreFields
section updCoreFields
variable (s : State) (k : Nat) (f : Core → Core)
@[simp] theorem State.updCore_agenda : (s.updCore k f).agenda = s.agenda := rfl
@[simp] theorem State.updCore_turn : (s.updCore k f).turn = s.turn := rfl
@[simp] theorem State.updCore_freeCtr : (s.updCore k f).freeCtr = s.freeCtr := rfl
@[simp] theorem State.updCore_nextId : (s.updCore k f).nextId = s.nextId := rfl
@[simp] theorem State.updCore_out : (s.updCore k f).out = s.out := rfl
@[simp] theorem State.updCore_groups : (s.updCore k f).groups = s.groups := rfl
@[simp] theorem State.updCore_teams : (s.updCore k f).teams = s.teams := rfl
@[simp] theorem State.updCore_grids : (s.updCore k f).grids = s.grids := rfl
@[simp] theorem State.updCore_checks : (s.updCore k f).checks = s.checks := rfl
@[simp] theorem State.updCore_cores : (s.updCore k f).cores = s.cores.setD {} k (f (s.core k)) := rfl
@[simp] theorem State.updCore_dies : (s.updCore k f).dies = s.dies := rfl
@[simp] theorem State.updCore_domains : (s.updCore k f).domains = s.domains := rfl
@[simp] theorem State.updCore_dram : (s.updCore k f).dram = s.dram := rfl
@[simp] theorem State.updCore_dramKey : (s.updCore k f).dramKey = s.dramKey := rfl
@[simp] theorem State.updCore_dramBad : (s.updCore k f).dramBad = s.dramBad := rfl
@[simp] theorem State.updCore_l2 : (s.updCore k f).l2 = s.l2 := rfl
@[simp] theorem State.updCore_wclk : (s.updCore k f).wclk = s.wclk := rfl
@[simp] theorem State.updCore_rels : (s.updCore k f).rels = s.rels := rfl
@[simp] theorem State.updCore_vers : (s.updCore k f).vers = s.vers := rfl
@[simp] theorem State.updCore_reqs : (s.updCore k f).reqs = s.reqs := rfl
@[simp] theorem State.updCore_upds : (s.updCore k f).upds = s.upds := rfl
@[simp] theorem State.updCore_scq : (s.updCore k f).scq = s.scq := rfl
@[simp] theorem State.updCore_boot : (s.updCore k f).boot = s.boot := rfl
@[simp] theorem State.updCore_keys : (s.updCore k f).keys = s.keys := rfl
@[simp] theorem State.updCore_keyPairs : (s.updCore k f).keyPairs = s.keyPairs := rfl
@[simp] theorem State.updCore_pend : (s.updCore k f).pend = s.pend := rfl
@[simp] theorem State.updCore_shoots : (s.updCore k f).shoots = s.shoots := rfl
@[simp] theorem State.updCore_lruClock : (s.updCore k f).lruClock = s.lruClock := rfl
@[simp] theorem State.updCore_suspectSlices : (s.updCore k f).suspectSlices = s.suspectSlices := rfl
@[simp] theorem State.updCore_sliceCorrected : (s.updCore k f).sliceCorrected = s.sliceCorrected := rfl
@[simp] theorem State.updCore_packets : (s.updCore k f).packets = s.packets := rfl
@[simp] theorem State.updCore_ejFull : (s.updCore k f).ejFull = s.ejFull := rfl
@[simp] theorem State.updCore_slotTab : (s.updCore k f).slotTab = s.slotTab := rfl
@[simp] theorem State.updCore_mcast : (s.updCore k f).mcast = s.mcast := rfl
@[simp] theorem State.updCore_links : (s.updCore k f).links = s.links := rfl
@[simp] theorem State.updCore_pkgId : (s.updCore k f).pkgId = s.pkgId := rfl
@[simp] theorem State.updCore_ueAddr : (s.updCore k f).ueAddr = s.ueAddr := rfl
@[simp] theorem State.updCore_flowOut : (s.updCore k f).flowOut = s.flowOut := rfl
@[simp] theorem State.updCore_flowIn : (s.updCore k f).flowIn = s.flowIn := rfl
@[simp] theorem State.updCore_foreign : (s.updCore k f).foreign = s.foreign := rfl
@[simp] theorem State.updCore_parts : (s.updCore k f).parts = s.parts := rfl
@[simp] theorem State.updCore_flushes : (s.updCore k f).flushes = s.flushes := rfl
@[simp] theorem State.updCore_qps : (s.updCore k f).qps = s.qps := rfl
@[simp] theorem State.updCore_phase : (s.updCore k f).phase = s.phase := rfl
@[simp] theorem State.updCore_fw : (s.updCore k f).fw = s.fw := rfl
@[simp] theorem State.updCore_fusedMin : (s.updCore k f).fusedMin = s.fusedMin := rfl
@[simp] theorem State.updCore_mgmtConn : (s.updCore k f).mgmtConn = s.mgmtConn := rfl
@[simp] theorem State.updCore_mgmtWait : (s.updCore k f).mgmtWait = s.mgmtWait := rfl
@[simp] theorem State.updCore_mgmtQ : (s.updCore k f).mgmtQ = s.mgmtQ := rfl
@[simp] theorem State.updCore_mgmtDefer : (s.updCore k f).mgmtDefer = s.mgmtDefer := rfl
@[simp] theorem State.updCore_mgmtCur : (s.updCore k f).mgmtCur = s.mgmtCur := rfl
@[simp] theorem State.updCore_alerts : (s.updCore k f).alerts = s.alerts := rfl
@[simp] theorem State.updCore_demeritT : (s.updCore k f).demeritT = s.demeritT := rfl
@[simp] theorem State.updCore_demeritW : (s.updCore k f).demeritW = s.demeritW := rfl
@[simp] theorem State.updCore_fynil : (s.updCore k f).fynil = s.fynil := rfl
@[simp] theorem State.updCore_fynilSeq : (s.updCore k f).fynilSeq = s.fynilSeq := rfl
@[simp] theorem State.updCore_power : (s.updCore k f).power = s.power := rfl
@[simp] theorem State.updCore_preempts : (s.updCore k f).preempts = s.preempts := rfl
@[simp] theorem State.updCore_cuts : (s.updCore k f).cuts = s.cuts := rfl
@[simp] theorem State.updCore_streams : (s.updCore k f).streams = s.streams := rfl
@[simp] theorem State.updCore_ebb : (s.updCore k f).ebb = s.ebb := rfl
end updCoreFields
section setDieFields
variable (s : State) (k : Nat) (v : DieSt)
@[simp] theorem State.setDie_agenda : (s.setDie k v).agenda = s.agenda := rfl
@[simp] theorem State.setDie_turn : (s.setDie k v).turn = s.turn := rfl
@[simp] theorem State.setDie_freeCtr : (s.setDie k v).freeCtr = s.freeCtr := rfl
@[simp] theorem State.setDie_nextId : (s.setDie k v).nextId = s.nextId := rfl
@[simp] theorem State.setDie_out : (s.setDie k v).out = s.out := rfl
@[simp] theorem State.setDie_groups : (s.setDie k v).groups = s.groups := rfl
@[simp] theorem State.setDie_teams : (s.setDie k v).teams = s.teams := rfl
@[simp] theorem State.setDie_grids : (s.setDie k v).grids = s.grids := rfl
@[simp] theorem State.setDie_checks : (s.setDie k v).checks = s.checks := rfl
@[simp] theorem State.setDie_cores : (s.setDie k v).cores = s.cores := rfl
@[simp] theorem State.setDie_dies : (s.setDie k v).dies = s.dies.setD {} k v := rfl
@[simp] theorem State.setDie_domains : (s.setDie k v).domains = s.domains := rfl
@[simp] theorem State.setDie_dram : (s.setDie k v).dram = s.dram := rfl
@[simp] theorem State.setDie_dramKey : (s.setDie k v).dramKey = s.dramKey := rfl
@[simp] theorem State.setDie_dramBad : (s.setDie k v).dramBad = s.dramBad := rfl
@[simp] theorem State.setDie_l2 : (s.setDie k v).l2 = s.l2 := rfl
@[simp] theorem State.setDie_wclk : (s.setDie k v).wclk = s.wclk := rfl
@[simp] theorem State.setDie_rels : (s.setDie k v).rels = s.rels := rfl
@[simp] theorem State.setDie_vers : (s.setDie k v).vers = s.vers := rfl
@[simp] theorem State.setDie_reqs : (s.setDie k v).reqs = s.reqs := rfl
@[simp] theorem State.setDie_upds : (s.setDie k v).upds = s.upds := rfl
@[simp] theorem State.setDie_scq : (s.setDie k v).scq = s.scq := rfl
@[simp] theorem State.setDie_boot : (s.setDie k v).boot = s.boot := rfl
@[simp] theorem State.setDie_keys : (s.setDie k v).keys = s.keys := rfl
@[simp] theorem State.setDie_keyPairs : (s.setDie k v).keyPairs = s.keyPairs := rfl
@[simp] theorem State.setDie_pend : (s.setDie k v).pend = s.pend := rfl
@[simp] theorem State.setDie_shoots : (s.setDie k v).shoots = s.shoots := rfl
@[simp] theorem State.setDie_lruClock : (s.setDie k v).lruClock = s.lruClock := rfl
@[simp] theorem State.setDie_suspectSlices : (s.setDie k v).suspectSlices = s.suspectSlices := rfl
@[simp] theorem State.setDie_sliceCorrected : (s.setDie k v).sliceCorrected = s.sliceCorrected := rfl
@[simp] theorem State.setDie_packets : (s.setDie k v).packets = s.packets := rfl
@[simp] theorem State.setDie_ejFull : (s.setDie k v).ejFull = s.ejFull := rfl
@[simp] theorem State.setDie_slotTab : (s.setDie k v).slotTab = s.slotTab := rfl
@[simp] theorem State.setDie_mcast : (s.setDie k v).mcast = s.mcast := rfl
@[simp] theorem State.setDie_links : (s.setDie k v).links = s.links := rfl
@[simp] theorem State.setDie_pkgId : (s.setDie k v).pkgId = s.pkgId := rfl
@[simp] theorem State.setDie_ueAddr : (s.setDie k v).ueAddr = s.ueAddr := rfl
@[simp] theorem State.setDie_flowOut : (s.setDie k v).flowOut = s.flowOut := rfl
@[simp] theorem State.setDie_flowIn : (s.setDie k v).flowIn = s.flowIn := rfl
@[simp] theorem State.setDie_foreign : (s.setDie k v).foreign = s.foreign := rfl
@[simp] theorem State.setDie_parts : (s.setDie k v).parts = s.parts := rfl
@[simp] theorem State.setDie_flushes : (s.setDie k v).flushes = s.flushes := rfl
@[simp] theorem State.setDie_qps : (s.setDie k v).qps = s.qps := rfl
@[simp] theorem State.setDie_phase : (s.setDie k v).phase = s.phase := rfl
@[simp] theorem State.setDie_fw : (s.setDie k v).fw = s.fw := rfl
@[simp] theorem State.setDie_fusedMin : (s.setDie k v).fusedMin = s.fusedMin := rfl
@[simp] theorem State.setDie_mgmtConn : (s.setDie k v).mgmtConn = s.mgmtConn := rfl
@[simp] theorem State.setDie_mgmtWait : (s.setDie k v).mgmtWait = s.mgmtWait := rfl
@[simp] theorem State.setDie_mgmtQ : (s.setDie k v).mgmtQ = s.mgmtQ := rfl
@[simp] theorem State.setDie_mgmtDefer : (s.setDie k v).mgmtDefer = s.mgmtDefer := rfl
@[simp] theorem State.setDie_mgmtCur : (s.setDie k v).mgmtCur = s.mgmtCur := rfl
@[simp] theorem State.setDie_alerts : (s.setDie k v).alerts = s.alerts := rfl
@[simp] theorem State.setDie_demeritT : (s.setDie k v).demeritT = s.demeritT := rfl
@[simp] theorem State.setDie_demeritW : (s.setDie k v).demeritW = s.demeritW := rfl
@[simp] theorem State.setDie_fynil : (s.setDie k v).fynil = s.fynil := rfl
@[simp] theorem State.setDie_fynilSeq : (s.setDie k v).fynilSeq = s.fynilSeq := rfl
@[simp] theorem State.setDie_power : (s.setDie k v).power = s.power := rfl
@[simp] theorem State.setDie_preempts : (s.setDie k v).preempts = s.preempts := rfl
@[simp] theorem State.setDie_cuts : (s.setDie k v).cuts = s.cuts := rfl
@[simp] theorem State.setDie_streams : (s.setDie k v).streams = s.streams := rfl
@[simp] theorem State.setDie_ebb : (s.setDie k v).ebb = s.ebb := rfl
end setDieFields
section updDieFields
variable (s : State) (k : Nat) (f : DieSt → DieSt)
@[simp] theorem State.updDie_agenda : (s.updDie k f).agenda = s.agenda := rfl
@[simp] theorem State.updDie_turn : (s.updDie k f).turn = s.turn := rfl
@[simp] theorem State.updDie_freeCtr : (s.updDie k f).freeCtr = s.freeCtr := rfl
@[simp] theorem State.updDie_nextId : (s.updDie k f).nextId = s.nextId := rfl
@[simp] theorem State.updDie_out : (s.updDie k f).out = s.out := rfl
@[simp] theorem State.updDie_groups : (s.updDie k f).groups = s.groups := rfl
@[simp] theorem State.updDie_teams : (s.updDie k f).teams = s.teams := rfl
@[simp] theorem State.updDie_grids : (s.updDie k f).grids = s.grids := rfl
@[simp] theorem State.updDie_checks : (s.updDie k f).checks = s.checks := rfl
@[simp] theorem State.updDie_cores : (s.updDie k f).cores = s.cores := rfl
@[simp] theorem State.updDie_dies : (s.updDie k f).dies = s.dies.setD {} k (f (s.die k)) := rfl
@[simp] theorem State.updDie_domains : (s.updDie k f).domains = s.domains := rfl
@[simp] theorem State.updDie_dram : (s.updDie k f).dram = s.dram := rfl
@[simp] theorem State.updDie_dramKey : (s.updDie k f).dramKey = s.dramKey := rfl
@[simp] theorem State.updDie_dramBad : (s.updDie k f).dramBad = s.dramBad := rfl
@[simp] theorem State.updDie_l2 : (s.updDie k f).l2 = s.l2 := rfl
@[simp] theorem State.updDie_wclk : (s.updDie k f).wclk = s.wclk := rfl
@[simp] theorem State.updDie_rels : (s.updDie k f).rels = s.rels := rfl
@[simp] theorem State.updDie_vers : (s.updDie k f).vers = s.vers := rfl
@[simp] theorem State.updDie_reqs : (s.updDie k f).reqs = s.reqs := rfl
@[simp] theorem State.updDie_upds : (s.updDie k f).upds = s.upds := rfl
@[simp] theorem State.updDie_scq : (s.updDie k f).scq = s.scq := rfl
@[simp] theorem State.updDie_boot : (s.updDie k f).boot = s.boot := rfl
@[simp] theorem State.updDie_keys : (s.updDie k f).keys = s.keys := rfl
@[simp] theorem State.updDie_keyPairs : (s.updDie k f).keyPairs = s.keyPairs := rfl
@[simp] theorem State.updDie_pend : (s.updDie k f).pend = s.pend := rfl
@[simp] theorem State.updDie_shoots : (s.updDie k f).shoots = s.shoots := rfl
@[simp] theorem State.updDie_lruClock : (s.updDie k f).lruClock = s.lruClock := rfl
@[simp] theorem State.updDie_suspectSlices : (s.updDie k f).suspectSlices = s.suspectSlices := rfl
@[simp] theorem State.updDie_sliceCorrected : (s.updDie k f).sliceCorrected = s.sliceCorrected := rfl
@[simp] theorem State.updDie_packets : (s.updDie k f).packets = s.packets := rfl
@[simp] theorem State.updDie_ejFull : (s.updDie k f).ejFull = s.ejFull := rfl
@[simp] theorem State.updDie_slotTab : (s.updDie k f).slotTab = s.slotTab := rfl
@[simp] theorem State.updDie_mcast : (s.updDie k f).mcast = s.mcast := rfl
@[simp] theorem State.updDie_links : (s.updDie k f).links = s.links := rfl
@[simp] theorem State.updDie_pkgId : (s.updDie k f).pkgId = s.pkgId := rfl
@[simp] theorem State.updDie_ueAddr : (s.updDie k f).ueAddr = s.ueAddr := rfl
@[simp] theorem State.updDie_flowOut : (s.updDie k f).flowOut = s.flowOut := rfl
@[simp] theorem State.updDie_flowIn : (s.updDie k f).flowIn = s.flowIn := rfl
@[simp] theorem State.updDie_foreign : (s.updDie k f).foreign = s.foreign := rfl
@[simp] theorem State.updDie_parts : (s.updDie k f).parts = s.parts := rfl
@[simp] theorem State.updDie_flushes : (s.updDie k f).flushes = s.flushes := rfl
@[simp] theorem State.updDie_qps : (s.updDie k f).qps = s.qps := rfl
@[simp] theorem State.updDie_phase : (s.updDie k f).phase = s.phase := rfl
@[simp] theorem State.updDie_fw : (s.updDie k f).fw = s.fw := rfl
@[simp] theorem State.updDie_fusedMin : (s.updDie k f).fusedMin = s.fusedMin := rfl
@[simp] theorem State.updDie_mgmtConn : (s.updDie k f).mgmtConn = s.mgmtConn := rfl
@[simp] theorem State.updDie_mgmtWait : (s.updDie k f).mgmtWait = s.mgmtWait := rfl
@[simp] theorem State.updDie_mgmtQ : (s.updDie k f).mgmtQ = s.mgmtQ := rfl
@[simp] theorem State.updDie_mgmtDefer : (s.updDie k f).mgmtDefer = s.mgmtDefer := rfl
@[simp] theorem State.updDie_mgmtCur : (s.updDie k f).mgmtCur = s.mgmtCur := rfl
@[simp] theorem State.updDie_alerts : (s.updDie k f).alerts = s.alerts := rfl
@[simp] theorem State.updDie_demeritT : (s.updDie k f).demeritT = s.demeritT := rfl
@[simp] theorem State.updDie_demeritW : (s.updDie k f).demeritW = s.demeritW := rfl
@[simp] theorem State.updDie_fynil : (s.updDie k f).fynil = s.fynil := rfl
@[simp] theorem State.updDie_fynilSeq : (s.updDie k f).fynilSeq = s.fynilSeq := rfl
@[simp] theorem State.updDie_power : (s.updDie k f).power = s.power := rfl
@[simp] theorem State.updDie_preempts : (s.updDie k f).preempts = s.preempts := rfl
@[simp] theorem State.updDie_cuts : (s.updDie k f).cuts = s.cuts := rfl
@[simp] theorem State.updDie_streams : (s.updDie k f).streams = s.streams := rfl
@[simp] theorem State.updDie_ebb : (s.updDie k f).ebb = s.ebb := rfl
end updDieFields
section setDomainFields
variable (s : State) (k : Nat) (v : Domain)
@[simp] theorem State.setDomain_agenda : (s.setDomain k v).agenda = s.agenda := rfl
@[simp] theorem State.setDomain_turn : (s.setDomain k v).turn = s.turn := rfl
@[simp] theorem State.setDomain_freeCtr : (s.setDomain k v).freeCtr = s.freeCtr := rfl
@[simp] theorem State.setDomain_nextId : (s.setDomain k v).nextId = s.nextId := rfl
@[simp] theorem State.setDomain_out : (s.setDomain k v).out = s.out := rfl
@[simp] theorem State.setDomain_groups : (s.setDomain k v).groups = s.groups := rfl
@[simp] theorem State.setDomain_teams : (s.setDomain k v).teams = s.teams := rfl
@[simp] theorem State.setDomain_grids : (s.setDomain k v).grids = s.grids := rfl
@[simp] theorem State.setDomain_checks : (s.setDomain k v).checks = s.checks := rfl
@[simp] theorem State.setDomain_cores : (s.setDomain k v).cores = s.cores := rfl
@[simp] theorem State.setDomain_dies : (s.setDomain k v).dies = s.dies := rfl
@[simp] theorem State.setDomain_domains : (s.setDomain k v).domains = s.domains.setD {} k v := rfl
@[simp] theorem State.setDomain_dram : (s.setDomain k v).dram = s.dram := rfl
@[simp] theorem State.setDomain_dramKey : (s.setDomain k v).dramKey = s.dramKey := rfl
@[simp] theorem State.setDomain_dramBad : (s.setDomain k v).dramBad = s.dramBad := rfl
@[simp] theorem State.setDomain_l2 : (s.setDomain k v).l2 = s.l2 := rfl
@[simp] theorem State.setDomain_wclk : (s.setDomain k v).wclk = s.wclk := rfl
@[simp] theorem State.setDomain_rels : (s.setDomain k v).rels = s.rels := rfl
@[simp] theorem State.setDomain_vers : (s.setDomain k v).vers = s.vers := rfl
@[simp] theorem State.setDomain_reqs : (s.setDomain k v).reqs = s.reqs := rfl
@[simp] theorem State.setDomain_upds : (s.setDomain k v).upds = s.upds := rfl
@[simp] theorem State.setDomain_scq : (s.setDomain k v).scq = s.scq := rfl
@[simp] theorem State.setDomain_boot : (s.setDomain k v).boot = s.boot := rfl
@[simp] theorem State.setDomain_keys : (s.setDomain k v).keys = s.keys := rfl
@[simp] theorem State.setDomain_keyPairs : (s.setDomain k v).keyPairs = s.keyPairs := rfl
@[simp] theorem State.setDomain_pend : (s.setDomain k v).pend = s.pend := rfl
@[simp] theorem State.setDomain_shoots : (s.setDomain k v).shoots = s.shoots := rfl
@[simp] theorem State.setDomain_lruClock : (s.setDomain k v).lruClock = s.lruClock := rfl
@[simp] theorem State.setDomain_suspectSlices : (s.setDomain k v).suspectSlices = s.suspectSlices := rfl
@[simp] theorem State.setDomain_sliceCorrected : (s.setDomain k v).sliceCorrected = s.sliceCorrected := rfl
@[simp] theorem State.setDomain_packets : (s.setDomain k v).packets = s.packets := rfl
@[simp] theorem State.setDomain_ejFull : (s.setDomain k v).ejFull = s.ejFull := rfl
@[simp] theorem State.setDomain_slotTab : (s.setDomain k v).slotTab = s.slotTab := rfl
@[simp] theorem State.setDomain_mcast : (s.setDomain k v).mcast = s.mcast := rfl
@[simp] theorem State.setDomain_links : (s.setDomain k v).links = s.links := rfl
@[simp] theorem State.setDomain_pkgId : (s.setDomain k v).pkgId = s.pkgId := rfl
@[simp] theorem State.setDomain_ueAddr : (s.setDomain k v).ueAddr = s.ueAddr := rfl
@[simp] theorem State.setDomain_flowOut : (s.setDomain k v).flowOut = s.flowOut := rfl
@[simp] theorem State.setDomain_flowIn : (s.setDomain k v).flowIn = s.flowIn := rfl
@[simp] theorem State.setDomain_foreign : (s.setDomain k v).foreign = s.foreign := rfl
@[simp] theorem State.setDomain_parts : (s.setDomain k v).parts = s.parts := rfl
@[simp] theorem State.setDomain_flushes : (s.setDomain k v).flushes = s.flushes := rfl
@[simp] theorem State.setDomain_qps : (s.setDomain k v).qps = s.qps := rfl
@[simp] theorem State.setDomain_phase : (s.setDomain k v).phase = s.phase := rfl
@[simp] theorem State.setDomain_fw : (s.setDomain k v).fw = s.fw := rfl
@[simp] theorem State.setDomain_fusedMin : (s.setDomain k v).fusedMin = s.fusedMin := rfl
@[simp] theorem State.setDomain_mgmtConn : (s.setDomain k v).mgmtConn = s.mgmtConn := rfl
@[simp] theorem State.setDomain_mgmtWait : (s.setDomain k v).mgmtWait = s.mgmtWait := rfl
@[simp] theorem State.setDomain_mgmtQ : (s.setDomain k v).mgmtQ = s.mgmtQ := rfl
@[simp] theorem State.setDomain_mgmtDefer : (s.setDomain k v).mgmtDefer = s.mgmtDefer := rfl
@[simp] theorem State.setDomain_mgmtCur : (s.setDomain k v).mgmtCur = s.mgmtCur := rfl
@[simp] theorem State.setDomain_alerts : (s.setDomain k v).alerts = s.alerts := rfl
@[simp] theorem State.setDomain_demeritT : (s.setDomain k v).demeritT = s.demeritT := rfl
@[simp] theorem State.setDomain_demeritW : (s.setDomain k v).demeritW = s.demeritW := rfl
@[simp] theorem State.setDomain_fynil : (s.setDomain k v).fynil = s.fynil := rfl
@[simp] theorem State.setDomain_fynilSeq : (s.setDomain k v).fynilSeq = s.fynilSeq := rfl
@[simp] theorem State.setDomain_power : (s.setDomain k v).power = s.power := rfl
@[simp] theorem State.setDomain_preempts : (s.setDomain k v).preempts = s.preempts := rfl
@[simp] theorem State.setDomain_cuts : (s.setDomain k v).cuts = s.cuts := rfl
@[simp] theorem State.setDomain_streams : (s.setDomain k v).streams = s.streams := rfl
@[simp] theorem State.setDomain_ebb : (s.setDomain k v).ebb = s.ebb := rfl
end setDomainFields
section updDomainFields
variable (s : State) (k : Nat) (f : Domain → Domain)
@[simp] theorem State.updDomain_agenda : (s.updDomain k f).agenda = s.agenda := rfl
@[simp] theorem State.updDomain_turn : (s.updDomain k f).turn = s.turn := rfl
@[simp] theorem State.updDomain_freeCtr : (s.updDomain k f).freeCtr = s.freeCtr := rfl
@[simp] theorem State.updDomain_nextId : (s.updDomain k f).nextId = s.nextId := rfl
@[simp] theorem State.updDomain_out : (s.updDomain k f).out = s.out := rfl
@[simp] theorem State.updDomain_groups : (s.updDomain k f).groups = s.groups := rfl
@[simp] theorem State.updDomain_teams : (s.updDomain k f).teams = s.teams := rfl
@[simp] theorem State.updDomain_grids : (s.updDomain k f).grids = s.grids := rfl
@[simp] theorem State.updDomain_checks : (s.updDomain k f).checks = s.checks := rfl
@[simp] theorem State.updDomain_cores : (s.updDomain k f).cores = s.cores := rfl
@[simp] theorem State.updDomain_dies : (s.updDomain k f).dies = s.dies := rfl
@[simp] theorem State.updDomain_domains : (s.updDomain k f).domains = s.domains.setD {} k (f (s.domain k)) := rfl
@[simp] theorem State.updDomain_dram : (s.updDomain k f).dram = s.dram := rfl
@[simp] theorem State.updDomain_dramKey : (s.updDomain k f).dramKey = s.dramKey := rfl
@[simp] theorem State.updDomain_dramBad : (s.updDomain k f).dramBad = s.dramBad := rfl
@[simp] theorem State.updDomain_l2 : (s.updDomain k f).l2 = s.l2 := rfl
@[simp] theorem State.updDomain_wclk : (s.updDomain k f).wclk = s.wclk := rfl
@[simp] theorem State.updDomain_rels : (s.updDomain k f).rels = s.rels := rfl
@[simp] theorem State.updDomain_vers : (s.updDomain k f).vers = s.vers := rfl
@[simp] theorem State.updDomain_reqs : (s.updDomain k f).reqs = s.reqs := rfl
@[simp] theorem State.updDomain_upds : (s.updDomain k f).upds = s.upds := rfl
@[simp] theorem State.updDomain_scq : (s.updDomain k f).scq = s.scq := rfl
@[simp] theorem State.updDomain_boot : (s.updDomain k f).boot = s.boot := rfl
@[simp] theorem State.updDomain_keys : (s.updDomain k f).keys = s.keys := rfl
@[simp] theorem State.updDomain_keyPairs : (s.updDomain k f).keyPairs = s.keyPairs := rfl
@[simp] theorem State.updDomain_pend : (s.updDomain k f).pend = s.pend := rfl
@[simp] theorem State.updDomain_shoots : (s.updDomain k f).shoots = s.shoots := rfl
@[simp] theorem State.updDomain_lruClock : (s.updDomain k f).lruClock = s.lruClock := rfl
@[simp] theorem State.updDomain_suspectSlices : (s.updDomain k f).suspectSlices = s.suspectSlices := rfl
@[simp] theorem State.updDomain_sliceCorrected : (s.updDomain k f).sliceCorrected = s.sliceCorrected := rfl
@[simp] theorem State.updDomain_packets : (s.updDomain k f).packets = s.packets := rfl
@[simp] theorem State.updDomain_ejFull : (s.updDomain k f).ejFull = s.ejFull := rfl
@[simp] theorem State.updDomain_slotTab : (s.updDomain k f).slotTab = s.slotTab := rfl
@[simp] theorem State.updDomain_mcast : (s.updDomain k f).mcast = s.mcast := rfl
@[simp] theorem State.updDomain_links : (s.updDomain k f).links = s.links := rfl
@[simp] theorem State.updDomain_pkgId : (s.updDomain k f).pkgId = s.pkgId := rfl
@[simp] theorem State.updDomain_ueAddr : (s.updDomain k f).ueAddr = s.ueAddr := rfl
@[simp] theorem State.updDomain_flowOut : (s.updDomain k f).flowOut = s.flowOut := rfl
@[simp] theorem State.updDomain_flowIn : (s.updDomain k f).flowIn = s.flowIn := rfl
@[simp] theorem State.updDomain_foreign : (s.updDomain k f).foreign = s.foreign := rfl
@[simp] theorem State.updDomain_parts : (s.updDomain k f).parts = s.parts := rfl
@[simp] theorem State.updDomain_flushes : (s.updDomain k f).flushes = s.flushes := rfl
@[simp] theorem State.updDomain_qps : (s.updDomain k f).qps = s.qps := rfl
@[simp] theorem State.updDomain_phase : (s.updDomain k f).phase = s.phase := rfl
@[simp] theorem State.updDomain_fw : (s.updDomain k f).fw = s.fw := rfl
@[simp] theorem State.updDomain_fusedMin : (s.updDomain k f).fusedMin = s.fusedMin := rfl
@[simp] theorem State.updDomain_mgmtConn : (s.updDomain k f).mgmtConn = s.mgmtConn := rfl
@[simp] theorem State.updDomain_mgmtWait : (s.updDomain k f).mgmtWait = s.mgmtWait := rfl
@[simp] theorem State.updDomain_mgmtQ : (s.updDomain k f).mgmtQ = s.mgmtQ := rfl
@[simp] theorem State.updDomain_mgmtDefer : (s.updDomain k f).mgmtDefer = s.mgmtDefer := rfl
@[simp] theorem State.updDomain_mgmtCur : (s.updDomain k f).mgmtCur = s.mgmtCur := rfl
@[simp] theorem State.updDomain_alerts : (s.updDomain k f).alerts = s.alerts := rfl
@[simp] theorem State.updDomain_demeritT : (s.updDomain k f).demeritT = s.demeritT := rfl
@[simp] theorem State.updDomain_demeritW : (s.updDomain k f).demeritW = s.demeritW := rfl
@[simp] theorem State.updDomain_fynil : (s.updDomain k f).fynil = s.fynil := rfl
@[simp] theorem State.updDomain_fynilSeq : (s.updDomain k f).fynilSeq = s.fynilSeq := rfl
@[simp] theorem State.updDomain_power : (s.updDomain k f).power = s.power := rfl
@[simp] theorem State.updDomain_preempts : (s.updDomain k f).preempts = s.preempts := rfl
@[simp] theorem State.updDomain_cuts : (s.updDomain k f).cuts = s.cuts := rfl
@[simp] theorem State.updDomain_streams : (s.updDomain k f).streams = s.streams := rfl
@[simp] theorem State.updDomain_ebb : (s.updDomain k f).ebb = s.ebb := rfl
end updDomainFields
section updPartFields
variable (s : State) (k : Nat) (f : Part → Part)
@[simp] theorem State.updPart_agenda : (s.updPart k f).agenda = s.agenda := rfl
@[simp] theorem State.updPart_turn : (s.updPart k f).turn = s.turn := rfl
@[simp] theorem State.updPart_freeCtr : (s.updPart k f).freeCtr = s.freeCtr := rfl
@[simp] theorem State.updPart_nextId : (s.updPart k f).nextId = s.nextId := rfl
@[simp] theorem State.updPart_out : (s.updPart k f).out = s.out := rfl
@[simp] theorem State.updPart_groups : (s.updPart k f).groups = s.groups := rfl
@[simp] theorem State.updPart_teams : (s.updPart k f).teams = s.teams := rfl
@[simp] theorem State.updPart_grids : (s.updPart k f).grids = s.grids := rfl
@[simp] theorem State.updPart_checks : (s.updPart k f).checks = s.checks := rfl
@[simp] theorem State.updPart_cores : (s.updPart k f).cores = s.cores := rfl
@[simp] theorem State.updPart_dies : (s.updPart k f).dies = s.dies := rfl
@[simp] theorem State.updPart_domains : (s.updPart k f).domains = s.domains := rfl
@[simp] theorem State.updPart_dram : (s.updPart k f).dram = s.dram := rfl
@[simp] theorem State.updPart_dramKey : (s.updPart k f).dramKey = s.dramKey := rfl
@[simp] theorem State.updPart_dramBad : (s.updPart k f).dramBad = s.dramBad := rfl
@[simp] theorem State.updPart_l2 : (s.updPart k f).l2 = s.l2 := rfl
@[simp] theorem State.updPart_wclk : (s.updPart k f).wclk = s.wclk := rfl
@[simp] theorem State.updPart_rels : (s.updPart k f).rels = s.rels := rfl
@[simp] theorem State.updPart_vers : (s.updPart k f).vers = s.vers := rfl
@[simp] theorem State.updPart_reqs : (s.updPart k f).reqs = s.reqs := rfl
@[simp] theorem State.updPart_upds : (s.updPart k f).upds = s.upds := rfl
@[simp] theorem State.updPart_scq : (s.updPart k f).scq = s.scq := rfl
@[simp] theorem State.updPart_boot : (s.updPart k f).boot = s.boot := rfl
@[simp] theorem State.updPart_keys : (s.updPart k f).keys = s.keys := rfl
@[simp] theorem State.updPart_keyPairs : (s.updPart k f).keyPairs = s.keyPairs := rfl
@[simp] theorem State.updPart_pend : (s.updPart k f).pend = s.pend := rfl
@[simp] theorem State.updPart_shoots : (s.updPart k f).shoots = s.shoots := rfl
@[simp] theorem State.updPart_lruClock : (s.updPart k f).lruClock = s.lruClock := rfl
@[simp] theorem State.updPart_suspectSlices : (s.updPart k f).suspectSlices = s.suspectSlices := rfl
@[simp] theorem State.updPart_sliceCorrected : (s.updPart k f).sliceCorrected = s.sliceCorrected := rfl
@[simp] theorem State.updPart_packets : (s.updPart k f).packets = s.packets := rfl
@[simp] theorem State.updPart_ejFull : (s.updPart k f).ejFull = s.ejFull := rfl
@[simp] theorem State.updPart_slotTab : (s.updPart k f).slotTab = s.slotTab := rfl
@[simp] theorem State.updPart_mcast : (s.updPart k f).mcast = s.mcast := rfl
@[simp] theorem State.updPart_links : (s.updPart k f).links = s.links := rfl
@[simp] theorem State.updPart_pkgId : (s.updPart k f).pkgId = s.pkgId := rfl
@[simp] theorem State.updPart_ueAddr : (s.updPart k f).ueAddr = s.ueAddr := rfl
@[simp] theorem State.updPart_flowOut : (s.updPart k f).flowOut = s.flowOut := rfl
@[simp] theorem State.updPart_flowIn : (s.updPart k f).flowIn = s.flowIn := rfl
@[simp] theorem State.updPart_foreign : (s.updPart k f).foreign = s.foreign := rfl
@[simp] theorem State.updPart_parts : (s.updPart k f).parts = s.parts.upd k f := rfl
@[simp] theorem State.updPart_flushes : (s.updPart k f).flushes = s.flushes := rfl
@[simp] theorem State.updPart_qps : (s.updPart k f).qps = s.qps := rfl
@[simp] theorem State.updPart_phase : (s.updPart k f).phase = s.phase := rfl
@[simp] theorem State.updPart_fw : (s.updPart k f).fw = s.fw := rfl
@[simp] theorem State.updPart_fusedMin : (s.updPart k f).fusedMin = s.fusedMin := rfl
@[simp] theorem State.updPart_mgmtConn : (s.updPart k f).mgmtConn = s.mgmtConn := rfl
@[simp] theorem State.updPart_mgmtWait : (s.updPart k f).mgmtWait = s.mgmtWait := rfl
@[simp] theorem State.updPart_mgmtQ : (s.updPart k f).mgmtQ = s.mgmtQ := rfl
@[simp] theorem State.updPart_mgmtDefer : (s.updPart k f).mgmtDefer = s.mgmtDefer := rfl
@[simp] theorem State.updPart_mgmtCur : (s.updPart k f).mgmtCur = s.mgmtCur := rfl
@[simp] theorem State.updPart_alerts : (s.updPart k f).alerts = s.alerts := rfl
@[simp] theorem State.updPart_demeritT : (s.updPart k f).demeritT = s.demeritT := rfl
@[simp] theorem State.updPart_demeritW : (s.updPart k f).demeritW = s.demeritW := rfl
@[simp] theorem State.updPart_fynil : (s.updPart k f).fynil = s.fynil := rfl
@[simp] theorem State.updPart_fynilSeq : (s.updPart k f).fynilSeq = s.fynilSeq := rfl
@[simp] theorem State.updPart_power : (s.updPart k f).power = s.power := rfl
@[simp] theorem State.updPart_preempts : (s.updPart k f).preempts = s.preempts := rfl
@[simp] theorem State.updPart_cuts : (s.updPart k f).cuts = s.cuts := rfl
@[simp] theorem State.updPart_streams : (s.updPart k f).streams = s.streams := rfl
@[simp] theorem State.updPart_ebb : (s.updPart k f).ebb = s.ebb := rfl
end updPartFields
section setLinkFields
variable (s : State) (k : LinkId) (v : LinkDir)
@[simp] theorem State.setLink_agenda : (s.setLink k v).agenda = s.agenda := rfl
@[simp] theorem State.setLink_turn : (s.setLink k v).turn = s.turn := rfl
@[simp] theorem State.setLink_freeCtr : (s.setLink k v).freeCtr = s.freeCtr := rfl
@[simp] theorem State.setLink_nextId : (s.setLink k v).nextId = s.nextId := rfl
@[simp] theorem State.setLink_out : (s.setLink k v).out = s.out := rfl
@[simp] theorem State.setLink_groups : (s.setLink k v).groups = s.groups := rfl
@[simp] theorem State.setLink_teams : (s.setLink k v).teams = s.teams := rfl
@[simp] theorem State.setLink_grids : (s.setLink k v).grids = s.grids := rfl
@[simp] theorem State.setLink_checks : (s.setLink k v).checks = s.checks := rfl
@[simp] theorem State.setLink_cores : (s.setLink k v).cores = s.cores := rfl
@[simp] theorem State.setLink_dies : (s.setLink k v).dies = s.dies := rfl
@[simp] theorem State.setLink_domains : (s.setLink k v).domains = s.domains := rfl
@[simp] theorem State.setLink_dram : (s.setLink k v).dram = s.dram := rfl
@[simp] theorem State.setLink_dramKey : (s.setLink k v).dramKey = s.dramKey := rfl
@[simp] theorem State.setLink_dramBad : (s.setLink k v).dramBad = s.dramBad := rfl
@[simp] theorem State.setLink_l2 : (s.setLink k v).l2 = s.l2 := rfl
@[simp] theorem State.setLink_wclk : (s.setLink k v).wclk = s.wclk := rfl
@[simp] theorem State.setLink_rels : (s.setLink k v).rels = s.rels := rfl
@[simp] theorem State.setLink_vers : (s.setLink k v).vers = s.vers := rfl
@[simp] theorem State.setLink_reqs : (s.setLink k v).reqs = s.reqs := rfl
@[simp] theorem State.setLink_upds : (s.setLink k v).upds = s.upds := rfl
@[simp] theorem State.setLink_scq : (s.setLink k v).scq = s.scq := rfl
@[simp] theorem State.setLink_boot : (s.setLink k v).boot = s.boot := rfl
@[simp] theorem State.setLink_keys : (s.setLink k v).keys = s.keys := rfl
@[simp] theorem State.setLink_keyPairs : (s.setLink k v).keyPairs = s.keyPairs := rfl
@[simp] theorem State.setLink_pend : (s.setLink k v).pend = s.pend := rfl
@[simp] theorem State.setLink_shoots : (s.setLink k v).shoots = s.shoots := rfl
@[simp] theorem State.setLink_lruClock : (s.setLink k v).lruClock = s.lruClock := rfl
@[simp] theorem State.setLink_suspectSlices : (s.setLink k v).suspectSlices = s.suspectSlices := rfl
@[simp] theorem State.setLink_sliceCorrected : (s.setLink k v).sliceCorrected = s.sliceCorrected := rfl
@[simp] theorem State.setLink_packets : (s.setLink k v).packets = s.packets := rfl
@[simp] theorem State.setLink_ejFull : (s.setLink k v).ejFull = s.ejFull := rfl
@[simp] theorem State.setLink_slotTab : (s.setLink k v).slotTab = s.slotTab := rfl
@[simp] theorem State.setLink_mcast : (s.setLink k v).mcast = s.mcast := rfl
@[simp] theorem State.setLink_links : (s.setLink k v).links = s.links.setD {} (2 * k.link + k.rev.toNat) v := rfl
@[simp] theorem State.setLink_pkgId : (s.setLink k v).pkgId = s.pkgId := rfl
@[simp] theorem State.setLink_ueAddr : (s.setLink k v).ueAddr = s.ueAddr := rfl
@[simp] theorem State.setLink_flowOut : (s.setLink k v).flowOut = s.flowOut := rfl
@[simp] theorem State.setLink_flowIn : (s.setLink k v).flowIn = s.flowIn := rfl
@[simp] theorem State.setLink_foreign : (s.setLink k v).foreign = s.foreign := rfl
@[simp] theorem State.setLink_parts : (s.setLink k v).parts = s.parts := rfl
@[simp] theorem State.setLink_flushes : (s.setLink k v).flushes = s.flushes := rfl
@[simp] theorem State.setLink_qps : (s.setLink k v).qps = s.qps := rfl
@[simp] theorem State.setLink_phase : (s.setLink k v).phase = s.phase := rfl
@[simp] theorem State.setLink_fw : (s.setLink k v).fw = s.fw := rfl
@[simp] theorem State.setLink_fusedMin : (s.setLink k v).fusedMin = s.fusedMin := rfl
@[simp] theorem State.setLink_mgmtConn : (s.setLink k v).mgmtConn = s.mgmtConn := rfl
@[simp] theorem State.setLink_mgmtWait : (s.setLink k v).mgmtWait = s.mgmtWait := rfl
@[simp] theorem State.setLink_mgmtQ : (s.setLink k v).mgmtQ = s.mgmtQ := rfl
@[simp] theorem State.setLink_mgmtDefer : (s.setLink k v).mgmtDefer = s.mgmtDefer := rfl
@[simp] theorem State.setLink_mgmtCur : (s.setLink k v).mgmtCur = s.mgmtCur := rfl
@[simp] theorem State.setLink_alerts : (s.setLink k v).alerts = s.alerts := rfl
@[simp] theorem State.setLink_demeritT : (s.setLink k v).demeritT = s.demeritT := rfl
@[simp] theorem State.setLink_demeritW : (s.setLink k v).demeritW = s.demeritW := rfl
@[simp] theorem State.setLink_fynil : (s.setLink k v).fynil = s.fynil := rfl
@[simp] theorem State.setLink_fynilSeq : (s.setLink k v).fynilSeq = s.fynilSeq := rfl
@[simp] theorem State.setLink_power : (s.setLink k v).power = s.power := rfl
@[simp] theorem State.setLink_preempts : (s.setLink k v).preempts = s.preempts := rfl
@[simp] theorem State.setLink_cuts : (s.setLink k v).cuts = s.cuts := rfl
@[simp] theorem State.setLink_streams : (s.setLink k v).streams = s.streams := rfl
@[simp] theorem State.setLink_ebb : (s.setLink k v).ebb = s.ebb := rfl
end setLinkFields
section updCheckFields
variable (s : State) (k : Nat) (f : Check → Check)
@[simp] theorem State.updCheck_agenda : (s.updCheck k f).agenda = s.agenda := rfl
@[simp] theorem State.updCheck_turn : (s.updCheck k f).turn = s.turn := rfl
@[simp] theorem State.updCheck_freeCtr : (s.updCheck k f).freeCtr = s.freeCtr := rfl
@[simp] theorem State.updCheck_nextId : (s.updCheck k f).nextId = s.nextId := rfl
@[simp] theorem State.updCheck_out : (s.updCheck k f).out = s.out := rfl
@[simp] theorem State.updCheck_groups : (s.updCheck k f).groups = s.groups := rfl
@[simp] theorem State.updCheck_teams : (s.updCheck k f).teams = s.teams := rfl
@[simp] theorem State.updCheck_grids : (s.updCheck k f).grids = s.grids := rfl
@[simp] theorem State.updCheck_checks : (s.updCheck k f).checks = s.checks.upd k f := rfl
@[simp] theorem State.updCheck_cores : (s.updCheck k f).cores = s.cores := rfl
@[simp] theorem State.updCheck_dies : (s.updCheck k f).dies = s.dies := rfl
@[simp] theorem State.updCheck_domains : (s.updCheck k f).domains = s.domains := rfl
@[simp] theorem State.updCheck_dram : (s.updCheck k f).dram = s.dram := rfl
@[simp] theorem State.updCheck_dramKey : (s.updCheck k f).dramKey = s.dramKey := rfl
@[simp] theorem State.updCheck_dramBad : (s.updCheck k f).dramBad = s.dramBad := rfl
@[simp] theorem State.updCheck_l2 : (s.updCheck k f).l2 = s.l2 := rfl
@[simp] theorem State.updCheck_wclk : (s.updCheck k f).wclk = s.wclk := rfl
@[simp] theorem State.updCheck_rels : (s.updCheck k f).rels = s.rels := rfl
@[simp] theorem State.updCheck_vers : (s.updCheck k f).vers = s.vers := rfl
@[simp] theorem State.updCheck_reqs : (s.updCheck k f).reqs = s.reqs := rfl
@[simp] theorem State.updCheck_upds : (s.updCheck k f).upds = s.upds := rfl
@[simp] theorem State.updCheck_scq : (s.updCheck k f).scq = s.scq := rfl
@[simp] theorem State.updCheck_boot : (s.updCheck k f).boot = s.boot := rfl
@[simp] theorem State.updCheck_keys : (s.updCheck k f).keys = s.keys := rfl
@[simp] theorem State.updCheck_keyPairs : (s.updCheck k f).keyPairs = s.keyPairs := rfl
@[simp] theorem State.updCheck_pend : (s.updCheck k f).pend = s.pend := rfl
@[simp] theorem State.updCheck_shoots : (s.updCheck k f).shoots = s.shoots := rfl
@[simp] theorem State.updCheck_lruClock : (s.updCheck k f).lruClock = s.lruClock := rfl
@[simp] theorem State.updCheck_suspectSlices : (s.updCheck k f).suspectSlices = s.suspectSlices := rfl
@[simp] theorem State.updCheck_sliceCorrected : (s.updCheck k f).sliceCorrected = s.sliceCorrected := rfl
@[simp] theorem State.updCheck_packets : (s.updCheck k f).packets = s.packets := rfl
@[simp] theorem State.updCheck_ejFull : (s.updCheck k f).ejFull = s.ejFull := rfl
@[simp] theorem State.updCheck_slotTab : (s.updCheck k f).slotTab = s.slotTab := rfl
@[simp] theorem State.updCheck_mcast : (s.updCheck k f).mcast = s.mcast := rfl
@[simp] theorem State.updCheck_links : (s.updCheck k f).links = s.links := rfl
@[simp] theorem State.updCheck_pkgId : (s.updCheck k f).pkgId = s.pkgId := rfl
@[simp] theorem State.updCheck_ueAddr : (s.updCheck k f).ueAddr = s.ueAddr := rfl
@[simp] theorem State.updCheck_flowOut : (s.updCheck k f).flowOut = s.flowOut := rfl
@[simp] theorem State.updCheck_flowIn : (s.updCheck k f).flowIn = s.flowIn := rfl
@[simp] theorem State.updCheck_foreign : (s.updCheck k f).foreign = s.foreign := rfl
@[simp] theorem State.updCheck_parts : (s.updCheck k f).parts = s.parts := rfl
@[simp] theorem State.updCheck_flushes : (s.updCheck k f).flushes = s.flushes := rfl
@[simp] theorem State.updCheck_qps : (s.updCheck k f).qps = s.qps := rfl
@[simp] theorem State.updCheck_phase : (s.updCheck k f).phase = s.phase := rfl
@[simp] theorem State.updCheck_fw : (s.updCheck k f).fw = s.fw := rfl
@[simp] theorem State.updCheck_fusedMin : (s.updCheck k f).fusedMin = s.fusedMin := rfl
@[simp] theorem State.updCheck_mgmtConn : (s.updCheck k f).mgmtConn = s.mgmtConn := rfl
@[simp] theorem State.updCheck_mgmtWait : (s.updCheck k f).mgmtWait = s.mgmtWait := rfl
@[simp] theorem State.updCheck_mgmtQ : (s.updCheck k f).mgmtQ = s.mgmtQ := rfl
@[simp] theorem State.updCheck_mgmtDefer : (s.updCheck k f).mgmtDefer = s.mgmtDefer := rfl
@[simp] theorem State.updCheck_mgmtCur : (s.updCheck k f).mgmtCur = s.mgmtCur := rfl
@[simp] theorem State.updCheck_alerts : (s.updCheck k f).alerts = s.alerts := rfl
@[simp] theorem State.updCheck_demeritT : (s.updCheck k f).demeritT = s.demeritT := rfl
@[simp] theorem State.updCheck_demeritW : (s.updCheck k f).demeritW = s.demeritW := rfl
@[simp] theorem State.updCheck_fynil : (s.updCheck k f).fynil = s.fynil := rfl
@[simp] theorem State.updCheck_fynilSeq : (s.updCheck k f).fynilSeq = s.fynilSeq := rfl
@[simp] theorem State.updCheck_power : (s.updCheck k f).power = s.power := rfl
@[simp] theorem State.updCheck_preempts : (s.updCheck k f).preempts = s.preempts := rfl
@[simp] theorem State.updCheck_cuts : (s.updCheck k f).cuts = s.cuts := rfl
@[simp] theorem State.updCheck_streams : (s.updCheck k f).streams = s.streams := rfl
@[simp] theorem State.updCheck_ebb : (s.updCheck k f).ebb = s.ebb := rfl
end updCheckFields
section emitFields
variable (s : State) (m : Msg)
@[simp] theorem State.emit_agenda : (s.emit m).agenda = s.agenda := rfl
@[simp] theorem State.emit_turn : (s.emit m).turn = s.turn := rfl
@[simp] theorem State.emit_freeCtr : (s.emit m).freeCtr = s.freeCtr := rfl
@[simp] theorem State.emit_nextId : (s.emit m).nextId = s.nextId := rfl
@[simp] theorem State.emit_out : (s.emit m).out = s.out ++ [m] := rfl
@[simp] theorem State.emit_groups : (s.emit m).groups = s.groups := rfl
@[simp] theorem State.emit_teams : (s.emit m).teams = s.teams := rfl
@[simp] theorem State.emit_grids : (s.emit m).grids = s.grids := rfl
@[simp] theorem State.emit_checks : (s.emit m).checks = s.checks := rfl
@[simp] theorem State.emit_cores : (s.emit m).cores = s.cores := rfl
@[simp] theorem State.emit_dies : (s.emit m).dies = s.dies := rfl
@[simp] theorem State.emit_domains : (s.emit m).domains = s.domains := rfl
@[simp] theorem State.emit_dram : (s.emit m).dram = s.dram := rfl
@[simp] theorem State.emit_dramKey : (s.emit m).dramKey = s.dramKey := rfl
@[simp] theorem State.emit_dramBad : (s.emit m).dramBad = s.dramBad := rfl
@[simp] theorem State.emit_l2 : (s.emit m).l2 = s.l2 := rfl
@[simp] theorem State.emit_wclk : (s.emit m).wclk = s.wclk := rfl
@[simp] theorem State.emit_rels : (s.emit m).rels = s.rels := rfl
@[simp] theorem State.emit_vers : (s.emit m).vers = s.vers := rfl
@[simp] theorem State.emit_reqs : (s.emit m).reqs = s.reqs := rfl
@[simp] theorem State.emit_upds : (s.emit m).upds = s.upds := rfl
@[simp] theorem State.emit_scq : (s.emit m).scq = s.scq := rfl
@[simp] theorem State.emit_boot : (s.emit m).boot = s.boot := rfl
@[simp] theorem State.emit_keys : (s.emit m).keys = s.keys := rfl
@[simp] theorem State.emit_keyPairs : (s.emit m).keyPairs = s.keyPairs := rfl
@[simp] theorem State.emit_pend : (s.emit m).pend = s.pend := rfl
@[simp] theorem State.emit_shoots : (s.emit m).shoots = s.shoots := rfl
@[simp] theorem State.emit_lruClock : (s.emit m).lruClock = s.lruClock := rfl
@[simp] theorem State.emit_suspectSlices : (s.emit m).suspectSlices = s.suspectSlices := rfl
@[simp] theorem State.emit_sliceCorrected : (s.emit m).sliceCorrected = s.sliceCorrected := rfl
@[simp] theorem State.emit_packets : (s.emit m).packets = s.packets := rfl
@[simp] theorem State.emit_ejFull : (s.emit m).ejFull = s.ejFull := rfl
@[simp] theorem State.emit_slotTab : (s.emit m).slotTab = s.slotTab := rfl
@[simp] theorem State.emit_mcast : (s.emit m).mcast = s.mcast := rfl
@[simp] theorem State.emit_links : (s.emit m).links = s.links := rfl
@[simp] theorem State.emit_pkgId : (s.emit m).pkgId = s.pkgId := rfl
@[simp] theorem State.emit_ueAddr : (s.emit m).ueAddr = s.ueAddr := rfl
@[simp] theorem State.emit_flowOut : (s.emit m).flowOut = s.flowOut := rfl
@[simp] theorem State.emit_flowIn : (s.emit m).flowIn = s.flowIn := rfl
@[simp] theorem State.emit_foreign : (s.emit m).foreign = s.foreign := rfl
@[simp] theorem State.emit_parts : (s.emit m).parts = s.parts := rfl
@[simp] theorem State.emit_flushes : (s.emit m).flushes = s.flushes := rfl
@[simp] theorem State.emit_qps : (s.emit m).qps = s.qps := rfl
@[simp] theorem State.emit_phase : (s.emit m).phase = s.phase := rfl
@[simp] theorem State.emit_fw : (s.emit m).fw = s.fw := rfl
@[simp] theorem State.emit_fusedMin : (s.emit m).fusedMin = s.fusedMin := rfl
@[simp] theorem State.emit_mgmtConn : (s.emit m).mgmtConn = s.mgmtConn := rfl
@[simp] theorem State.emit_mgmtWait : (s.emit m).mgmtWait = s.mgmtWait := rfl
@[simp] theorem State.emit_mgmtQ : (s.emit m).mgmtQ = s.mgmtQ := rfl
@[simp] theorem State.emit_mgmtDefer : (s.emit m).mgmtDefer = s.mgmtDefer := rfl
@[simp] theorem State.emit_mgmtCur : (s.emit m).mgmtCur = s.mgmtCur := rfl
@[simp] theorem State.emit_alerts : (s.emit m).alerts = s.alerts := rfl
@[simp] theorem State.emit_demeritT : (s.emit m).demeritT = s.demeritT := rfl
@[simp] theorem State.emit_demeritW : (s.emit m).demeritW = s.demeritW := rfl
@[simp] theorem State.emit_fynil : (s.emit m).fynil = s.fynil := rfl
@[simp] theorem State.emit_fynilSeq : (s.emit m).fynilSeq = s.fynilSeq := rfl
@[simp] theorem State.emit_power : (s.emit m).power = s.power := rfl
@[simp] theorem State.emit_preempts : (s.emit m).preempts = s.preempts := rfl
@[simp] theorem State.emit_cuts : (s.emit m).cuts = s.cuts := rfl
@[simp] theorem State.emit_streams : (s.emit m).streams = s.streams := rfl
@[simp] theorem State.emit_ebb : (s.emit m).ebb = s.ebb := rfl
end emitFields
section setLaneFields
variable (g : Group) (l : LaneIx) (v : Lane)
@[simp] theorem Group.setLane_team : (g.setLane l v).team = g.team := by simp only [Group.setLane]
@[simp] theorem Group.setLane_grpix : (g.setLane l v).grpix = g.grpix := by simp only [Group.setLane]
@[simp] theorem Group.setLane_lanes : (g.setLane l v).lanes = Vector.ofFn fun k => if k = l then v else g.lanes.get k := by simp only [Group.setLane]
@[simp] theorem Group.setLane_s : (g.setLane l v).s = g.s := by simp only [Group.setLane]
@[simp] theorem Group.setLane_gp : (g.setLane l v).gp = g.gp := by simp only [Group.setLane]
@[simp] theorem Group.setLane_rj : (g.setLane l v).rj = g.rj := by simp only [Group.setLane]
@[simp] theorem Group.setLane_lc : (g.setLane l v).lc = g.lc := by simp only [Group.setLane]
@[simp] theorem Group.setLane_levels : (g.setLane l v).levels = g.levels := by simp only [Group.setLane]
@[simp] theorem Group.setLane_fmode : (g.setLane l v).fmode = g.fmode := by simp only [Group.setLane]
@[simp] theorem Group.setLane_status : (g.setLane l v).status = g.status := by simp only [Group.setLane]
@[simp] theorem Group.setLane_cychi : (g.setLane l v).cychi = g.cychi := by simp only [Group.setLane]
@[simp] theorem Group.setLane_vc : (g.setLane l v).vc = g.vc := by simp only [Group.setLane]
@[simp] theorem Group.setLane_obs : (g.setLane l v).obs = g.obs := by simp only [Group.setLane]
@[simp] theorem Group.setLane_cc : (g.setLane l v).cc = g.cc := by simp only [Group.setLane]
@[simp] theorem Group.setLane_relCarry : (g.setLane l v).relCarry = g.relCarry := by simp only [Group.setLane]
@[simp] theorem Group.setLane_acq : (g.setLane l v).acq = g.acq := by simp only [Group.setLane]
@[simp] theorem Group.setLane_mustSee : (g.setLane l v).mustSee = g.mustSee := by simp only [Group.setLane]
@[simp] theorem Group.setLane_readFrom : (g.setLane l v).readFrom = g.readFrom := by simp only [Group.setLane]
@[simp] theorem Group.setLane_pclass : (g.setLane l v).pclass = g.pclass := by simp only [Group.setLane]
@[simp] theorem Group.setLane_tilexy : (g.setLane l v).tilexy = g.tilexy := by simp only [Group.setLane]
@[simp] theorem Group.setLane_tilever : (g.setLane l v).tilever = g.tilever := by simp only [Group.setLane]
@[simp] theorem Group.setLane_gridid : (g.setLane l v).gridid = g.gridid := by simp only [Group.setLane]
@[simp] theorem Group.setLane_seen : (g.setLane l v).seen = g.seen := by simp only [Group.setLane]
@[simp] theorem Group.setLane_stale : (g.setLane l v).stale = g.stale := by simp only [Group.setLane]
@[simp] theorem Group.setLane_copySeq : (g.setLane l v).copySeq = g.copySeq := by simp only [Group.setLane]
@[simp] theorem Group.setLane_tag : (g.setLane l v).tag = g.tag := by simp only [Group.setLane]
@[simp] theorem Group.setLane_pin : (g.setLane l v).pin = g.pin := by simp only [Group.setLane]
@[simp] theorem Group.setLane_wait : (g.setLane l v).wait = g.wait := by simp only [Group.setLane]
@[simp] theorem Group.setLane_walk : (g.setLane l v).walk = g.walk := by simp only [Group.setLane]
@[simp] theorem Group.setLane_walkFail : (g.setLane l v).walkFail = g.walkFail := by simp only [Group.setLane]
@[simp] theorem Group.setLane_trap : (g.setLane l v).trap = g.trap := by simp only [Group.setLane]
@[simp] theorem Group.setLane_saveStop : (g.setLane l v).saveStop = g.saveStop := by simp only [Group.setLane]
@[simp] theorem Group.setLane_arr : (g.setLane l v).arr = g.arr := by simp only [Group.setLane]
@[simp] theorem Group.setLane_opened : (g.setLane l v).opened = g.opened := by simp only [Group.setLane]
@[simp] theorem Group.setLane_shed : (g.setLane l v).shed = g.shed := by simp only [Group.setLane]
@[simp] theorem Group.setLane_stopping : (g.setLane l v).stopping = g.stopping := by simp only [Group.setLane]
@[simp] theorem Group.setLane_stopped : (g.setLane l v).stopped = g.stopped := by simp only [Group.setLane]
@[simp] theorem Group.setLane_recLoads : (g.setLane l v).recLoads = g.recLoads := by simp only [Group.setLane]
@[simp] theorem Group.setLane_priv : (g.setLane l v).priv = g.priv := by simp only [Group.setLane]
@[simp] theorem Group.setLane_replayed : (g.setLane l v).replayed = g.replayed := by simp only [Group.setLane]
@[simp] theorem Group.setLane_log : (g.setLane l v).log = g.log := by simp only [Group.setLane]
@[simp] theorem Group.setLane_blocked : (g.setLane l v).blocked = g.blocked := by simp only [Group.setLane]
@[simp] theorem Group.setLane_stalled : (g.setLane l v).stalled = g.stalled := by simp only [Group.setLane]
@[simp] theorem Group.setLane_stallPosted : (g.setLane l v).stallPosted = g.stallPosted := by simp only [Group.setLane]
end setLaneFields
section mapLanesFields
variable (g : Group) (f : LaneIx → Lane → Lane)
@[simp] theorem Group.mapLanes_team : (g.mapLanes f).team = g.team := by simp only [Group.mapLanes]
@[simp] theorem Group.mapLanes_grpix : (g.mapLanes f).grpix = g.grpix := by simp only [Group.mapLanes]
@[simp] theorem Group.mapLanes_lanes : (g.mapLanes f).lanes = Vector.ofFn fun k => f k (g.lanes.get k) := by simp only [Group.mapLanes]
@[simp] theorem Group.mapLanes_s : (g.mapLanes f).s = g.s := by simp only [Group.mapLanes]
@[simp] theorem Group.mapLanes_gp : (g.mapLanes f).gp = g.gp := by simp only [Group.mapLanes]
@[simp] theorem Group.mapLanes_rj : (g.mapLanes f).rj = g.rj := by simp only [Group.mapLanes]
@[simp] theorem Group.mapLanes_lc : (g.mapLanes f).lc = g.lc := by simp only [Group.mapLanes]
@[simp] theorem Group.mapLanes_levels : (g.mapLanes f).levels = g.levels := by simp only [Group.mapLanes]
@[simp] theorem Group.mapLanes_fmode : (g.mapLanes f).fmode = g.fmode := by simp only [Group.mapLanes]
@[simp] theorem Group.mapLanes_status : (g.mapLanes f).status = g.status := by simp only [Group.mapLanes]
@[simp] theorem Group.mapLanes_cychi : (g.mapLanes f).cychi = g.cychi := by simp only [Group.mapLanes]
@[simp] theorem Group.mapLanes_vc : (g.mapLanes f).vc = g.vc := by simp only [Group.mapLanes]
@[simp] theorem Group.mapLanes_obs : (g.mapLanes f).obs = g.obs := by simp only [Group.mapLanes]
@[simp] theorem Group.mapLanes_cc : (g.mapLanes f).cc = g.cc := by simp only [Group.mapLanes]
@[simp] theorem Group.mapLanes_relCarry : (g.mapLanes f).relCarry = g.relCarry := by simp only [Group.mapLanes]
@[simp] theorem Group.mapLanes_acq : (g.mapLanes f).acq = g.acq := by simp only [Group.mapLanes]
@[simp] theorem Group.mapLanes_mustSee : (g.mapLanes f).mustSee = g.mustSee := by simp only [Group.mapLanes]
@[simp] theorem Group.mapLanes_readFrom : (g.mapLanes f).readFrom = g.readFrom := by simp only [Group.mapLanes]
@[simp] theorem Group.mapLanes_pclass : (g.mapLanes f).pclass = g.pclass := by simp only [Group.mapLanes]
@[simp] theorem Group.mapLanes_tilexy : (g.mapLanes f).tilexy = g.tilexy := by simp only [Group.mapLanes]
@[simp] theorem Group.mapLanes_tilever : (g.mapLanes f).tilever = g.tilever := by simp only [Group.mapLanes]
@[simp] theorem Group.mapLanes_gridid : (g.mapLanes f).gridid = g.gridid := by simp only [Group.mapLanes]
@[simp] theorem Group.mapLanes_seen : (g.mapLanes f).seen = g.seen := by simp only [Group.mapLanes]
@[simp] theorem Group.mapLanes_stale : (g.mapLanes f).stale = g.stale := by simp only [Group.mapLanes]
@[simp] theorem Group.mapLanes_copySeq : (g.mapLanes f).copySeq = g.copySeq := by simp only [Group.mapLanes]
@[simp] theorem Group.mapLanes_tag : (g.mapLanes f).tag = g.tag := by simp only [Group.mapLanes]
@[simp] theorem Group.mapLanes_pin : (g.mapLanes f).pin = g.pin := by simp only [Group.mapLanes]
@[simp] theorem Group.mapLanes_wait : (g.mapLanes f).wait = g.wait := by simp only [Group.mapLanes]
@[simp] theorem Group.mapLanes_walk : (g.mapLanes f).walk = g.walk := by simp only [Group.mapLanes]
@[simp] theorem Group.mapLanes_walkFail : (g.mapLanes f).walkFail = g.walkFail := by simp only [Group.mapLanes]
@[simp] theorem Group.mapLanes_trap : (g.mapLanes f).trap = g.trap := by simp only [Group.mapLanes]
@[simp] theorem Group.mapLanes_saveStop : (g.mapLanes f).saveStop = g.saveStop := by simp only [Group.mapLanes]
@[simp] theorem Group.mapLanes_arr : (g.mapLanes f).arr = g.arr := by simp only [Group.mapLanes]
@[simp] theorem Group.mapLanes_opened : (g.mapLanes f).opened = g.opened := by simp only [Group.mapLanes]
@[simp] theorem Group.mapLanes_shed : (g.mapLanes f).shed = g.shed := by simp only [Group.mapLanes]
@[simp] theorem Group.mapLanes_stopping : (g.mapLanes f).stopping = g.stopping := by simp only [Group.mapLanes]
@[simp] theorem Group.mapLanes_stopped : (g.mapLanes f).stopped = g.stopped := by simp only [Group.mapLanes]
@[simp] theorem Group.mapLanes_recLoads : (g.mapLanes f).recLoads = g.recLoads := by simp only [Group.mapLanes]
@[simp] theorem Group.mapLanes_priv : (g.mapLanes f).priv = g.priv := by simp only [Group.mapLanes]
@[simp] theorem Group.mapLanes_replayed : (g.mapLanes f).replayed = g.replayed := by simp only [Group.mapLanes]
@[simp] theorem Group.mapLanes_log : (g.mapLanes f).log = g.log := by simp only [Group.mapLanes]
@[simp] theorem Group.mapLanes_blocked : (g.mapLanes f).blocked = g.blocked := by simp only [Group.mapLanes]
@[simp] theorem Group.mapLanes_stalled : (g.mapLanes f).stalled = g.stalled := by simp only [Group.mapLanes]
@[simp] theorem Group.mapLanes_stallPosted : (g.mapLanes f).stallPosted = g.stallPosted := by simp only [Group.mapLanes]
end mapLanesFields
section mapOnFields
variable (g : Group) (m : Mask) (f : LaneIx → Lane → Lane)
@[simp] theorem Group.mapOn_team : (g.mapOn m f).team = g.team := by simp only [Group.mapOn]; simp only [Group.mapLanes]
@[simp] theorem Group.mapOn_grpix : (g.mapOn m f).grpix = g.grpix := by simp only [Group.mapOn]; simp only [Group.mapLanes]
@[simp] theorem Group.mapOn_lanes : (g.mapOn m f).lanes = Vector.ofFn fun k => if Mask.has m k then f k (g.lanes.get k) else g.lanes.get k := by simp only [Group.mapOn]; simp only [Group.mapLanes]
@[simp] theorem Group.mapOn_s : (g.mapOn m f).s = g.s := by simp only [Group.mapOn]; simp only [Group.mapLanes]
@[simp] theorem Group.mapOn_gp : (g.mapOn m f).gp = g.gp := by simp only [Group.mapOn]; simp only [Group.mapLanes]
@[simp] theorem Group.mapOn_rj : (g.mapOn m f).rj = g.rj := by simp only [Group.mapOn]; simp only [Group.mapLanes]
@[simp] theorem Group.mapOn_lc : (g.mapOn m f).lc = g.lc := by simp only [Group.mapOn]; simp only [Group.mapLanes]
@[simp] theorem Group.mapOn_levels : (g.mapOn m f).levels = g.levels := by simp only [Group.mapOn]; simp only [Group.mapLanes]
@[simp] theorem Group.mapOn_fmode : (g.mapOn m f).fmode = g.fmode := by simp only [Group.mapOn]; simp only [Group.mapLanes]
@[simp] theorem Group.mapOn_status : (g.mapOn m f).status = g.status := by simp only [Group.mapOn]; simp only [Group.mapLanes]
@[simp] theorem Group.mapOn_cychi : (g.mapOn m f).cychi = g.cychi := by simp only [Group.mapOn]; simp only [Group.mapLanes]
@[simp] theorem Group.mapOn_vc : (g.mapOn m f).vc = g.vc := by simp only [Group.mapOn]; simp only [Group.mapLanes]
@[simp] theorem Group.mapOn_obs : (g.mapOn m f).obs = g.obs := by simp only [Group.mapOn]; simp only [Group.mapLanes]
@[simp] theorem Group.mapOn_cc : (g.mapOn m f).cc = g.cc := by simp only [Group.mapOn]; simp only [Group.mapLanes]
@[simp] theorem Group.mapOn_relCarry : (g.mapOn m f).relCarry = g.relCarry := by simp only [Group.mapOn]; simp only [Group.mapLanes]
@[simp] theorem Group.mapOn_acq : (g.mapOn m f).acq = g.acq := by simp only [Group.mapOn]; simp only [Group.mapLanes]
@[simp] theorem Group.mapOn_mustSee : (g.mapOn m f).mustSee = g.mustSee := by simp only [Group.mapOn]; simp only [Group.mapLanes]
@[simp] theorem Group.mapOn_readFrom : (g.mapOn m f).readFrom = g.readFrom := by simp only [Group.mapOn]; simp only [Group.mapLanes]
@[simp] theorem Group.mapOn_pclass : (g.mapOn m f).pclass = g.pclass := by simp only [Group.mapOn]; simp only [Group.mapLanes]
@[simp] theorem Group.mapOn_tilexy : (g.mapOn m f).tilexy = g.tilexy := by simp only [Group.mapOn]; simp only [Group.mapLanes]
@[simp] theorem Group.mapOn_tilever : (g.mapOn m f).tilever = g.tilever := by simp only [Group.mapOn]; simp only [Group.mapLanes]
@[simp] theorem Group.mapOn_gridid : (g.mapOn m f).gridid = g.gridid := by simp only [Group.mapOn]; simp only [Group.mapLanes]
@[simp] theorem Group.mapOn_seen : (g.mapOn m f).seen = g.seen := by simp only [Group.mapOn]; simp only [Group.mapLanes]
@[simp] theorem Group.mapOn_stale : (g.mapOn m f).stale = g.stale := by simp only [Group.mapOn]; simp only [Group.mapLanes]
@[simp] theorem Group.mapOn_copySeq : (g.mapOn m f).copySeq = g.copySeq := by simp only [Group.mapOn]; simp only [Group.mapLanes]
@[simp] theorem Group.mapOn_tag : (g.mapOn m f).tag = g.tag := by simp only [Group.mapOn]; simp only [Group.mapLanes]
@[simp] theorem Group.mapOn_pin : (g.mapOn m f).pin = g.pin := by simp only [Group.mapOn]; simp only [Group.mapLanes]
@[simp] theorem Group.mapOn_wait : (g.mapOn m f).wait = g.wait := by simp only [Group.mapOn]; simp only [Group.mapLanes]
@[simp] theorem Group.mapOn_walk : (g.mapOn m f).walk = g.walk := by simp only [Group.mapOn]; simp only [Group.mapLanes]
@[simp] theorem Group.mapOn_walkFail : (g.mapOn m f).walkFail = g.walkFail := by simp only [Group.mapOn]; simp only [Group.mapLanes]
@[simp] theorem Group.mapOn_trap : (g.mapOn m f).trap = g.trap := by simp only [Group.mapOn]; simp only [Group.mapLanes]
@[simp] theorem Group.mapOn_saveStop : (g.mapOn m f).saveStop = g.saveStop := by simp only [Group.mapOn]; simp only [Group.mapLanes]
@[simp] theorem Group.mapOn_arr : (g.mapOn m f).arr = g.arr := by simp only [Group.mapOn]; simp only [Group.mapLanes]
@[simp] theorem Group.mapOn_opened : (g.mapOn m f).opened = g.opened := by simp only [Group.mapOn]; simp only [Group.mapLanes]
@[simp] theorem Group.mapOn_shed : (g.mapOn m f).shed = g.shed := by simp only [Group.mapOn]; simp only [Group.mapLanes]
@[simp] theorem Group.mapOn_stopping : (g.mapOn m f).stopping = g.stopping := by simp only [Group.mapOn]; simp only [Group.mapLanes]
@[simp] theorem Group.mapOn_stopped : (g.mapOn m f).stopped = g.stopped := by simp only [Group.mapOn]; simp only [Group.mapLanes]
@[simp] theorem Group.mapOn_recLoads : (g.mapOn m f).recLoads = g.recLoads := by simp only [Group.mapOn]; simp only [Group.mapLanes]
@[simp] theorem Group.mapOn_priv : (g.mapOn m f).priv = g.priv := by simp only [Group.mapOn]; simp only [Group.mapLanes]
@[simp] theorem Group.mapOn_replayed : (g.mapOn m f).replayed = g.replayed := by simp only [Group.mapOn]; simp only [Group.mapLanes]
@[simp] theorem Group.mapOn_log : (g.mapOn m f).log = g.log := by simp only [Group.mapOn]; simp only [Group.mapLanes]
@[simp] theorem Group.mapOn_blocked : (g.mapOn m f).blocked = g.blocked := by simp only [Group.mapOn]; simp only [Group.mapLanes]
@[simp] theorem Group.mapOn_stalled : (g.mapOn m f).stalled = g.stalled := by simp only [Group.mapOn]; simp only [Group.mapLanes]
@[simp] theorem Group.mapOn_stallPosted : (g.mapOn m f).stallPosted = g.stallPosted := by simp only [Group.mapOn]; simp only [Group.mapLanes]
end mapOnFields
section updLevelFields
variable (g : Group) (n : Nat) (f : Level → Level)
@[simp] theorem Group.updLevel_team : (g.updLevel n f).team = g.team := by simp only [Group.updLevel]
@[simp] theorem Group.updLevel_grpix : (g.updLevel n f).grpix = g.grpix := by simp only [Group.updLevel]
@[simp] theorem Group.updLevel_lanes : (g.updLevel n f).lanes = g.lanes := by simp only [Group.updLevel]
@[simp] theorem Group.updLevel_s : (g.updLevel n f).s = g.s := by simp only [Group.updLevel]
@[simp] theorem Group.updLevel_gp : (g.updLevel n f).gp = g.gp := by simp only [Group.updLevel]
@[simp] theorem Group.updLevel_rj : (g.updLevel n f).rj = g.rj := by simp only [Group.updLevel]
@[simp] theorem Group.updLevel_lc : (g.updLevel n f).lc = g.lc := by simp only [Group.updLevel]
@[simp] theorem Group.updLevel_levels : (g.updLevel n f).levels = g.levels.zipIdx.map fun e => if e.2 = n then f e.1 else e.1 := by simp only [Group.updLevel]
@[simp] theorem Group.updLevel_fmode : (g.updLevel n f).fmode = g.fmode := by simp only [Group.updLevel]
@[simp] theorem Group.updLevel_status : (g.updLevel n f).status = g.status := by simp only [Group.updLevel]
@[simp] theorem Group.updLevel_cychi : (g.updLevel n f).cychi = g.cychi := by simp only [Group.updLevel]
@[simp] theorem Group.updLevel_vc : (g.updLevel n f).vc = g.vc := by simp only [Group.updLevel]
@[simp] theorem Group.updLevel_obs : (g.updLevel n f).obs = g.obs := by simp only [Group.updLevel]
@[simp] theorem Group.updLevel_cc : (g.updLevel n f).cc = g.cc := by simp only [Group.updLevel]
@[simp] theorem Group.updLevel_relCarry : (g.updLevel n f).relCarry = g.relCarry := by simp only [Group.updLevel]
@[simp] theorem Group.updLevel_acq : (g.updLevel n f).acq = g.acq := by simp only [Group.updLevel]
@[simp] theorem Group.updLevel_mustSee : (g.updLevel n f).mustSee = g.mustSee := by simp only [Group.updLevel]
@[simp] theorem Group.updLevel_readFrom : (g.updLevel n f).readFrom = g.readFrom := by simp only [Group.updLevel]
@[simp] theorem Group.updLevel_pclass : (g.updLevel n f).pclass = g.pclass := by simp only [Group.updLevel]
@[simp] theorem Group.updLevel_tilexy : (g.updLevel n f).tilexy = g.tilexy := by simp only [Group.updLevel]
@[simp] theorem Group.updLevel_tilever : (g.updLevel n f).tilever = g.tilever := by simp only [Group.updLevel]
@[simp] theorem Group.updLevel_gridid : (g.updLevel n f).gridid = g.gridid := by simp only [Group.updLevel]
@[simp] theorem Group.updLevel_seen : (g.updLevel n f).seen = g.seen := by simp only [Group.updLevel]
@[simp] theorem Group.updLevel_stale : (g.updLevel n f).stale = g.stale := by simp only [Group.updLevel]
@[simp] theorem Group.updLevel_copySeq : (g.updLevel n f).copySeq = g.copySeq := by simp only [Group.updLevel]
@[simp] theorem Group.updLevel_tag : (g.updLevel n f).tag = g.tag := by simp only [Group.updLevel]
@[simp] theorem Group.updLevel_pin : (g.updLevel n f).pin = g.pin := by simp only [Group.updLevel]
@[simp] theorem Group.updLevel_wait : (g.updLevel n f).wait = g.wait := by simp only [Group.updLevel]
@[simp] theorem Group.updLevel_walk : (g.updLevel n f).walk = g.walk := by simp only [Group.updLevel]
@[simp] theorem Group.updLevel_walkFail : (g.updLevel n f).walkFail = g.walkFail := by simp only [Group.updLevel]
@[simp] theorem Group.updLevel_trap : (g.updLevel n f).trap = g.trap := by simp only [Group.updLevel]
@[simp] theorem Group.updLevel_saveStop : (g.updLevel n f).saveStop = g.saveStop := by simp only [Group.updLevel]
@[simp] theorem Group.updLevel_arr : (g.updLevel n f).arr = g.arr := by simp only [Group.updLevel]
@[simp] theorem Group.updLevel_opened : (g.updLevel n f).opened = g.opened := by simp only [Group.updLevel]
@[simp] theorem Group.updLevel_shed : (g.updLevel n f).shed = g.shed := by simp only [Group.updLevel]
@[simp] theorem Group.updLevel_stopping : (g.updLevel n f).stopping = g.stopping := by simp only [Group.updLevel]
@[simp] theorem Group.updLevel_stopped : (g.updLevel n f).stopped = g.stopped := by simp only [Group.updLevel]
@[simp] theorem Group.updLevel_recLoads : (g.updLevel n f).recLoads = g.recLoads := by simp only [Group.updLevel]
@[simp] theorem Group.updLevel_priv : (g.updLevel n f).priv = g.priv := by simp only [Group.updLevel]
@[simp] theorem Group.updLevel_replayed : (g.updLevel n f).replayed = g.replayed := by simp only [Group.updLevel]
@[simp] theorem Group.updLevel_log : (g.updLevel n f).log = g.log := by simp only [Group.updLevel]
@[simp] theorem Group.updLevel_blocked : (g.updLevel n f).blocked = g.blocked := by simp only [Group.updLevel]
@[simp] theorem Group.updLevel_stalled : (g.updLevel n f).stalled = g.stalled := by simp only [Group.updLevel]
@[simp] theorem Group.updLevel_stallPosted : (g.updLevel n f).stallPosted = g.stallPosted := by simp only [Group.updLevel]
end updLevelFields

end Sys2Proof.Machine
end

