-- ==== Sys2Proof/Laws/Lanes.lean ====
section
/-! SUPPORT. Laws of lane masks and of the lanes of a group. -/

namespace Sys2Proof.Machine

@[simp] theorem mem_allLanes (l : LaneIx) : l ∈ allLanes := List.mem_finRange l

theorem getLsbD_one_shift (l k : LaneIx) : ((1#32) <<< l.val).getLsbD k.val = decide (k = l) := by
  revert l k; decide

@[simp] theorem Mask.has_or (a b : Mask) (l : LaneIx) : Mask.has (a ||| b) l = (Mask.has a l || Mask.has b l) := by
  simp [Mask.has]
@[simp] theorem Mask.has_and (a b : Mask) (l : LaneIx) : Mask.has (a &&& b) l = (Mask.has a l && Mask.has b l) := by
  simp [Mask.has]
@[simp] theorem Mask.has_not (a : Mask) (l : LaneIx) : Mask.has (~~~a) l = !Mask.has a l := by
  simp [Mask.has, l.isLt]
@[simp] theorem Mask.has_zero (l : LaneIx) : Mask.has 0#32 l = false := by simp [Mask.has]
@[simp] theorem Mask.has_full (l : LaneIx) : Mask.has 0xFFFFFFFF#32 l = true := by revert l; decide

theorem maskFold_has (p : LaneIx → Bool) (ls : List LaneIx) (m : Mask) (l : LaneIx) :
    Mask.has (ls.foldl (fun m l => if p l then m ||| ((1#32) <<< l.val) else m) m) l = (Mask.has m l || (decide (l ∈ ls) && p l)) := by
  induction ls generalizing m with
  | nil => simp
  | cons a t ih =>
    rw [List.foldl_cons, ih]
    by_cases hp : p a
    · simp only [hp, if_true, Mask.has_or]
      have : Mask.has ((1#32) <<< a.val) l = decide (l = a) := getLsbD_one_shift a l
      rw [this]
      by_cases hl : l = a <;> simp [hl, hp]
    · by_cases hl : l = a
      · simp [hp, hl]
      · simp [hp, hl]

/-- A mask made from a condition holds exactly the lanes that satisfy it. -/
@[simp] theorem Mask.has_maskOf (p : LaneIx → Bool) (l : LaneIx) : Mask.has (maskOf p) l = p l := by
  simp [maskOf, maskFold_has]

/-- Two masks with the same lanes are one. -/
theorem Mask.ext' {a b : Mask} (h : ∀ l : LaneIx, Mask.has a l = Mask.has b l) : a = b := by
  apply BitVec.eq_of_getLsbD_eq
  intro i hi
  exact h ⟨i, hi⟩

@[simp] theorem Mask.mem_lanes (m : Mask) (l : LaneIx) : l ∈ Mask.lanes m ↔ Mask.has m l = true := by
  simp [Mask.lanes]

theorem Mask.has_of_low {m : Mask} {l : LaneIx} (h : Mask.low m = some l) : Mask.has m l = true :=
  (Mask.mem_lanes m l).mp (List.mem_of_head? h)

theorem Mask.low_none {m : Mask} (h : Mask.low m = none) (l : LaneIx) : Mask.has m l = false := by
  by_contra hc
  have : l ∈ Mask.lanes m := (Mask.mem_lanes m l).mpr (by simpa using hc)
  rw [List.head?_eq_none_iff.mp h] at this
  cases this

@[simp] theorem Mask.has_add (m : Mask) (l k : LaneIx) : Mask.has (Mask.add m l) k = (Mask.has m k || decide (k = l)) := by
  have h : Mask.has ((1#32) <<< l.val) k = decide (k = l) := getLsbD_one_shift l k
  simp [Mask.add, h]

@[simp] theorem Mask.has_drop (m : Mask) (l k : LaneIx) : Mask.has (Mask.drop m l) k = (Mask.has m k && !decide (k = l)) := by
  have h : Mask.has ((1#32) <<< l.val) k = decide (k = l) := getLsbD_one_shift l k
  simp [Mask.drop, h]

/-! ### Lanes of a group -/

@[simp] theorem get_ofFn_lane {α : Type} (f : Fin 32 → α) (l : LaneIx) : (Vector.ofFn f).get l = f l := by
  rw [Vector.get_eq_getElem, Vector.getElem_ofFn]

@[simp] theorem Group.lane_setLane (g : Group) (l k : LaneIx) (v : Lane) :
    (g.setLane l v).lane k = if k = l then v else g.lane k := by simp [Group.lane]
@[simp] theorem Group.lane_mapLanes (g : Group) (f : LaneIx → Lane → Lane) (l : LaneIx) :
    (g.mapLanes f).lane l = f l (g.lane l) := by simp [Group.lane]
@[simp] theorem Group.lane_mapOn (g : Group) (m : Mask) (f : LaneIx → Lane → Lane) (l : LaneIx) :
    (g.mapOn m f).lane l = if Mask.has m l then f l (g.lane l) else g.lane l := by simp [Group.lane]
@[simp] theorem Group.lane_updLevel (g : Group) (n : Nat) (f : Level → Level) (l : LaneIx) :
    (g.updLevel n f).lane l = g.lane l := by simp [Group.lane]

theorem Group.ext_lanes {g h : Group} (e : ∀ l, g.lane l = h.lane l) : g.lanes = h.lanes := by
  apply Vector.ext
  intro i hi
  exact e ⟨i, hi⟩

end Sys2Proof.Machine
end

