-- ==== Sys2Proof/Laws/Tab.lean ====
section
/-! SUPPORT. Laws of tables: reading after a change, and the changes keep rising keys and the canonical form. -/

namespace Sys2Proof.Machine

variable {α : Type}

@[simp] theorem Tab.find_nil (k : Nat) : Tab.find ([] : Tab α) k = none := rfl
theorem Tab.find_cons (k' : Nat) (v : α) (t : Tab α) (k : Nat) :
    Tab.find ((k', v) :: t) k = if k' = k then some v else Tab.find t k := rfl

theorem Tab.find_del (m : Tab α) (a k : Nat) : (Tab.del m a).find k = if k = a then none else m.find k := by
  induction m with
  | nil => simp [Tab.del]
  | cons e t ih =>
    obtain ⟨k', v⟩ := e
    simp only [Tab.del]
    split <;> simp only [Tab.find_cons, ih] <;> split_ifs <;> simp_all

theorem Tab.find_ins (m : Tab α) (a : Nat) (v : α) (k : Nat) (h : m.find a = none) :
    (Tab.ins m a v).find k = if k = a then some v else m.find k := by
  induction m with
  | nil => simp [Tab.ins, Tab.find_cons, eq_comm]
  | cons e t ih =>
    obtain ⟨k', v'⟩ := e
    rw [Tab.find_cons] at h
    split at h
    · cases h
    · rename_i hk
      simp only [Tab.ins]
      split <;> simp only [Tab.find_cons, ih h, eq_comm (a := a)] <;> split_ifs <;> first | rfl | omega

/-- Reading after a write. -/
@[simp] theorem Tab.find_put (m : Tab α) (a : Nat) (v : α) (k : Nat) :
    (m.put a v).find k = if k = a then some v else m.find k := by
  rw [Tab.put, Tab.find_ins _ _ _ _ (by simp [Tab.find_del]), Tab.find_del]
  split_ifs <;> rfl

theorem Tab.find_upd (m : Tab α) (a : Nat) (f : α → α) (k : Nat) :
    (m.upd a f).find k = if k = a then (m.find k).map f else m.find k := by
  induction m with
  | nil => simp [Tab.upd]
  | cons e t ih =>
    obtain ⟨k', v⟩ := e
    simp only [Tab.upd]
    split <;> simp only [Tab.find_cons, ih] <;> split_ifs <;> simp_all

/-- Changing an entry to itself changes nothing. -/
theorem Tab.upd_self (m : Tab α) (a : Nat) (f : α → α) (h : ∀ v, m.find a = some v → f v = v) : m.upd a f = m := by
  induction m with
  | nil => rfl
  | cons e t ih =>
    obtain ⟨k', v⟩ := e
    simp only [Tab.upd]
    split
    · rename_i hk; rw [h v (by simp [Tab.find_cons, hk])]
    · rename_i hk; rw [ih fun w hw => h w (by simpa [Tab.find_cons, hk] using hw)]

@[simp] theorem Tab.upd_upd (m : Tab α) (a : Nat) (f g : α → α) : (m.upd a f).upd a g = m.upd a fun v => g (f v) := by
  induction m with
  | nil => rfl
  | cons e t ih =>
    obtain ⟨k', v⟩ := e
    by_cases h : k' = a <;> simp [Tab.upd, h, ih]

theorem Tab.upd_congr (m : Tab α) (a : Nat) (f g : α → α) (h : ∀ v, m.find a = some v → f v = g v) : m.upd a f = m.upd a g := by
  induction m with
  | nil => rfl
  | cons e t ih =>
    obtain ⟨k', v⟩ := e
    simp only [Tab.upd]
    split
    · rename_i hk; rw [h v (by simp [Tab.find_cons, hk])]
    · rename_i hk; rw [ih fun w hw => h w (by simpa [Tab.find_cons, hk] using hw)]

section total
variable [DecidableEq α]

/-- Reading a total table after a write. -/
@[simp] theorem Tab.getD_setD (m : Tab α) (d : α) (a : Nat) (v : α) (k : Nat) :
    (m.setD d a v).getD d k = if k = a then v else m.getD d k := by
  unfold Tab.setD Tab.getD
  split <;> rename_i hv
  · rw [Tab.find_del]; split_ifs <;> simp_all
  · rw [Tab.find_put]; split_ifs <;> simp_all

end total

/-! ### Rising keys -/

theorem Tab.rising_tail {e : Nat × α} {t : Tab α} (h : Tab.rising (e :: t) = true) : Tab.rising t = true := by
  match t with
  | [] => rfl
  | _ :: _ => simp [Tab.rising] at h; exact h.2

theorem Tab.rising_cons {e : Nat × α} {t : Tab α} :
    Tab.rising (e :: t) = true ↔ Tab.rising t = true ∧ ∀ x, t.head? = some x → e.1 < x.1 := by
  match t with
  | [] => simp [Tab.rising]
  | _ :: _ => simp [Tab.rising, and_comm]

theorem Tab.rising_lt {e : Nat × α} {t : Tab α} (h : Tab.rising (e :: t) = true) : ∀ x ∈ t, e.1 < x.1 := by
  induction t generalizing e with
  | nil => simp
  | cons b t ih =>
    have h1 := Tab.rising_cons.mp h
    intro x hx
    rcases List.mem_cons.mp hx with rfl | hx
    · exact h1.2 _ rfl
    · exact lt_trans (h1.2 _ rfl) (ih h1.1 x hx)

theorem Tab.mem_del {m : Tab α} {a : Nat} {e : Nat × α} (h : e ∈ Tab.del m a) : e ∈ m ∧ e.1 ≠ a := by
  induction m with
  | nil => simp [Tab.del] at h
  | cons b t ih =>
    obtain ⟨k', v⟩ := b
    simp only [Tab.del] at h
    split at h
    · exact ⟨List.mem_cons_of_mem _ (ih h).1, (ih h).2⟩
    · rcases List.mem_cons.mp h with rfl | h
      · exact ⟨by simp, by assumption⟩
      · exact ⟨List.mem_cons_of_mem _ (ih h).1, (ih h).2⟩

theorem Tab.rising_of_lt {e : Nat × α} {t : Tab α} (h : Tab.rising t = true) (hl : ∀ x ∈ t, e.1 < x.1) :
    Tab.rising (e :: t) = true :=
  Tab.rising_cons.mpr ⟨h, fun x hx => hl x (List.mem_of_head? hx)⟩

theorem Tab.rising_del (m : Tab α) (a : Nat) (h : Tab.rising m = true) : Tab.rising (Tab.del m a) = true := by
  induction m with
  | nil => rfl
  | cons b t ih =>
    obtain ⟨k', v⟩ := b
    simp only [Tab.del]
    split
    · exact ih (Tab.rising_tail h)
    · exact Tab.rising_of_lt (ih (Tab.rising_tail h)) fun x hx => Tab.rising_lt h x (Tab.mem_del hx).1

theorem Tab.mem_ins {m : Tab α} {a : Nat} {v : α} {e : Nat × α} (h : e ∈ Tab.ins m a v) : e = (a, v) ∨ e ∈ m := by
  induction m with
  | nil => simpa [Tab.ins] using h
  | cons b t ih =>
    obtain ⟨k', v'⟩ := b
    simp only [Tab.ins] at h
    split at h
    · simpa using h
    · rcases List.mem_cons.mp h with rfl | h
      · simp
      · rcases ih h with rfl | h <;> simp [*]

theorem Tab.rising_ins (m : Tab α) (a : Nat) (v : α) (h : Tab.rising m = true) (ha : ∀ x ∈ m, x.1 ≠ a) :
    Tab.rising (Tab.ins m a v) = true := by
  induction m with
  | nil => rfl
  | cons b t ih =>
    obtain ⟨k', v'⟩ := b
    simp only [Tab.ins]
    split
    · rename_i hlt
      refine Tab.rising_of_lt h fun x hx => ?_
      rcases List.mem_cons.mp hx with rfl | hx
      · exact hlt
      · exact lt_trans hlt (Tab.rising_lt h x hx)
    · rename_i hge
      have hne : k' ≠ a := ha (k', v') (by simp)
      refine Tab.rising_of_lt (ih (Tab.rising_tail h) fun x hx => ha x (by simp [hx])) fun x hx => ?_
      rcases Tab.mem_ins hx with rfl | hx
      · show k' < a; omega
      · exact Tab.rising_lt h x hx

/-- A write keeps the keys rising. -/
theorem Tab.rising_put (m : Tab α) (a : Nat) (v : α) (h : Tab.rising m = true) : Tab.rising (m.put a v) = true :=
  Tab.rising_ins _ _ _ (Tab.rising_del m a h) fun _ hx => (Tab.mem_del hx).2

theorem Tab.canon_iff [DecidableEq α] (m : Tab α) (d : α) :
    Tab.canon m d = true ↔ Tab.rising m = true ∧ ∀ e ∈ m, e.2 ≠ d := by
  simp [Tab.canon]

/-- A write to a total table keeps its canonical form. -/
theorem Tab.canon_setD [DecidableEq α] (m : Tab α) (d : α) (a : Nat) (v : α) (h : Tab.canon m d = true) :
    Tab.canon (m.setD d a v) d = true := by
  rw [Tab.canon_iff] at h ⊢
  unfold Tab.setD
  split
  · exact ⟨Tab.rising_del _ _ h.1, fun e he => h.2 e (Tab.mem_del he).1⟩
  · rename_i hv
    refine ⟨Tab.rising_put _ _ _ h.1, fun e he => ?_⟩
    rcases Tab.mem_ins he with rfl | he
    · exact hv
    · exact h.2 e (Tab.mem_del he).1

end Sys2Proof.Machine
end

