-- ==== Sys2Proof/Laws/Issue.lean ====
section
/-! SUPPORT. What the end of an issue does to its group: nothing but where the lanes stand changes. -/

namespace Sys2Proof.Machine

/-! ### Normal form of what stays -/

theorem Lane.still_eq_iff (v w : Lane) : v.still = w.still ↔ { w with pc := v.pc, st := v.st, starve := v.starve } = v := by
  cases v; cases w; simp [Lane.still]; tauto

/-- Two groups with the same still part: lane by lane, and in every other field. -/
theorem Group.still_congr {g h : Group} (hl : ∀ l, (g.lane l).still = (h.lane l).still)
    (hr : { g with lanes := h.lanes, rj := h.rj, lc := h.lc, levels := h.levels, pin := h.pin, wait := h.wait, acq := h.acq } = h) :
    g.still = h.still := by
  have h1 : (g.mapLanes fun _ v => v.still).lanes = (h.mapLanes fun _ v => v.still).lanes :=
    Group.ext_lanes fun l => by simp [hl]
  simp only [Group.still, Group.mapLanes] at h1 ⊢
  rw [h1, ← hr]

theorem Group.lane_still (g : Group) (l : LaneIx) : g.still.lane l = (g.lane l).still := by
  simp [Group.still, Group.lane, Group.mapLanes]

theorem Group.still_setLane (g : Group) (l : LaneIx) (v : Lane) (h : v.still = (g.lane l).still) : (g.setLane l v).still = g.still := by
  apply Group.still_congr
  · intro k; simp only [Group.lane_setLane]; split
    · subst k; exact h
    · rfl
  · simp [Group.setLane]

theorem Group.still_mapLanes (g : Group) (f : LaneIx → Lane → Lane) (h : ∀ l v, (f l v).still = v.still) :
    (g.mapLanes f).still = g.still := by
  apply Group.still_congr
  · intro k; simp [h]
  · simp [Group.mapLanes]

theorem Group.still_mapOn (g : Group) (m : Mask) (f : LaneIx → Lane → Lane) (h : ∀ l v, (f l v).still = v.still) :
    (g.mapOn m f).still = g.still := by
  unfold Group.mapOn
  apply Group.still_mapLanes
  intro l v; split <;> simp [h]

@[simp] theorem Group.still_levels (g : Group) (ls : List Level) : Group.still { g with levels := ls } = g.still := by
  simp [Group.still, Group.mapLanes]
@[simp] theorem Group.still_lc (g : Group) (v : Vector Word 3) : Group.still { g with lc := v } = g.still := by
  simp [Group.still, Group.mapLanes]
@[simp] theorem Group.still_rj (g : Group) (v : Vector Mask 8) : Group.still { g with rj := v } = g.still := by
  simp [Group.still, Group.mapLanes]
@[simp] theorem Group.still_updLevel (g : Group) (n : Nat) (f : Level → Level) : (g.updLevel n f).still = g.still := by
  simp [Group.updLevel]

/-- Moving a lane on changes nothing that stays (13 R293, R294). -/
@[simp] theorem Group.still_moveLane (g : Group) (l : LaneIx) (pc next : Word) : (g.moveLane l pc next).still = g.still := by
  unfold Group.moveLane
  split
  · rw [Group.still_setLane, Group.still_updLevel]
    simp [Lane.still]
  · rw [Group.still_levels, Group.still_setLane]
    simp [Lane.still]

theorem foldl_still {α : Type} (f : Group → α → Group) (h : ∀ g a, (f g a).still = g.still) (ls : List α) (g : Group) :
    (ls.foldl f g).still = g.still := by
  induction ls generalizing g with
  | nil => rfl
  | cons a t ih => rw [List.foldl_cons, ih, h]

@[simp] theorem Group.still_dropLevel (g : Group) (n : Nat) : (g.dropLevel n).still = g.still := by
  unfold Group.dropLevel
  rw [Group.still_mapLanes]
  · simp [Group.still, Group.mapLanes]
  · intro l v; split
    · split <;> simp [Lane.still]
    · rfl

@[simp] theorem Group.still_decideLevel (g : Group) (n : Nat) (lv : Level) : (g.decideLevel n lv).still = g.still := by
  unfold Group.decideLevel
  dsimp only
  split
  · rw [Group.still_mapOn _ _ _ fun l v => by simp [Lane.still], Group.still_updLevel, Group.still_lc]
  · rw [foldl_still _ fun g l => by simp, Group.still_mapOn _ _ _ fun l v => by simp [Lane.still], Group.still_dropLevel]

@[simp] theorem Group.still_settleLoops (g : Group) (fuel : Nat) : (g.settleLoops fuel).still = g.still := by
  induction fuel generalizing g with
  | zero => rfl
  | succ n ih =>
    unfold Group.settleLoops
    split
    · rfl
    · rw [ih, Group.still_decideLevel]

@[simp] theorem Group.still_releaseRejoin (g : Group) (k : Nat) : (g.releaseRejoin k).still = g.still := by
  unfold Group.releaseRejoin
  dsimp only
  rw [foldl_still _ fun g l => by simp, Group.still_mapOn _ _ _ fun l v => by simp [Lane.still], Group.still_rj]

@[simp] theorem Group.still_settle (g : Group) : g.settle.still = g.still := by
  unfold Group.settle
  dsimp only
  rw [Group.still_settleLoops, foldl_still]
  intro g a; split <;> simp

@[simp] theorem Group.still_countIssue (g : Group) (act : Mask) : (g.countIssue act).still = g.still := by
  unfold Group.countIssue
  dsimp only
  rw [Group.still_mapLanes]
  intro l v
  split
  · simp [Lane.still]
  · split <;> simp [Lane.still]

@[simp] theorem Group.still_unpin (g : Group) : Group.still { g with pin := none, wait := .none, acq := false } = g.still := by
  simp [Group.still, Group.mapLanes]

/-- The end of an issue changes of its group only where the lanes stand (13 R282, R289 to R294). -/
@[simp] theorem Group.still_advance (g : Group) (x : Issue) (moved : Mask) (next : LaneIx → Word) :
    (g.advance x moved next).still = g.still := by
  unfold Group.advance
  dsimp only
  rw [Group.still_settle, foldl_still _ fun g l => by simp, Group.still_unpin, Group.still_countIssue]

/-! ### Fields that an equal still part makes equal -/

section
variable {g h : Group} (e : g.still = h.still)
include e

theorem Group.stack_of_still (l : LaneIx) : (g.lane l).stack = (h.lane l).stack := by
  have := congrArg (fun k : Group => (k.lane l).stack) e
  simpa [Group.lane_still, Lane.still] using this
theorem Group.fw_of_still (l : LaneIx) : (g.lane l).fw = (h.lane l).fw := by
  have := congrArg (fun k : Group => (k.lane l).fw) e
  simpa [Group.lane_still, Lane.still] using this
theorem Group.rsig_of_still (l : LaneIx) : (g.lane l).rsig = (h.lane l).rsig := by
  have := congrArg (fun k : Group => (k.lane l).rsig) e
  simpa [Group.lane_still, Lane.still] using this
theorem Group.wb_of_still (l : LaneIx) : (g.lane l).wb = (h.lane l).wb := by
  have := congrArg (fun k : Group => (k.lane l).wb) e
  simpa [Group.lane_still, Lane.still] using this
theorem Group.s_of_still : g.s = h.s := by
  have := congrArg Group.s e
  simpa [Group.still] using this
theorem Group.gp_of_still : g.gp = h.gp := by
  have := congrArg Group.gp e
  simpa [Group.still] using this
theorem Group.cell_of_still (n : Nat) (l : LaneIx) (r : Nat) : g.cell n l r = h.cell n l r := by
  simp only [Group.cell, Lane.slot, Group.stack_of_still e, Group.fw_of_still e, Group.wb_of_still e, Group.s_of_still e]

end

/-! ### The end of an issue -/

theorem foldl_keeps {α β : Type} (f : β → α → β) (b : β) (ls : List α) (h : ∀ a ∈ ls, f b a = b) : ls.foldl f b = b := by
  induction ls with
  | nil => rfl
  | cons a t ih =>
    rw [List.foldl_cons, h a (by simp)]
    exact ih fun x hx => h x (by simp [hx])

theorem firstTrap_none {m : Mask} {trap : LaneIx → Option TrapC} (h : ∀ l, Mask.has m l = true → trap l = none) :
    firstTrap m trap = none := by
  unfold firstTrap
  dsimp only
  rw [foldl_keeps _ none]
  · rfl
  · intro l hl
    rw [h l ((Mask.mem_lanes m l).mp hl)]

theorem done_of_no_trap {m : Mask} {trap : LaneIx → Option TrapC} (h : ∀ l, Mask.has m l = true → trap l = none) :
    (maskOf fun l => Mask.has m l && (trap l).isNone) = m := by
  apply Mask.ext'
  intro l
  rw [Mask.has_maskOf]
  cases hm : Mask.has m l with
  | false => rfl
  | true => rw [h l hm]; rfl

/-- An issue in which no participating lane meets a condition (19 R362): the effect happens for all of them, and all the active
lanes go on. -/
theorem State.finish_of_no_trap (s : State) (x : Issue) (part : Mask) (trap : LaneIx → Option TrapC)
    (eff : Mask → State → State) (next : LaneIx → Word) (h : ∀ l, Mask.has part l = true → trap l = none) :
    s.finish x part trap eff next =
      .next ((eff part s).updGrp x.gid fun g => g.advance x ((part ||| (x.act &&& ~~~part)) &&& ~~~(0#32)) next) := by
  unfold State.finish State.finishStay
  dsimp only
  rw [firstTrap_none h, done_of_no_trap h]

/-- What the unit whose turn it is issues is a group of the state. -/
theorem State.grp_of_issue {s : State} {x : Issue} (h : s.issue = some x) : s.grp x.gid = some x.g := by
  unfold State.issue at h
  split at h
  · cases h
  · obtain ⟨g, hg, h2⟩ := Option.bind_eq_some_iff.mp h
    split at h2
    · cases h2
    · unfold issueOf at h2
      split at h2
      · cases h2
      · dsimp only at h2
        split at h2
        · cases h2
        · cases h2; exact hg

theorem State.withIssue_of {s : State} {x : Issue} (h : s.issue = some x) (k : Issue → Out) : s.withIssue k = k x := by
  simp [State.withIssue, h]

end Sys2Proof.Machine
end

