-- ==== Sys2Proof/Laws/Loops.lean ====
section
/-! SUPPORT. What the choice of loops gives whatever it is: every ordered pair of stations shares a loop (04 R71), and so has a
loop that serves it (04 R73). -/

namespace Sys2Proof.Machine

theorem testBit_foldl_or {α : Type} (g : α → Nat) (l : List α) (m b : Nat) :
    (l.foldl (fun m x => m ||| g x) m).testBit b = (m.testBit b || l.any fun x => (g x).testBit b) := by
  induction l generalizing m with
  | nil => simp
  | cons x l ih => simp [ih, Bool.or_assoc]
/-- A loop's mask has its stations' bits. -/
theorem loopMask_testBit (f : Nat → List Nat) (l b : Nat) : (Config.loopMask f l).testBit b = (f l).contains b := by
  unfold Config.loopMask
  rw [testBit_foldl_or (fun st => 2 ^ st), List.contains_eq_any_beq]
  simp [Nat.testBit_two_pow, eq_comm, Bool.beq_eq_decide_eq]
/-- Loops that meet R71 join every pair of stations. -/
theorem loopsOk_joins (f : Nat → List Nat) (h : Config.loopsOk f = true) (a b : Nat) (ha : a < 72) (hb : b < 72) :
    ∃ l < 28, a ∈ f l ∧ b ∈ f l := by
  simp only [Config.loopsOk, Bool.and_eq_true, List.all_eq_true] at h
  have hm := (h.2 a (List.mem_range.mpr ha)).2
  have ht := congrArg (fun n => Nat.testBit n b) (beq_iff_eq.mp hm)
  rw [testBit_foldl_or] at ht
  simp only [Nat.zero_testBit, Bool.false_or, Nat.testBit_two_pow_sub_one, hb, decide_true, List.any_eq_true, List.mem_filter,
    List.mem_range, loopMask_testBit, List.contains_iff_mem] at ht
  obtain ⟨l, ⟨hl, h1⟩, h2⟩ := ht
  exact ⟨l, hl, h1, h2⟩
/-- The loops of the part meet R71. -/
theorem loopsOk_loopStations (hex : Config.loopsOk Config.loopExample = true) : Config.loopsOk Config.loopStations = true := by
  by_cases h : Config.loopsOk Config.loopChoice = true
  · rwa [show Config.loopStations = Config.loopChoice from funext fun l => if_pos h]
  · rwa [show Config.loopStations = Config.loopExample from funext fun l => if_neg h]
theorem loopsOk_example : Config.loopsOk Config.loopExample = true := by decide +kernel
/-- Every pair of stations of a die shares a loop (R71). -/
theorem shareLoop_all (a b : Nat) (ha : a < 72) (hb : b < 72) : shareLoop a b = true := by
  obtain ⟨l, hl, h1, h2⟩ := loopsOk_joins _ (loopsOk_loopStations loopsOk_example) a b ha hb
  exact List.any_eq_true.mpr ⟨l, List.mem_range.mpr hl, by simp [h1, h2]⟩
/-- A loop among some that passes both stations makes one of them the nearest. -/
theorem nearestLoop_isSome (loops : List Nat) (src dst : Nat) (h : ∃ l ∈ loops, (loopHops l src dst).isSome) :
    (nearestLoop loops src dst).isSome = true := by
  unfold nearestLoop
  rw [Option.isSome_map]
  suffices H : ∀ best : Option (Nat × Nat), (best.isSome = true ∨ ∃ l ∈ loops, (loopHops l src dst).isSome) →
      (loops.foldl (fun (best : Option (Nat × Nat)) l =>
        match loopHops l src dst, best with
        | some h, none => some (h, l)
        | some h, some b => if h < b.1 then some (h, l) else best
        | none, _ => best) best).isSome = true from H none (.inr h)
  clear h
  induction loops with
  | nil => simp
  | cons l ls ih =>
    intro best hb
    apply ih
    simp only [List.mem_cons, exists_eq_or_imp] at hb
    rcases hb with hb | hb | hb
    · left; cases best <;> simp_all; cases loopHops l src dst <;> simp; split <;> simp
    · left; obtain ⟨n, hn⟩ := Option.isSome_iff_exists.mp hb; cases best <;> simp [hn]; split <;> simp
    · exact .inr hb
/-- Every pair of stations of a die has a loop that serves it (R71, R73). -/
theorem loopFor_isSome (a b : Nat) (ha : a < 72) (hb : b < 72) : (loopFor a b).isSome = true := by
  obtain ⟨l, hl, h1, h2⟩ := loopsOk_joins _ (loopsOk_loopStations loopsOk_example) a b ha hb
  refine nearestLoop_isSome _ _ _ ⟨l, List.mem_range.mpr hl, ?_⟩
  have e : ∀ x ∈ Config.loopStations l, ∃ i, (Config.loopStations l).findIdx? (· == x) = some i := fun x hx =>
    Option.isSome_iff_exists.mp (by simp [List.findIdx?_isSome, hx])
  obtain ⟨i, hi⟩ := e a h1
  obtain ⟨j, hj⟩ := e b h2
  simp [loopHops, hi, hj]

end Sys2Proof.Machine
end

