-- ==== Sys2Proof/Laws/Memory.lean ====
section
/-! SUPPORT. Laws of the stored memory: bytes read back, what a write leaves alone, and that every memory operation keeps the
canonical form. -/

namespace Sys2Proof.Machine

/-! ### Bytes -/

theorem putBytes_nil (m : Tab Byte) (a : Nat) : putBytes m a [] = m := rfl

theorem foldl_setD_getD (bs : List (Byte × Nat)) (m : Tab Byte) (a k : Nat) :
    (∀ e ∈ bs, k ≠ a + e.2) → (bs.foldl (fun m e => m.setD 0 (a + e.2) e.1) m).getD 0 k = m.getD 0 k := by
  induction bs generalizing m with
  | nil => intro _; rfl
  | cons e t ih =>
    intro h
    rw [List.foldl_cons, ih _ fun e he => h e (List.mem_cons_of_mem _ he), Tab.getD_setD, if_neg (h e (by simp))]

/-- A write of bytes leaves every other byte as it was. -/
theorem getD_putBytes_outside (m : Tab Byte) (a : Nat) (bs : List Byte) (k : Nat) (h : k < a ∨ a + bs.length ≤ k) :
    (putBytes m a bs).getD 0 k = m.getD 0 k := by
  refine foldl_setD_getD _ _ _ _ fun e he => ?_
  have := List.snd_lt_of_mem_zipIdx he
  omega

/-- Writing one more byte at the end. -/
theorem putBytes_concat (m : Tab Byte) (a : Nat) (bs : List Byte) (b : Byte) :
    putBytes m a (bs ++ [b]) = (putBytes m a bs).setD 0 (a + bs.length) b := by
  simp [putBytes, List.zipIdx_append, List.foldl_append]

/-- A written byte is read back. -/
theorem getD_putBytes (m : Tab Byte) (a : Nat) (bs : List Byte) (i : Nat) (h : i < bs.length) :
    (putBytes m a bs).getD 0 (a + i) = bs[i] := by
  induction bs using List.reverseRecOn with
  | nil => simp at h
  | append_singleton bs b ih =>
    rw [putBytes_concat, Tab.getD_setD]
    rcases Nat.lt_or_ge i bs.length with hi | hi
    · rw [if_neg (by omega), ih hi, List.getElem_append_left hi]
    · have : i = bs.length := by simp at h; omega
      subst this
      simp

/-- Written bytes are read back. -/
theorem getBytes_putBytes (m : Tab Byte) (a : Nat) (bs : List Byte) : getBytes (putBytes m a bs) a bs.length = bs := by
  refine List.ext_getElem (by simp [getBytes]) fun i h _ => ?_
  simp only [getBytes, List.length_map, List.length_range] at h
  simp only [getBytes, List.getElem_map, List.getElem_range]
  exact getD_putBytes m a bs i h

/-- Writing bytes keeps the canonical form. -/
theorem canon_putBytes (m : Tab Byte) (a : Nat) (bs : List Byte) (h : Tab.canon m 0 = true) :
    Tab.canon (putBytes m a bs) 0 = true := by
  unfold putBytes
  generalize bs.zipIdx = l
  induction l generalizing m with
  | nil => exact h
  | cons e t ih => exact ih _ (Tab.canon_setD _ _ _ _ h)

/-! ### The stored memory -/

theorem MemCanonical_reset : MemCanonical State.reset := rfl

/-- Enciphering a block keeps the canonical form. -/
theorem MemCanonical_putBlock (s : State) (lid bn : Nat) (bs : List Byte) (h : MemCanonical s) :
    MemCanonical (s.putBlock lid bn bs) := by
  unfold State.putBlock
  split
  · exact h
  · exact canon_putBytes _ _ _ h

/-- Writing a sector back keeps the canonical form. -/
theorem MemCanonical_putSector (s : State) (lid sn : Nat) (bs : List Byte) (bad : Bool) (h : MemCanonical s) :
    MemCanonical (s.putSector lid sn bs bad) := by
  have hf : ∀ (l : List Nat) (s : State), MemCanonical s →
      MemCanonical (l.foldl (fun s i => s.putBlock lid (4 * sn + i) ((bs.drop (16 * i)).take 16)) s) := by
    intro l
    induction l with
    | nil => exact fun _ h => h
    | cons i t ih => exact fun s h => ih _ (MemCanonical_putBlock _ _ _ _ h)
  have := hf (List.range 4) s h
  unfold State.putSector
  generalize List.foldl _ s (List.range 4) = u at this ⊢
  exact this

/-- Changing cores keeps the stored memory. -/
@[simp] theorem updCore_dram (s : State) (c : Nat) (f : Core → Core) : (s.updCore c f).dram = s.dram := rfl
@[simp] theorem l1Drop_dram (s : State) (c ln : Nat) : (s.l1Drop c ln).dram = s.dram := rfl
@[simp] theorem l1Evict_dram (s : State) (c ln : Nat) : (s.l1Evict c ln).dram = s.dram := by
  unfold State.l1Evict; dsimp only; split <;> rfl
@[simp] theorem l1DropAll_dram (s : State) (ln : Nat) : (s.l1DropAll ln).dram = s.dram := by
  unfold State.l1DropAll
  generalize List.filter _ _ = l
  induction l generalizing s with
  | nil => rfl
  | cons e t ih => rw [List.foldl_cons, ih]; rfl

/-- A write-back of the sectors of a mask keeps the canonical form. -/
theorem MemCanonical_writeBackOf (s : State) (k : Nat) (which : L2Line → BitVec 4) (h : MemCanonical s) :
    MemCanonical (s.writeBackOf k which) := by
  unfold State.writeBackOf
  split
  · exact h
  · rename_i l _
    have hf : ∀ (r : List Nat) (s : State), MemCanonical s → MemCanonical (r.foldl (fun s i =>
        if (which l).getLsbD i && l.valid.getLsbD i then
          s.putSector l.lid (4 * (k % 2 ^ 32) + i) (getBytes l.data (64 * i) 64) (l.poison.getLsbD i)
        else s) s) := by
      intro r
      induction r with
      | nil => exact fun _ h => h
      | cons i t ih =>
        intro s h
        rw [List.foldl_cons]
        split
        · exact ih _ (MemCanonical_putSector _ _ _ _ _ h)
        · exact ih _ h
    have := hf (List.range 4) s h
    generalize List.foldl _ s (List.range 4) = u at this ⊢
    exact this

/-- So does that of the dirty sectors. -/
theorem MemCanonical_writeBack (s : State) (k : Nat) (h : MemCanonical s) : MemCanonical (s.writeBack k) :=
  MemCanonical_writeBackOf s k _ h

/-- An eviction keeps the canonical form. -/
theorem MemCanonical_evict (s : State) (k : Nat) (h : MemCanonical s) : MemCanonical (s.evict k) := by
  have := MemCanonical_writeBackOf s k (fun l => l.dirty ||| l.poison) h
  unfold State.evict MemCanonical
  simpa [MemCanonical] using this

/-- So does discarding a line. -/
theorem MemCanonical_discardLine (s : State) (k : Nat) (h : MemCanonical s) : MemCanonical (s.discardLine k) := by
  unfold State.discardLine MemCanonical
  simpa [MemCanonical] using h

end Sys2Proof.Machine
end

