-- ==== Sys2Proof/Laws/Value.lean ====
section
/-! SUPPORT. What a synchronous register result leaves, and the one lemma about every instruction that computes a value in each
lane. -/

namespace Sys2Proof.Machine

/-! ### Reading sources -/

theorem Group.srcs_one (g : Group) (n : Nat) (l : LaneIx) (r : Reg) : g.srcs n l ⟨r, 1⟩ = [g.src n l r] := by
  unfold Group.srcs Group.src Group.opWord Operand.regs
  by_cases h : r = Reg.z <;> simp [h]

/-- A pair operand's words, low word first (02 R23). -/
theorem Group.srcs_two (g : Group) (n : Nat) (l : LaneIx) (r : Reg) :
    g.srcs n l ⟨r, 2⟩ = [g.opWord n l ⟨r, 2⟩ 0, g.opWord n l ⟨r, 2⟩ 1] := by
  unfold Group.srcs Group.opWord Operand.regs
  by_cases h : r = Reg.z <;> simp [h, List.range_succ]

/-- A reserved register reads 0 (02 R22). -/
theorem Group.src_z (g : Group) (n : Nat) (l : LaneIx) : g.src n l Reg.z = 0#32 := by
  simp [Group.src, Group.opWord, Operand.regs, Group.cell]

/-! ### Writing a list of entries -/

theorem foldl_setD_ne (es : List (Nat × RCell)) (t : Tab RCell) (k : Nat) (h : ∀ e ∈ es, e.1 ≠ k) :
    (es.foldl (fun t e => t.setD {} e.1 e.2) t).getD {} k = t.getD {} k := by
  induction es generalizing t with
  | nil => rfl
  | cons a r ih =>
    rw [List.foldl_cons, ih _ fun e he => h e (by simp [he]), Tab.getD_setD, if_neg (Ne.symm (h a (by simp)))]

theorem foldl_setD_eq (es : List (Nat × RCell)) (t : Tab RCell) (hn : (es.map Prod.fst).Nodup) (k : Nat) (c : RCell)
    (h : (k, c) ∈ es) : (es.foldl (fun t e => t.setD {} e.1 e.2) t).getD {} k = c := by
  induction es generalizing t with
  | nil => cases h
  | cons a r ih =>
    rw [List.map_cons, List.nodup_cons] at hn
    rw [List.foldl_cons]
    rcases List.mem_cons.mp h with rfl | h
    · rw [foldl_setD_ne _ _ k, Tab.getD_setD, if_pos rfl]
      intro e he hk
      exact hn.1 (List.mem_map.mpr ⟨e, he, hk⟩)
    · exact ih _ hn.2 h

/-- The keys and entries a result writes, with `key` the place of a register. -/
theorem foldl_zip_map (t : Tab RCell) (rs : List Nat) (vs : List Word) (key : Nat → Nat) :
    (rs.zip vs).foldl (fun (t : Tab RCell) e => t.setD {} (key e.1) { val := e.2 }) t =
      ((rs.zip vs).map fun e => (key e.1, ({ val := e.2 } : RCell))).foldl (fun t e => t.setD {} e.1 e.2) t := by
  rw [List.foldl_map]

theorem Operand.regs_of_ne (o : Operand) (h : o.r.toNat ≠ 96) : o.regs = (List.range o.w).map fun i => o.r.toNat + i := by
  unfold Operand.regs
  rw [if_neg]
  rintro rfl'
  exact h (by rw [rfl']; rfl)

section written
variable (o : Operand) (vs : List Word) (key : Nat → Nat) (hz : o.r.toNat ≠ 96) (hl : vs.length = o.w)
include hz hl

theorem mem_written_iff (e : Nat × RCell) :
    e ∈ ((o.regs.zip vs).map fun e => (key e.1, ({ val := e.2 } : RCell))) ↔
      ∃ i, i < o.w ∧ e = (key (o.r.toNat + i), { val := vs.getD i 0#32 }) := by
  rw [Operand.regs_of_ne o hz]
  constructor
  · intro h
    obtain ⟨⟨r, v⟩, hm, rfl⟩ := List.mem_map.mp h
    obtain ⟨i, hi, he⟩ := List.getElem_of_mem hm
    simp only [List.length_zip, List.length_map, List.length_range] at hi
    refine ⟨i, by omega, ?_⟩
    simp only [List.getElem_zip, List.getElem_map, List.getElem_range, Prod.mk.injEq] at he
    rw [← he.1, ← he.2]
    simp [List.getD_eq_getElem?_getD, List.getElem?_eq_getElem (show i < vs.length by omega)]
  · rintro ⟨i, hi, rfl⟩
    refine List.mem_map.mpr ⟨(o.r.toNat + i, vs.getD i 0#32), ?_, rfl⟩
    refine List.mem_iff_getElem.mpr ⟨i, by simp; omega, ?_⟩
    simp [List.getD_eq_getElem?_getD, List.getElem?_eq_getElem (show i < vs.length by omega)]

theorem nodup_written (hk : ∀ i j, i < o.w → j < o.w → key (o.r.toNat + i) = key (o.r.toNat + j) → i = j) :
    (((o.regs.zip vs).map fun e => (key e.1, ({ val := e.2 } : RCell))).map Prod.fst).Nodup := by
  have : ((o.regs.zip vs).map fun e => (key e.1, ({ val := e.2 } : RCell))).map Prod.fst =
      (List.range o.w).map fun i => key (o.r.toNat + i) := by
    rw [Operand.regs_of_ne o hz, List.map_map]
    apply List.ext_getElem
    · simp [hl]
    · intro i h1 h2
      simp
  rw [this]
  refine List.Nodup.map_on ?_ List.nodup_range
  intro i hi j hj h
  exact hk i j (List.mem_range.mp hi) (List.mem_range.mp hj) h

theorem written_get (t : Tab RCell)
    (hk : ∀ i j, i < o.w → j < o.w → key (o.r.toNat + i) = key (o.r.toNat + j) → i = j) (i : Nat) (hi : i < o.w) :
    ((o.regs.zip vs).foldl (fun (t : Tab RCell) e => t.setD {} (key e.1) { val := e.2 }) t).getD {} (key (o.r.toNat + i)) =
      { val := vs.getD i 0#32 } := by
  rw [foldl_zip_map]
  exact foldl_setD_eq _ _ (nodup_written o vs key hz hl hk) _ _ ((mem_written_iff o vs key hz hl _).mpr ⟨i, hi, rfl⟩)

theorem written_ne (t : Tab RCell) (k : Nat) (h : ¬ ∃ i, i < o.w ∧ k = key (o.r.toNat + i)) :
    ((o.regs.zip vs).foldl (fun (t : Tab RCell) e => t.setD {} (key e.1) { val := e.2 }) t).getD {} k = t.getD {} k := by
  rw [foldl_zip_map]
  refine foldl_setD_ne _ _ _ fun e he hek => h ?_
  obtain ⟨i, hi, rfl⟩ := (mem_written_iff o vs key hz hl _).mp he
  exact ⟨i, hi, hek.symm⟩

end written

/-- The window's registers stand in slots of their own when the whole window is resident (08 R159). -/
theorem Lane.slot_inj (v : Lane) {n a b : Nat} (hn : 96 ≤ n) (ha : a < 96) (hb : b < 96) (h : v.slot n a = v.slot n b) : a = b := by
  unfold Lane.slot at h
  have h1 : (v.wb + a) ≡ (v.wb + b) [MOD n] := h
  have h2 : a ≡ b [MOD n] := Nat.ModEq.add_left_cancel' _ h1
  have := Nat.ModEq.eq_of_lt_of_lt h2 (by omega) (by omega)
  exact this

/-! ### Reading operands -/

@[simp] theorem RCell.scrub_scrub (c : RCell) : c.scrub.scrub = c.scrub := by
  unfold RCell.scrub
  by_cases h : c.unc <;> simp [h]

theorem RCell.near_refl (c : RCell) : c.near c := .inl rfl
theorem RCell.near_scrub (c : RCell) : c.near c.scrub := .inr rfl

theorem scrubFold_near (rs : List Nat) (p : Nat → Bool) (key : Nat → Nat) (t : Tab RCell) (k : Nat) :
    RCell.near (t.getD {} k)
      ((rs.foldl (fun (t : Tab RCell) r => if p r then t.setD {} (key r) (t.getD {} (key r)).scrub else t) t).getD {} k) := by
  suffices h : ∀ (c : RCell) (t : Tab RCell), c.near (t.getD {} k) → c.near
      ((rs.foldl (fun (t : Tab RCell) r => if p r then t.setD {} (key r) (t.getD {} (key r)).scrub else t) t).getD {} k) from
    h _ t (RCell.near_refl _)
  induction rs with
  | nil => intro c t h; exact h
  | cons a r ih =>
    intro c t h
    rw [List.foldl_cons]
    apply ih
    split
    · rw [Tab.getD_setD]
      split
      · rename_i hk
        rw [← hk]
        rcases h with h | h <;> rw [h]
        · exact RCell.near_scrub _
        · rw [RCell.scrub_scrub]; exact RCell.near_scrub _
      · exact h
    · exact h

theorem Ring.get_set (r : Ring) (i j : Nat) (c : RCell) (hi : i < 4) (hj : j < 4) : (r.set i c).get j = if j = i then c else r.get j := by
  interval_cases i <;> interval_cases j <;> simp [Ring.get, Ring.set]

theorem Ring.ext' {a b : Ring} (h : ∀ i, i < 4 → a.get i = b.get i) : a = b := by
  have h0 := h 0 (by omega); have h1 := h 1 (by omega); have h2 := h 2 (by omega); have h3 := h 3 (by omega)
  cases a; cases b
  simp [Ring.get] at h0 h1 h2 h3
  simp [*]

theorem ringScrub_near (rs : List Nat) (f : Ring) (i : Nat) (hi : i < 4) :
    RCell.near (f.get i)
      ((rs.foldl (fun (f : Ring) r => if 120 ≤ r && r ≤ 123 then f.set (r - 120) (f.get (r - 120)).scrub else f) f).get i) := by
  suffices h : ∀ (c : RCell) (f : Ring), c.near (f.get i) → c.near
      ((rs.foldl (fun (f : Ring) r => if 120 ≤ r && r ≤ 123 then f.set (r - 120) (f.get (r - 120)).scrub else f) f).get i) from
    h _ f (RCell.near_refl _)
  induction rs with
  | nil => intro c f h; exact h
  | cons a r ih =>
    intro c f h
    rw [List.foldl_cons]
    apply ih
    split
    · rename_i hc
      simp only [Bool.and_eq_true, decide_eq_true_eq] at hc
      rw [Ring.get_set _ _ _ _ (by omega) hi]
      split
      · rename_i hk
        rw [← hk]
        rcases h with h | h <;> rw [h]
        · exact RCell.near_scrub _
        · rw [RCell.scrub_scrub]; exact RCell.near_scrub _
      · exact h
    · exact h

/-- A lane that meets no operand trap reads no uncorrectable word (08 R173, R175). -/
theorem Group.unc_of_operandTrap {g : Group} {n : Nat} {ops : List Operand} {l : LaneIx} (h : g.operandTrap n ops l = none) :
    ∀ r ∈ ops.flatMap Operand.regs, (g.cell n l r).unc = false ∧ (g.cell n l r).pois = false := by
  intro r hr
  unfold Group.operandTrap at h
  dsimp only at h
  obtain ⟨o, ho, hro⟩ := List.mem_flatMap.mp hr
  split at h
  · cases h
  · rename_i hf
    rw [Option.map_eq_none_iff] at h
    obtain ⟨i, hi, rfl⟩ := List.getElem_of_mem hro
    have hm : (o.r.setWidth 32 ||| (BitVec.ofNat 32 i <<< 8), g.cell n l o.regs[i]) ∈
        ops.flatMap (fun o => o.regs.zipIdx.map fun e => (o.r.setWidth 32 ||| (BitVec.ofNat 32 e.2 <<< 8), g.cell n l e.1)) := by
      refine List.mem_flatMap.mpr ⟨o, ho, List.mem_map.mpr ⟨(o.regs[i], i), ?_, rfl⟩⟩
      exact List.mem_zipIdx_iff_getElem?.mpr (by simp [hi])
    have h1 := List.find?_eq_none.mp h _ hm
    have h2 := List.find?_eq_none.mp hf _ hm
    simp only [Bool.not_eq_true] at h1 h2
    exact ⟨h1, h2⟩

/-- Reading operands changes window entries only by marking them poisoned (08 R173). -/
theorem Group.scrub_near (g : Group) (n wb : Nat) (part : Mask) (ops : List Operand) (l : LaneIx) (k : Nat) :
    RCell.near ((g.lane l).stack.getD {} k) (((g.scrub n wb part ops).lane l).stack.getD {} k) := by
  simp only [Group.scrub, Group.lane_mapLanes]
  have := scrubFold_near (ops.flatMap Operand.regs) (fun r => decide (r < 96)) (fun r => (wb + r) % n) (g.lane l).stack k
  simpa [Group.lane] using this

theorem Group.scrub_nearS (g : Group) (n wb : Nat) (part : Mask) (ops : List Operand) (k : Nat) :
    RCell.near (g.s.getD {} k) ((g.scrub n wb part ops).s.getD {} k) := by
  simp only [Group.scrub, Group.mapLanes_s]
  exact scrubFold_near (ops.flatMap Operand.regs) (fun r => decide (97 ≤ r) && decide (r ≤ 119)) id g.s k

theorem Group.scrub_nearFw (g : Group) (n wb : Nat) (part : Mask) (ops : List Operand) (l : LaneIx) (i : Nat) (hi : i < 4) :
    RCell.near ((g.lane l).fw.get i) (((g.scrub n wb part ops).lane l).fw.get i) := by
  simp only [Group.scrub, Group.lane_mapLanes]
  split
  · have := ringScrub_near (ops.flatMap Operand.regs) (g.lane l).fw i hi
    simpa [Group.lane] using this
  · have := RCell.near_refl ((g.lane l).fw.get i)
    simpa [Group.lane] using this

theorem Group.scrub_other (g : Group) (n wb : Nat) (part : Mask) (ops : List Operand) (l : LaneIx) :
    { (g.scrub n wb part ops).lane l with stack := [], fw := {} } = { g.lane l with stack := [], fw := {} } := by
  simp only [Group.scrub, Group.lane_mapLanes]
  simp [Group.lane]

theorem Group.scrub_wb (g : Group) (n wb : Nat) (part : Mask) (ops : List Operand) (l : LaneIx) : ((g.scrub n wb part ops).lane l).wb = (g.lane l).wb := by
  have h := Group.scrub_other g n wb part ops l
  generalize (g.scrub n wb part ops).lane l = a at h ⊢
  generalize g.lane l = b at h ⊢
  injection h
theorem Group.scrub_rsig (g : Group) (n wb : Nat) (part : Mask) (ops : List Operand) (l : LaneIx) : ((g.scrub n wb part ops).lane l).rsig = (g.lane l).rsig := by
  have h := Group.scrub_other g n wb part ops l
  generalize (g.scrub n wb part ops).lane l = a at h ⊢
  generalize g.lane l = b at h ⊢
  injection h

theorem Group.scrub_frame (g : Group) (n wb : Nat) (part : Mask) (ops : List Operand) :
    { g.scrub n wb part ops with lanes := g.lanes, s := g.s } = g := by
  simp [Group.scrub, Group.mapLanes]

/-! ### Writing a result -/

theorem Lane.pushAll (v : Lane) (ws : List Word) :
    ws.foldl (fun (v : Lane) w => { v with fw := v.fw.push w }) v = { v with fw := ws.foldl Ring.push v.fw } := by
  induction ws generalizing v with
  | nil => rfl
  | cons a t ih => rw [List.foldl_cons, ih]; rfl

theorem Lane.foldAll (v : Lane) (ws : List Word) :
    ws.foldl Lane.fold v =
      { v with rsig := ws.foldl (fun r w => r.rotateLeft 7 ^^^ w) v.rsig, nfold := v.nfold + ws.length } := by
  induction ws generalizing v with
  | nil => rfl
  | cons a t ih => rw [List.foldl_cons, ih]; simp [Lane.fold, Nat.add_assoc, Nat.add_comm 1]

theorem Group.lane_writeRegs_ne (g : Group) (n : Nat) (done : Mask) (dst : Operand) (vals : LaneIx → List Word) (l : LaneIx) :
    { (g.writeRegs n done dst vals).lane l with stack := [] } = { g.lane l with stack := [] } := by
  unfold Group.writeRegs
  split
  · rw [Group.lane_mapOn]; split <;> rfl
  · split
    · rfl
    · split <;> rfl

theorem Group.writeRegs_wb (g : Group) (n : Nat) (done : Mask) (dst : Operand) (vals : LaneIx → List Word) (l : LaneIx) : ((g.writeRegs n done dst vals).lane l).wb = (g.lane l).wb := by
  have h := Group.lane_writeRegs_ne g n done dst vals l
  generalize (g.writeRegs n done dst vals).lane l = a at h ⊢
  generalize g.lane l = b at h ⊢
  injection h
theorem Group.writeRegs_rsig (g : Group) (n : Nat) (done : Mask) (dst : Operand) (vals : LaneIx → List Word) (l : LaneIx) : ((g.writeRegs n done dst vals).lane l).rsig = (g.lane l).rsig := by
  have h := Group.lane_writeRegs_ne g n done dst vals l
  generalize (g.writeRegs n done dst vals).lane l = a at h ⊢
  generalize g.lane l = b at h ⊢
  injection h
theorem Group.writeRegs_fw (g : Group) (n : Nat) (done : Mask) (dst : Operand) (vals : LaneIx → List Word) (l : LaneIx) : ((g.writeRegs n done dst vals).lane l).fw = (g.lane l).fw := by
  have h := Group.lane_writeRegs_ne g n done dst vals l
  generalize (g.writeRegs n done dst vals).lane l = a at h ⊢
  generalize g.lane l = b at h ⊢
  injection h

theorem Group.writeRegs_frame (g : Group) (n : Nat) (done : Mask) (dst : Operand) (vals : LaneIx → List Word) :
    { g.writeRegs n done dst vals with lanes := g.lanes, s := g.s } = g := by
  unfold Group.writeRegs
  split
  · simp [Group.mapOn, Group.mapLanes]
  · split
    · rfl
    · split <;> rfl

section writeSync
variable (g : Group) (n : Nat) (done : Mask) (nw : Bool) (dst : Operand) (vals : LaneIx → List Word)

theorem Group.lane_writeSync (l : LaneIx) :
    (g.writeSync n done nw dst vals).lane l =
      let v := (if nw then g else g.writeRegs n done dst vals).lane l
      if Mask.has done l then
        let ws := resultOf done dst vals l
        let v : Lane := { v with fw := ws.foldl Ring.push v.fw }
        if !(decide (97 ≤ dst.r.toNat) && decide (dst.r.toNat ≤ 119)) || Mask.low done == some l then
          { v with rsig := ws.foldl (fun r w => r.rotateLeft 7 ^^^ w) v.rsig, nfold := v.nfold + ws.length }
        else v
      else v := by
  unfold Group.writeSync
  dsimp only
  rw [Group.lane_mapOn]
  split
  · rw [Lane.pushAll, Lane.foldAll]
    simp only [Bool.true_and]
  · rfl

theorem Group.stack_writeSync (l : LaneIx) :
    ((g.writeSync n done nw dst vals).lane l).stack = ((if nw then g else g.writeRegs n done dst vals).lane l).stack := by
  rw [Group.lane_writeSync]
  dsimp only
  split
  · split <;> rfl
  · rfl

theorem Group.s_writeSync : (g.writeSync n done nw dst vals).s = (if nw then g else g.writeRegs n done dst vals).s := by
  unfold Group.writeSync
  simp only [Group.mapOn_s]

theorem Group.writeSync_frame :
    { g.writeSync n done nw dst vals with lanes := g.lanes, s := g.s } = g := by
  unfold Group.writeSync
  dsimp only
  split
  · simp [Group.mapOn, Group.mapLanes]
  · have := Group.writeRegs_frame g n done dst vals
    conv_rhs => rw [← this]
    simp [Group.mapOn, Group.mapLanes]

end writeSync

@[simp] theorem Group.lane_putGp (g : Group) (m : Mask) (b : LaneIx → Bool) (l : LaneIx) : (g.putGp m b).lane l = g.lane l := by
  simp only [Group.putGp, Group.lane]

section
variable {v w : Lane} (h : v.still = w.still)
include h
theorem Lane.stack_of_still : v.stack = w.stack := by unfold Lane.still at h; injection h
theorem Lane.wb_of_still : v.wb = w.wb := by unfold Lane.still at h; injection h
theorem Lane.fw_of_still : v.fw = w.fw := by unfold Lane.still at h; injection h
theorem Lane.rsig_of_still : v.rsig = w.rsig := by unfold Lane.still at h; injection h
end

section wrote
variable (g : Group) (n wb : Nat) (part done : Mask) (ops : List Operand) (nw : Bool) (dst : Operand)
    (vals : LaneIx → List Word) (hn : 96 ≤ n) (hw : dst.r.toNat < 96 → dst.r.toNat + dst.w ≤ 96)
    (hr : dst.r.toNat ≤ 119) (hl : ∀ l, (vals l).length = dst.w)

/-- The group with its operands read and the result's words written. -/
def Group.readPut : Group :=
  if nw then g.scrub n wb part ops else (g.scrub n wb part ops).writeRegs n done dst vals

theorem readPut_wb (l : LaneIx) : ((g.readPut n wb part done ops nw dst vals).lane l).wb = (g.lane l).wb := by
  unfold Group.readPut
  split
  · rw [Group.scrub_wb]
  · rw [Group.writeRegs_wb, Group.scrub_wb]

theorem readPut_rsig (l : LaneIx) : ((g.readPut n wb part done ops nw dst vals).lane l).rsig = (g.lane l).rsig := by
  unfold Group.readPut
  split
  · rw [Group.scrub_rsig]
  · rw [Group.writeRegs_rsig, Group.scrub_rsig]

theorem readPut_fw (l : LaneIx) (i : Nat) (hi : i < 4) :
    RCell.near ((g.lane l).fw.get i) (((g.readPut n wb part done ops nw dst vals).lane l).fw.get i) := by
  unfold Group.readPut
  split
  · exact Group.scrub_nearFw g n wb part ops l i hi
  · rw [Group.writeRegs_fw]; exact Group.scrub_nearFw g n wb part ops l i hi

theorem readPut_rest (l : LaneIx) :
    { (g.readPut n wb part done ops nw dst vals).lane l with stack := [], fw := {} } = { g.lane l with stack := [], fw := {} } := by
  have h1 := Group.scrub_other g n wb part ops l
  have h2 := Group.lane_writeRegs_ne (g.scrub n wb part ops) n done dst vals l
  unfold Group.readPut
  split
  · exact h1
  · generalize ((g.scrub n wb part ops).writeRegs n done dst vals).lane l = a at h2 ⊢
    generalize (g.scrub n wb part ops).lane l = b at h1 h2
    generalize g.lane l = c at h1 ⊢
    cases a; cases b; cases c
    simp_all

/-- The group with its operands read and the result written. -/
def Group.readWrite : Group := (g.scrub n wb part ops).writeSync n done nw dst vals

theorem Group.lane_readWrite (l : LaneIx) :
    (g.readWrite n wb part done ops nw dst vals).lane l =
      let v := (g.readPut n wb part done ops nw dst vals).lane l
      if Mask.has done l then
        let ws := resultOf done dst vals l
        let v : Lane := { v with fw := ws.foldl Ring.push v.fw }
        if !(decide (97 ≤ dst.r.toNat) && decide (dst.r.toNat ≤ 119)) || Mask.low done == some l then
          { v with rsig := ws.foldl (fun r w => r.rotateLeft 7 ^^^ w) v.rsig, nfold := v.nfold + ws.length }
        else v
      else v := by
  rw [Group.readWrite, Group.lane_writeSync]
  rfl

theorem readWrite_wb (l : LaneIx) : ((g.readWrite n wb part done ops nw dst vals).lane l).wb = (g.lane l).wb := by
  rw [← readPut_wb g n wb part done ops nw dst vals l, Group.lane_readWrite]
  generalize (g.readPut n wb part done ops nw dst vals).lane l = v
  dsimp only
  split
  · split <;> rfl
  · rfl

theorem readWrite_stack (l : LaneIx) : ((g.readWrite n wb part done ops nw dst vals).lane l).stack =
    ((g.readPut n wb part done ops nw dst vals).lane l).stack := by
  rw [Group.lane_readWrite]
  generalize (g.readPut n wb part done ops nw dst vals).lane l = v
  dsimp only
  split
  · split <;> rfl
  · rfl

include hn hw hl in
theorem readWrite_window (hd : dst.r.toNat < 96) (hnw : nw = false) (l : LaneIx) (hdl : Mask.has done l = true)
    (i : Nat) (hi : i < dst.w) :
    ((g.readWrite n wb part done ops nw dst vals).lane l).stack.getD {} ((g.lane l).slot n (dst.r.toNat + i)) =
      { val := (vals l).getD i 0#32 } := by
  rw [readWrite_stack, Group.readPut, hnw, if_neg (by simp)]
  simp only [Group.writeRegs, if_pos hd, Group.lane_mapOn, hdl, if_true]
  have hk : ∀ m, ((g.scrub n wb part ops).lane l).slot n m = (g.lane l).slot n m := fun m => by
    simp [Lane.slot, Group.scrub_wb]
  rw [← hk]
  refine written_get dst (vals l) _ (by omega) (hl l) _ ?_ i hi
  intro i j hi hj hij
  have := hw hd
  have := Lane.slot_inj _ hn (by omega) (by omega) hij
  omega

include hl in
theorem readWrite_others (l : LaneIx) (k : Nat) (hk : ¬ (nw = false ∧ dst.r.toNat < 96 ∧ Mask.has done l = true ∧
    ∃ i, i < dst.w ∧ k = (g.lane l).slot n (dst.r.toNat + i))) :
    RCell.near ((g.lane l).stack.getD {} k) (((g.readWrite n wb part done ops nw dst vals).lane l).stack.getD {} k) := by
  rw [readWrite_stack, Group.readPut]
  by_cases hnw : nw = true
  · rw [if_pos hnw]; exact Group.scrub_near ..
  rw [if_neg hnw]
  unfold Group.writeRegs
  split
  · rename_i h96
    rw [Group.lane_mapOn]
    split
    · rename_i hd
      rw [written_ne dst (vals l) _ (by omega) (hl l)]
      · exact Group.scrub_near ..
      · rintro ⟨i, hi, he⟩
        refine hk ⟨by simpa using hnw, h96, hd, i, hi, ?_⟩
        rw [he]; simp [Lane.slot, Group.scrub_wb]
    · exact Group.scrub_near ..
  · split
    · exact Group.scrub_near ..
    · split
      · exact Group.scrub_near ..
      · have := Group.scrub_near g n wb part ops l k
        simp only [Group.lane] at this ⊢
        exact this

theorem readWrite_s : (g.readWrite n wb part done ops nw dst vals).s = (g.readPut n wb part done ops nw dst vals).s := by
  rw [Group.readWrite, Group.s_writeSync, Group.readPut]

include hl in
theorem readWrite_uniform (hnw : nw = false) (h97 : 97 ≤ dst.r.toNat) (l0 : LaneIx)
    (hl0 : Mask.low done = some l0) (i : Nat) (hi : i < dst.w) :
    (g.readWrite n wb part done ops nw dst vals).s.getD {} (dst.r.toNat + i) = { val := (vals l0).getD i 0#32 } := by
  rw [readWrite_s, Group.readPut, hnw, if_neg (by simp)]
  have hz : ¬ dst.r = Reg.z := by intro h; rw [h] at h97; revert h97; decide
  simp only [Group.writeRegs, if_neg (show ¬ dst.r.toNat < 96 by omega), if_neg hz, hl0]
  exact written_get dst (vals l0) id (by omega) (hl l0) _ (by simp) i hi

include hr hl in
theorem readWrite_othersS (k : Nat) (hk : ¬ (nw = false ∧ 97 ≤ dst.r.toNat ∧ dst.r.toNat ≤ 119 ∧ done ≠ 0#32 ∧
    ∃ i, i < dst.w ∧ k = dst.r.toNat + i)) :
    RCell.near (g.s.getD {} k) ((g.readWrite n wb part done ops nw dst vals).s.getD {} k) := by
  rw [readWrite_s, Group.readPut]
  by_cases hnw : nw = true
  · rw [if_pos hnw]; exact Group.scrub_nearS ..
  rw [if_neg hnw]
  unfold Group.writeRegs
  split
  · rw [Group.mapOn_s]; exact Group.scrub_nearS ..
  · rename_i h96
    split
    · exact Group.scrub_nearS ..
    · rename_i hz
      have hz' : dst.r.toNat ≠ 96 := fun hh => hz (BitVec.eq_of_toNat_eq (by rw [hh]; rfl))
      split
      · exact Group.scrub_nearS ..
      · rename_i l0 hl0
        have hne : done ≠ 0#32 := by
          rintro rfl
          have := Mask.has_of_low hl0
          simp at this
        have := written_ne dst (vals l0) id hz' (hl l0) (g.scrub n wb part ops).s k (by
          rintro ⟨i, hi, he⟩
          exact hk ⟨by simpa using hnw, by omega, hr, hne, i, hi, he⟩)
        simp only [id] at this
        rw [this]; exact Group.scrub_nearS ..

theorem readWrite_fw (l : LaneIx) : ((g.readWrite n wb part done ops nw dst vals).lane l).fw =
    if Mask.has done l then (resultOf done dst vals l).foldl Ring.push ((g.readPut n wb part done ops nw dst vals).lane l).fw
    else ((g.readPut n wb part done ops nw dst vals).lane l).fw := by
  rw [Group.lane_readWrite]
  generalize (g.readPut n wb part done ops nw dst vals).lane l = v
  dsimp only
  split
  · split <;> rfl
  · rfl

theorem readWrite_rsig (l : LaneIx) : ((g.readWrite n wb part done ops nw dst vals).lane l).rsig =
    if Mask.has done l && (!(decide (97 ≤ dst.r.toNat) && decide (dst.r.toNat ≤ 119)) || Mask.low done == some l) then
      (resultOf done dst vals l).foldl (fun r w => r.rotateLeft 7 ^^^ w) (g.lane l).rsig
    else (g.lane l).rsig := by
  rw [← readPut_rsig g n wb part done ops nw dst vals l, Group.lane_readWrite]
  generalize (g.readPut n wb part done ops nw dst vals).lane l = v
  dsimp only
  by_cases hd : Mask.has done l = true
  · simp only [hd, if_true, Bool.true_and]
    split <;> rfl
  · simp only [hd]
    rfl

theorem readWrite_rest (l : LaneIx) :
    { (g.readWrite n wb part done ops nw dst vals).lane l with stack := [], fw := {}, rsig := 0#32, nfold := 0 } =
      { g.lane l with stack := [], fw := {}, rsig := 0#32, nfold := 0 } := by
  have h1 := readPut_rest g n wb part done ops nw dst vals l
  rw [Group.lane_readWrite]
  generalize (g.readPut n wb part done ops nw dst vals).lane l = v at h1 ⊢
  generalize g.lane l = w at h1 ⊢
  have h2 := congrArg (fun v : Lane => { v with rsig := 0#32, nfold := 0 }) h1
  refine Eq.trans ?_ h2
  dsimp only
  split
  · split <;> rfl
  · rfl

theorem readWrite_frame :
    { g.readWrite n wb part done ops nw dst vals with lanes := g.lanes, s := g.s } = g := by
  have h2 := Group.writeSync_frame (g.scrub n wb part ops) n done nw dst vals
  have h3 := Group.scrub_frame g n wb part ops
  rw [Group.readWrite]
  generalize (g.scrub n wb part ops).writeSync n done nw dst vals = a at h2 ⊢
  generalize g.scrub n wb part ops = b at h2 h3
  rw [← h3, ← h2]

end wrote

/-- What remains of `g` when its operands have been read, the result written and the lanes moved on is as `Wrote` says. -/
theorem Group.wrote (g : Group) (n wb : Nat) (part done : Mask) (ops : List Operand) (nw : Bool) (dst : Operand)
    (vals : LaneIx → List Word) (m : Mask) (b : LaneIx → Bool) (g' : Group) (hn : 96 ≤ n) (hw : dst.r.toNat < 96 → dst.r.toNat + dst.w ≤ 96)
    (hr : dst.r.toNat ≤ 119) (hl : ∀ l, (vals l).length = dst.w)
    (h : g'.still = ((g.readWrite n wb part done ops nw dst vals).putGp m b).still) :
    Wrote g n done nw dst vals g' ∧ g'.gp = setGp g.gp m b := by
  have hlane : ∀ l, (g'.lane l).still = ((g.readWrite n wb part done ops nw dst vals).lane l).still := by
    intro l
    rw [← Group.lane_still, h, Group.lane_still, Group.lane_putGp]
  have hst : ∀ l, (g'.lane l).stack = ((g.readWrite n wb part done ops nw dst vals).lane l).stack := fun l =>
    Lane.stack_of_still (hlane l)
  have hwb : ∀ l, (g'.lane l).wb = (g.lane l).wb := fun l => by
    rw [Lane.wb_of_still (hlane l), readWrite_wb]
  have hs : g'.s = (g.readWrite n wb part done ops nw dst vals).s := by
    rw [Group.s_of_still h]; simp only [Group.putGp]
  have hfr := readWrite_frame g n wb part done ops nw dst vals
  refine ⟨{ window := ?_, uniform := ?_, others := ?_, othersS := ?_, latches := ?_, signature := ?_, rest := ?_, frame := ?_ },
    by
      rw [Group.gp_of_still h]
      generalize g.readWrite n wb part done ops nw dst vals = a at hfr ⊢
      rw [← hfr]
      simp only [Group.putGp]⟩
  · intro hnw hd l hdl i hi
    have hkey : (g'.lane l).slot n (dst.r.toNat + i) = (g.lane l).slot n (dst.r.toNat + i) := by
      simp [Lane.slot, hwb]
    simp only [Group.cell, if_pos (show dst.r.toNat + i < 96 by have := hw hd; omega)]
    rw [hst, hkey]
    exact readWrite_window g n wb part done ops nw dst vals hn hw hl hd hnw l hdl i hi
  · intro hnw h97 _ l0 hl0 i hi
    rw [hs]
    exact readWrite_uniform g n wb part done ops nw dst vals hl hnw h97 l0 hl0 i hi
  · intro l k hk
    rw [hst]
    exact readWrite_others g n wb part done ops nw dst vals hl l k hk
  · intro k hk
    rw [hs]
    exact readWrite_othersS g n wb part done ops nw dst vals hr hl k hk
  · intro l
    exact ⟨_, fun i hi => readPut_fw g n wb part done ops nw dst vals l i hi,
      (Lane.fw_of_still (hlane l)).trans (readWrite_fw g n wb part done ops nw dst vals l)⟩
  · intro l
    exact (Lane.rsig_of_still (hlane l)).trans (readWrite_rsig g n wb part done ops nw dst vals l)
  · intro l
    have h1 := hlane l
    have h2 := readWrite_rest g n wb part done ops nw dst vals l
    generalize (g.readWrite n wb part done ops nw dst vals).lane l = a at h1 h2
    generalize g'.lane l = b at h1 ⊢
    generalize g.lane l = c at h2 ⊢
    rw [h1]
    exact congrArg Lane.still h2
  · generalize g.readWrite n wb part done ops nw dst vals = a at h hfr
    rw [h]
    simp only [Group.still, Group.mapLanes, Group.putGp]
    rw [← hfr]

/-! ### The instructions that compute a value in each lane -/

theorem State.countFp_nil (s : State) (g : Group) : s.countFp g [] = s := by
  unfold State.countFp
  split
  · rfl
  · split
    · simp only [State.updGrid, List.foldl_nil]
      rw [Tab.upd_self _ _ _ fun v _ => rfl]
    · rfl

theorem State.countFp_updGrp (s : State) (g : Group) (evs : List Nat) (k : Nat) (f : Group → Group) :
    (s.updGrp k f).countFp g evs = (s.countFp g evs).updGrp k f := by
  simp only [State.countFp, State.team, State.updGrp_teams]
  split
  · rfl
  · split <;> rfl

@[simp] theorem State.countFp_groups (s : State) (g : Group) (evs : List Nat) : (s.countFp g evs).groups = s.groups := by
  unfold State.countFp
  split
  · rfl
  · split <;> rfl

theorem State.updGrp_updGrp (s : State) (k : Nat) (f g : Group → Group) : (s.updGrp k f).updGrp k g = s.updGrp k fun v => g (f v) := by
  simp only [State.updGrp, Tab.upd_upd]

/-- A change of one group is a change of nothing else. -/
theorem OnlyGroup.updGrp (s b : State) (gid : Nat) (f : Group → Group) (g : Group) (hb : b.groups = s.groups)
    (h : s.grp gid = some g) : OnlyGroup b (b.updGrp gid f) gid (f g) := by
  refine ⟨?_, ?_, ?_⟩
  · simp only [State.grp, State.updGrp_groups, hb, Tab.find_upd, if_true] at h ⊢
    rw [h]; rfl
  · intro k hk
    simp only [State.grp, State.updGrp_groups, Tab.find_upd, if_neg hk]
  · simp only [State.updGrp]

/-- Every instruction that computes a synchronous value in each lane, when its operands are there and no lane meets a
condition: it answers a next state in which only the group has changed, but for the FP counters. -/
theorem State.valueOp_wrote (s : State) (x : Issue) (guard nw : Bool) (srcs wide : List Operand) (dst : Operand)
    (trap : Issue → Nat → Mask → LaneIx → Option TrapC) (f : Issue → Nat → Mask → LaneIx → LaneRes)
    (hi : s.issue = some x) (hn : 96 ≤ s.stackOf x.g) (hw : dst.r.toNat < 96 → dst.r.toNat + dst.w ≤ 96)
    (hr : dst.r.toNat ≤ 119) (hl : ∀ l, (f x (s.stackOf x.g) (x.part guard) l).words.length = dst.w)
    (hp : x.g.pending (s.stackOf x.g) x.act (srcs ++ if nw then [] else [dst]) = false)
    (hwide : x.g.pending (s.stackOf x.g) 0xFFFFFFFF#32 wide = false)
    (htrap : ∀ l, Mask.has (x.part guard) l = true → trap x (s.stackOf x.g) (x.part guard) l = none) :
    ∃ t g', s.valueOp guard nw srcs wide (some dst) trap f = .next t ∧
      OnlyGroup (s.countFp x.g ((Mask.lanes (x.part guard)).flatMap fun l =>
        onceEach (f x (s.stackOf x.g) (x.part guard) l).ev)) t x.gid g' ∧
      Wrote x.g (s.stackOf x.g) (x.part guard) nw dst (fun l => (f x (s.stackOf x.g) (x.part guard) l).words) g' ∧
      g'.gp = setGp x.g.gp (maskOf fun l => Mask.has (x.part guard) l && (f x (s.stackOf x.g) (x.part guard) l).gp.isSome)
        fun l => ((f x (s.stackOf x.g) (x.part guard) l).gp).getD false := by
  have hg := State.grp_of_issue hi
  unfold State.valueOp
  rw [State.withIssue_of hi]
  dsimp only [Option.toList]
  rw [hp, hwide, if_neg (by simp), State.finish_of_no_trap _ _ _ _ _ _ htrap, State.countFp_updGrp, State.updGrp_updGrp]
  refine ⟨_, _, rfl, OnlyGroup.updGrp s _ _ _ x.g (State.countFp_groups ..) hg, ?_⟩
  refine Group.wrote x.g _ (((Mask.low x.act).map fun l => (x.g.lane l).wb).getD 0) (x.part guard) _ (srcs ++ wide) nw dst _ _ _ _ hn hw hr hl ?_
  rw [Group.still_advance]
  rfl

end Sys2Proof.Machine
end

