-- ==== Sys2Proof/Machine/Skovas.lean ====
section
/-! DEFINITION. skovas, the assembler, a line at a time (02 R35 to R40): tokens, expressions, operands, the word of an instruction
statement, and the statement of a word. The next file has sections and directives. -/

namespace Sys2Proof.Skovas

/-! ### Tokens (R35, R36) -/

/-- A token: a name of letters, digits, `_` and `.`; a directive; a number; an operator `%hi16`, `%lo16` or `%pcrel`; or a mark. -/
inductive Tok where
  | name (s : String)
  | dir (s : String)
  | num (v : Dword)
  | pct (s : String)
  | mark (s : String)
  deriving DecidableEq, Repr

def isLetter (c : Char) : Bool := c.isAlpha
def isNameChar (c : Char) : Bool := c.isAlphanum || c == '_' || c == '.'
/-- Letters without case (R35). -/
def lower (s : String) : String := String.ofList (s.toList.map Char.toLower)
/-- The value of a digit. -/
def digitVal (c : Char) : Nat :=
  let n := c.toLower.toNat
  if 48 ≤ n && n ≤ 57 then n - 48 else if 97 ≤ n && n ≤ 122 then n - 87 else 99
/-- Digits of a base, as a 64-bit number (R36). -/
def digits (base : Nat) (cs : List Char) : Option Dword :=
  if cs.isEmpty || cs.any fun c => base ≤ digitVal c then none
  else
    let n := cs.foldl (fun n c => base * n + digitVal c) 0
    if n < 2 ^ 64 then some (BitVec.ofNat 64 n) else none
/-- Decimal, `0x` hexadecimal or `0b` binary (R36). -/
def number : List Char → Option Dword
  | '0' :: 'x' :: t => digits 16 t
  | '0' :: 'b' :: t => digits 2 t
  | t => digits 10 t
/-- One-character marks (R35). -/
def marks : List Char := [',', ':', '(', ')', '+', '-', '*', '/', '&', '|', '^', '~']
/-- The tokens of a line up to its comment; none where a character or a number is not one that R35 and R36 admit. -/
def lex : Nat → List Char → Option (List Tok)
  | 0, _ => some []
  | _, [] => some []
  | fuel + 1, c :: t =>
    if c == ' ' || c == '\t' || c == '\r' then lex fuel t
    else if c == ';' || (c == '/' && t.head? == some '/') then some []
    else if isLetter c || c == '_' then
      let w := c :: t.takeWhile isNameChar
      (lex fuel (t.dropWhile isNameChar)).map (Tok.name (String.ofList w) :: ·)
    else if c.isDigit then
      let w := c :: t.takeWhile isNameChar
      (number w).bind fun v => (lex fuel (t.dropWhile isNameChar)).map (Tok.num v :: ·)
    else if c == '.' && (t.head?.any isLetter) then
      let w := c :: t.takeWhile isNameChar
      (lex fuel (t.dropWhile isNameChar)).map (Tok.dir (lower (String.ofList w)) :: ·)
    else if c == '%' then
      let w := t.takeWhile isNameChar
      (lex fuel (t.dropWhile isNameChar)).map (Tok.pct (lower (String.ofList w)) :: ·)
    else if (c == '<' || c == '>') && t.head? == some c then (lex fuel t.tail).map (Tok.mark (String.ofList [c, c]) :: ·)
    else if marks.contains c || c == '.' then (lex fuel t).map (Tok.mark (String.ofList [c]) :: ·)
    else none
/-- The tokens of a line of at most 1,024 characters (R35). -/
def lexLine (cs : List Char) : Option (List Tok) := if 1024 < cs.length then none else lex cs.length cs

/-! ### Registers, system registers and symbols (R36, R38) -/

/-- A decimal number without a leading zero. -/
def plainNum (cs : List Char) : Option Nat :=
  if cs.head? == some '0' && cs.length ≠ 1 then none else (digits 10 cs).map BitVec.toNat
/-- The number of a register name in a 7-bit field (R22). -/
def regNum (s : String) : Option Nat :=
  match (lower s).toList with
  | ['z'] => some 96
  | ['l', 'i', 'd'] => some 124
  | 'f' :: 'w' :: t => (plainNum t).bind fun n => if n ≤ 3 then some (120 + n) else none
  | 'v' :: t => (plainNum t).bind fun n => if n ≤ 95 then some n else none
  | 's' :: t => (plainNum t).bind fun n => if 1 ≤ n && n ≤ 23 then some (96 + n) else none
  | _ => none
/-- The system registers and their selectors (08 R176). -/
def sysNames : List (String × Nat) :=
  [("coreid", 0x000), ("pkgid", 0x001), ("teamx", 0x010), ("teamy", 0x011), ("teamz", 0x012), ("grpix", 0x013),
   ("grpcnt", 0x014), ("clrank", 0x015), ("clshape", 0x016), ("teamlin", 0x017), ("teamaddr", 0x018), ("locsize", 0x019),
   ("gp", 0x020), ("exmask", 0x021), ("wb", 0x022), ("wlo", 0x023), ("wsize", 0x024), ("rj0", 0x028), ("rj1", 0x029),
   ("rj2", 0x02A), ("rj3", 0x02B), ("rj4", 0x02C), ("rj5", 0x02D), ("rj6", 0x02E), ("rj7", 0x02F), ("lc0", 0x030)] ++
  [("lc1", 0x031), ("lc2", 0x032), ("ldepth", 0x033), ("fmode", 0x040), ("status", 0x050), ("cyclo", 0x051), ("cychi", 0x052),
   ("dropcnt", 0x053), ("runrole", 0x060), ("ssiglo", 0x061), ("ssighi", 0x062), ("rsig", 0x063), ("tilexy", 0x070),
   ("tilever", 0x071), ("gridid", 0x072), ("acowner", 0x080), ("acbase", 0x081), ("acsize", 0x082), ("pclass", 0x090)] ++
  [("permits", 0x091), ("domstate", 0x092), ("islope", 0x093), ("bintimer", 0x0A0), ("tcause", 0x100), ("tpc", 0x101),
   ("tlanes", 0x102), ("taddrlo", 0x103), ("taddrhi", 0x104), ("tgroup", 0x105), ("dwsel", 0x106), ("tinfo", 0x107)]
def sysNum (s : String) : Option Nat := (sysNames.find? fun e => e.1 == lower s).map Prod.snd

/-! ### The statements of the instructions (R29, R38, R39) -/

/-- An operand as written, with where its value goes in the word: a register field; a number in a register field; an immediate
(place, width, signed, scale); a byte offset scaled by an access size; a branch or a jump target; a selector. -/
inductive Fld where
  | reg (pos : Nat)
  | num (pos : Nat)
  | imm (pos width : Nat) (signed : Bool) (scale : Nat)
  | off (size : Nat)
  | near
  | far
  | sel
  deriving DecidableEq, Repr
/-- The formats, which say where `.g` and `.nw` go (R20). -/
inductive Fmt where
  | a | i | k | m | x | b | j | s
  deriving DecidableEq, Repr
/-- The suffixes a statement takes besides `.g` and `.nw` (R39). -/
inductive Suf where
  | none | ftype
  | dot (bf : Bool)
  | atomic | fence
  deriving DecidableEq, Repr
/-- A row: a mnemonic, the fixed bits of its word, its format, its suffixes and its operands in written order. -/
structure Row where
  name : String
  word : Nat
  fmt : Fmt
  suf : Suf
  flds : List Fld
  deriving DecidableEq, Repr
def rowsOf (f : Fmt) (s : Suf) (l : List Fld) (ms : List (String × Nat)) : List Row := ms.map fun e => ⟨e.1, e.2, f, s, l⟩
def dab : List Fld := [.reg 7, .reg 14, .reg 21]
def da : List Fld := [.reg 7, .reg 14]
def d1 : List Fld := [.reg 7]
def a1 : List Fld := [.reg 14]
def ab : List Fld := [.reg 14, .reg 21]
def k1 : List Fld := [.num 7]
/-- Statements, part 1 (R29, R38). -/
def rows1 : List Row :=
  rowsOf .a .none dab
    [("add", 0x1), ("sub", 0x10000001), ("mullo", 0x20000001), ("maclo", 0x30000001), ("mulhs", 0x2),
     ("mulhn", 0x10000002), ("mins", 0x20000002), ("minn", 0x30000002), ("maxs", 0x3), ("maxn", 0x10000003),
     ("and", 0x4), ("or", 0x10000004), ("xor", 0x20000004), ("andn", 0x30000004), ("shl", 0x5), ("shr", 0x10000005),
     ("sra", 0x20000005), ("rotl", 0x30000005), ("sel", 0x7), ("ceq", 0x8), ("cne", 0x10000008), ("clts", 0x20000008),
     ("cltn", 0x30000008), ("cles", 0x9), ("clen", 0x10000009), ("addd", 0xA), ("subd", 0x1000000A),
     ("mulw", 0x2000000A), ("mulws", 0x3000000A), ("shld", 0xB), ("shrd", 0x1000000B), ("srad", 0x2000000B),
     ("bfx", 0xC), ("bfi", 0x1000000C), ("fceq", 0x26), ("fclt", 0x10000026), ("fcle", 0x20000026),
     ("fcun", 0x30000026), ("fcpsgn", 0x20000027), ("cvtfn", 0x1000002B), ("cvtnf", 0x3000002B), ("cvtfhl", 0x2000002C),
     ("cvtfhh", 0x3000002C), ("cvtfbl", 0x2D), ("cvtfbh", 0x1000002D), ("pack8", 0x30), ("pack8h", 0x10000030),
     ("pack8b", 0x20000030), ("unpk8", 0x31), ("unpk8h", 0x10000031), ("unpk8b", 0x20000031), ("amax4", 0x32),
     ("shfx", 0x38), ("shfup", 0x10000038), ("shfdn", 0x20000038), ("shfix", 0x30000038), ("ldwx", 0x5C),
     ("lddx", 0x1000005C), ("stwx", 0x2000005C), ("stdx", 0x3000005C), ("lld", 0x5F), ("lsd", 0x1000005F),
     ("llq", 0x2000005F), ("lsq", 0x3000005F), ("accvt", 0x30000075), ("spawn", 0x78), ("dwwr", 0x1000007E)] ++
  rowsOf .a .none da
    [("clz", 0xC000006), ("popc", 0x1C000006), ("brev", 0x2C000006), ("bswap", 0x3C000006), ("mov", 0x1C000007),
     ("fabs", 0xC000027), ("fneg", 0x1C000027), ("fclass", 0x3C000027), ("frcp", 0xC000028), ("frsq", 0x1C000028),
     ("fsqrt", 0x2C000028), ("fex2", 0x3C000028), ("flg2", 0xC000029), ("fsinpi", 0x1C000029), ("fcospi", 0x2C000029),
     ("frint", 0xC00002A), ("ffloor", 0x1C00002A), ("fceil", 0x2C00002A), ("ftrunc", 0x3C00002A), ("cvtfi", 0xC00002B),
     ("cvtif", 0x2C00002B), ("cvthf", 0xC00002C), ("cvtbf", 0x1C00002C), ("fmtchk", 0x1C000032), ("vall", 0xC00003A),
     ("vany", 0x1C00003A), ("vbal", 0x2C00003A), ("vcnt", 0x3C00003A), ("redadd", 0xC00003B), ("redmin", 0x1C00003B),
     ("redmax", 0x2C00003B), ("fredadd", 0x3C00003B), ("scanadd", 0xC00003C), ("fscanadd", 0x1C00003C),
     ("cpy", 0xC000070), ("cpyst", 0x2C000070), ("put", 0xC000071), ("putm", 0x1C000071), ("bwait", 0x2C000072),
     ("btest", 0x1C000073), ("acrd", 0xC000075), ("acwr", 0x1C000075), ("launch", 0x2C000078), ("vpub", 0xC000079),
     ("vfin", 0x1C000079), ("vrd", 0xC00007A), ("dwrd", 0xC00007E)] ++
  rowsOf .a .none d1
    [("gprd", 0x2C180007), ("vstale", 0x3C180079), ("vseen", 0x2C18007A), ("halt", 0x3C18007E)] ++
  rowsOf .a .none a1
    [("gpwr", 0x3C003007), ("jmpr", 0xC003042), ("trapc", 0xC00304D), ("sigx", 0x2C00304D), ("icinv", 0x1C00304E),
     ("cwb", 0xC00306E), ("cinv", 0x1C00306E), ("pref", 0x2C00306E), ("cpywait", 0x1C003070), ("bkill", 0x3C003072),
     ("sflush", 0x1C003078), ("vstop", 0x2C003079), ("tret", 0x2C00307E)] ++
  rowsOf .i .none [.reg 7, .reg 14, .imm 21 10 true 1]
    [("addi", 0x10), ("andi", 0x11), ("ori", 0x12), ("xori", 0x13), ("muli", 0x18), ("ceqi", 0x19), ("cltsi", 0x1A),
     ("cltni", 0x1B)] ++
  rowsOf .i .none [.reg 7, .reg 14, .imm 21 5 false 1]
    [("shli", 0x14), ("shri", 0x15), ("srai", 0x16), ("rotli", 0x17), ("bcasti", 0x39), ("shfxi", 0x3D)] ++
  rowsOf .k .none [.reg 7, .imm 14 16 false 1]
    [("lih", 0x1C), ("lil", 0x4000001C)] ++
  rowsOf .k .none [.reg 7, .imm 14 16 true 1]
    [("lis", 0x8000001C), ("adpc", 0xC000001C)] ++
  rowsOf .a .ftype dab
    [("fadd", 0x20), ("fsub", 0x21), ("fmul", 0x22), ("fma", 0x23), ("fmin", 0x24), ("fmax", 0x25)] ++
  rowsOf .a (.dot false) dab
    [("fdot2", 0x1000002E)] ++
  rowsOf .a (.dot true) dab
    [("fdot2", 0x2000002E)]
/-- Statements, part 2 (R29, R38). -/
def rows2 : List Row :=
  rowsOf .j .none [.far]
    [("jmp", 0x40)] ++
  rowsOf .j .none [.num 7, .far]
    [("call", 0x41)] ++
  rowsOf .a .none [.num 7, .reg 14]
    [("callr", 0x1C000042)] ++
  rowsOf .a .none []
    [("ret", 0x2C183042), ("exit", 0x3C183042), ("nop", 0xC18304C), ("yield", 0x1C18304C), ("brk", 0x1C18304D),
     ("ifence", 0xC18304E), ("vslack", 0x1C18307A)] ++
  rowsOf .b .none [.reg 7, .reg 14, .near]
    [("beq", 0x43), ("bne", 0x44), ("blts", 0x45), ("bltn", 0x46), ("bges", 0x47), ("bgen", 0x48)] ++
  rowsOf .i .none [.reg 14, .imm 21 10 false 1]
    [("loop", 0x3049)] ++
  rowsOf .a .none k1
    [("rjen", 0xC18004A), ("rjwait", 0x1C18004A), ("rjdrop", 0x2C18004A), ("rjclr", 0x3C18004A), ("bar", 0x2C18004C),
     ("bara", 0x3C18004C)] ++
  rowsOf .i .none [.imm 21 10 true 1]
    [("wadj", 0x18304B)] ++
  rowsOf .m .none [.reg 7, .reg 14, .off 4]
    [("ldw", 0x50), ("stw", 0x57)] ++
  rowsOf .m .none [.reg 7, .reg 14, .off 8]
    [("ldd", 0x51), ("std", 0x58)] ++
  rowsOf .m .none [.reg 7, .reg 14, .off 16]
    [("ldq", 0x52), ("stq", 0x59)]
/-- Statements, part 3 (R29, R38). -/
def rows3 : List Row :=
  rowsOf .m .none [.reg 7, .reg 14, .off 2]
    [("ldhn", 0x53), ("ldhs", 0x54), ("sth", 0x5A)] ++
  rowsOf .m .none [.reg 7, .reg 14, .off 1]
    [("ldbn", 0x55), ("ldbs", 0x56), ("stb", 0x5B)] ++
  rowsOf .i .none [.reg 7, .reg 14, .imm 21 10 true 4]
    [("llw", 0x5D), ("lsw", 0x5E)] ++
  rowsOf .x .atomic dab
    [("aadd", 0x60), ("aand", 0x61), ("aor", 0x62), ("axor", 0x63), ("amins", 0x64), ("aminn", 0x65), ("amaxs", 0x66),
     ("amaxn", 0x67), ("aswap", 0x68), ("acas", 0x69), ("afadd", 0x6A)] ++
  rowsOf .x .atomic da
    [("ald", 0xC00006B)] ++
  rowsOf .x .atomic ab
    [("ast", 0x306C)] ++
  rowsOf .x .fence []
    [("fence", 0xC18306D)] ++
  rowsOf .a .none ab
    [("binit", 0x3072), ("barv", 0x10003072), ("bexp", 0x3073), ("mma", 0x3074), ("mmas", 0x10003074),
     ("mmaz", 0x20003074), ("acz", 0x20003075)] ++
  rowsOf .s .none [.reg 7, .sel]
    [("gets", 0x18007C)] ++
  rowsOf .s .none [.sel, .reg 14]
    [("puts", 0x307D)]
/-- The statement of every instruction. -/
def rows : List Row := rows1 ++ rows2 ++ rows3

/-- A reserved name, which is no symbol (R36). -/
def reserved (s : String) : Bool := (regNum s).isSome || (sysNum s).isSome || rows.any fun r => r.name == lower s
/-- A symbol: a letter or `_` and up to 62 characters more, not reserved (R36). -/
def isSymbol (s : String) : Bool := s.length ≤ 63 && !reserved s

/-! ### Expressions (R37) -/

/-- An expression. -/
inductive Ex where
  | num (v : Dword)
  | sym (s : String)
  | here
  | neg (e : Ex)
  | not (e : Ex)
  | bin (op : String) (x y : Ex)
  | pct (op : String) (e : Ex)
  deriving DecidableEq, Repr
/-- The binary operators from the tightest to the loosest, each with a level of its own (R37). -/
def binOps : List String := ["*", "/", "+", "-", "<<", ">>", "&", "^", "|"]
/-- Parses an expression at a level: 0 is a unary one. With `acc`, goes on after a left operand, so that operators of one level
group from the left. `fuel` bounds the calls. -/
def parse : Nat → Nat → Option Ex → List Tok → Option (Ex × List Tok)
  | 0, _, _, _ => none
  | fuel + 1, 0, _, ts => match ts with
    | .num v :: t => some (.num v, t)
    | .name s :: t => if isSymbol s then some (.sym s, t) else none
    | .mark "." :: t => some (.here, t)
    | .mark "-" :: t => (parse fuel 0 none t).map fun e => (.neg e.1, e.2)
    | .mark "~" :: t => (parse fuel 0 none t).map fun e => (.not e.1, e.2)
    | .mark "(" :: t => (parse fuel 9 none t).bind fun e => match e.2 with
      | .mark ")" :: t => some (e.1, t)
      | _ => none
    | .pct p :: .mark "(" :: t => (parse fuel 9 none t).bind fun e => match e.2 with
      | .mark ")" :: t => some (.pct p e.1, t)
      | _ => none
    | _ => none
  | fuel + 1, lvl + 1, acc, ts => match acc with
    | none => (parse fuel lvl none ts).bind fun e => parse fuel (lvl + 1) (some e.1) e.2
    | some x => match ts with
      | .mark o :: t =>
        if binOps[lvl]? == some o then (parse fuel lvl none t).bind fun e => parse fuel (lvl + 1) (some (.bin o x e.1)) e.2
        else some (x, ts)
      | _ => some (x, ts)
/-- A whole expression. -/
def expr (ts : List Tok) : Option Ex :=
  (parse (24 * ts.length + 24) 9 none ts).bind fun e => if e.2.isEmpty then some e.1 else none
/-- Its value in 64-bit two's complement, where symbols have values and `.` is a location (R37). -/
def Ex.val (env : String → Option Dword) (here : Dword) : Ex → Option Dword
  | .num v => some v
  | .sym s => env s
  | .here => some here
  | .neg e => (e.val env here).map fun x => -x
  | .not e => (e.val env here).map fun x => ~~~x
  | .bin o x y => (x.val env here).bind fun a => (y.val env here).bind fun b =>
    match o with
    | "*" => some (a * b)
    | "/" => if b = 0 then none else some (a.sdiv b)
    | "+" => some (a + b)
    | "-" => some (a - b)
    | "<<" => some (a <<< b.toNat)
    | ">>" => some (a >>> b.toNat)
    | "&" => some (a &&& b)
    | "^" => some (a ^^^ b)
    | _ => some (a ||| b)
  | .pct o e => (e.val env here).bind fun a =>
    match o with
    | "hi16" => some ((a >>> 16) &&& 0xFFFF#64)
    | "lo16" => some (a &&& 0xFFFF#64)
    | "pcrel" => if (a - here).toNat % 4 = 0 then some ((a - here).sdiv 4#64) else none
    | _ => none
/-- The symbols an expression names. -/
def Ex.syms : Ex → List String
  | .sym s => [s]
  | .neg e | .not e | .pct _ e => e.syms
  | .bin _ x y => x.syms ++ y.syms
  | _ => []

/-! ### Operands and words (R28, R38 to R40) -/

/-- Splits at the commas outside parentheses. -/
def splitComma (ts : List Tok) : List (List Tok) :=
  let r := ts.foldl (fun (acc : List (List Tok) × List Tok × Nat) t => match t with
    | .mark "," => if acc.2.2 = 0 then (acc.1 ++ [acc.2.1], [], 0) else (acc.1, acc.2.1 ++ [t], acc.2.2)
    | .mark "(" => (acc.1, acc.2.1 ++ [t], acc.2.2 + 1)
    | .mark ")" => (acc.1, acc.2.1 ++ [t], acc.2.2 - 1)
    | _ => (acc.1, acc.2.1 ++ [t], acc.2.2)) ([], [], 0)
  if ts.isEmpty then [] else r.1 ++ [r.2.1]
/-- A register operand: its number and how many registers it is written as; 0 for `z`, which is of every class (R38). -/
def regOperand (ts : List Tok) : Option (Nat × Nat) :=
  match ts with
  | [.name s] => (regNum s).map fun n => (n, if n = 96 then 0 else 1)
  | [.name s, .mark ":", .num v] => (regNum s).bind fun n =>
    let first := if n ≤ 95 then n else n - 96
    if 120 ≤ n || n = 96 then none
    else if v.toNat = first + 1 then some (n, 2)
    else if v.toNat = first + 3 then some (n, 4)
    else none
  | _ => none
/-- A value in a field of a width, after its scale (R28). -/
def fit (v : Dword) (width : Nat) (signed : Bool) (scale : Nat) : Option Nat :=
  let i := v.toInt
  if i % scale ≠ 0 then none
  else
    let q := i / scale
    if signed then if -(2 ^ (width - 1) : Int) ≤ q && q < 2 ^ (width - 1) then some (q % 2 ^ width).toNat else none
    else if 0 ≤ q && q < 2 ^ width then some q.toNat else none
/-- What a statement's operands stand in: the values of symbols, which of them are labels in `.text`, and the location (R37,
R38). -/
structure Env where
  val : String → Option Dword
  isText : String → Bool
  here : Dword
/-- A branch or jump target: a label in `.text`, or a place counted from `.` (R38; log 34). -/
def Ex.isPlace (isText : String → Bool) : Ex → Bool
  | .sym s => isText s
  | .here => true
  | .bin o x y => (o == "+" || o == "-") && x == .here && y.syms.isEmpty
  | _ => false
/-- The bits an operand gives to the word, and, of a register, how many it is written as (R28, R38). -/
def operand (env : Env) (f : Fld) (ts : List Tok) : Option (Nat × Option Nat) :=
  let value := fun (width : Nat) (signed : Bool) (scale pos : Nat) =>
    (expr ts).bind fun e => (e.val env.val env.here).bind fun v => (fit v width signed scale).map fun n => (n * 2 ^ pos, none)
  let target := fun (width pos : Nat) => (expr ts).bind fun e =>
    if e.isPlace env.isText then
      (e.val env.val env.here).bind fun v => (fit (v - env.here) width true 4).map fun n => (n * 2 ^ pos, none)
    else none
  match f with
  | .reg p => (regOperand ts).map fun r => (r.1 * 2 ^ p, some r.2)
  | .num p => value 7 false 1 p
  | .imm p w signed scale => value w signed scale p
  | .off k => value 10 true k 21
  | .near => target 10 21
  | .far => target 18 14
  | .sel => match ts with
    | [.name s] => match sysNum s with
      | some n => some (n * 2 ^ 21, none)
      | none => value 10 false 1 21
    | _ => value 10 false 1 21
/-- Takes a suffix of one kind off the head of a list, as its place in the kind's list. -/
def take (kind : List String) (l : List String) : Option Nat × List String :=
  match l with
  | s :: t => match kind.findIdx? (· == s) with
    | some n => (some n, t)
    | none => (none, l)
  | [] => (none, [])
/-- The bits of a statement's suffixes, which stand in the order of R39, each at most once. -/
def Row.suffixes (r : Row) (l : List String) : Option Nat :=
  let (ty, l) := take ["f32", "f16x2", "bf16x2"] l
  let (order, l) := take [if r.suf = .fence then "sc" else "rlx", "acq", "rel", "ar"] l
  let (scope, l) := take ["team", "clus", "dev", "sys"] l
  let (g, l) := take ["g"] l
  let (nw, l) := take ["nw"] l
  let types := match r.suf with
    | .ftype => ty.isSome
    | .dot bf => ty == some (if bf then 2 else 1)
    | _ => ty.isNone
  let orders := match r.suf with
    | .atomic => true
    | .fence => order.isSome
    | _ => order.isNone && scope.isNone
  let guards := (g.isNone || r.fmt = .a || r.fmt = .m) && (nw.isNone || r.fmt = .a || r.fmt = .i)
  if l.isEmpty && types && orders && guards then
    some ((match r.suf with
      | .ftype => ty.getD 0 * 2 ^ 28
      | .atomic | .fence => order.getD 0 * 2 ^ 30 + scope.getD 2 * 2 ^ 28
      | _ => 0) + (if g.isSome then (if r.fmt = .m then 2 ^ 31 else 2 ^ 30) else 0) + if nw.isSome then 2 ^ 31 else 0)
  else none
/-- How many registers an operand of a role is written as. -/
def roleWidth : Role → Nat
  | .pair => 2
  | .quad => 4
  | _ => 1
/-- Registers are written as their fields' classes ask (R38). -/
def classesOk (i : Instr) (widths : List Nat) : Bool :=
  let roles := i.operands.map Prod.fst |>.filter fun r => match r with
    | .upTo _ _ => false
    | _ => true
  (widths.zipIdx).all fun e => e.1 = 0 || e.1 = ((roles[e.2]?).map roleWidth).getD 1
/-- The word of a statement that names a row; none for an error. No illegal word comes of it, nor one of a `PUTS` that is
illegal in the mode it is judged under (R40). -/
def Row.assemble (r : Row) (env : Env) (priv : Bool) (sufs : List String) (ops : List (List Tok)) : Option Word :=
  let full := match r.flds.getLast? with
    | some (.off _) => if ops.length + 1 = r.flds.length then ops ++ [[.num 0]] else ops
    | _ => ops
  if full.length ≠ r.flds.length then none
  else (r.suffixes sufs).bind fun sb => ((r.flds.zip full).mapM fun e => operand env e.1 e.2).bind fun fs =>
    let w := BitVec.ofNat 32 (r.word + sb + (fs.map Prod.fst).sum)
    match decode w with
    | .ok i => if classesOk i (fs.filterMap Prod.snd) && i.modeTrap priv != some 1 then some w else none
    | .error _ => none
/-- A name at its periods, without case. -/
def parts (s : String) : List String :=
  let r := (lower s).toList.foldl (fun (acc : List (List Char) × List Char) c =>
    if c == '.' then (acc.1 ++ [acc.2], []) else (acc.1, acc.2 ++ [c])) ([], [])
  (r.1 ++ [r.2]).map String.ofList
/-- The word of an instruction statement (R38 to R40). -/
def statement (env : Env) (priv : Bool) (name : String) (ts : List Tok) : Option Word :=
  match parts name with
  | base :: sufs => (rows.filter fun r => r.name == base).findSome? fun r => r.assemble env priv sufs (splitComma ts)
  | [] => none

/-! ### Disassembly (R40) -/

/-- The bits of the word that a row does not fix. -/
def Row.free (r : Row) : Nat :=
  let field := fun (f : Fld) => match f with
    | .reg p | .num p => (2 ^ 7 - 1) * 2 ^ p
    | .imm p w _ _ => (2 ^ w - 1) * 2 ^ p
    | .off _ | .near | .sel => (2 ^ 10 - 1) * 2 ^ 21
    | .far => (2 ^ 18 - 1) * 2 ^ 14
  let top := match r.fmt with
    | .a => if r.suf = .ftype then 15 * 2 ^ 28 else 12 * 2 ^ 28
    | .i | .m => 8 * 2 ^ 28
    | .x => 15 * 2 ^ 28
    | _ => 0
  (r.flds.map field).foldl (· ||| ·) top
/-- A register as it is written. -/
def regText (n width : Nat) : String :=
  let pre := if n ≤ 95 then "v" else if n ≤ 119 then "s" else "fw"
  let k := if n ≤ 95 then n else if n ≤ 119 then n - 96 else n - 120
  if n = 96 then "z" else if n = 124 then "lid"
  else pre ++ toString k ++ (if width = 2 then ":" ++ toString (k + 1) else if width = 4 then ":" ++ toString (k + 3) else "")
/-- A field as it is written; a target as its distance (log 34). -/
def fieldText (w : Word) (f : Fld) (width : Nat) : Option String :=
  let n := fun (pos width : Nat) => (w.toNat / 2 ^ pos) % 2 ^ width
  let int := fun (pos width : Nat) => if 2 ^ (width - 1) ≤ n pos width then (n pos width : Int) - 2 ^ width else n pos width
  match f with
  | .reg p => some (regText (n p 7) width)
  | .num p => some (toString (n p 7))
  | .imm p k true scale => some (toString (int p k * scale))
  | .imm p k false scale => some (toString (n p k * scale))
  | .off k => if n 21 10 = 0 then none else some (toString (int 21 10 * k))
  | .near => some (". + " ++ toString (4 * int 21 10))
  | .far => some (". + " ++ toString (4 * int 14 18))
  | .sel => some (match sysNames.find? fun e => e.2 == n 21 10 with
    | some e => String.ofList (e.1.toList.map Char.toUpper)
    | none => toString (n 21 10))
/-- The suffixes of a word, defaults left out. -/
def Row.suffixText (r : Row) (w : Word) : String :=
  let two := fun (pos : Nat) => (w.toNat / 2 ^ pos) % 4
  let pick := fun (l : List String) (n : Nat) => l.getD n ""
  (match r.suf with
    | .ftype => pick [".f32", ".f16x2", ".bf16x2"] (two 28)
    | .dot bf => if bf then ".bf16x2" else ".f16x2"
    | .atomic => pick ["", ".acq", ".rel", ".ar"] (two 30) ++ pick [".team", ".clus", "", ".sys"] (two 28)
    | .fence => pick [".sc", ".acq", ".rel", ".ar"] (two 30) ++ pick [".team", ".clus", "", ".sys"] (two 28)
    | .none => "") ++
    (if (r.fmt = .a && w.getLsbD 30) || (r.fmt = .m && w.getLsbD 31) then ".g" else "") ++
    if (r.fmt = .a || r.fmt = .i) && w.getLsbD 31 then ".nw" else ""
/-- The digits of a word, for `.word`. -/
def hexText (w : Word) : String :=
  "0x" ++ String.ofList ((List.range 8).map fun i => "0123456789ABCDEF".toList.getD ((w.toNat / 16 ^ (7 - i)) % 16) '0')
/-- The statement of a word under a mode; an illegal one is a `.word` (R40). -/
def disassemble (priv : Bool) (w : Word) : String :=
  let row := rows.find? fun r => w.toNat &&& (2 ^ 32 - 1 - r.free) = r.word
  match decode w, row with
  | .ok i, some r =>
    if i.modeTrap priv = some 1 then ".word " ++ hexText w
    else
      let roles := i.operands.map Prod.fst |>.filter fun k => match k with
        | .upTo _ _ => false
        | _ => true
      let texts := (r.flds.zipIdx).filterMap fun e =>
        let nth := ((r.flds.take e.2).filter fun f => match f with
          | .reg _ => true
          | _ => false).length
        fieldText w e.1 (((roles[nth]?).map roleWidth).getD 1)
      let name := String.ofList (r.name.toList.map Char.toUpper) ++ r.suffixText w
      if texts.isEmpty then name else name ++ " " ++ ", ".intercalate texts
  | _, _ => ".word " ++ hexText w

end Sys2Proof.Skovas
end

