-- ==== Sys2Proof/Machine/Image.lean ====
section
/-! DEFINITION. skovas, a file at a time (02 R37, R40 to R44): sections, directives, symbols, kernels, the image and the attribute
records from which a launch record is filled. -/

namespace Sys2Proof.Skovas

/-- The sections of an image (R41). -/
inductive Sec where
  | text | rodata | data
  deriving DecidableEq, Repr

/-- What a statement puts into its section; values and instruction operands are resolved at the end of the file (R37). -/
inductive Content where
  | instr (name : String) (ops : List Tok)
  | values (size : Nat) (es : List Ex)
  | zeros (n : Nat)
  | nops (n : Nat)
  deriving DecidableEq, Repr

/-- A statement's content with its section, its location, the kernel it stands in and its mode. -/
structure Item where
  sec : Sec
  here : Nat
  kernel : Option Nat
  priv : Bool
  what : Content
  deriving DecidableEq, Repr

/-- A refinement grid's policy (R44). -/
inductive Policy where
  | follow | restart | kill
  deriving DecidableEq, Repr

/-- A `.grid` declaration; the entry is a label (R42). -/
structure GridDecl where
  name : String
  w : Nat
  h : Nat
  stencil : Nat
  entry : String
  policy : Policy
  deriving DecidableEq, Repr

/-- A kernel with its attribute directives, none where one has not appeared (R42, R44). -/
structure Kernel where
  name : String
  entry : Nat
  stack : Option Nat := none
  groups : Option Nat := none
  cluster : Option (Nat × Nat) := none
  redund : Option Nat := none
  holdpol : Option Nat := none
  cls : Option Nat := none
  accum : Option Nat := none
  fuse : Bool := false
  grid : Option GridDecl := none
  locEnd : Nat := 0
  deriving DecidableEq, Repr

/-- How far a file has been read. The bases of `.rodata` and `.data` are given; a reading that is not strict, which is made to find them,
takes every operand within its limits for granted. -/
structure Reader where
  strict : Bool
  roBase : Nat
  dataBase : Nat
  sec : Sec := .text
  textAt : Nat := 0
  roAt : Nat := 0
  dataAt : Nat := 0
  priv : Bool := false
  syms : List (String × Dword) := []
  textSyms : List String := []
  locals : List (Nat × String × Nat) := []
  globals : List String := []
  kernels : List Kernel := []
  inKernel : Bool := false
  items : List Item := []
  deriving DecidableEq, Repr

/-- The place in the current section, and the location: its offset from the code base (R37, R41). -/
def Reader.at (r : Reader) : Nat := match r.sec with
  | .text => r.textAt
  | .rodata => r.roAt
  | .data => r.dataAt
def Reader.here (r : Reader) : Nat := match r.sec with
  | .text => r.textAt
  | .rodata => r.roBase + r.roAt
  | .data => r.dataBase + r.dataAt
/-- The open kernel's index. -/
def Reader.kernel (r : Reader) : Option Nat := if r.inKernel then some (r.kernels.length - 1) else none
/-- Puts n bytes into the current section. -/
def Reader.emit (r : Reader) (n : Nat) (what : Content) : Reader :=
  let r := { r with items := r.items ++ [Item.mk r.sec r.here r.kernel r.priv what] }
  match r.sec with
  | .text => { r with textAt := r.textAt + n }
  | .rodata => { r with roAt := r.roAt + n }
  | .data => { r with dataAt := r.dataAt + n }
/-- The value of a symbol for a statement of a kernel (R37, R43). -/
def Reader.value (r : Reader) (kernel : Option Nat) (s : String) : Option Dword :=
  match r.locals.find? fun e => some e.1 == kernel && e.2.1 == s with
  | some e => some (BitVec.ofNat 64 e.2.2)
  | none => (r.syms.find? fun e => e.1 == s).map Prod.snd
/-- Defines a symbol once (R40). -/
def Reader.define (r : Reader) (s : String) (v : Dword) : Option Reader :=
  if !isSymbol s || r.syms.any (fun e => e.1 == s) then none else some { r with syms := r.syms ++ [(s, v)] }
/-- A label: the current location (R36). -/
def Reader.label (r : Reader) (s : String) : Option Reader :=
  (r.define s (BitVec.ofNat 64 r.here)).map fun q => if r.sec = .text then { q with textSyms := q.textSyms ++ [s] } else q
/-- An operand that must be known where it stands (R42). -/
def Reader.known (r : Reader) (ts : List Tok) : Option Int :=
  (expr ts).bind fun e => match e.val (r.value r.kernel) (BitVec.ofNat 64 r.here) with
    | some v => some v.toInt
    | none => if r.strict then none else some 0
/-- Such an operand within limits. -/
def Reader.between (r : Reader) (lo hi : Int) (ts : List Tok) : Option Nat :=
  (r.known ts).bind fun n => if !r.strict then some (max lo (min n hi)).toNat else if lo ≤ n && n ≤ hi then some n.toNat else none
/-- A power of two from 1 to 4,096. -/
def isAlign (n : Nat) : Bool := (List.range 13).any fun k => n == 2 ^ k
/-- The open kernel with an attribute set, once (R42). -/
def Reader.attr (r : Reader) (free : Kernel → Bool) (f : Kernel → Kernel) : Option Reader :=
  if !r.inKernel then none
  else match r.kernels.getLast? with
    | some k => if free k then some { r with kernels := r.kernels.dropLast ++ [f k] } else none
    | none => none
/-- A single symbol operand. -/
def symOperand : List (List Tok) → Option String
  | [[.name s]] => if isSymbol s then some s else none
  | _ => none
/-- `.kernel`: labels the next `.text` location and opens a kernel (R42). -/
def Reader.openKernel (r : Reader) (ops : List (List Tok)) : Option Reader :=
  if r.inKernel then none
  else (symOperand ops).bind fun s =>
    let t : Reader := { r with sec := .text }
    (t.label s).map fun q =>
      { q with inKernel := true, kernels := q.kernels ++ [{ name := s, entry := q.textAt }] }
/-- `.local`: the lowest aligned offset at or after the previous one's end (R42, R43). -/
def Reader.addLocal (r : Reader) (ops : List (List Tok)) : Option Reader :=
  match ops, r.kernel with
  | [[.name s], size, align], some n =>
    (r.between 1 1048576 size).bind fun size => (r.between 1 4096 align).bind fun align =>
      let last := ((r.kernels.getLast?).map Kernel.locEnd).getD 0
      let start := (last + align - 1) / align * align
      if !isSymbol s || r.locals.any (fun e => e.1 == n && e.2.1 == s) || (r.strict && (!isAlign align || 1048576 < start + size)) then none
      else ({ r with locals := r.locals ++ [(n, s, start)] }).attr (fun _ => true) fun k => { k with locEnd := start + size }
  | _, _ => none
/-- A policy's name, taken like the words of `.mode` without regard to case (R42; log 34). -/
def policyOf (s : String) : Option Policy :=
  match lower s with
  | "follow" => some .follow
  | "restart" => some .restart
  | "kill" => some .kill
  | _ => none
/-- The attribute directives (R42). -/
def Reader.attribute (r : Reader) (d : String) (ops : List (List Tok)) : Option Reader :=
  match d, ops with
  | ".stack", [n] => (r.known n).bind fun n =>
    let code := [128, 256, 512, 1024].findIdx? fun (k : Int) => k == n
    (if r.strict then code else some (code.getD 0)).bind fun c => r.attr (·.stack.isNone) fun k => { k with stack := some c }
  | ".groups", [n] => (r.between 1 32 n).bind fun n => r.attr (·.groups.isNone) fun k => { k with groups := some n }
  | ".cluster", [w, h] => (r.between 1 8 w).bind fun w => (r.between 1 8 h).bind fun h =>
    if r.strict && 16 < w * h then none else r.attr (·.cluster.isNone) fun k => { k with cluster := some (w, h) }
  | ".redund", [n] => (r.between 0 7 n).bind fun n => r.attr (·.redund.isNone) fun k => { k with redund := some n }
  | ".holdpol", [n] => (r.between 0 1 n).bind fun n => r.attr (·.holdpol.isNone) fun k => { k with holdpol := some n }
  | ".class", [n] => (r.between 0 7 n).bind fun n => r.attr (·.cls.isNone) fun k => { k with cls := some n }
  | ".accum", [n] => (r.between 0 524288 n).bind fun n =>
    if r.strict && n % 4096 ≠ 0 then none else r.attr (·.accum.isNone) fun k => { k with accum := some n }
  | ".fusel1", [] => r.attr (fun k => !k.fuse) fun k => { k with fuse := true }
  | ".grid", [[.name s], w, h, st, [.name entry], [.name p]] =>
    (r.between 1 256 w).bind fun w => (r.between 1 256 h).bind fun h => (r.between 0 (2 ^ 25 - 1) st).bind fun st =>
      (policyOf p).bind fun p =>
        if !isSymbol s then none else r.attr (·.grid.isNone) fun k => { k with grid := some ⟨s, w, h, st, entry, p⟩ }
  | _, _ => none
/-- The data directives: `.word`, `.half` and `.byte` (R42). -/
def Reader.values (r : Reader) (size : Nat) (ops : List (List Tok)) : Option Reader :=
  if ops.isEmpty || (r.strict && size = 4 && r.at % 4 ≠ 0) || (size ≠ 4 && r.sec = .text) then none
  else (ops.mapM expr).map fun es => r.emit (size * es.length) (.values size es)
/-- A directive (R42). -/
def Reader.directive (r : Reader) (d : String) (ops : List (List Tok)) : Option Reader :=
  match d, ops with
  | ".kernel", _ => r.openKernel ops
  | ".end", [] => if r.inKernel then some { r with inKernel := false } else none
  | ".text", [] => some { r with sec := .text }
  | ".rodata", [] => some { r with sec := .rodata }
  | ".data", [] => some { r with sec := .data }
  | ".mode", [[.name m]] =>
    if lower m == "user" then some { r with priv := false }
    else if lower m == "priv" && !r.inKernel then some { r with priv := true } else none
  | ".global", _ => (symOperand ops).map fun s => { r with globals := r.globals ++ [s] }
  | ".equ", [[.name s], e] => (r.known e).bind fun v => r.define s (BitVec.ofInt 64 v)
  | ".align", [n] => (r.between 1 4096 n).bind fun n =>
    let pad := (n - r.at % n) % n
    if r.strict && (!isAlign n || (r.sec = .text && n < 4)) then none
    else some (if r.sec = .text then r.emit pad (.nops (pad / 4)) else r.emit pad (.zeros pad))
  | ".word", _ => r.values 4 ops
  | ".half", _ => r.values 2 ops
  | ".byte", _ => r.values 1 ops
  | ".zero", [n] => (r.between 0 (2 ^ 30) n).bind fun n => if r.strict && r.sec = .text && n % 4 ≠ 0 then none else some (r.emit n (.zeros n))
  | ".local", _ => r.addLocal ops
  | _, _ => r.attribute d ops
/-- A statement: a directive, or an instruction in `.text` (R41). -/
def Reader.statement (r : Reader) : List Tok → Option Reader
  | [] => some r
  | .dir d :: ts => r.directive d (splitComma ts)
  | .name m :: ts => if r.sec = .text then some (r.emit 4 (.instr m ts)) else none
  | _ => none
/-- A line: an optional label, an optional statement, an optional comment (R35). -/
def Reader.line (r : Reader) (cs : List Char) : Option Reader :=
  (lexLine cs).bind fun ts => match ts with
    | .name s :: .mark ":" :: t => (r.label s).bind fun r => r.statement t
    | _ => r.statement ts
/-- The lines of a text. -/
def lines (cs : List Char) : List (List Char) :=
  let r := cs.foldl (fun (acc : List (List Char) × List Char) c =>
    if c == '\n' then (acc.1 ++ [acc.2], []) else (acc.1, acc.2 ++ [c])) ([], [])
  r.1 ++ [r.2]
/-- Reads a file with the bases of its sections; at its end no kernel is open, what it exports is defined, wherever in the file, and no
`.local` shares a name with a label or an `.equ` symbol (R40, R42, R43; log 34). -/
def readFile (strict : Bool) (roBase dataBase : Nat) (cs : List Char) : Option Reader :=
  ((lines cs).foldlM (fun r l => Reader.line r l) { strict, roBase, dataBase }).bind fun r =>
    if r.inKernel || (r.globals.any fun g => !r.syms.any fun e => e.1 == g) ||
      r.locals.any fun l => r.syms.any fun e => e.1 == l.2.1 then none else some r
/-- The next 8 KiB boundary at or after a place. -/
def pageUp (n : Nat) : Nat := (n + 8191) / 8192 * 8192
/-- The bytes of a data value within its limits (R42). -/
def valueBytes (size : Nat) (v : Dword) : Option (List Byte) :=
  if -(2 ^ (8 * size - 1) : Int) ≤ v.toInt && v.toInt < 2 ^ (8 * size) then some ((List.range size).map fun i => v.extractLsb' (8 * i) 8)
  else none
/-- The bytes of an item (R37 to R42). -/
def Reader.bytes (r : Reader) (i : Item) : Option (List Byte) :=
  match i.what with
  | .instr name ts =>
    (Skovas.statement ⟨r.value i.kernel, r.textSyms.contains, BitVec.ofNat 64 i.here⟩ i.priv name ts).map bytesOfWord
  | .values size es =>
    (es.mapM fun (e : Ex) => (e.val (r.value i.kernel) (BitVec.ofNat 64 i.here)).bind (valueBytes size)).map List.flatten
  | .zeros n => some (List.replicate n 0#8)
  | .nops n => some ((List.replicate n (bytesOfWord 0x0C18304C#32)).flatten)

/-! ### The image and the attribute records (R41, R44) -/

/-- What a kernel's launch record takes from its source (R44). -/
structure Attributes where
  name : String
  entry : Nat
  redund : Nat
  holdpol : Nat
  cls : Nat
  fuse : Bool
  grid : Option (GridDecl × Nat)
  groups : Nat
  w : Nat
  h : Nat
  stack : Nat
  locBytes : Nat
  accBytes : Nat
  deriving DecidableEq, Repr
/-- The record of a kernel; its refinement grid's entry is a label of `.text` (R42 to R44). -/
def Reader.attributes (r : Reader) (k : Kernel) : Option Attributes :=
  let rec_ := fun (g : Option (GridDecl × Nat)) =>
    let cl := k.cluster.getD (1, 1)
    ({ name := k.name, entry := k.entry, redund := k.redund.getD 0, holdpol := k.holdpol.getD 0, cls := k.cls.getD 4, fuse := k.fuse
       grid := g, groups := k.groups.getD 1, w := cl.1, h := cl.2, stack := k.stack.getD 0
       locBytes := (k.locEnd + 4095) / 4096 * 4096, accBytes := k.accum.getD 0 } : Attributes)
  match k.grid with
  | none => some (rec_ none)
  | some g => if r.textSyms.contains g.entry then (r.value none g.entry).map fun v => rec_ (some (g, v.toNat)) else none
/-- The flags of the launch record (R44). -/
def Attributes.flags (a : Attributes) : Word :=
  let pol := match a.grid.map fun g => g.1.policy with
    | some .restart => 2 ^ 10
    | some .kill => 2 ^ 10 + 2 ^ 9
    | _ => 0
  BitVec.ofNat 32 (a.redund + 2 ^ 3 * a.holdpol + 2 ^ 4 * a.cls + 2 ^ 7 * a.fuse.toNat + 2 ^ 8 * a.grid.isSome.toNat + pol)
/-- A launch record with the fields that a kernel's source gives (R44). -/
def Attributes.fill (a : Attributes) (r : Machine.LaunchRec) : Machine.LaunchRec :=
  { r with
    entry := BitVec.ofNat 32 a.entry, flags := a.flags ||| (r.flags &&& 0xFFFFF800#32), groups := a.groups, w := a.w, h := a.h
    stack := a.stack, locBytes := a.locBytes, accBytes := a.accBytes }
/-- What skovas emits for a file (R41, R44). -/
structure Image where
  bytes : List Byte
  roBase : Nat
  dataBase : Nat
  exports : List (String × Dword)
  kernels : List Attributes
  deriving DecidableEq, Repr
/-- The bytes of a section. -/
def Reader.section_ (r : Reader) (sec : Sec) : Option (List Byte) := ((r.items.filter fun i => i.sec == sec).mapM r.bytes).map List.flatten
/-- The bases of a file's `.rodata` and `.data`, read so many times (R41; log 34). -/
def bases (cs : List Char) : Nat → Nat × Nat → Option (Nat × Nat)
  | 0, b => some b
  | n + 1, b => (readFile false b.1 b.2 cs).bind fun q =>
    bases cs n (pageUp q.textAt, pageUp (pageUp q.textAt + q.roAt))
/-- Assembles a file; none for any error (R40). The file is read to find the sections' bases and again with them. -/
def assemble (cs : List Char) : Option Image :=
  (bases cs 4 (0, 0)).bind fun b =>
    let (roBase, dataBase) := b
    (readFile true roBase dataBase cs).bind fun r =>
      if pageUp r.textAt ≠ roBase || pageUp (roBase + r.roAt) ≠ dataBase then none
      else (r.section_ .text).bind fun t => (r.section_ .rodata).bind fun ro => (r.section_ .data).bind fun d =>
        (r.kernels.mapM r.attributes).map fun kernels =>
          let gap := fun (n : Nat) => List.replicate n (0#8 : Byte)
          let full := t ++ if ro.isEmpty && d.isEmpty then [] else gap (roBase - t.length) ++ ro ++
            if d.isEmpty then [] else gap (dataBase - roBase - ro.length) ++ d
          { bytes := full, roBase, dataBase, kernels
            exports := r.globals.filterMap fun g => (r.value none g).map fun v => (g, v) }

end Sys2Proof.Skovas
end

