-- ==== Sys2Proof/Tests/Slice0.lean ====
section
/-! SUPPORT. The model's own tests: words of the spec's encodings, ill-formed terms, single steps with results worked out from
the spec, and for each statement with hypotheses a state that meets them. -/

namespace Sys2Proof.Tests
set_option Elab.async false
open Sys2Proof Sys2Proof.Machine Sys2Proof.Rules

/-! ### A small package -/

/-- A group of team 1: 32 lanes at PC 0. -/
def grp : Group := { team := 1 }
/-- A group with one lane, whose `s` registers hold given words by field value. -/
def solo (s : List (Nat × Word)) : Group :=
  { team := 1, s := s.map fun e => (e.1, { val := e.2 }), lanes := Vector.ofFn fun l => if l.val = 0 then {} else { st := .exited } }
/-- A package that runs, with one partition, grid and team on core 0, and a given group in slot 0 of barrel 0. -/
def pack (g : Group) : State :=
  { State.reset with
    phase := .ready
    nextId := 2
    parts := [(0, { domains := 1, frame := 8192 })]
    grids := [(1, { part := 0, queue := 0, evQueue := 0, seq := 1, recd := {} })]
    teams := [(1, { grid := 1, core := 0, locSize := 1024, accSize := 4096 })]
    groups := [(0, g)] }
/-- A core in that package. -/
def packCore (g : Group) (k : Core) : State := { pack g with cores := [(0, k)] }
/-- The team of that package. -/
def tm1 : Team := { grid := 1, core := 0, locSize := 1024, accSize := 4096 }
/-- The issue of all 32 lanes, and of lane 0 alone. -/
def iss (g : Group) : Issue := ⟨0, g, 0xFFFFFFFF#32, 0#32⟩
def one (g : Group) : Issue := ⟨0, g, 1#32, 0#32⟩
/-- The control core of Q0 with the turn, its group in a package that runs. -/
def ctrlGrp (s : List (Nat × Word) := []) : Group := { solo s with team := 0, priv := true }
def ctrl (g : Group) : State := { pack grp with turn := 1024, groups := [(0, grp), (8192, g)] }
def ctrlIss (g : Group) : Issue := ⟨8192, g, 1#32, 0#32⟩

theorem issue_pack : (pack grp).issue = some (iss grp) := by decide +kernel
theorem issue_ctrl : (ctrl (ctrlGrp)).issue = some (ctrlIss ctrlGrp) := by decide +kernel

/-- A group of fresh lanes reads a clean word from every register field. -/
theorem cell_grp (n : Nat) (l : LaneIx) (r : Nat) :
    (grp.cell n l r).pend = false ∧ (grp.cell n l r).pois = false ∧ (grp.cell n l r).unc = false := by
  have hl : grp.lane l = {} := by simp [grp, Group.lane]
  unfold Group.cell
  rw [hl]
  split_ifs
  · exact ⟨rfl, rfl, rfl⟩
  · exact ⟨rfl, rfl, rfl⟩
  · exact ⟨rfl, rfl, rfl⟩
  · generalize r - 120 = k
    unfold Ring.get
    split_ifs <;> exact ⟨rfl, rfl, rfl⟩
  · exact ⟨rfl, rfl, rfl⟩

/-- Its operands are always there. -/
theorem ready_grp (n : Nat) (part : Mask) (srcs waits : List Operand) : (iss grp).Ready n part srcs waits := by
  refine ⟨?_, fun l _ => ?_⟩
  · simp [Group.pending, iss, cell_grp]
  · have h : ∀ w ∈ (srcs.flatMap fun o => o.regs.zipIdx.map fun e =>
        (o.r.setWidth 32 ||| (BitVec.ofNat 32 e.2 <<< 8), grp.cell n l e.1)), w.2.pois = false ∧ w.2.unc = false := by
      intro w hw
      simp only [List.mem_flatMap, List.mem_map] at hw
      obtain ⟨o, -, e, -, rfl⟩ := hw
      exact ⟨(cell_grp n l e.1).2.1, (cell_grp n l e.1).2.2⟩
    unfold Group.operandTrap
    simp only [iss]
    rw [List.find?_eq_none.mpr fun w hw => by simp [(h w hw).1]]
    simp only [Option.map_eq_none_iff]
    exact List.find?_eq_none.mpr fun w hw => by simp [(h w hw).2]

/-- Every instruction that computes a value can run there. -/
theorem runs_grp (r : ValueRule) : r.Runs (pack grp) (iss grp) :=
  ⟨issue_pack, by decide +kernel, ready_grp _ _ _ _⟩

theorem rejoin_none (g : Group) (h : ∀ l k, (g.lane l).st ≠ .rejoin k) (k : Nat) : g.rejoinReady k = false := by
  have : g.inState (.rejoin k) = 0#32 := Mask.ext' fun l => by simp [Group.inState, h l k]
  simp [Group.rejoinReady, this]

/-! ### States that meet the hypotheses of the statements -/

theorem witness_IntegerResults :
    (∃ r, arithmetic (.maclo ⟨true, true, 119, 124, 0⟩) = some r ∧ (Instr.maclo ⟨true, true, 119, 124, 0⟩).wellFormed = true ∧
      r.Runs (pack grp) (iss grp)) ∧
    (∃ r, bitOps (.bfi ⟨false, false, 96, 95, 97⟩) = some r ∧ (Instr.bfi ⟨false, false, 96, 95, 97⟩).wellFormed = true ∧
      r.Runs (pack grp) (iss grp)) ∧
    (∃ r, pairOps (.addd ⟨false, false, 118, 94, 96⟩) = some r ∧ (Instr.addd ⟨false, false, 118, 94, 96⟩).wellFormed = true ∧
      r.Runs (pack grp) (iss grp)) ∧
    (∃ r, immediates (.lih ⟨95, 0xFFFF⟩) = some r ∧ (Instr.lih ⟨95, 0xFFFF⟩).wellFormed = true ∧ r.Runs (pack grp) (iss grp)) :=
  ⟨⟨_, rfl, by decide, runs_grp _⟩, ⟨_, rfl, by decide, runs_grp _⟩, ⟨_, rfl, by decide, runs_grp _⟩, ⟨_, rfl, by decide, runs_grp _⟩⟩

theorem witness_ComparesAndPredicates :
    (∃ r, compares (.ceqi ⟨true, 96, 124, 0x200⟩) = some r ∧ (Instr.ceqi ⟨true, 96, 124, 0x200⟩).wellFormed = true ∧
      r.Runs (pack grp) (iss grp)) ∧
    (∃ r, selects (.sel ⟨false, true, 0, 120, 123⟩) = some r ∧ (Instr.sel ⟨false, true, 0, 120, 123⟩).wellFormed = true ∧
      r.Runs (pack grp) (iss grp)) ∧
    (Instr.gpwr ⟨true, 124⟩).wellFormed = true ∧ (pack grp).issue = some (iss grp) ∧
      (iss grp).Ready 128 ((iss grp).part true) [⟨124, 1⟩] [⟨124, 1⟩] :=
  ⟨⟨_, rfl, by decide, runs_grp _⟩, ⟨_, rfl, by decide, runs_grp _⟩, by decide, issue_pack, ready_grp _ _ _ _⟩

theorem witness_FloatingResults :
    (∃ r, floats (.fma ⟨true, true, .bf16x2, 96, 124, 123⟩) = some r ∧
      (Instr.fma ⟨true, true, .bf16x2, 96, 124, 123⟩).wellFormed = true ∧ r.Runs (pack grp) (iss grp)) ∧
    (∃ r, specials (.fcospi ⟨false, false, 119, 124⟩) = some r ∧ (Instr.fcospi ⟨false, false, 119, 124⟩).wellFormed = true ∧
      r.Runs (pack grp) (iss grp)) :=
  ⟨⟨_, rfl, by decide, runs_grp _⟩, ⟨_, rfl, by decide, runs_grp _⟩⟩

/-- s1 holds the conversion word of binary8p4 that 09 writes out, 0x0008_0004. -/
def convGrp : Group := solo [(97, 0x0008_0004#32)]
theorem issue_conv : (pack convGrp).issue = some (one convGrp) := by decide +kernel
theorem witness_ConversionResults :
    (∃ r, conversions (.amax4 ⟨false, false, 0, 92, 124⟩) = some r ∧ (Instr.amax4 ⟨false, false, 0, 92, 124⟩).wellFormed = true ∧
      r.Runs (pack grp) (iss grp)) ∧
    (∃ r : FormatRule, formatOps (.pack8 ⟨false, false, 0, 92, 97⟩) = some r ∧
      (Instr.pack8 ⟨false, false, 0, 92, 97⟩).wellFormed = true ∧ r.rule.Runs (pack convGrp) (one convGrp) ∧
      ∀ l, Mask.has ((one convGrp).part r.o.g) l = true →
        r.Valid ((one convGrp).g.src ((pack convGrp).stackOf (one convGrp).g) l r.o.b)) := by
  refine ⟨⟨_, rfl, by decide, runs_grp _⟩, _, rfl, by decide, ⟨issue_conv, by decide +kernel, by decide +kernel, by decide +kernel⟩, ?_⟩
  unfold FormatRule.Valid
  decide +kernel

theorem witness_CrossLaneResults :
    (∃ r : Shuffle, shuffles (.shfdn ⟨false, true, 96, 95, 124⟩) = some r ∧ (Instr.shfdn ⟨false, true, 96, 95, 124⟩).wellFormed = true ∧
      r.rule.Runs (pack grp) (iss grp) ∧ (iss grp).g.pending 128 0xFFFFFFFF#32 [⟨r.a, 1⟩] = false ∧
      ∀ l, (iss grp).g.operandTrap 128 [⟨r.a, 1⟩] l = none) ∧
    (∃ r : Collective, collectives (.fscanadd ⟨true, false, 96, 124⟩) = some r ∧ (Instr.fscanadd ⟨true, false, 96, 124⟩).wellFormed = true ∧
      r.rule.Runs (pack grp) (iss grp)) :=
  ⟨⟨_, rfl, by decide, runs_grp _, by decide +kernel, fun l => (ready_grp 128 0xFFFFFFFF#32 [_] []).2 l (by simp)⟩,
    ⟨_, rfl, by decide, runs_grp _⟩⟩

/-- Codes and their values: 4, 3, 5/2, 128, −151, 2/7 or so. -/
theorem denotes_some : Denotes 0x40800000 4 ∧ Denotes 0x40400000 3 ∧ Denotes 0x40200000 (5 / 2) ∧ Denotes 0x43000000 128 ∧ Denotes 0xC3170000 (-151) := by
  have h : fp32.decode 0x40800000 = .fin false 0x800000 (-21) ∧ fp32.decode 0x40400000 = .fin false 0xC00000 (-22) ∧
      fp32.decode 0x40200000 = .fin false 0xA00000 (-22) ∧ fp32.decode 0x43000000 = .fin false 0x800000 (-16) ∧
      fp32.decode 0xC3170000 = .fin true 0x970000 (-16) := by decide +kernel
  obtain ⟨a, b, c, d, e⟩ := h
  exact ⟨⟨_, _, _, a, by norm_num⟩, ⟨_, _, _, b, by norm_num⟩, ⟨_, _, _, c, by norm_num⟩, ⟨_, _, _, d, by norm_num⟩, ⟨_, _, _, e, by norm_num⟩⟩
theorem reads_some (c : Nat) (h : c ∈ [0x40800000, 0x40400000, 0x40200000, 0x43000000, 0xC3170000, 0x3E924925, 1]) : Reads 0#32 c := by
  simp only [List.mem_cons, List.not_mem_nil, or_false] at h
  rcases h with rfl | rfl | rfl | rfl | rfl | rfl | rfl <;> exact ⟨by decide, by decide +kernel⟩
theorem witness_RoundingAndExactCases :
    ((5 : ℚ) / 2 = (5 : Nat) * (2 : ℚ) ^ ((-1 : Int) - 0)) ∧ (0x80800000 : Nat) ≤ 0xFF800000 ∧
    (Reads 0#32 0x40800000 ∧ Denotes 0x40800000 (2 ^ (2 * (1 : Int))) ∧ Denotes 0x40800000 (2 ^ (2 : Int))) ∧
    (Reads 0#32 0x40400000 ∧ Denotes 0x40400000 (3 : Int)) ∧ (Reads 0#32 0x40200000 ∧ Denotes 0x40200000 ((2 : Int) + 1 / 2)) ∧
    (Reads 0#32 0x43000000 ∧ Denotes 0x43000000 128) ∧ (Reads 0#32 0xC3170000 ∧ Denotes 0xC3170000 (-151)) ∧ Reads 0#32 (0 * 2 ^ 31 + 1) ∧
    (fp32.isNan ((modeOf 0#32).dazCode fp32 0x7F800000) = false ∧ fp32.isInf ((modeOf 0#32).dazCode fp32 0x7F800000) = true) := by
  obtain ⟨a, b, c, d, e⟩ := denotes_some
  refine ⟨by norm_num, by norm_num, ⟨reads_some _ (by simp), by norm_num; exact a, by norm_num; exact a⟩, ⟨reads_some _ (by simp), by exact_mod_cast b⟩,
    ⟨reads_some _ (by simp), by norm_num; exact c⟩, ⟨reads_some _ (by simp), d⟩, ⟨reads_some _ (by simp), e⟩, reads_some _ (by simp), ?_, ?_⟩ <;>
    decide +kernel

theorem witness_SpecialFunctionBounds :
    (modeOf 0#32).ftz = false ∧
    (Reads 0#32 0x40400000 ∧ Denotes 0x40400000 3 ∧ (2 : ℚ) ^ (-128 : Int) < |3| ∧ (0 : ℚ) < 3) ∧
    (∃ m e, Reads 0#32 0x3E924925 ∧ fp32.decode 0x3E924925 = .fin false m e ∧ m ≠ 0 ∧ -150 * 2 ^ 160 ≤ (Fp.fin false m e).fix 160 ∧
      (Fp.fin false m e).fix 160 < 128 * 2 ^ 160 ∧ pow2Exp m e = none ∧ halves m e = none) := by
  refine ⟨by decide +kernel, ⟨reads_some _ (by simp), denotes_some.2.1, by norm_num, by norm_num⟩, 0x924925, -25, reads_some _ (by simp), ?_⟩
  decide +kernel

theorem witness_BranchesAndJumps :
    (∃ r, jumps (.jmpr 96) = some r ∧ (Instr.jmpr 96).wellFormed = true ∧ (pack grp).issue = some (iss grp) ∧
      (iss grp).Ready 128 (iss grp).act r.srcs r.srcs ∧
      ∀ l, Mask.has (iss grp).act l = true → (r.next (iss grp) 128 l).toNat % 4 = 0) ∧
    (∃ r, jumps (.bgen ⟨124, 0, 0x200⟩) = some r ∧ (iss grp).Ready 128 (iss grp).act r.srcs r.srcs ∧ r.aligned = false) :=
  ⟨⟨_, rfl, by decide, issue_pack, ready_grp _ _ _ _, by decide +kernel⟩, _, rfl, ready_grp _ _ _ _, rfl⟩

/-- A group whose windows lie at entry 32 with entries 0 to 127 resident. -/
def deep (wlo : Nat) : Group := { team := 1, lanes := Vector.ofFn fun _ => { wb := 32, wlo } }
theorem witness_WindowMoves :
    (∃ r : WindowMove, windowMoves .ret = some r ∧ r.Runs (pack grp) (iss grp) ∧ r.Resident (pack grp) (iss grp)) ∧
    (∃ r : WindowMove, windowMoves (.call 32 0x1FFFF) = some r ∧ (Instr.call 32 0x1FFFF).wellFormed = true ∧
      r.Runs (pack grp) (iss grp) ∧ r.Resident (pack grp) (iss grp)) ∧
    (∃ r : WindowMove, windowMoves (.callr 64 96) = some r ∧ (Instr.callr 64 96).wellFormed = true ∧
      r.Runs (pack grp) (iss grp) ∧ ¬ r.Resident (pack grp) (iss grp)) ∧
    (∃ r : WindowMove, windowMoves (.wadj 0x3E0) = some r ∧ (Instr.wadj 0x3E0).wellFormed = true ∧
      r.Runs (pack (deep 32)) (iss (deep 32)) ∧ ¬ r.Resident (pack (deep 32)) (iss (deep 32))) := by
  refine ⟨⟨_, rfl, ?_, ?_⟩, ⟨_, rfl, by decide, ?_, ?_⟩, ⟨_, rfl, by decide, ?_, ?_⟩, ⟨_, rfl, by decide, ?_, ?_⟩⟩
  all_goals first
    | exact ⟨issue_pack, by decide +kernel, nofun, ready_grp _ _ _ _, by decide +kernel⟩
    | exact ⟨by decide +kernel, by decide +kernel, nofun, ⟨by decide +kernel, by decide +kernel⟩, by decide +kernel⟩
    | (unfold WindowMove.Resident; decide +kernel)

/-- Lane 1 waits at rejoin mask 0, or stands elsewhere, and lane 0 comes. -/
def rejoining (waits : Bool) : Group :=
  { team := 1, rj := Vector.ofFn fun k => if k.val = 0 then 3#32 else 0#32
    lanes := Vector.ofFn fun l => if l.val = 0 then {} else if l.val = 1 then { st := if waits then .rejoin 0 else .eligible, pc := 4 }
      else { st := .exited } }
theorem witness_RejoinMasks :
    ((pack (rejoining true)).issue = some (one (rejoining true)) ∧
      (∀ l, Mask.has ((rejoining true).rj.get 0 &&& ~~~1#32) l = true → ((rejoining true).lane l).st = .rejoin 0) ∧
      (1#32 &&& (rejoining true).rj.get 0) ≠ 0#32) ∧
    ((pack (rejoining false)).issue = some (one (rejoining false)) ∧
      ∃ l, Mask.has ((rejoining false).rj.get 0) l = true ∧ Mask.has (one (rejoining false)).act l = false ∧
        ((rejoining false).lane l).st ≠ .rejoin 0) := by
  refine ⟨⟨by decide +kernel, by decide +kernel, by decide +kernel⟩, by decide +kernel, 1, by decide +kernel, by decide +kernel, by decide +kernel⟩

/-- The group at a loop level whose body is the one instruction at PC 0, with a count. -/
def looping (c : Word) : Group :=
  { team := 1, levels := [⟨0, 0, 0, 0xFFFFFFFC, 0xFFFFFFFF, 0, false⟩], lc := Vector.ofFn fun k => if k.val = 0 then c else 0 }
/-- A line of `NOP` words at PC 0 in core 0's instruction cache. -/
def nops : Core := { ilines := [(ilineKey 0 0, ⟨List.replicate 32 0x0C18304C#32⟩)] }
theorem no_rejoin_solo (s) : ∀ k, (solo s).rejoinReady k = false :=
  rejoin_none _ fun l k => by simp only [solo, Group.lane, get_ofFn_lane]; split <;> simp
theorem witness_Loops :
    ((Instr.loop 96 1).wellFormed = true ∧ (pack grp).issue = some (iss grp) ∧ Mask.low (iss grp).act = some 0 ∧
      grp.pending 128 (Mask.add 0#32 0) [⟨96, 1⟩] = false ∧ grp.operandTrap 128 [⟨96, 1⟩] 0 = none ∧ grp.src 128 0 96 = 0#32) ∧
    (∃ g : Group, g = solo [(97, 3#32)] ∧ (packCore g nops).issue = some (one g) ∧ Mask.low (one g).act = some 0 ∧
      g.pending 128 (Mask.add 0#32 0) [⟨97, 1⟩] = false ∧ g.operandTrap 128 [⟨97, 1⟩] 0 = none ∧ g.src 128 0 97 = 3#32 ∧
      g.levels.length < 3 ∧ (∀ k, g.rejoinReady k = false) ∧
      ∃ w, (packCore g nops).fetchAt 0 g 0 4#32 = some w ∧ ¬ (0x40 ≤ w.toNat % 128 ∧ w.toNat % 128 ≤ 0x49)) ∧
    (∀ c, c = 1#32 ∨ c = 2#32 → (pack (looping c)).issue = some (iss (looping c)) ∧ (looping c).lc.get 0 = c ∧
      (∀ k, (looping c).rejoinReady k = false)) := by
  refine ⟨by decide +kernel, ⟨_, rfl, by decide +kernel, by decide +kernel, by decide +kernel, by decide +kernel, by decide +kernel,
    by decide +kernel, no_rejoin_solo _, ⟨0x4C#32 ||| 0x0C183000#32, by decide +kernel, by decide +kernel⟩⟩, ?_⟩
  rintro c (rfl | rfl)
  all_goals exact ⟨by decide +kernel, by decide +kernel, rejoin_none _ fun l k => by simp [looping, Group.lane]⟩

/-- A group whose lanes wait at barrier n, with its arrival there as it stands; and a gang grid's team. -/
def waiting (n : Nat) (a : Option Arrival) : Group :=
  { team := 1, lanes := Vector.ofFn fun _ => { st := .barrier n }, arr := match a with | some v => [(n, v)] | none => [] }
def gang (g : Group) : State :=
  { pack g with
    grids := [(1, { part := 0, queue := 0, evQueue := 0, seq := 1, recd := {}, gang := true })]
    teams := [(1, { grid := 1, core := 0, locSize := 1024, accSize := 4096, gridArr := false })] }
theorem witness_TeamBarriers :
    ((pack grp).issue = some (iss grp) ∧ grp.levels = [] ∧ ∀ k, grp.rejoinReady k = false) ∧
    (grp.arrivedAt 4 = false ∧ (waiting 4 none).arrivedAt 4 = true ∧ (waiting 4 none).arr.find 4 = none ∧
      (pack (waiting 4 none)).laneReqs 0 ReqKind.writes = [] ∧
      (waiting 4 none).vc.le ((pack (waiting 4 none)).applied (dieOf 0)) = true) ∧
    (∀ a : Option Arrival, a = none ∨ a = some { done := true } → let s := pack (waiting 4 a)
      s.groups.rising = true ∧ s.team 1 = some tm1 ∧ s.isGridBar tm1 4 = false ∧ s.groupsOf 1 = [(0, waiting 4 a)] ∧
      ((waiting 4 a).here 4 = true ↔ a ≠ none)) ∧
    (∃ a : Arrival, a = { done := true } ∧ let s := gang (waiting 15 (some a))
      s.isGridBar tm1 15 = true ∧ s.team 1 = some tm1 ∧ tm1.gridArr = false ∧ s.groupsOf 1 = [(0, waiting 15 (some a))] ∧
      (waiting 15 (some a)).here 15 = true ∧ s.groups.rising = true ∧ s.teams.rising = true ∧ (s.grid 1).isSome = true) := by
  refine ⟨⟨issue_pack, rfl, rejoin_none _ fun l k => by simp [grp, Group.lane]⟩, ⟨?_, ?_, ?_, ?_, ?_⟩, ?_, _, rfl, ?_⟩
  on_goal 6 => rintro a (rfl | rfl)
  all_goals decide +kernel

theorem witness_YieldFenceExitSign : (pack grp).issue = some (iss grp) ∧ (Instr.sigx ⟨true, 124⟩).wellFormed = true ∧
    (iss grp).Ready 128 ((iss grp).part true) [⟨124, 1⟩] [⟨124, 1⟩] :=
  ⟨issue_pack, by decide, ready_grp _ _ _ _⟩

theorem witness_SoftwareTraps :
    ((pack grp).issue = some (iss grp) ∧ (Instr.trapc ⟨false, 124⟩).wellFormed = true ∧
      Mask.low ((iss grp).part false) = some 0 ∧ grp.src 128 0 124 = 0#32 ∧
      (iss grp).Ready 128 ((iss grp).part false) [⟨124, 1⟩] [⟨124, 1⟩] ∧ (iss grp).part false ≠ 0#32) ∧
    ((ctrl ctrlGrp).issue = some (ctrlIss ctrlGrp) ∧ (Instr.brk false).wellFormed = true ∧
      (ctrlIss ctrlGrp).Ready 128 ((ctrlIss ctrlGrp).part false) [] [] ∧ (ctrlIss ctrlGrp).part false ≠ 0#32) :=
  ⟨⟨issue_pack, by decide, by decide +kernel, by decide +kernel, ready_grp _ _ _ _, by decide⟩,
    issue_ctrl, by decide, ⟨by decide +kernel, by decide +kernel⟩, by decide⟩

/-! Memory: s1 to s3 hold a scratchpad aperture address, the last of a block of 1,024 bytes; address 0 is translated to physical
address 0 under key 0. -/

/-- s2:3 holds the aperture address of a scratchpad offset, s1 the offset. -/
def locGrp (off : Word) : Group := solo [(97, off), (98, off), (99, 0xFFFFFFFF#32)]
/-- Core 0 holds a translation of page 0, with the permissions U, X, W and R, to a page of region 0, which belongs to partition 0;
so does the first container of every loop of die 0. -/
def mapped (g : Group) : State :=
  { pack g with
    parts := [(0, { domains := 1, frame := 8192, root := some 0 })]
    cores := [(0, { tlb := [⟨0, 13, 0, 0, 0, 0xF#4⟩] })]
    dies := [(0, { region := [(0, 0x8001#64)] })]
    slotTab := (List.range 28).map fun l => (16 * l, 0) }
theorem issue_mapped : (mapped grp).issue = some (iss grp) := by decide +kernel

theorem witness_LoadsAndStoresIssue :
    (∃ f : AccessForm, loads (.ldw ⟨false, 96, 98, 0⟩) = some f ∧ (Instr.ldw ⟨false, 96, 98, 0⟩).wellFormed = true ∧
      f.Runs (pack (locGrp 1020#32)) (one (locGrp 1020#32)) false (fun _ => .loc 1020)) ∧
    (∃ f : AccessForm, loads (.ldq ⟨true, 96, 96, 0⟩) = some f ∧ (Instr.ldq ⟨true, 96, 96, 0⟩).wellFormed = true ∧
      f.Runs (mapped grp) (iss grp) false (fun _ => .mem 0 0) ∧ 96 ≤ (mapped grp).stackOf grp) ∧
    (∃ f : AccessForm, stores (.stdx ⟨false, 96, 98, 96⟩) = some f ∧ (Instr.stdx ⟨false, 96, 98, 96⟩).wellFormed = true ∧
      f.Runs (pack (locGrp 1016#32)) (one (locGrp 1016#32)) true (fun _ => .loc 1016)) ∧
    (∃ f : AccessForm, stores (.stb ⟨false, 96, 96, 0x1FF⟩) = some f ∧ (Instr.stb ⟨false, 96, 96, 0x1FF⟩).wellFormed = true ∧
      f.Runs (mapped grp) (iss grp) true (fun _ => .mem 511 0)) := by
  refine ⟨⟨_, rfl, by decide, ?_⟩, ⟨_, rfl, by decide, ?_, by decide +kernel⟩, ⟨_, rfl, by decide, ?_⟩, ⟨_, rfl, by decide, ?_⟩⟩
  · refine ⟨by decide +kernel, ⟨by decide +kernel, by decide +kernel⟩, fun l hl => ⟨?_, ⟨1020, ?_, ?_, ?_, ?_, nofun⟩⟩⟩ <;>
      (revert l; decide +kernel)
  · refine ⟨issue_mapped, ready_grp _ _ _ _, fun l hl => ⟨?_, ⟨?_, ?_⟩⟩⟩ <;> (revert l; decide +kernel)
  · refine ⟨by decide +kernel, ⟨by decide +kernel, by decide +kernel⟩, fun l hl => ⟨?_, ⟨1016, ?_, ?_, ?_, ?_, fun _ => ?_⟩⟩⟩ <;>
      (revert l; decide +kernel)
  · refine ⟨issue_mapped, ready_grp _ _ _ _, fun l hl => ⟨?_, ⟨?_, ?_⟩⟩⟩ <;> (revert l; decide +kernel)

theorem witness_LocalForms :
    (∃ f : LocalForm, localLoads (.llq ⟨false, false, 96, 97, 96⟩) = some f ∧ (Instr.llq ⟨false, false, 96, 97, 96⟩).wellFormed = true ∧
      (⟨f.guard, f.nw, f.srcs, f.reg, fun _ _ _ _ => True⟩ : ValueRule).Runs (pack (locGrp 1008#32)) (one (locGrp 1008#32)) ∧
      f.Fits (pack (locGrp 1008#32)) (one (locGrp 1008#32)) false) ∧
    (∃ f : LocalForm, localStores (.lsw ⟨96, 97, 0x3FF⟩) = some f ∧ (Instr.lsw ⟨96, 97, 0x3FF⟩).wellFormed = true ∧
      (pack (locGrp 1024#32)).issue = some (one (locGrp 1024#32)) ∧
      (one (locGrp 1024#32)).Ready 128 ((one (locGrp 1024#32)).part f.guard) (f.srcs ++ [f.reg]) (f.srcs ++ [f.reg]) ∧
      f.Fits (pack (locGrp 1024#32)) (one (locGrp 1024#32)) true) := by
  refine ⟨⟨_, rfl, by decide, ⟨by decide +kernel, by decide +kernel, by decide +kernel, by decide +kernel⟩, ?_⟩,
    _, rfl, by decide, by decide +kernel, ⟨by decide +kernel, by decide +kernel⟩, ?_⟩ <;> (unfold LocalForm.Fits; decide +kernel)

theorem witness_AtomicsIssue :
    ∃ f : AtomicForm, atomics (.acas ⟨.ar, .system, 119, 96, 94⟩) = some f ∧ (Instr.acas ⟨.ar, .system, 119, 96, 94⟩).wellFormed = true ∧
      (mapped grp).issue = some (iss grp) ∧
      (iss grp).Ready 128 (iss grp).act (⟨f.a, 2⟩ :: f.b.toList) (⟨f.a, 2⟩ :: f.b.toList ++ [⟨f.d, 1⟩]) ∧
      (mapped grp).releaseReady 0 grp f.scope = true ∧
      (∀ l, Mask.has (iss grp).act l = true → (grp.src2 128 l f.a).toNat % 4 = 0 ∧
        Goes (mapped grp) (iss grp) false needAtomic 4 l (grp.src2 128 l f.a) (.mem 0 0)) ∧
      (((mapped grp).team grp.team).map Team.role).getD 0 = 0 := by
  refine ⟨_, rfl, by decide, issue_mapped, ready_grp _ _ _ _, by decide +kernel, fun l hl => ⟨?_, ?_, ?_⟩, by decide +kernel⟩ <;>
    (revert l; decide +kernel)

/-- The group has been answered by the sequencer. -/
def servedGrp : Group := { grp with pin := some ⟨0xFFFFFFFF#32, 0x3C18306D#32⟩, wait := .sequencer (some ⟨0, 0, 0, 0⟩) }
theorem witness_Fences :
    ((pack grp).issue = some (iss grp) ∧ (pack grp).settledFor 0 grp = true ∧
      (grp.vc.join grp.obs).le ((pack grp).applied (dieOf 0)) = true ∧ (pack grp).releaseReady 0 grp .system = true ∧
      ∀ v, grp.wait ≠ .sequencer v) ∧
    ((pack servedGrp).issue = some (iss servedGrp) ∧ servedGrp.wait = .sequencer (some ⟨0, 0, 0, 0⟩) ∧
      (pack servedGrp).settledFor 0 servedGrp = true ∧
      ((servedGrp.vc.join servedGrp.obs).join ⟨0, 0, 0, 0⟩).le ((pack servedGrp).applied (dieOf 0)) = true) :=
  ⟨⟨issue_pack, by decide +kernel, by decide +kernel, by decide +kernel, nofun⟩,
    by decide +kernel, rfl, by decide +kernel, by decide +kernel⟩

/-- Line 0 stands dirty in its home. -/
def lined : State := { mapped grp with l2 := [(l2Key ((mapped grp).home 0) 0, { key := 0, lid := 0, valid := 15, dirty := 1 })] }
/-- The group waits for write-backs that are done. -/
def writtenGrp : Group := { grp with pin := some ⟨0xFFFFFFFF#32, 0x0C01306E#32⟩, wait := .writeBack [] }
theorem witness_LineAndCodeInstructions :
    ((mapped grp).issue = some (iss grp) ∧ (∀ part, (iss grp).Ready 128 part [⟨96, 2⟩] [⟨96, 2⟩]) ∧
      (∀ l, classify (grp.src2 128 l 96) = .global ∧
        (mapped grp).look 0 ((mapped grp).partOf grp) (grp.src2 128 l 96) needRead (grp.failedWalk l (grp.src2 128 l 96)) = .at 0 0 ∧
        (mapped grp).laneOwes 0 l 0 = false) ∧
      (∀ w, grp.wait ≠ .writeBack w) ∧ (mapped grp).l2.find (l2Key ((mapped grp).home 0) 0) = none) ∧
    (lined.issue = some (iss grp) ∧ (lined.l2.find (l2Key (lined.home 0) 0)).isSome = true ∧
      ∀ l, lined.look 0 (lined.partOf grp) (grp.src2 128 l 96) needRead (grp.failedWalk l (grp.src2 128 l 96)) = .at 0 0 ∧
        lined.laneOwes 0 l 0 = false) ∧
    ((pack writtenGrp).issue = some (iss writtenGrp) ∧ writtenGrp.wait = .writeBack []) := by
  refine ⟨⟨issue_mapped, fun p => ready_grp _ _ _ _, ?_, nofun, by decide +kernel⟩, ⟨by decide +kernel, by decide +kernel, ?_⟩, by decide +kernel, rfl⟩ <;>
    decide +kernel

/-! The engines: core 0's line 0 belongs to team 1, and its first granule is an object; s1 to s3 hold what the operands give. -/

/-- A core whose line 0 belongs to the team, with an object at offset 0 where `obj`, and given scratchpad bytes. -/
def engCore (obj : Bool) (scr : List Host.Cell) : Core :=
  { lineTag := [(0, 1), (1, 1), (2, 1), (3, 1), (4, 1), (5, 1), (6, 1), (7, 1)], marks := if obj then [0] else [], scratch := scr }
/-- A lone lane on such a core. -/
def eng (s : List (Nat × Word)) (obj : Bool) (scr : List Host.Cell) : State := packCore (solo s) (engCore obj scr)

theorem witness_BarrierObjects :
    (LocalRuns (eng [] false []) (one (solo [])) tm1 ((one (solo [])).part false) [⟨96, 1⟩, ⟨96, 1⟩] [⟨96, 1⟩, ⟨96, 1⟩] 96 16 ∧
      Apart (eng [] false []) (one (solo [])) ((one (solo [])).part false) 96 ∧
      ((eng [] false []).core 0).marked 0 = false ∧ ((eng [] false []).core 0).anyAbsent 0 16 = false) ∧
    (LocalRuns (eng [] true []) (one (solo [])) tm1 ((one (solo [])).part false) [⟨96, 1⟩] [⟨96, 1⟩] 96 16 ∧
      ((eng [] true []).core 0).marked 0 = true) ∧
    (LocalRuns (eng [(97, 0xFFFFFFFF#32)] true [(4, 1)]) (one (solo [(97, 0xFFFFFFFF#32)])) tm1
        ((one (solo [(97, 0xFFFFFFFF#32)])).part false) [⟨96, 1⟩, ⟨97, 1⟩] [⟨96, 1⟩, ⟨97, 1⟩] 96 16 ∧
      ((eng [] true [(4, 1)]).core 0).marked 0 = true) := by
  refine ⟨⟨⟨?_, ⟨?_, ?_⟩, ?_, ?_, ?_⟩, ?_, ?_, ?_⟩, ⟨⟨?_, ⟨?_, ?_⟩, ?_, ?_, ?_⟩, ?_⟩, ⟨⟨?_, ⟨?_, ?_⟩, ?_, ?_, ?_⟩, ?_⟩⟩ <;>
    first | decide +kernel | (unfold Apart; decide +kernel)

theorem witness_BarrierTestAndWait :
    (∀ scr, scr = [] ∨ scr = [((0 : Nat), (1 : Byte))] →
      LocalRuns (eng [] true scr) (one (solo [])) tm1 ((one (solo [])).part false) [⟨96, 1⟩] [⟨96, 1⟩, ⟨0, 1⟩] 96 16 ∧
      ((eng [] true scr).core 0).marked 0 = true ∧ (((eng [] true scr).core 0).isOpen 0 = true ↔ scr = [])) ∧
    (∃ g : Group, g = { solo [] with pin := some ⟨1#32, 0#32⟩, wait := .object [⟨0, 0, 0#32, some 0#32, {}⟩] } ∧
      (pack g).issue = some (one g) ∧ Plain (pack g) (one g)) := by
  refine ⟨?_, _, rfl, by decide +kernel, ?_⟩
  · rintro scr (rfl | rfl) <;> refine ⟨⟨?_, ⟨?_, ?_⟩, ?_, ?_, ?_⟩, ?_, ?_⟩ <;> decide +kernel
  · unfold Plain; decide +kernel

/-- A copy of one byte from address 0 to 0 with its object at offset 0; its descriptor stands at offset 16. -/
def cpyState : State := eng [(97, 16)] true [(32, 1), (36, 1)]
/-- A transfer of one byte to the team of core 0 and slot 0; its descriptor stands at offset 16. -/
def putState : State := eng [(97, 16)] true [(20, 1)]
/-- An entry that delivers at station 0 and names every loop. -/
def mcOne : BitVec 128 := 0x800000000FFFFFFF0000000000000001#128
/-- A `PUTM` of one byte on identifier 1, whose entry at core 0's station delivers there. -/
def putmState : State := { eng [(97, 16)] true [(20, 1), (24, 1)] with mcast := [(1, mcOne)] }
def putIssue : Issue := one (solo [(97, 16)])
/-- A copy of team 1 with ticket 0. -/
def aCopy : Copy :=
  { kind := .copy, team := 1, gid := 0, ticket := 0, src := 0, dst := 0, rowBytes := 1, rows := 1, srcStride := 0, dstStride := 0
    obj := 0, ctrl := 0 }
def copying : State := packCore (solo []) { copies := [(1, aCopy)] }

theorem mcOne_reaches : McReaches tm1 mcOne 0 := by
  have h : mcLoops mcOne = List.range 28 := by decide +kernel
  unfold McReaches mcLoop
  rw [h]
  exact loopFor_isSome 0 0 (by decide) (by decide)

theorem witness_Copies :
    (CopyRuns cpyState putIssue tm1 1#32 false 0 97 48 ∧
      copyRangeTrap (encode (.cpy ⟨false, false, 0, 97⟩)) (CopyDesc.ofBytes (descOf cpyState putIssue tm1 97 48 0)) tm1.locSize = none ∧
      cpyState.copyReason 1 (CopyDesc.ofBytes (descOf cpyState putIssue tm1 97 48 0)) = none) ∧
    (CopyRuns putState putIssue tm1 1#32 false 0 97 32 ∧
      PutOk putState putIssue tm1 false (PutDesc.ofBytes (descOf putState putIssue tm1 97 32 0)) ∧
      putState.pathDown (putState.putPath 0 (putState.putDest 1 (PutDesc.ofBytes (descOf putState putIssue tm1 97 32 0)).dest).1) = false) ∧
    (CopyRuns putmState putIssue tm1 1#32 false 0 97 32 ∧
      PutOk putmState putIssue tm1 true (PutDesc.ofBytes (descOf putmState putIssue tm1 97 32 0)) ∧
      (putmState.mcEntry 0 0 1 0 = some mcOne ∧ 0 ∈ mcDrops 0 mcOne ∧ McReaches tm1 mcOne 0) ∧ (putmState.partOf putIssue.g).getD 0 = 0 ∧
      (PutDesc.ofBytes (descOf putmState putIssue tm1 97 32 0)).dest = 1#32) ∧
    ((pack (solo [])).issue = some (one (solo [])) ∧ (one (solo [])).Ready 128 1#32 [⟨96, 1⟩] [⟨96, 1⟩] ∧
      (pack (solo [])).inFlight 0 1 0#32 = false ∧ Plain (pack (solo [])) (one (solo []))) ∧
    (copying.issue = some (one (solo [])) ∧ copying.inFlight 0 1 0#32 = true) := by
  refine ⟨⟨⟨⟨?_, ⟨?_, ?_⟩, ?_, ?_, ?_⟩, ?_, ?_, ?_, ?_⟩, ?_, ?_⟩, ⟨⟨⟨?_, ⟨?_, ?_⟩, ?_, ?_, ?_⟩, ?_, ?_, ?_, ?_⟩, ⟨?_, ?_⟩, ?_⟩,
    ⟨⟨⟨?_, ⟨?_, ?_⟩, ?_, ?_, ?_⟩, ?_, ?_, ?_, ?_⟩, ⟨?_, ?_⟩, ⟨?_, ?_, mcOne_reaches⟩, ?_, ?_⟩, ⟨?_, ⟨?_, ?_⟩, ?_, ?_⟩, ?_, ?_⟩ <;>
    first | decide +kernel | (unfold Plain; decide +kernel)

/-- An operation of n columns on binary8p4 elements (09 R196: element descriptor 4); its descriptor stands at offset 16. -/
def mmaState (n : Byte) : State :=
  eng [(97, 16), (98, 0x00040004)] true [(32, 32), (36, 64), (40, 32), (42, n), (44, 32), (52, 32)]
def mmaIssue : Issue := one (solo [(97, 16), (98, 0x00040004)])
def pairState : State :=
  { mmaState 64 with grids := [(1, { part := 0, queue := 0, evQueue := 0, seq := 1, recd := { x := 2, w := 2 } })] }
theorem witness_MatrixIssue :
    (MatrixRuns (mmaState 32) mmaIssue tm1 (encode (.mmas 97 98)) 97 98 0x00040004#32 16 1 1 ∧ (mmaState 32).clusterOf tm1 = (1, 1) ∧
      MatrixRuns (mmaState 32) mmaIssue tm1 (encode (.mma 97 98)) 97 98 0x00040004#32 16 1 1 ∧
      MatrixRuns (mmaState 32) mmaIssue tm1 (encode (.mmaz 97 98)) 97 98 0x00040004#32 16 1 1) ∧
    (MatrixRuns pairState mmaIssue tm1 (encode (.mmas 97 98)) 97 98 0x00040004#32 16 2 1 ∧ pairState.clusterOf tm1 = (2, 1)) ∧
    (∃ g : Group, g = { solo [] with pin := some ⟨1#32, 0#32⟩, wait := .mmas none true } ∧ (pack g).issue = some (one g)) ∧
    (∃ g : Group, g = { solo [] with pin := some ⟨1#32, 0#32⟩, wait := .mmas (some 0x15) false } ∧ (pack g).issue = some (one g)) := by
  refine ⟨⟨⟨?_, nofun, ⟨?_, ?_⟩, ?_, ?_, ?_, ?_, ?_, ?_, ?_, ?_, ?_⟩, ?_, ⟨?_, nofun, ⟨?_, ?_⟩, ?_, ?_, ?_, ?_, ?_, ?_, ?_, ?_, ?_⟩,
    ⟨?_, nofun, ⟨?_, ?_⟩, ?_, ?_, ?_, ?_, ?_, ?_, ?_, ?_, ?_⟩⟩, ⟨⟨?_, nofun, ⟨?_, ?_⟩, ?_, ?_, ?_, ?_, ?_, ?_, ?_, ?_, ?_⟩, ?_⟩,
    ⟨_, rfl, ?_⟩, _, rfl, ?_⟩ <;> decide +kernel

theorem witness_AccumulatorInstructions :
    (AccRuns (pack (solo [(97, 1023)])) (one (solo [(97, 1023)])) tm1 1#32 [⟨97, 1⟩] [⟨97, 1⟩, ⟨0, 1⟩]
      (fun l => (((one (solo [(97, 1023)])).g.src 128 l 97).toNat + l.val, 1)) ∧ 96 ≤ (pack (solo [(97, 1023)])).stackOf (solo [(97, 1023)])) ∧
    (AccRuns (pack (solo [(97, 1020), (98, 0x00080004)])) (one (solo [(97, 1020), (98, 0x00080004)])) tm1 1#32 [⟨97, 1⟩, ⟨98, 1⟩]
        [⟨97, 1⟩, ⟨98, 1⟩, ⟨0, 1⟩] (fun l => (((one (solo [(97, 1020), (98, 0x00080004)])).g.src 128 l 97).toNat + 4 * l.val, 4)) ∧
      convValid 0x00080004#32 = true ∧ edNarrow ((0x00080004#32 : Word).extractLsb' 0 16) = true) ∧
    AccRuns (pack (solo [(97, 1024)])) (one (solo [(97, 1024)])) tm1 1#32 [⟨97, 1⟩, ⟨96, 1⟩] [⟨97, 1⟩, ⟨96, 1⟩]
      (fun l => (((one (solo [(97, 1024)])).g.src 128 l 97).toNat, ((one (solo [(97, 1024)])).g.src 128 l 96).toNat)) := by
  refine ⟨⟨⟨?_, ⟨?_, ?_⟩, ?_, ?_, ?_, ?_, ?_⟩, ?_⟩, ⟨⟨?_, ⟨?_, ?_⟩, ?_, ?_, ?_, ?_, ?_⟩, ?_, ?_⟩, ?_, ⟨?_, ?_⟩, ?_, ?_, ?_, ?_, ?_⟩ <;>
    decide +kernel
theorem witness_Tasks :
    ((Instr.spawn ⟨false, false, 0, 96, 88⟩).wellFormed = true ∧ (pack (solo [])).issue = some (one (solo [])) ∧
      (pack (solo [])).team 1 = some tm1 ∧
      (one (solo [])).Ready 128 1#32 [⟨96, 1⟩, ⟨88, 8⟩] [⟨96, 1⟩, ⟨88, 8⟩, ⟨0, 1⟩] ∧
      (pack (solo [])).releaseReady 0 (solo []) .team = true ∧ (one (solo [])).part false = Mask.add 0#32 0) ∧
    (LocalRuns (eng [(97, 16)] false [(16, 1)]) putIssue tm1 1#32 [⟨97, 1⟩] [⟨97, 1⟩, ⟨0, 1⟩] 97 64 ∧
      ((eng [(97, 16)] false [(16, 1)]).core 0).anyAbsent 16 64 = false ∧
      (eng [(97, 16)] false [(16, 1)]).releaseReady 0 putIssue.g .device = true ∧
      (LaunchRec.ofBytes (descOf (eng [(97, 16)] false [(16, 1)]) putIssue tm1 97 64 0)).ok = false) ∧
    (∃ r : LaunchRec, r.ok = true ∧ r.codeBase.toNat % 8192 = 0 ∧ r.isGrid = false) := by
  refine ⟨⟨?_, ?_, ?_, ⟨?_, ?_⟩, ?_, ?_⟩, ⟨⟨?_, ⟨?_, ?_⟩, ?_, ?_, ?_⟩, ?_, ?_, ?_⟩, {}, ?_, ?_, ?_⟩ <;> decide +kernel

/-- A scoreboard of two tiles, its tile 1 with a run on its way where `busy`. -/
def board (busy : Bool) : Refine :=
  { num := 1, w := 2, h := 1, stencil := 0, entry := 0, classes := 0, tiles := [(0, { final := true }), (1, { final := true, queued := busy })] }
/-- Its grid, whose record has KILLST or not. -/
def tileGrid (kill busy : Bool) : Grid :=
  { part := 0, queue := 0, evQueue := 0, seq := 1, recd := { flags := if kill then 0x700#32 else 0x100#32 }, refine := some (board busy) }
def tileState (kill busy : Bool) (g : Group) : State := { pack g with grids := [(1, tileGrid kill busy)] }
def answered : Group := { solo [] with pin := some ⟨1#32, 0#32⟩, wait := .taskUnit [(0, 1)] 1 }
def staleGrp : Group := { solo [] with stale := true }
theorem witness_Tiles :
    (Refining (tileState false false (solo [])) (one (solo [])) tm1 (tileGrid false false) (board false) ∧
      (one (solo [])).Ready 128 1#32 [⟨96, 1⟩] [⟨96, 1⟩, ⟨0, 1⟩] ∧ (board false).index ((solo []).src 128 0 96) = some 0 ∧
      (tileState false false (solo [])).releaseReady 0 (solo []) .device = true ∧ (board false).slack = true) ∧
    (Refining (tileState false true (solo [])) (one (solo [])) tm1 (tileGrid false true) (board true) ∧ (board true).slack = false) ∧
    (Refining (tileState false false answered) (one answered) tm1 (tileGrid false false) (board false) ∧
      answered.wait = .taskUnit [(0, 1)] 1) ∧
    (Refining (tileState true false staleGrp) (one staleGrp) tm1 (tileGrid true false) (board false) ∧
      (tileGrid true false).recd.killst = true ∧ staleGrp.stale = true ∧ staleGrp.levels = [] ∧
      (one staleGrp).Ready 128 1#32 [] [⟨0, 1⟩]) := by
  refine ⟨⟨⟨?_, ?_, ?_, ?_, ?_, ?_⟩, ⟨?_, ?_⟩, ?_, ?_, ?_⟩, ⟨⟨?_, ?_, ?_, ?_, ?_, ?_⟩, ?_⟩, ⟨⟨?_, ?_, ?_, ?_, ?_, ?_⟩, ?_⟩,
    ⟨?_, ?_, ?_, ?_, ?_, ?_⟩, ?_, ?_, ?_, ⟨?_, ?_⟩⟩ <;> decide +kernel

def ownerGrp : Group := { ctrlGrp with pin := some ⟨1#32, 0#32⟩, wait := .acowner 0 1#32 true }
theorem witness_SystemRegisters :
    (∀ sel ∈ [0x061#10, 0x052#10, 0x001#10], (Instr.gets 0 sel).wellFormed = true) ∧ (Instr.gets 0 0x100#10).wellFormed = true ∧
    (pack (solo [])).issue = some (one (solo [])) ∧ 96 ≤ (pack (solo [])).stackOf (solo []) ∧ Plain (pack (solo [])) (one (solo [])) ∧
    (one (solo [])).Ready 128 1#32 [] [⟨0, 1⟩] ∧ Mask.low (one (solo [])).act = some 0 ∧
    (one (solo [])).Ready 128 1#32 [⟨96, 1⟩] [⟨96, 1⟩] ∧
    (Instr.puts 0x030#10 96).modeTrap false = none ∧ (Instr.puts 0x053#10 96).modeTrap true = none ∧
    ((ctrl ctrlGrp).issue = some (ctrlIss ctrlGrp) ∧ Mask.low (ctrlIss ctrlGrp).act = some 0 ∧
      (ctrlIss ctrlGrp).Ready ((ctrl ctrlGrp).stackOf ctrlGrp) 1#32 [⟨96, 1⟩] [⟨96, 1⟩]) ∧
    ((ctrl ownerGrp).issue = some (ctrlIss ownerGrp) ∧ ownerGrp.wait = .acowner 0 1#32 true) := by
  refine ⟨?_, ?_, ?_, ?_, ?_, ⟨?_, ?_⟩, ?_, ⟨?_, ?_⟩, ?_, ?_, ⟨?_, ?_, ⟨?_, ?_⟩⟩, ?_, ?_⟩ <;>
    first | decide +kernel | (unfold Plain; decide +kernel)

/-- The group that DWSEL of die 0 names at reset, stopped for inspection. -/
def heldGrp : Group := { grp with stopped := true }
def inspected : State := { ctrl ctrlGrp with groups := [(0, heldGrp), (8192, ctrlGrp)] }
theorem witness_DebugWindow :
    (Instr.dwrd 0 96).wellFormed = true ∧ (Instr.dwwr 2 96 96).wellFormed = true ∧ inspected.issue = some (ctrlIss ctrlGrp) ∧
    96 ≤ inspected.stackOf ctrlGrp ∧ (ctrlIss ctrlGrp).Ready (inspected.stackOf ctrlGrp) 1#32 [⟨96, 1⟩] [⟨0, 2⟩, ⟨96, 1⟩] ∧
    inspected.dwRead 0 0 = .value 0#32 0#32 ∧
    (inspected.dwWrite 0 0 1#32).2 = .value 0#32 0#32 ∧ (ctrlIss ctrlGrp).act = Mask.add 0#32 0 ∧
    inspected.grp (dwGid 0 (inspected.die 0)) = some heldGrp ∧ heldGrp.dwStopped = true ∧ (inspected.die 0).dwSpace = 0 ∧
    (({ (inspected.die 0) with dwsel := 0xF0000000#32 } : DieSt).dwSpace = 15) := by
  refine ⟨?_, ?_, ?_, ?_, ⟨?_, ?_⟩, ?_, ?_, ?_, ?_, ?_, ?_, ?_⟩ <;> decide +kernel

/-- A group whose trap waits in its die's queue, and one whose trap is loaded. -/
def trapped (loaded : Bool) : Group := { grp with trap := some ⟨6, 4#32, 1#32, 0#32, 0#64, loaded⟩ }
def trapState (loaded : Bool) : State :=
  { ctrl ctrlGrp with
    groups := [(0, trapped loaded), (8192, ctrlGrp)]
    dies := [(0, if loaded then { tgroup := 0x80000000#32, tlanes := 1#32, tpc := 8#32, tcause := 6#32 } else { trapQ := [0] })] }
theorem witness_HaltAndTrapReturn :
    ((Instr.halt 0).wellFormed = true ∧ (ctrl ctrlGrp).issue = some (ctrlIss ctrlGrp) ∧
      (ctrlIss ctrlGrp).Ready ((ctrl ctrlGrp).stackOf ctrlGrp) 1#32 [] [⟨0, 1⟩] ∧ ((ctrl ctrlGrp).die 0).trapQ = [] ∧
      ((ctrl ctrlGrp).die 0).msgPend = false ∧ ((ctrl ctrlGrp).die 0).reqPend = false) ∧
    ((trapState false).issue = some (ctrlIss ctrlGrp) ∧ ((trapState false).die 0).trapQ = [0] ∧
      ((trapState false).die 0).tgroup.getLsbD 31 = false ∧ ((trapState false).grp 0).bind Group.trap = some ⟨6, 4#32, 1#32, 0#32, 0#64, false⟩) ∧
    ((trapState true).issue = some (ctrlIss ctrlGrp) ∧
      (ctrlIss ctrlGrp).Ready ((trapState true).stackOf ctrlGrp) 1#32 [⟨96, 1⟩] [⟨Reg.z, 1⟩, ⟨96, 1⟩] ∧
      ((trapState true).die 0).tgroup.getLsbD 31 = true ∧ loadedGid 0 ((trapState true).die 0) = 0 ∧
      (trapState true).grp 0 = some (trapped true) ∧ (trapState true).team 1 = some tm1) := by
  refine ⟨⟨?_, ?_, ⟨?_, ?_⟩, ?_, ?_, ?_⟩, ⟨?_, ?_, ?_, ?_⟩, ?_, ⟨?_, ?_⟩, ?_, ?_, ?_, ?_⟩ <;> decide +kernel
/-! Events: an access, an update, packets and links on their way. -/

/-- A line of zeros that is valid in its home. -/
def homeLine : L2Line := { key := 0, lid := 0, valid := 15 }
def homed : State := { mapped grp with l2 := [(l2Key ((mapped grp).home 0) 0, homeLine)] }
theorem witness_WritesReadBack :
    ([1, 2, 3, 4] : List Byte) ≠ [] ∧ 252 % 256 + ([1, 2, 3, 4] : List Byte).length ≤ 256 ∧
    homed.l2.find (l2Key (homed.home 252) (252 / 256)) = some homeLine ∧ homeLine.key = 0 ∧ homeLine.lid = homed.lid 0 := by
  refine ⟨?_, ?_, ?_, ?_, ?_⟩ <;> decide +kernel

/-- An access of lane 0 of the group in slot 0 to address 0, at a stage. -/
def acc (k : ReqKind) (st : Stage := .sent) : Req :=
  { maker := .lane 0 0, core := 0, team := 1, part := 0, kind := k, va := 0, pa := 0, key := 0, home := homed.home 0, member := 0
    stage := st }
def withReq (r : Req) : State := { homed with reqs := [(1, r)] }
/-- A store that its run, a primary, holds; a grid without redundancy reserves no version way, one with it does (12 R261). -/
def heldStore (redund : Bool) : State :=
  { withReq { acc (.store [1]) with held := some 1 } with
    teams := [(1, { tm1 with role := 1, check := some 1 })]
    grids := [(1, { part := 0, queue := 0, evQueue := 0, seq := 1, recd := { flags := if redund then 6#32 else 0#32 } })] }
/-- The same with line 0 poisoned. -/
def spoilt (r : Req) : State := { withReq r with l2 := [(l2Key (homed.home 0) 0, { homeLine with poison := 0xF#4 })] }
theorem witness_AtomicsAtHome :
    ((withReq (acc (.store [1]))).reqs.find 1 = some (acc (.store [1])) ∧ (withReq (acc (.store [1]))).atHome 1 (acc (.store [1])) = true) ∧
    ((withReq (acc (.load 4 false))).atHome 1 (acc (.load 4 false)) = true) ∧
    ((withReq (acc (.atomic .cas 0 1))).atHome 1 (acc (.atomic .cas 0 1)) = true ∧
      ((withReq (acc (.atomic .cas 0 1))).readHome 0 0 4).2.2 = false ∧
      AtomOp.apply .cas (wordOf ((withReq (acc (.atomic .cas 0 1))).readHome 0 0 4).2.1) 0 1 = some 1#32 ∧
      AtomOp.apply .cas (wordOf ((withReq (acc (.atomic .cas 0 1))).readHome 0 0 4).2.1) 1 1 = none ∧
      ((spoilt (acc (.atomic .cas 0 1))).readHome 0 0 4).2.2 = true ∧ (spoilt (acc (.atomic .cas 0 1))).atHome 1 (acc (.atomic .cas 0 1)) = true) ∧
    homed.home (homed.granuleAt 0).1 ≠ homed.home 0 ∧
    (fp32.isNan 0x7FC00000 = true ∧ fp32.decode 0x7F800000 = .inf false ∧ fp32.decode 0xFF800000 = .inf true ∧ (match fp32.decode 0x80000000 with | .fin s m _ => (s, m) | _ => (false, 1)) = (true, 0)) ∧
    (∀ b, ∃ r, (heldStore b).reqs.find 1 = some r ∧ (heldStore b).atHome 1 r = true ∧ r.held = some 1 ∧
      (((heldStore b).team 1).map Team.holds) = some true ∧ (heldStore b).wayFree 1 1 r.home 0 0 = b) := by
  refine ⟨⟨?_, ?_⟩, ?_, ⟨?_, ?_, ?_, ?_, ?_, ?_⟩, ?_, ⟨?_, ?_, ?_, ?_⟩, fun b => ⟨_, rfl, ?_, ?_, ?_, ?_⟩⟩ <;>
    first | decide +kernel | (cases b <;> decide +kernel)

/-- An update on its way to core 0's L1, from a store of lane 0 that is current. -/
def updating : State :=
  { withReq (acc (.store [1]) .current) with
    upds := [(2, { store := 1, core := 0, src := 0, epoch := 1, cc := {}, line := 0, cells := [(0, 1)] })]
    cores := [(0, { l1 := [(0, { key := 0 })] })] }
/-- A value for register `v0` of lane 0. -/
def valued : Req := { acc (.load 4 false) (.reply [5#32] false) with dst := .slots [0] }
/-- The same update and a fill of its line by the load of lane 0. -/
def filled : State :=
  { updating with upds := [(2, { store := 1, core := 0, src := 0, epoch := 1, cc := {}, line := 0, cells := [], isFill := true, fill := some { key := 0 } })] }
theorem witness_UpdatesAndReturns :
    (∃ u, updating.upds.find 2 = some u ∧ updating.updFirst 2 u = true ∧ u.isFill = false ∧
      (∀ e, e < 4 → e ≠ u.src.val → u.cc.get e ≤ (updating.applied (u.core / 64)).get e) ∧
      (∀ v ∈ updating.upds, v.2.isFill = false → ¬ (v.2.src = u.src ∧ v.2.core / 64 = u.core / 64 ∧ v.2.epoch < u.epoch)) ∧
      ((updating.core u.core).l1.find u.line).isSome = true ∧ u.cells ≠ []) ∧
    (∃ u, filled.upds.find 2 = some u ∧ filled.updFirst 2 u = true ∧ u.isFill = true ∧ u.fill = some { key := 0 }) ∧
    (∀ home, home = 0 ∨ home = 1 → ∃ r : Req, r = { acc (.store [1]) .current with home } ∧ (withReq r).ackReady 1 r.home = true ∧
      ((withReq r).replyLegs r = [] ↔ home = 0) ∧ (withReq r).grp 0 = some grp) ∧
    (∃ r : Req, r = acc (.store [1]) .acked ∧ (withReq r).inTransit (.reply 1) = false) ∧
    ((withReq valued).reqs.find 1 = some valued ∧ valued.epoch = 0 ∧ (withReq valued).returnReady 1 valued = true ∧ valued.logIx = none ∧
      valued.order.acquires = false ∧ (withReq valued).grp 0 = some grp ∧ grp.tag = valued.tag ∧ grp.team = valued.team) ∧
    (∃ r : Req, r = { valued with tag := 1 } ∧ (withReq r).reqs.find 1 = some r ∧ (withReq r).returnReady 1 r = true ∧ grp.tag ≠ r.tag) ∧
    (∃ r : Req, r = { valued with epoch := 1, home := 1 } ∧ (withReq r).ackReady 1 r.home = true ∧ (withReq r).replyLegs r ≠ []) := by
  refine ⟨⟨_, rfl, by decide +kernel, rfl, by decide +kernel, by decide +kernel, by decide +kernel, by decide +kernel⟩,
    ⟨_, rfl, by decide +kernel, rfl, rfl⟩, ?_, ⟨_, rfl, by decide +kernel⟩, by decide +kernel, ⟨_, rfl, by decide +kernel⟩, _, rfl, by decide +kernel⟩
  rintro home (rfl | rfl) <;> exact ⟨_, rfl, by decide +kernel⟩

def epochs : State := { pack grp with dies := [(0, { epoch := 3 })], scq := [⟨0⟩], groups := [(0, { grp with wait := .sequencer none })] }
theorem witness_EpochsAndSequencer :
    ((0 : Die) ≠ 1 ∧ (epochs.die (1 : Die).val).markers.get (0 : Die).val + 1 < (epochs.die (0 : Die).val).epoch ∧
      epochs.inTransit (.marker 0 1 1) = false ∧ epochs.upds = []) ∧
    (epochs.scq = [⟨0⟩] ∧ ∃ g, epochs.grp 0 = some g ∧ g.wait = .sequencer none) := by
  refine ⟨⟨?_, ?_, ?_, ?_⟩, ?_, _, rfl, ?_⟩ <;> decide +kernel

/-- A walk for lane 0, and groups whose window moves call for a spill and a fill. -/
def walking : State := { mapped { grp with walk := 1 } with dies := [(0, { walks := [⟨1, 0, 0, 0, [(0, 0, 0)]⟩] })] }
def spilling : Group := { solo [] with pin := some ⟨1#32, 0#32⟩, wait := .window [⟨0, 64, 4⟩] 0#32 }
def filling : Group :=
  { team := 1, pin := some ⟨1#32, 0#32⟩, wait := .window [⟨0, 0, 4⟩] 0#32
    lanes := Vector.ofFn fun l => if l.val = 0 then { wb := 32, wlo := 32 } else { st := .exited } }
/-- With frames at address 0. -/
def framed (g : Group) : State := { mapped g with parts := [(0, { domains := 1, frame := 4096, poolBase := 0, root := some 0 })] }
theorem witness_WalksWindowsAndFills :
    (∃ w, ((walking.die (0 : Die).val).walks.take 64).find? (fun v => v.id == 1) = some w ∧ (0, 0, 0) ∈ w.waiters ∧
      (walking.walkTables false 0 w.part (BitVec.ofNat 64 (w.vpage * 2 ^ 13))).2 ≠ .wait ∧ walking.grp 0 = some { grp with walk := 1 }) ∧
    ((framed spilling).grp 0 = some spilling ∧ spilling.nextMove ((framed spilling).stackOf spilling) true = some (0, 64) ∧
      (∀ i, i < 32 → ((spilling.lane 0).stack.getD {} (((spilling.lane 0).wlo + i) % (framed spilling).stackOf spilling)).pend = false) ∧
      classify ((framed spilling).blockVa 0 0 0) = .global ∧
      ((framed spilling).lookNow 0 0 ((framed spilling).blockVa 0 0 0) needWrite).2 = .at 0 0 ∧
      (((framed spilling).lookNow 0 0 ((framed spilling).blockVa 0 0 0) needWrite).1).engineReady 0 0 0 0 128 = true ∧
      (framed spilling).home ((framed spilling).granuleAt 0).1 ≠ (framed spilling).home 0) ∧
    (filling.nextMove ((framed filling).stackOf filling) false = some (0, 0) ∧ 96 ≤ (framed filling).stackOf filling ∧
      classify ((framed filling).blockVa 0 0 0) = .global ∧
      ((framed filling).lookNow 0 0 ((framed filling).blockVa 0 0 0) needRead).2 = .at 0 0 ∧
      (((framed filling).lookNow 0 0 ((framed filling).blockVa 0 0 0) needRead).1).engineReady 0 0 0 0 128 = true) ∧
    ((pack grp).grp 0 = some grp ∧ issueOf 0 grp = some (iss grp) ∧ (pack grp).fetchWord (iss grp) = none) ∧
    ((mapped grp).fetchWord (iss grp) = none ∧ ((mapped grp).fetchLine 0 (some 0) 0).2 = .got () ∧
      ((pack grp).fetchLine 0 (some 0) 0).2 = .fails) ∧
    (∃ g : Group, g = { grp with pin := some ⟨1#32, 0#32⟩, wait := .writeBack [0] } ∧ (pack g).grp 0 = some g ∧ (pack g).backOpen 0 = true) := by
  refine ⟨⟨_, rfl, ?_, ?_, ?_⟩, ⟨?_, ?_, ?_, ?_, ?_, ?_, ?_⟩, ⟨?_, ?_, ?_, ?_, ?_⟩, ⟨?_, ?_, ?_⟩, ⟨?_, ?_, ?_⟩, _, rfl, ?_, ?_⟩ <;> decide +kernel

/-- A packet of partition 0 between the stations 0 and 1 of die 0 on loop 5, whose first container is the partition's: at its
station, or on the loop in that container. -/
def riding (on : Option Nat) : State :=
  { pack grp with packets := [(1, ⟨0, 1, [.mloop 0 5 0 1], .req 1, 0, on⟩)], slotTab := [(16 * 5, 0)] }
theorem containers_pos (l : Nat) : 0 < loopContainers l := by unfold loopContainers; omega
def linked (d : LinkDir) : State := { pack grp with links := [(0, d), (1, { state := d.state })] }
/-- A data flit, and an audit flit with S = 4096. -/
def aFlit : EFlit := ⟨0, [(1, 0)], false, none⟩
def anAudit : EFlit := ⟨0, [], false, some 4096⟩
theorem witness_PacketsAndLinks :
    (∀ on, on = none ∨ on = some 0 → ∃ p g, (riding on).packets.find 1 = some p ∧ p.legs = [g] ∧ g.onDie = some (0, 0, 1) ∧
      g.loopNo = some 5 ∧ (riding on).firstOn p g = true ∧ p.on = on ∧ (riding on).slotOwner (0 : Die) 5 (0 % 16) = p.part ∧
      (on = none → ∀ e ∈ (riding on).packets, e.2.rides 0 5 0 = false) ∧ ejectKey 0 5 1 ∉ (riding on).ejFull ∧ (riding on).cuts = [] ∧
      1 < (riding on).nextId) ∧
    (((linked { state := 1, queue := [(1, 0)] }).link ⟨0, false⟩).state = 1 ∧
      ((linked { state := 1, queue := [(1, 0)] }).link ⟨0, false⟩).queue ≠ [] ∧
      0 < ((linked { state := 1, queue := [(1, 0)] }).link ⟨0, false⟩).win ∧
      ((linked { state := 1, queue := [(1, 0)] }).link ⟨0, false⟩).auditDue = false) ∧
    (((linked { state := 1, replay := [aFlit] }).link ⟨0, false⟩).replay[0]? = some aFlit) ∧
    (∀ n, n = [] ∨ n = List.replicate 15 7 → ((linked { state := 1, wire := [aFlit], refused := n }).link ⟨0, false⟩).wire = [aFlit] ∧
      ((linked { state := 1, wire := [aFlit], refused := n }).link ⟨0, false⟩).expect = aFlit.seq ∧
      ((n.filter fun k => 0 + 1 < k + 65536).length < 15 ↔ n = [])) ∧
    (((linked { state := 1, wire := [aFlit], inUse := 392 }).link ⟨0, false⟩).inUse = 392) ∧
    (∀ nak d, d = none ∨ d = some 7 →
      ((linked { state := 1, replay := [aFlit], acks := [⟨0, 1, d, nak⟩] }).link ⟨0, false⟩).acks = [⟨0, 1, d, nak⟩]) ∧
    (4096 ≤ (((linked { state := 1, sent := 4096 }).link ⟨0, false⟩).sent + 2 ^ 32 - 0) % 2 ^ 32) ∧
    (((linked { state := 1, wire := [anAudit] }).link ⟨0, false⟩).wire = [anAudit]) ∧
    (∀ st, st = 0 ∨ st = 1 ∨ st = 2 → ((linked { state := st }).link ⟨0, false⟩).state = st) ∧
    (pack grp).nextPlane 15 = some 0 := by
  refine ⟨?_, ⟨?_, ?_, ?_, ?_⟩, ?_, ?_, ?_, ?_, ?_, ?_, ?_, ?_⟩
  on_goal 1 => rintro on (rfl | rfl) <;> exact ⟨_, _, rfl, rfl, rfl, rfl, by decide +kernel⟩
  on_goal 8 => rintro nak d (rfl | rfl) <;> rfl
  all_goals first | decide +kernel | (rintro n (rfl | rfl) <;> decide +kernel) | (rintro n (rfl | rfl | rfl) <;> decide +kernel)
/-! Engine work that runs. -/

/-- A copy of one byte from address 0 to scratchpad offset 16, its object at offset 0; and one to address 0. -/
def oneByte : Copy := { aCopy with dst := 0xFFFFFFFF00000010#64 }
def copyRun (c : Copy) (k : Core) : State := { mapped grp with cores := [(0, { k with copies := [(1, c)], tlb := [⟨0, 13, 0, 0, 0, 0xF#4⟩] })] }
/-- A transfer of one byte to the team's own slot, or to core 0 of package 0, and at a stage. -/
def toSelf (core stage : Nat) (sent : Bool) : Copy :=
  { aCopy with kind := .put, destOff := 16, bytes := [7], sent, dests := [⟨core, 0, stage, 0, false, 0⟩] }
/-- A landing in global memory, with page 0 writable or not, by a plain run or by a primary that has no version way. -/
def toMemory (w held : Bool) : State :=
  let c : Copy := { aCopy with buf := [(0, 0, [7])] }
  { copyRun c (engCore true []) with
    cores := [(0, { engCore true [] with copies := [(1, c)], tlb := [⟨0, 13, 0, 0, 0, if w then 0xF#4 else 0xD#4⟩] })]
    teams := [(1, { tm1 with role := if held then 1 else 0, check := if held then some 1 else none })] }
/-- An access has read bytes; how a store went. -/
def EngineRead.isOk : EngineRead → Bool
  | .ok _ _ => true
  | _ => false
def EngineWrite.tag : EngineWrite → Nat
  | .done _ => 0
  | .err _ c => 256 + c
  | .noWay _ _ => 1
  | .wait _ => 2
theorem witness_EngineCopies :
    (∃ s : State, s = copyRun oneByte (engCore true []) ∧ (s.core 0).copies.find 1 = some oneByte ∧ s.suspended 0 oneByte.gid oneByte.team = false ∧
      ((oneByte.pieces 0)[0]?).isSome = true ∧ s.engineAcquired 0 oneByte.ctrl oneByte.acq oneByte.vc oneByte.obs = true ∧
      rowInClass oneByte.src (rowStart oneByte.src 0 oneByte.srcStride) oneByte.rowBytes = true ∧
      EngineRead.isOk (s.engineRead 0 1 1 0 1).2 = true ∧ (s.engineRead 0 1 1 0xFFFFFFFE00000000#64 1).2 = .err 0x0C) ∧
    (rowInClass 0xFFFFFFFEFFFFFFFF#64 (rowStart 0xFFFFFFFEFFFFFFFF#64 0 0) 2 = false) ∧
    (∃ c : Copy, c = { oneByte with buf := [(0, 0, [7])] } ∧ c.last = none ∧ (c.pieces 0)[0]? = some (0, 0xFFFFFFFF00000010, 1) ∧
      (c.buf.find? fun b => b.1 == 0 && b.2.1 == 0) = some (0, 0, [7]) ∧
      classify (BitVec.ofNat 64 0xFFFFFFFF00000010) = .localAp 16 ∧ (copyRun c (engCore true [])).team 1 = some tm1 ∧
      ((copyRun c (engCore true [])).core 0).marked (tm1.locBlk + 16) = false ∧
      (copyRun c (engCore true [])).objMarked 1 0 = true ∧ ((copyRun c (engCore true [])).core 0).lineTag.getD 0 0 = tm1.owner) ∧
    (∃ c : Copy, c = { aCopy with buf := [(0, 0, [7])] } ∧ (c.pieces 0)[0]? = some (0, 0, 1) ∧
      EngineWrite.tag ((toMemory true false).engineStore 0 1 c 0 [7]) = 0 ∧ EngineWrite.tag ((toMemory false false).engineStore 0 1 c 0 [7]) = 256 + 2 ∧
      EngineWrite.tag ((toMemory true true).engineStore 0 1 c 0 [7]) = 1 ∧ c.cedes false 0 = false ∧
      ((toMemory true false).lookNow 0 0 0 needWrite).2 = .at 0 0 ∧
      (toMemory true false).home ((toMemory true false).granuleAt 0).1 ≠ (toMemory true false).home 0) ∧
    (∃ c : Copy, c = { aCopy with last := some 1 } ∧ (copyRun c (engCore true [])).reqs = []) ∧
    ((toSelf 0 0 false).kind ≠ .copy ∧ (toSelf 0 0 false).sent = false ∧ (copyRun (toSelf 0 0 false) (engCore true [])).putReleased 0 (toSelf 0 0 false) = true ∧
      (copyRun (toSelf 0 0 false) (engCore true [])).pathDown ((copyRun (toSelf 0 0 false) (engCore true [])).putPath 0 0) = false) ∧
    (∀ k, k = 0 ∨ k = 256 → (copyRun (toSelf k 0 true) (engCore true [])).putOut 0 1 0 = false ∧
      (toSelf k 0 true).dests[0]? = some ⟨k, 0, 0, 0, false, 0⟩) ∧
    ((copyRun (toSelf 256 0 true) (engCore true [])).flowBehind 0 ⟨256, 0, 0, 0, false, 0⟩ = false ∧
      (copyRun (toSelf 256 0 true) (engCore true [])).flowBehind 0 ⟨256, 0, 0, 0, false, 1⟩ = true) ∧
    ((toSelf 0 1 true).dests[0]? = some ⟨0, 0, 1, 0, false, 0⟩ ∧ (copyRun (toSelf 0 1 true) (engCore true [])).inTransit (.putReply 0 1 0) = false ∧ (copyRun (toSelf 0 1 true) (engCore true [])).objMarked 1 0 = true ∧
      (copyRun (toSelf 0 1 true) (engCore true [])).mcastOut 0 1 = false) := by
  refine ⟨⟨_, rfl, ?_, ?_, ?_, ?_, ?_, ?_, ?_⟩, ?_, ⟨_, rfl, ?_, ?_, ?_, ?_, ?_, ?_, ?_, ?_⟩, ⟨_, rfl, ?_, ?_, ?_, ?_, ?_, ?_, ?_⟩, ⟨_, rfl, ?_⟩,
    ⟨?_, ?_, ?_, ?_⟩, ?_, ⟨?_, ?_⟩, ?_, ?_, ?_, ?_⟩
  all_goals first | decide +kernel | (rintro k (rfl | rfl) <;> decide +kernel)

/-- An operation of one element on each side, with A at address 0 and B at scratchpad offset 16. -/
def anOp : Mop :=
  { id := 1, team := 1, gid := 0, a := 0, b := 0xFFFFFFFF00000010#64, aStride := 32, bStride := 32, m := 1, n := 1, k := 1, accOff := 0
    accStride := 1, obj := 0, ctrl := 2, fmt := 0x00040004 }
def readOp : Mop := { anOp with started := true, bufA := [(0, List.replicate 64 0)], bufB := [(0xFFFFFFFF0000001, List.replicate 16 0)] }
def opRun (o : Mop) : State := { mapped grp with cores := [(0, { engCore true [] with mq := [o], tlb := [⟨0, 13, 0, 0, 0, 0xF#4⟩] })] }
/-- Two teams of a 2 × 1 cluster, each with a group that waits for the first instance. -/
def cluster (common : Bool) : State :=
  { pack grp with
    grids := [(1, { part := 0, queue := 0, evQueue := 0, seq := 1, recd := { x := 2, w := 2 } })]
    teams := [(1, tm1), (2, { tm1 with core := 1, rank := 1 })]
    groups := [(0, grp), (32, { grp with team := 2 })]
    cores := [(0, { mwait := [(0, ⟨0, 0, [], 0⟩)] }), (1, { mwait := [(32, ⟨0, 0, if common then [] else [1], 0⟩)] })] }
/-- Team 1 of that cluster alone; its mate was never placed, or stands in a saved stream. -/
def halfCluster (saved : Bool) : State :=
  { cluster true with
    teams := [(1, tm1)]
    grids := [(1, { part := 0, queue := 0, evQueue := 0, seq := 1, recd := { x := 2, w := 2 }, saved := if saved then [64] else [] })]
    streams := [(64, { part := 0, grid := 1, teams := [{ tid := 2, team := { tm1 with core := 1, rank := 1 } }] })] }
theorem witness_MatrixEvents :
    (((opRun anOp).core 0).mq.find? (fun o => !o.started) = some anOp ∧ (opRun anOp).suspended 0 0 1 = false) ∧
    (∀ b, ∃ t0 rest gr, (cluster b).grid 1 = some gr ∧ plainRun (cluster b) 1 0 = t0 :: rest ∧
      gr.recd.w * gr.recd.h ≤ (t0 :: rest).length ∧
      (∃ e0, ((waitersOf (cluster b) t0).find? fun e => (t0 :: rest).all fun v => ((cluster b).mmasOf v e.2.n).isSome) = some (0, e0) ∧
        ((∀ v ∈ t0 :: rest, (((cluster b).mmasOf v e0.n).map fun e => e.2.common) = some e0.common) ↔ b = true))) ∧
    (∃ o : Mop, o = { anOp with started := true } ∧ (opRun o).mop 0 1 = some o ∧ o.lacks true 0xFFFFFFFF00000010#64 = true ∧
      (opRun o).readsBand 0 o true = true ∧ (opRun o).bandAcquired 0 o true = true ∧ (opRun o).bandAcquired 0 o false = true ∧ o.isLoc true = true ∧ ((opRun o).core 0).anyAbsent (tm1.locBlk + 16) 16 = false ∧
      o.lacks false 0 = true ∧ o.isLoc false = false ∧ (opRun o).readsBand 0 o false = true ∧
      ((opRun o).lookNow 0 0 0 needRead).2 = .at 0 0 ∧
      ((opRun o).lookNow 0 0 0 needRead).1.pinRoom (l2Key (((opRun o).lookNow 0 0 0 needRead).1.home 0) 0) = true ∧
      EngineRead.isOk (((opRun o).lookNow 0 0 0 needRead).1.engineRead 0 1 1 0 64).2 = true) ∧
    (∀ b, plainRun (halfCluster b) 1 0 = [(1, tm1)] ∧ waitersOf (halfCluster b) (1, tm1) ≠ [] ∧ savedRun (halfCluster b) 1 0 = b.toNat) ∧
    ((opRun readOp).mop 0 1 = some readOp ∧ (opRun readOp).mopFirst 0 readOp = true ∧ (opRun readOp).team 1 = some tm1 ∧
      readOp.allRead = true ∧ readOp.n ≤ readOp.accStride) ∧
    (∃ o : Mop, o = { readOp with failed := some 0x0C } ∧ (opRun o).mop 0 1 = some o ∧ (opRun o).mopFirst 0 o = true) ∧
    (∃ g : Group, g = { ctrlGrp with pin := some ⟨1#32, 0#32⟩, wait := .acowner 0 1#32 false } ∧ (ctrl g).grp (ctrlGid (0 : Die).val) = some g ∧
      (ctrl g).ownerIdle 0 = true) := by
  refine ⟨⟨?_, ?_⟩, fun b => ⟨_, _, _, rfl, rfl, ?_, _, rfl, ?_⟩, ⟨_, rfl, ?_, ?_, ?_, ?_, ?_, ?_, ?_, ?_, ?_, ?_, ?_, ?_, ?_⟩,
    fun b => ?_, ⟨?_, ?_, ?_, ?_, ?_⟩, ⟨_, rfl, ?_, ?_⟩, _, rfl, ?_, ?_⟩ <;> first | decide +kernel | (cases b <;> decide +kernel)

/-- A group whose lanes have exited, and a team and a grid at their ends. -/
def gone : Group := { team := 1, lanes := Vector.ofFn fun _ => { st := .exited } }
def ended (g : Grid) : State := { mapped grp with groups := [], teams := [], grids := [(1, g)] }
def lastGrid : Grid := { part := 0, queue := 0, evQueue := 0, seq := 1, recd := {}, nextCluster := 1 }
theorem witness_Retirement :
    ((pack gone).grp 0 = some gone ∧ gone.live = 0#32 ∧ gone.trap = none ∧ (pack gone).reqs = [] ∧ (pack gone).team 1 = some tm1 ∧
      ((pack gone).grid tm1.grid).isSome = true) ∧
    (∃ tm : Team, tm = { tm1 with ending := true } ∧ ∀ s : State, s = { pack grp with groups := [], teams := [(1, tm)] } →
      s.team 1 = some tm ∧ s.groupsOf 1 = [] ∧ s.engineIdle (1, tm) = true) ∧
    ((ended lastGrid).grid 1 = some lastGrid ∧ (ended lastGrid).gridDone 1 lastGrid = true ∧
      (ended lastGrid).partReady lastGrid.part lastGrid.recd.complAddr 128 needWrite = true) := by
  refine ⟨⟨?_, ?_, ?_, ?_, ?_, ?_⟩, ⟨_, rfl, ?_⟩, ?_, ?_, ?_⟩
  on_goal 7 => rintro s rfl
  all_goals decide +kernel

/-- A checked unit whose shadow is on its last team, and one whose winner commits. -/
def checking (k : Check) (tm : Team) (g : Group) (flags : Word := 1) : State :=
  { mapped g with
    teams := [(1, tm)], checks := [(5, k)]
    grids := [(1, { part := 0, queue := 0, evQueue := 0, seq := 1, recd := { flags } })] }
def shadowing (rs : Word) : Check := { grid := 1, phase := .shadow, teams1 := [3], teams2 := [1], sig1 := [(0, ⟨0, 0, rs, 0, 1⟩)] }
def shadowTm : Team := { tm1 with role := 2, check := some 5, ending := true }
def committer : Check := { grid := 1, phase := .commit 1, teams1 := [1] }
def primaryTm : Team := { tm1 with role := 1, check := some 5 }
/-- A version of line 0, and line 0 under another key, with a pin or none. -/
def aVer : Ver := { run := 1, grid := 1, home := 0, ln := 0, key := 0, lid := 0, bytes := [(0, 1)], num := 3 }
def keyed (pins : Nat) (s : State) : State := { s with vers := [aVer], l2 := [(l2Key 0 0, { key := 1, lid := 0, valid := 15, pins })] }
def stalledGrp (posted : Bool) : Group := { grp with stalled := true, stallPosted := posted }
theorem witness_CheckingEvents :
    (∀ rs : Word, rs = 0 ∨ rs = 1 → ∃ s : State, s = { checking (shadowing rs) shadowTm grp with groups := [] } ∧
      s.team 1 = some shadowTm ∧ s.groupsOf 1 = [] ∧ s.engineIdle (1, shadowTm) = true ∧ s.check 5 = some (shadowing rs) ∧
      (shadowing rs).ranks = (shadowing rs).sig2.length + 1 ∧ ((shadowDone (shadowing rs) 1 shadowTm).agree 1 2 = true ↔ rs = 0)) ∧
    (∃ s : State, s = { checking committer tm1 grp with vers := [aVer] } ∧
      (s.checks.find? fun e => committing 1 e.2) = some (5, committer) ∧ s.nextNum committer = some 3 ∧ s.verReady aVer = true) ∧
    (∀ b, (checking committer primaryTm (stalledGrp b)).grp 0 = some (stalledGrp b) ∧ (checking committer primaryTm (stalledGrp b)).team 1 = some primaryTm ∧
      (((checking committer primaryTm (stalledGrp b)).core 0).copies = [])) ∧
    (∃ c : Copy, c = { aCopy with blocked := some (0, 0) } ∧ ∃ s : State, s = { checking committer primaryTm grp with
        cores := [(0, { copies := [(1, c)] })] } ∧
      ((s.core (coreOf 0)).copies.find? fun c => c.2.gid == 0 && c.2.blocked.isSome) = some (1, c) ∧ c.team = grp.team ∧ c.stallPosted = false) ∧
    (∀ p, p = 0 ∨ p = 1 → ∃ s : State, s = keyed p (checking committer primaryTm (stalledGrp false) 9) ∧
      s.holdVictim ((s.reqs.find? fun e => e.2.stage == .blocked && e.2.gid? == some 0).map fun e => (e.2.home, setOf (e.2.pa / 256)))
        ((s.partOf grp).getD 0) 5 = 5 ∧ (s.releasable 5 = true ↔ p = 0)) ∧
    (∃ g : Group, g = { grp with shed := .parked } ∧ (checking (shadowing 0) shadowTm g 9).grp 0 = some g ∧
      (checking (shadowing 0) shadowTm g 9).check 5 = some (shadowing 0)) ∧
    (∃ s : State, s = { pack grp with demeritW := 1, cores := [(0, { demerits := [0] })], dies := [(0, { retired := 1 })] } ∧
      (s.core 0).demerits[0]? = some 0 ∧ 0 + s.demeritW ≤ (s.die (0 / 64)).retired) ∧
    (∀ b : Bool, ∃ g : Grid, g = { lastGrid with recd := { fpThreshold := 1 }, fp := [(15, 1)], fpPosted := if b then 0x8000 else 0 } ∧
      (ended g).grid 1 = some g ∧ ((ended g).part 0).isSome = true ∧ g.recd.fpThreshold ≤ g.fp.getD 0 15 ∧ g.fpPosted.getLsbD 15 = b) := by
  refine ⟨?_, ⟨_, rfl, ?_, ?_, ?_⟩, fun b => ⟨?_, ?_, ?_⟩, ⟨_, rfl, _, rfl, ?_, ?_, ?_⟩, ?_, ⟨_, rfl, ?_, ?_⟩, ⟨_, rfl, ?_, ?_⟩,
    fun b => ⟨_, rfl, ?_⟩⟩
  · rintro rs (rfl | rfl) <;> exact ⟨_, rfl, by decide +kernel⟩
  on_goal 10 => rintro p (rfl | rfl) <;> exact ⟨_, rfl, by decide +kernel⟩
  all_goals first | decide +kernel | (cases b <;> decide +kernel)
/-! The task unit, queues, placement, contexts and migration. -/

/-- Partition 0 has domain 0, the cores 0 to 15, and its grid 1 can start a group of tasks there. -/
def open0 (r : Option Refine) : State :=
  { pack grp with grids := [(1, { part := 0, queue := 0, evQueue := 0, seq := 1, recd := {}, nextCluster := 1, refine := r })] }
def aTask : Task := ⟨1, 8#32, [1, 2, 3, 4, 5, 6, 7, 8], {}⟩
def aBin : Bin := { grid := 1, entry := 8, tasks := [aTask], timer := 1, triggered := true }
def binState : State := { open0 none with cores := [(0, { bins := [(15, aBin)] })] }
def flowState : State := { open0 none with dies := [(0, { overflow := [(0, { base := 0, room := 1, tasks := [aTask] })] })] }
def mayStart0 (s : State) : Bool :=
  (s.grid 1).any fun gr => s.mayStart 1 gr && ({ s with grids := s.grids.put 1 { gr with vacated := [] } } : State).coreOk 1 1 0 &&
    (s.allocOn 0 (gr.recd.need 1)).isSome
theorem witness_TaskUnit :
    ((binState.core 0).bins.find 15 = some aBin ∧ aBin.triggered = true ∧ mayStart0 binState = true) ∧
    (((flowState.dropDeadTasks fun _ => false).die (0 : Die).val).overflow.find 0 = some { base := 0, room := 1, tasks := [aTask] } ∧
      (flowState.dropDeadTasks fun _ => false).pend = [] ∧
      (flowState.dropDeadTasks fun _ => false).partReady 0 (({ base := 0, room := 1, tasks := [aTask] } : Overflow).place 0) 64 needRead = true ∧
      (flowState.dropDeadTasks fun _ => false).storedTask 0 { base := 0, room := 1, tasks := [aTask] } 0 aTask = aTask ∧
      mayStart0 (flowState.dropDeadTasks fun _ => false) = true) ∧
    (∀ e, e ∈ [TaskEv.pub 0 true none {}, .stop 1, .runEnd 1] → ∃ r : Refine, r = { board true with ev := [(1, e)], arrived := [1] } ∧
      ((open0 (some r)).grid 1).bind Grid.refine = some r) ∧
    ((open0 (some (board false))).grid 1).bind Grid.refine = some (board false) := by
  refine ⟨by decide +kernel, by decide +kernel, fun e h => ⟨_, rfl, ?_⟩, by decide +kernel⟩
  simp only [List.mem_cons, List.not_mem_nil, or_false] at h
  rcases h with rfl | rfl | rfl <;> decide +kernel

/-- The device launch queue of partition 0 holds a record. -/
def queued (r : LaunchRec) : State := { pack grp with parts := [(0, { domains := 1, frame := 8192, devq := [{ recd := r, evQueue := 0 }] })] }
/-- Data queue pair 2 is ready, of partition 0; the host writes there at its doorbell page. -/
def ringing : State := { pack grp with qps := [(2, { part := 0, service := 0, st := .ready })] }
def atPage : Remote := ⟨Config.doorbellKey 0, BitVec.ofNat 64 (pageBase 0)⟩
theorem ringing_doorbell : ringing.doorbellOf 2 atPage = some (0, 0) := by
  have hq : ringing.qpPart 2 = some 0 := by decide +kernel
  have hv : atPage.va.toNat = pageBase 0 := Nat.mod_eq_of_lt (Nat.mod_lt _ (by decide))
  unfold State.doorbellOf
  rw [hq, hv]
  simp [atPage]
/-- Queue 0 is on, with its ring where nothing is mapped, and its TAIL ahead of its HEAD. -/
def unread : State :=
  { pack grp with parts := [(0, { domains := 1, queues := [(0, { desc := 0x201#128, tail := 1 })] })] }
/-- A grid of one team, not yet placed, on a core whose slots are free or on a fenced one. -/
def unplaced (fenced : Bool) : State :=
  { pack grp with
    groups := [], teams := [], parts := [(0, { domains := if fenced then 0 else 1 })]
    grids := [(1, { part := 0, queue := 0, evQueue := 0, seq := 1, recd := {}, reserved := true })] }
def cand0 : Candidate := { grid := 1, cls := 0, seq := 1, kind := 2, ix := 0, what := .cluster 0 }
/-- A refinement grid's record, while all eight numbers are in use. -/
def crowded : State :=
  { queued { flags := 0x100 } with
    grids := (List.range 8).map fun n => (n + 1, { part := 0, queue := 0, evQueue := 0, seq := n, recd := {}, refine := some { board false with num := n } }) }
theorem witness_Scheduling :
    (ringing.doorbellOf 2 atPage = some (0, 0) ∧ (pack grp).doorbellOf 2 atPage = none ∧ (ringing.part 0).isSome = true ∧ (ringing.hqueue 0 0).tail = 0) ∧
    ((queued {}).serveOrder 0 = [64] ∧ (queued {}).headReady 0 64 = true ∧ ((queued {}).headRecord 0 64).2 = some ({}, 0) ∧ ({} : LaunchRec).ok = true ∧
      ({} : LaunchRec).isGrid = false ∧ (({} : LaunchRec).codeBase.toNat % 8192 = 0) ∧
      (((queued {}).headRecord 0 64).1.takeRecord 0 64).1.refuseMore 0 {} false = none) ∧
    (unread.serveOrder 0 = [0] ∧ unread.headReady 0 0 = true ∧ (unread.headRecord 0 0).2 = none) ∧
    (crowded.serveOrder 0 = [64] ∧ crowded.headReady 0 64 = true ∧ (crowded.headRecord 0 64).2 = some ({ flags := 0x100 }, 0) ∧
      crowded.gridWaits 0 { flags := 0x100 } = true) ∧
    (((unplaced false).reserveAll 0).candidates 0 = [cand0] ∧ ((unplaced false).reserveAll 0).slotsOpen 1 0 false 1 = true ∧
      (((unplaced false).reserveAll 0).placeFirst 1 (({} : LaunchRec).need 1) 1 1).isSome = true) ∧
    (((unplaced true).reserveAll 0).candidates 0 = [cand0] ∧ ((unplaced true).reserveAll 0).tryPlace cand0 = none) ∧
    ((({ relq := [0, 1] } : Domain).relq.take 1).Nodup) ∧
    (∀ o, o = [] ∨ o = [(4, false, 1#32)] → ∃ g : Group, g = { grp with opened := o } ∧ (pack g).grp 0 = some g ∧
      ((pack g).domain (domainOf (coreOf 0))).allowed ≤ g.pclass ∧ g.levels = []) := by
  refine ⟨⟨ringing_doorbell, ?_, ?_, ?_⟩, ?_, ?_, ?_, ?_, ?_, ?_, ?_⟩
  on_goal 10 => rintro o (rfl | rfl) <;> exact ⟨_, rfl, by decide +kernel⟩
  all_goals first | rfl | decide +kernel

/-- Core 0 has a team with a scratchpad block in each half, and the other cores are fenced; a grid wants half the scratchpad. -/
def fragmented : State :=
  { pack grp with
    teams := [(1, { tm1 with locBlk := 262144, locSize := 4096, accSize := 0 }), (2, { tm1 with locBlk := 786432, locSize := 4096, accSize := 0 })]
    cores := [1, 2, 3, 8, 9, 10, 11, 16, 17, 18, 19, 24, 25, 26, 27].map fun i => (i, { fenced := true })
    grids := [(1, { part := 0, queue := 0, evQueue := 0, seq := 1, recd := { locBytes := 524288 }, reserved := true })] }
def middle : Block := ⟨1, 262144, 4096, 1, 0⟩
theorem witness_Compaction :
    ((fragmented.partAt 0).bind fragmented.firstCandidate) = some (cand0, false) ∧ fragmented.compactMove cand0 = some (0, some (middle, 0)) ∧
    fragmented.mayMove middle = true ∧ (fragmented.team 1).isSome = true := by
  decide +kernel

/-- A request of partition 0, and a package whose management connection is open. -/
def req0 : MReq := { id := 1, part := 0 }
def managed (s : State) : State := { s with mgmtConn := true }
theorem handled0 : Handled (managed (pack grp)) req0 := ⟨rfl, rfl, rfl, by decide, .inl (by decide)⟩
/-- A pre-emption that waits for team 1, which is stopped. -/
def preempted : State :=
  { pack { grp with stopped := true } with preempts := [{ req := req0, grid := 1, cores := [0], immediate := true, teams := [1] }] }
/-- Every station has met its marker and closed every source. -/
def allClosed : Cut :=
  { req := req0, part := 0, grids := [], num := 5, met := (List.range 288).map fun i => (i, 0)
    closed := (List.range 288).flatMap fun a => (List.range 288).map fun b => (a, b) }
def started : Cut := { req := req0, part := 0, grids := [1], num := 5, met := [(64, 1)] }
theorem station_lt (d a : Nat) (hd : d < 4) (ha : a < 72) : 72 * d + a < 288 := by omega
theorem source_lt : ∀ d < 4, ∀ a < 72, ∀ b ∈ cutSources d a, b < 288 := by
  intro d hd a _ b hb
  simp only [cutSources, List.mem_append, List.mem_map, List.mem_filter, List.mem_range] at hb
  obtain ⟨c, ⟨hc, -⟩, rfl⟩ | ⟨e, ⟨he, -⟩, rfl⟩ := hb
  · omega
  · have h : ∀ d < 4, ∀ e ∈ [d ^^^ 1, d ^^^ 2], 72 * e + edgeStation e d < 288 := by decide +kernel
    exact h d hd e he
theorem met_all : ((List.range 288).all fun k => (allClosed.met.find k).isSome) = true := by decide +kernel
theorem done_allClosed : (managed { pack grp with cuts := [allClosed] }).cutDone allClosed = true := by
  simp only [State.cutDone, Bool.and_eq_true, List.all_eq_true, List.mem_range]
  refine ⟨⟨fun d hd a ha => ⟨?_, fun b hb => ?_⟩, ?_⟩, ?_⟩
  · exact List.all_eq_true.mp met_all _ (List.mem_range.mpr (station_lt d a hd ha))
  · refine List.contains_iff_mem.mpr (List.mem_flatMap.mpr ⟨_, List.mem_range.mpr (station_lt d a hd ha), ?_⟩)
    exact List.mem_map.mpr ⟨b, List.mem_range.mpr (source_lt d hd a ha b hb), rfl⟩
  · simp [managed, pack, allClosed]
  · simp [managed, pack, State.reset]
theorem witness_PreemptionAndCuts :
    (Handled (managed (pack grp)) req0 ∧ (managed (pack grp)).part 0 = some { domains := 1, frame := 8192 } ∧
      ((managed (pack grp)).gridSeq 0 1).map Prod.fst = some 1 ∧ ((managed (pack grp)).vacate 1 1) = [0]) ∧
    ((preempted.team 1).map Team.role = some 0 ∧ (preempted.grid 1).isSome = true ∧ preempted.cuts = [] ∧
      (∃ q ∈ preempted.preempts, 1 ∈ q.teams) ∧ preempted.saveReady 1 = true) ∧
    (started.met.find 64 = some 1 ∧ (72 * (0 : Die).val + 0, 64) ∉ started.closed ∧
      64 ∈ cutSources 0 0 ∧ ({ pack grp with cuts := [started] } : State).beforeMarker 64 0 1 = false) ∧
    ((managed { pack grp with cuts := [allClosed] }).cutDone allClosed = true) := by
  refine ⟨⟨handled0, ?_, ?_, ?_⟩, ⟨?_, ?_, ?_, ⟨_, List.mem_singleton_self _, ?_⟩, ?_⟩, ⟨?_, ?_, ?_, ?_⟩, done_allClosed⟩
  on_goal 11 =>
    simp only [cutSources, List.mem_append, List.mem_map, List.mem_filter, List.mem_range]
    exact .inl ⟨64, ⟨by decide, by simp [shareLoop_all]⟩, rfl⟩
  all_goals decide +kernel
/-- A context unit with a running command for slot 0 of core 0 and the stream at address 64. -/
def ctxOn (s : State) (cmd : Word) (r : Option Nat) (str : Tab Stream) : State :=
  { managed s with
    streams := str
    dies := [(0, { (s.die 0) with ctx := { addr := 64, command := cmd, status := 1, running := true, via := some req0, result := r } })] }
def ctxState (cmd : Word) (g : Group) (r : Option Nat) (str : Tab Stream) : State := ctxOn (pack g) cmd r str
/-- Line 0, with the page table's entries for low addresses, is pinned under another key. -/
def shut : State := { mapped grp with l2 := [(l2Key 0 0, { key := 1, lid := 0, pins := 1 })] }
/-- A cut's stream of one team, with channel state and frames. -/
def streamOf (ch : Tab Chan) (fr : Tab (List (Option (List Byte)))) : Stream :=
  { part := 0, grid := 1, cut := some 7
    teams := [{ tid := 2, team := tm1, groups := [(0, { grp with team := 2 })], channel := ch, frames := fr }] }
/-- A restore of such a stream. -/
def restoring (s : State) (st : Stream) : State := ctxOn s 2 none [(64, st)]
/-- Room for a stream's team on core 0, and how the restore there ends. -/
def roomAt (s : State) (st : Stream) : Bool :=
  s.slotsOpen 1 0 false 1 && (s.grid 1).any fun g => st.teams.all fun v => s.coreOk 1 (g.recd.w * g.recd.h) 0 && s.rankFits g v.team 0
def restoreEnd (s : State) (st : Stream) : Option Nat :=
  match s.streamAt 0 64, s.grid 1 with
  | (s1, some (some st')), some g =>
    let s2 := ({ s1 with streams := s1.streams.put 64 st' } : State).replayJob st
    match State.restoreOn s s2 g 0 (((s2.streams.find 64).map Stream.teams).getD []) with
    | .wait => none
    | .done _ n => some n
  | _, _ => none
def sentLoad : Chan := .access { acc (.load 4 false) with team := 2 }
/-- The scratchpad of core 0 is taken. -/
def full : State := { pack grp with teams := [(1, { tm1 with locSize := 1048576 })] }
/-- Where no region is assigned a control core's accesses wait for nothing. -/
theorem ctrlReady_open (s : State) (h : ∀ d, (s.die d).region = []) (die a n : Nat) : s.ctrlReady die a n = true := by
  have hr : ∀ pa, regionAssigned (s.region pa) = false := fun pa => by
    rw [State.region, h]
    exact (by decide +kernel : regionAssigned 0 = false)
  simp only [State.ctrlReady, List.all_eq_true]
  intro p _
  simp only [State.lookCtrl, hr]
  split
  · rename_i hp
    split at hp <;> simp at hp
  · rfl
/-- Such a save ends. -/
theorem saveAt_open (s : State) (die tid : Nat) (addr : Dword)
    (h : ∀ d, ((({ s with streams := s.streams.del addr.toNat } : State).saveTeam tid addr.toNat none true).die d).region = []) :
    (s.saveAt die tid addr).isSome = true := by
  simp only [State.saveAt]
  split
  · rfl
  · simp [ctrlReady_open _ h]
theorem save_open : (((ctxState 1 grp none []).stopForSave 1).saveAt 0 1 64).isSome = true := by
  refine saveAt_open _ _ _ _ fun d => ?_
  have e : ((({ ((ctxState 1 grp none []).stopForSave 1) with
      streams := ((ctxState 1 grp none []).stopForSave 1).streams.del (64 : Dword).toNat } : State).saveTeam 1 (64 : Dword).toNat none true).dies) =
      (ctxState 1 grp none []).dies := by decide +kernel
  rw [State.die, e]
  rcases Nat.eq_zero_or_pos d with rfl | h
  · decide +kernel
  · simp [ctxState, ctxOn, Tab.getD, Tab.find, Ne.symm (Nat.pos_iff_ne_zero.mp h)]
theorem witness_ContextCommands :
    (Handled (managed (pack grp)) req0 ∧ ((managed (pack grp)).die 0).ctx.running = false) ∧
    (Handled (ctxState 1 grp none []) req0 ∧ ((ctxState 1 grp none []).die 0).ctx.running = true) ∧
    ((ctxState 1 grp none []).grp 0 = some grp ∧ ((ctxState 1 grp none []).team 1).map Team.role = some 0 ∧
      ((ctxState 1 grp none []).stopForSave 1).saveReady 1 = true ∧
      (((ctxState 1 grp none []).stopForSave 1).saveAt 0 1 64).isSome = true) ∧
    (({ ctxState 1 grp none [] with cores := [(0, { copies := [(1, aCopy)] })] } : State).stopForSave 1).saveReady 1 = false ∧
    (({ ctxState 1 grp none [] with groups := [] } : State).grp 0 = none) ∧
    ((ctxOn shut 2 none []).streamAt 0 64).2 = none ∧ ((ctxState 2 grp none []).streamAt 0 64).2 = some none ∧
    (∃ st s : _, st = streamOf [] [] ∧ s = restoring (pack grp) st ∧ (s.streamAt 0 64).2 = some (some st) ∧ 0 ∈ s.coresOf 0 0 ∧
      (s.core 0).fenced = false ∧ roomAt s st = true ∧ s.jobReady st = true ∧ restoreEnd s st = some 0) ∧
    (∃ st s : _, st = streamOf [] [] ∧ s = restoring full st ∧ roomAt s st = true ∧ s.jobReady st = true ∧ restoreEnd s st = some 3) ∧
    (∃ st s : _, st = streamOf [] [(0, [some []])] ∧ s = restoring shut st ∧ roomAt s st = true ∧ s.jobReady st = true ∧ restoreEnd s st = none) ∧
    (∃ st s : _, st = streamOf [(0, sentLoad)] [] ∧ s = restoring shut st ∧ roomAt s st = true ∧ s.jobReady st = false) ∧
    (∃ s : State, s = { restoring (pack grp) (streamOf [] []) with cores := [(0, { fenced := true })] } ∧ (s.core 0).fenced = true) ∧
    (∃ s : State, s = { restoring (pack grp) (streamOf [] []) with
        grids := [(1, { part := 0, queue := 0, evQueue := 0, seq := 1, recd := { w := 2, x := 2 } })] } ∧
      (∃ st : Stream, st = { streamOf [] [] with teams := [{ tid := 2, team := { tm1 with rank := 1 } }] } ∧ roomAt s st = false)) ∧
    (∀ n, n = 0 ∨ n = 4 → ((ctxState 1 grp (some n) []).die 0).ctx.result = some n) := by
  refine ⟨⟨handled0, ?_⟩, ⟨⟨rfl, rfl, rfl, by decide, .inl (by decide)⟩, ?_⟩, ⟨?_, ?_, ?_, save_open⟩, ?_, ?_, ?_, ?_,
    ⟨_, _, rfl, rfl, ?_, ?_, ?_, ?_, ?_, ?_⟩, ⟨_, _, rfl, rfl, ?_, ?_, ?_⟩, ⟨_, _, rfl, rfl, ?_, ?_, ?_⟩, ⟨_, _, rfl, rfl, ?_, ?_⟩,
    ⟨_, rfl, ?_⟩, ⟨_, rfl, _, rfl, ?_⟩, ?_⟩
  all_goals first | decide +kernel | (rintro n (rfl | rfl) <;> decide +kernel)

/-- A session as its source and as its destination, whose region 0 is the source's region 0. -/
def session (src : Bool) : Ebb :=
  { setup := { part := 0, dest := 0, session := 7, salt := 0, migKey := List.replicate 32 0, keyMap := [], regionMap := [(0, 0)] }
    req := req0, isSource := src }
def migrating (e : Ebb) : State := { managed (mapped grp) with ebb := some e }
/-- A header of the session with a sequence number, and a message with a ciphertext of its length (19 R387). -/
def msgHead (type count off seq : Nat) : List Byte := ebbHeader { session false with seq } type 0 count 0 off
def message (type count off seq : Nat) : List Byte :=
  let h := msgHead type count off seq
  let ct := List.replicate count 0#8
  h ++ (ct ++ gcmTag (session false).setup.migKey (ebbIv (session false).setup seq) h ct)
/-- It has a payload, and its header is as it was written. -/
theorem read_message (type count off seq : Nat) (hs : natOfBytes (((msgHead type count off seq).drop 16).take 8) = seq)
    (hl : (msgHead type count off seq).length = 32) : ∃ bs, bs.length = count ∧
      ebbRead (session false).setup (message type count off seq) =
        { ebbRead (session false).setup (msgHead type count off seq) with payload := some bs } := by
  have h := ebbRead_sealed (session false).setup (msgHead type count off seq) (List.replicate count 0#8) hl (by simp [session])
  rw [hs] at h
  exact ⟨_, by rw [gcmCtr_length _ _ _ (by simp [session])]; simp, h⟩
/-- Messages of every type, with what the destination makes of the header; a granule of one byte is none. -/
theorem read_headers : ∀ x ∈ [(1, 4096, 0, true), (2, 1, 0, true), (3, 0, 0, true), (3, 0, 1, true), (1, 1, 0, false)], ∃ bs,
    let m := ebbRead (session false).setup (message x.1 x.2.1 x.2.2.1 5)
    m.payload = some bs ∧ bs.length = x.2.1 ∧ ebbHeaderOk m (session false) = x.2.2.2 ∧ m.type = x.1 ∧ m.off = x.2.2.1 ∧ m.seq = 5#64 := by
  intro x hx
  have hl : (msgHead x.1 x.2.1 x.2.2.1 5).length = 32 ∧ natOfBytes (((msgHead x.1 x.2.1 x.2.2.1 5).drop 16).take 8) = 5 := by
    simp only [List.mem_cons, List.not_mem_nil, or_false] at hx
    rcases hx with rfl | rfl | rfl | rfl | rfl <;> decide +kernel
  obtain ⟨bs, hb, h⟩ := read_message x.1 x.2.1 x.2.2.1 5 hl.2 hl.1
  refine ⟨bs, by rw [h], hb, ?_⟩
  rw [h, show ∀ m : EbbMsg, ebbHeaderOk { m with payload := some bs } (session false) =
    ebbHeaderOk { m with payload := some (List.replicate x.2.1 0#8) } (session false) by intro m; simp [ebbHeaderOk, hb]]
  clear h hb
  simp only [List.mem_cons, List.not_mem_nil, or_false] at hx
  rcases hx with rfl | rfl | rfl | rfl | rfl <;> exact ⟨by decide +kernel, rfl, rfl, rfl⟩
/-- A record stream: the header record, and the end record (19 R382). -/
def records : List Byte := [1, 0, 1, 0, 0, 0, 0, 0, 0, 0, 0, 0, 0, 0, 0, 0]
/-- A source whose partition owns a container on every loop, and whose L2 holds no line. -/
def openEverywhere : State := { migrating (session true) with slotTab := (List.range 112).map fun l => (16 * l, 0) }
theorem room_everywhere : ∀ d : Die, ((List.range 28).all fun l => openEverywhere.roomOn 0 d l) = true := by decide +kernel
theorem path_everywhere (d a b : Nat) : openEverywhere.pathOpen 0 (loopLeg d a b) = true := by
  unfold loopLeg
  split
  · rfl
  · simp [State.pathOpen, State.roomFor, room_everywhere]
theorem ebb_ready (pa key n : Nat) : openEverywhere.ebbReady 0 pa key n = true := by
  have hp : ∀ pa, openEverywhere.packetPart 0 pa = 0 := by
    intro pa
    have hr : openEverywhere.region pa = 0x8001#64 ∨ openEverywhere.region pa = 0#64 := by
      have hd : openEverywhere.dies = [(0, { region := [(0, 0x8001#64)] })] := rfl
      unfold State.region State.die
      rw [hd]
      simp only [Tab.getD, Tab.find]
      split
      · simp only [Option.getD_some, Tab.find]
        split <;> simp
      · exact .inr rfl
    unfold State.packetPart
    rcases hr with hr | hr <;> rw [hr] <;> rfl
  simp only [State.ebbReady, List.all_eq_true, Bool.and_eq_true]
  intro p _
  have hf : openEverywhere.l2 = [] := rfl
  constructor
  · have ha : ∀ a b : List Leg, openEverywhere.pathOpen 0 (a ++ b) = (openEverywhere.pathOpen 0 a && openEverywhere.pathOpen 0 b) := by
      simp [State.pathOpen]
    simp [State.homeReady, hf, State.victim, State.waysUsed, show openEverywhere.vers = [] from rfl, State.dramPath, hp, ha, path_everywhere]
  · simp only [State.wayOpen, hp, Bool.and_eq_true]
    constructor <;> simp [route, path_everywhere, ioStation, Nat.mul_add_div]
theorem region_ready (e : EbbSetup) (he : e.part = 0) (region : Nat) : openEverywhere.regionReady e region = true := by
  simp [State.regionReady, he, ebb_ready]
theorem witness_Migration :
    (Handled (managed (mapped grp)) req0 ∧ (managed (mapped grp)).ebb = none ∧ ((managed (mapped grp)).part 0).isSome = true ∧
      0 ∈ (managed (mapped grp)).ueAddr) ∧
    (Handled (migrating (session true)) req0 ∧ (migrating (session true)).ebb.isSome = true ∧
      0 ∈ (migrating (session true)).regionsOf 0 ∧ (session true).isSource = true ∧
      (session true).final = false ∧ (session true).scanned = [] ∧ openEverywhere.regionReady (session true).setup 0 = true) ∧
    (∃ e : Ebb, e = { session true with scanned := [0], unacked := [0] } ∧ 0 ∈ (migrating e).regionsOf e.setup.part ∧ 0 ∈ e.scanned) ∧
    (∃ s : State, s = { migrating (session true) with l2 := [(l2Key ((mapped grp).home 0x8000) 0x80, { key := 1, lid := 0, pins := 1 })] } ∧
      s.regionReady (session true).setup 0 = false) ∧
    ((ebbRead (session false).setup (msgHead 1 4096 0 5)).payload = none ∧ (5#64).toNat ∉ (session false).accepted ∧
      ({ session false with accepted := [5] } : Ebb).accepted = [(5#64).toNat] ∧ (session false).placed.getD 0 0 = 0) ∧
    (∀ pins, pins = 0 ∨ pins = 1 → ∃ s : State, s = { migrating (session false) with l2 := [(l2Key 0 0, { key := 1, lid := 0, pins })] } ∧
      (s.ebbReady (s.ebbPart (session false)) 0 0 4096 = true ↔ pins = 0)) ∧
    (∀ b : Byte, readStream (chunksSoFar ((session false).stream.put 5 [b])) = none ∧
      (readStream (chunksSoFar (({ session false with stream := [(0, records)] } : Ebb).stream.put 5 [b]))).isSome = true) ∧
    (∀ b, ∃ s : State, s = { migrating { session true with final := b } with
        teams := [], groups := []
        grids := [(1, { part := 0, queue := 0, evQueue := 0, seq := 1, recd := {}, suspended := true })] } ∧
      (∃ g ∈ s.grids, g.2.part = 0 ∧ g.2.suspended = true) ∧ s.teams = [] ∧ s.cuts = [] ∧ s.checks = [] ∧
      (session true).unacked = []) ∧
    (migrating (session true)).regionsOf 0 = [0] ∧
    (∀ refines, ∃ j : Job, j = { grids := [{ lastGrid with refine := if refines then some (board false) else none }], teams := [] } ∧
      (crowded.jobFits 0 j = false ↔ refines = true)) := by
  refine ⟨⟨⟨rfl, rfl, rfl, by decide, .inl (by decide)⟩, rfl, ?_, ?_⟩, ⟨⟨rfl, rfl, rfl, by decide, .inl (by decide)⟩, ?_, ?_, ?_, ?_, ?_, region_ready _ rfl _⟩,
    ⟨_, rfl, ?_, ?_⟩, ⟨_, rfl, ?_⟩, ⟨?_, ?_, ?_, ?_⟩, ?_, fun b => ⟨?_, ?_⟩,
    fun b => ⟨_, rfl, ⟨_, List.mem_singleton_self _, rfl, rfl⟩, rfl, rfl, rfl, rfl⟩, ?_, fun b => ⟨_, rfl, ?_⟩⟩
  all_goals first
    | decide +kernel
    | (rintro p (rfl | rfl) <;> exact ⟨_, rfl, by decide +kernel⟩)
    | (revert b; decide +kernel)

/-! Power, the host and the management requests. -/

theorem witness_BiasDomains :
    ((pack grp).fwRuns = true ∧ ((pack grp).domain 1).st ≠ 3 ∧ (pack grp).occupied 1 = false ∧ (pack grp).occupied 0 = true) ∧
    (({ pack grp with domains := [(1, { st := 3 })] } : State).domain 1).st = 3 ∧
    (∀ b, ∃ s : State, s = { pack { grp with pclass := 4 } with power := { refuse := b } } ∧ (s.domain 0).claimed = false ∧
      ((s.parts.find? fun e => e.2.domains.getLsbD 0).map Prod.fst) = some 0 ∧ s.power.boostEnable.testBit 0 = true ∧
      s.power.poolSize ≠ 0 ∧ (s.grp 0).map Group.pclass = some 4 ∧ s.power.boostClass ≤ 4 ∧ (s.domain 0).allowed ≤ 4) := by
  refine ⟨?_, ?_, fun b => ⟨_, rfl, ?_⟩⟩ <;> first | decide +kernel | (cases b <;> decide +kernel)

def aFrame : Frame := ⟨1, 50000, 50000, 0, 0, false, true⟩
theorem witness_TelemetryAndHeat :
    (Frame.ok aFrame (pack grp).power = true ∧ Frame.ok { aFrame with fcs := false } (pack grp).power = false) ∧
    (∃ f : Frame, f = { aFrame with freq := 40000 } ∧ Frame.ok f (pack grp).power = true) ∧
    ((pack grp).power.tloss = false ∧ ({ tloss := true } : Power).tloss = true ∧ (pack grp).power.lossClass = 8 ∧ ({ lossClass := 7 } : Power).lossClass ≤ 7) ∧
    (∃ g : Group, g = { grp with shed := .marked } ∧ (pack g).grp 0 = some g) ∧ ((pack grp).die 0).hot = false ∧
    (∃ g : Group, g = { grp with shed := .forced } ∧ (pack g).grp 0 = some g ∧ g.pin = none) ∧
    (∃ s : State, s = { pack grp with parts := [(0, { domains := 1, duty := 5 })] } ∧
      ((s.parts.find? fun e => e.2.domains.getLsbD (domainOf 0)).map Prod.fst) = some 0 ∧
      ∃ e ∈ s.parts, decide (s.power.effFloor 0 < 100) = true ∧ max (e.2.duty - 1) 4 = 4) ∧
    ((pack grp).groups.map Prod.fst).Nodup := by
  refine ⟨by decide +kernel, ⟨_, rfl, by decide +kernel⟩, by decide +kernel, ⟨_, rfl, by decide +kernel⟩, by decide +kernel,
    ⟨_, rfl, by decide +kernel⟩, ⟨_, rfl, by decide +kernel⟩, by decide +kernel⟩

/-- Bring-up with the ROM, and queue pairs of partition 0. -/
def romState : State := { State.reset with phase := .romPorts, mgmtConn := true }
theorem rom0 : RomHandled romState req0 := ⟨rfl, rfl, rfl, by decide, .inl (by decide)⟩
def paired (st : QpState) : State := { managed (mapped grp) with qps := [(3, { part := 0, service := 9, st })] }
theorem witness_HostAndBringUp :
    ((paired .ready).qpPart 3 = some 0 ∧ globalRange 0 64 = true ∧ globalRange 0xFFFFFFFF00000000#64 1 = false) ∧
    ((pack grp).fwRuns = true ∧ ((pack grp).part 0).isSome = true ∧ (pack grp).portsUp = true ∧ (pack grp).mgmtConn = false ∧
      romState.portsUp = true ∧ romState.fwRuns = false) ∧
    ((9 : Dword) ≠ mgmtService ∧ (paired .created).qps = [(3, { part := 0, service := 9, st := .created })] ∧ (paired .created).portsUp = true) ∧
    (∀ e ∈ (paired .ready).qps, e.2.service = 9 → e.2.st = .ready) ∧ (({ paired .ready with mgmtWait := true } : State).mgmtWait = true) ∧
    RomHandled romState req0 ∧ Handled (managed (pack grp)) req0 ∧ State.reset.phase = .rom ∧
    ({ pack grp with phase := .training } : State).phase = .training ∧
    (paired .ready).partReady 0 0 64 needWrite ioStation = true ∧ (paired .ready).partReady 0 0 64 needRead ioStation = true ∧
    (∃ rem : Remote, rem.rkey ≠ Config.doorbellKey 0) ∧
    (atPage.rkey = Config.doorbellKey 0 ∧ atPage.va.toNat = pageBase 0 + 8 * 0) ∧
    (∃ rem : Remote, rem.rkey = Config.doorbellKey 0 ∧ pageBase 0 + 8192 < rem.va.toNat + 16384) := by
  refine ⟨?_, ?_, ?_, ?_, rfl, rom0, handled0, rfl, rfl, ?_, ?_, ⟨⟨Config.doorbellKey 0 + 1, 0⟩, ?_⟩, ⟨rfl, ?_⟩, ⟨atPage, rfl, ?_⟩⟩
  on_goal 7 => simp
  on_goal 7 => exact Nat.mod_eq_of_lt (Nat.mod_lt _ (by decide))
  on_goal 7 => rw [show atPage.va.toNat = pageBase 0 from Nat.mod_eq_of_lt (Nat.mod_lt _ (by decide))]; omega
  all_goals decide +kernel

theorem witness_ManagementRules :
    (isRequest (managed (pack grp)) (.identity req0) (req0, 0x01) ∧ req0.bad = false ∧ ∃ r : MReq, r = { req0 with badBody := true } ∧
      r.bad = true ∧ isRequest (managed (pack grp)) (.unknownRequest r 0x99) (r, 0x99)) ∧
    (isRequest romState (.identity { req0 with part := 16 }) ({ req0 with part := 16 }, 0x01) ∧ romState.phase = .romPorts ∧
      romState.mgmtConn = true) ∧
    (∀ ident, (pack grp).keyInUse ident = false) ∧ (pack grp).mgmtConn = false ∧
    (∃ s : State, s = { managed (pack grp) with parts := [(0, { domains := 1, destroying := some req0 })] } ∧ s.portsUp = true ∧
      s.mgmtConn = true ∧ s.mgmtBusy = true) ∧
    (romState.mgmtBusy = false ∧ 0x10 ∉ romTypes ∧ 0x01 ∈ romTypes) ∧
    (Handled (managed (pack grp)) req0 ∧ 0x99 ∉ knownTypes) := by
  have hr : ∀ (q : MReq × Nat) i, Instr.request i = some q → isRequest (managed (pack grp)) i q := by
    intro q i h
    refine ⟨h, nofun, fun n p hp => ?_⟩
    have : p = { domains := 1, frame := 8192 } := by
      simp only [State.part, managed, pack, Tab.find] at hp
      split at hp <;> simp_all
    subst this
    nofun
  refine ⟨⟨hr _ _ rfl, by decide, _, rfl, by decide, hr _ _ rfl⟩, ⟨⟨rfl, nofun, nofun⟩, rfl, rfl⟩, fun i => ?_, rfl, ⟨_, rfl, rfl, rfl, rfl⟩, ?_,
    handled0, ?_⟩
  · simp [State.keyInUse, pack, State.reset]
  all_goals decide +kernel

/-- An image of a magic word, whose signature decides (21 R417). -/
def imageState : State := { romState with fw := { image := [(0, 0x46), (1, 0x47), (2, 0x49), (3, 0x4E)] } }
theorem witness_ManagementReads :
    Handled (managed (pack grp)) req0 ∧ HandledFor (managed (pack grp)) req0 { domains := 1, frame := 8192 } ∧ RomHandled romState req0 ∧
    romState.fw.passes romState.fusedMin = false ∧
    (ecdsaVerifies (ecParse Config.imageKey) [] (getBytes imageState.fw.image 416 96) = true → imageState.fw.passes imageState.fusedMin = true) := by
  refine ⟨handled0, ⟨handled0, rfl, by decide⟩, rom0, by decide +kernel, fun h => ?_⟩
  have e : getBytes imageState.fw.image 0 (imageState.fw.word 8).toNat = [] := by decide +kernel
  have a : decide ((imageState.fw.word 8).toNat ≤ reached imageState.fw.got 0 imageState.fw.got.length) = true := by decide +kernel
  have b : (imageState.fw.word 0 == 0x4E494746#32) = true := by decide +kernel
  have c : decide (imageState.fusedMin.toNat ≤ (imageState.fw.word 4).toNat) = true := by decide +kernel
  unfold Firmware.passes
  simp only [e, a, b, c, List.take_nil, List.drop_nil, List.append_nil, h, Bool.and_true]

/-- A partition on its way out, whose grids have ended; a flush; and a shootdown that waits for nothing. -/
def leaving : State :=
  { managed (pack grp) with
    grids := [], teams := [], groups := [], parts := [(0, { domains := 1, destroying := some req0 })], flushes := [(req0, 0, 0)]
    shoots := [(4, ⟨req0, 0, none, [9]⟩)] }
theorem witness_PartitionsAndRegions :
    (∃ r : MReq, r = { id := 1, part := 1 } ∧ Handled (managed (pack grp)) r ∧ (managed (pack grp)).part 1 = none ∧
      (∀ e ∈ (managed (pack grp)).parts, e.2.domains &&& 2#16 = 0) ∧ ((managed (pack grp)).part 0).isSome = true) ∧
    HandledFor (managed (pack grp)) req0 { domains := 1, frame := 8192 } ∧ ({ domains := 1, frame := 8192 } : Part).destroying = none ∧
    ((leaving.part 0).bind Part.destroying = some req0 ∧ leaving.grids = [] ∧ leaving.pend = [] ∧ leaving.regionsOf 0 = []) ∧
    ((leaving.flushes.find? fun f => f.2.1 == 0 && f.2.2 == 0) = some (req0, 0, 0) ∧ leaving.regionHeld 0 0 = false) ∧
    (leaving.shoots.find 4 = some ⟨req0, 0, none, [9]⟩ ∧ leaving.reqs.find 9 = none) ∧
    (mcRefused 0xDFF 0x80000000000000000000000000000000#128 = false ∧ mcRefused 0xE00 0x80000000000000000000000000000000#128 = true) ∧
    ((managed (pack grp)).gridSeq 0 1).map Prod.fst = some 1 := by
  refine ⟨⟨_, rfl, ⟨rfl, rfl, rfl, by decide, .inl (by decide)⟩, ?_, ?_, ?_⟩, ⟨handled0, rfl, by decide⟩, rfl, ?_, ?_, ?_, ⟨?_, ?_⟩, ?_⟩ <;>
    decide +kernel

/-- Key 1 is being destroyed while an access under it is in flight; and a package without a free queue pair. -/
def changing : State :=
  { managed (withReq { acc (.load 4 false) with key := 1 }) with keys := [(0, 0), (1, 5)], mgmtCur := some (req0, 1, none) }
def allPairs : State := { managed (pack grp) with qps := (List.range 4097).map fun n => (n, { part := 0, service := 9 }) }
theorem find_tabulate {α : Type} (f : Nat → α) (m : Nat) (l : List Nat) (h : m ∈ l) :
    (Tab.find (l.map fun n => (n, f n)) m).isSome = true := by
  induction l with
  | nil => simp at h
  | cons a l ih =>
    simp only [List.map_cons, Tab.find]
    split
    · rfl
    · exact ih ((List.mem_cons.mp h).resolve_left fun e => by simp_all)
theorem allPairs_full (m : Nat) (_ : 2 < m) (h : m ≤ 4096) : (allPairs.qps.find m).isSome = true := by
  have e : allPairs.qps = (List.range 4097).map fun n => (n, ({ part := 0, service := 9 } : Qp)) := by
    generalize hl : List.range 4097 = l
    simp only [allPairs, hl]
  rw [e]
  exact find_tabulate _ m _ (List.mem_range.mpr (by omega))
theorem witness_ManagementSettings :
    Handled (managed (pack grp)) req0 ∧ HandledFor (managed (pack grp)) req0 { domains := 1, frame := 8192 } ∧
    ((0x201#128 : BitVec 128).extractLsb' 7 5).toNat = 4 ∧
    ((managed (pack grp)).qps.find 3 = none ∧ (paired .ready).qps.find 3 = some { part := 0, service := 9, st := .ready }) ∧
    ((∀ i, (managed (pack grp)).keyInUse i = false) ∧ (managed (pack grp)).keys.find 1 = none ∧
      (∃ s : State, s = { managed (pack grp) with keys := [(0, 0), (1, 5)] } ∧ (s.keys.find 1).isSome = true ∧ Handled s req0) ∧
      keyBody (List.replicate 97 0) (List.replicate 72 0) = true ∧ newPair 0 (List.replicate 97 0) (List.replicate 72 0) = none ∧
      ∀ point wrapped pair, unwrapPair 1 point wrapped = some pair → newPair 1 point wrapped = some pair) ∧
    (∃ s : State, s = changing ∧ Handled { s with mgmtCur := none } req0 ∧ s.keyInUse 1 = true ∧ (s.keys.find 1).isSome = true ∧
      s.mgmtCur = some (req0, 1, none) ∧ ({ s with reqs := [] } : State).keyInUse 1 = false) ∧
    ((∃ m, 2 < m ∧ m ≤ 4096 ∧ (managed (pack grp)).qps.find m = none) ∧
      ∀ m, 2 < m → m ≤ 4096 → (allPairs.qps.find m).isSome = true) ∧
    (PowerSetting.ok (.poolSize 1024) = true ∧ PowerSetting.ok (.poolSize 1025) = false) := by
  refine ⟨handled0, ⟨handled0, rfl, by decide⟩, by decide +kernel, by decide +kernel, ⟨fun i => ?_, by decide +kernel,
    ⟨_, rfl, by decide +kernel, rfl, rfl, rfl, by decide, .inl (by decide)⟩, by decide +kernel, rfl, fun _ _ _ h => by simpa [newPair] using h⟩,
    ⟨_, rfl, ⟨rfl, rfl, rfl, by decide, .inl (by decide)⟩, by decide +kernel, by decide +kernel, rfl, by decide +kernel⟩,
    ⟨⟨3, by decide, by decide, rfl⟩, allPairs_full⟩, by decide⟩
  · simp [State.keyInUse, managed, pack, State.reset]

/-! The whole machine. -/

theorem witness_DecodeEncode : (Instr.fma ⟨true, true, .bf16x2, 96, 124, 123⟩).wellFormed = true ∧
    (Instr.fma ⟨true, true, .bf16x2, 96, 124, 123⟩).hasWord = true ∧ decode 0x00404181#32 = .ok (.add ⟨false, false, 3, 1, 2⟩) := by
  refine ⟨?_, ?_, ?_⟩ <;> decide +kernel

/-- The group fetches a `NOP`, or an illegal word; an event and a turn stand on the agenda. -/
def runner (w : Word) (a : List Move) : State :=
  { packCore grp { ilines := [(ilineKey 0 0, ⟨List.replicate 32 w⟩)] } with agenda := a }
theorem witness_StepRunsDecoded :
    ((runner 0x0C18304C#32 []).phase ≠ .tripped ∧ (runner 0x0C18304C#32 []).issue = some (iss grp) ∧
      (runner 0x0C18304C#32 []).fetchWord (iss grp) = some 0x0C18304C#32 ∧ decode 0x0C18304C#32 = .ok .nop) ∧
    ((runner 0#32 []).fetchWord (iss grp) = some 0#32 ∧ (∃ e, decode 0#32 = .error e)) ∧
    ((pack grp).issue = some (iss grp) ∧ (pack grp).fetchWord (iss grp) = none) ∧
    ((runner 0x0C18304C#32 [.event .memoryScrubComplete]).agenda = [.event .memoryScrubComplete] ∧
      Instr.spontaneous .memoryScrubComplete = true ∧ Instr.spontaneous .nop = false) ∧
    (∃ s : State, s = { runner 0x0C18304C#32 [.turn 0] with agenda := [], turn := 0 } ∧ s.issue = some (iss grp) ∧
      s.fetchWord (iss grp) = some 0x0C18304C#32) := by
  refine ⟨?_, ⟨?_, ⟨_, rfl⟩⟩, ?_, ?_, _, rfl, ?_⟩ <;> decide +kernel

theorem witness_AlwaysAnswers :
    step { State.reset with phase := .tripped } = .next { State.reset with phase := .tripped } ∧
    ({ State.reset with phase := .tripped, agenda := [.event .resetPin] } : State).agenda = [.event .resetPin] ∧
    ({ State.reset with phase := .tripped, agenda := [.turn 0] } : State).agenda ≠ [.event .resetPin] := by
  refine ⟨rfl, rfl, nofun⟩

theorem witness_DecodeTraps : (pack grp).issue = some (iss grp) ∧ (∃ e, decode 0#32 = .error e) ∧ grp.priv = false ∧
    (writableIn 0x021 false = false) ∧ ((ctrl ctrlGrp).issue = some (ctrlIss ctrlGrp) ∧ ctrlGrp.priv = true) := by
  refine ⟨issue_pack, ⟨_, rfl⟩, rfl, ?_, issue_ctrl, rfl⟩
  decide +kernel

/-- Lane 0 reads a poisoned or an uncorrectable word in v0. -/
def sick (c : RCell) : Group := { team := 1, lanes := Vector.ofFn fun l => if l.val = 0 then { stack := [(0, c)] } else {} }
theorem witness_OperandTraps :
    (∀ c : RCell, c = { pois := true } ∨ c = { unc := true } → ∃ r, valueRule (.mov ⟨false, false, 1, 0⟩) = some r ∧
      (pack (sick c)).issue = some (iss (sick c)) ∧ (sick c).pin = none ∧
      (sick c).pending 128 0xFFFFFFFF#32 (r.srcs ++ [r.dst]) = false ∧
      (readsPoison (iss (sick c)) 128 r.srcs 0 = c.pois ∧ readsUnc (iss (sick c)) 128 r.srcs 0 = c.unc)) := by
  rintro c (rfl | rfl) <;> exact ⟨_, rfl, by decide +kernel⟩

theorem witness_AccessTraps :
    ∃ f, loads (.ldw ⟨false, 96, 98, 0⟩) = some f ∧ (Instr.ldw ⟨false, 96, 98, 0⟩).wellFormed = true ∧
      (pack (locGrp 1022#32)).issue = some (one (locGrp 1022#32)) ∧ (one (locGrp 1022#32)).Ready 128 1#32 f.srcs f.srcs ∧
      ∀ l, Mask.has 1#32 l = true → ∃ info addr, Refuses (.ldw ⟨false, 96, 98, 0⟩) f (pack (locGrp 1022#32)) (one (locGrp 1022#32)) false l 3 info addr := by
  refine ⟨_, rfl, by decide, by decide +kernel, ⟨by decide +kernel, by decide +kernel⟩, fun l h => ⟨_, _, .inl ⟨?_, rfl, rfl, rfl⟩⟩⟩
  revert l
  decide +kernel
/-- Lane 0's address is misaligned; lane 1's lies in the scratchpad block. -/
def twoLanes : Group :=
  { team := 1, lanes := Vector.ofFn fun l =>
      if l.val < 2 then { stack := [(0, { val := if l.val = 0 then 1022 else 1020 }), (1, { val := 0xFFFFFFFF })] } else { st := .exited } }
def two : Issue := ⟨0, twoLanes, 3#32, 0#32⟩
theorem witness_AccessTraps_others :
    ∃ f, loads (.ldw ⟨false, 96, 0, 0⟩) = some f ∧ (pack twoLanes).issue = some two ∧ two.act = 3#32 ∧
      two.Ready 128 3#32 f.srcs f.srcs ∧
      (∃ info addr, Refuses (.ldw ⟨false, 96, 0, 0⟩) f (pack twoLanes) two false 0 3 info addr) ∧
      (f.addr two 128 1).toNat % f.size = 0 ∧
      Goes (pack twoLanes) two false needRead f.size 1 (f.addr two 128 1) (.loc 1020) := by
  refine ⟨_, rfl, by decide +kernel, by decide +kernel, ⟨by decide +kernel, by decide +kernel⟩, ⟨_, _, .inl ⟨?_, rfl, rfl, rfl⟩⟩, ?_,
    1020, ?_, ?_, ?_, ?_, nofun⟩ <;> decide +kernel

theorem witness_MemCanonicalKept : MemCanonical State.reset ∧ ∃ t, step State.reset = .next t := by
  refine ⟨?_, _, rfl⟩
  exact (rfl : Memory.wf [] = true)
/-! ### Words that the spec writes out -/

/-- Each word decodes to its instruction, whose word it is. -/
def read (l : List (Word × Instr)) : Bool := l.all fun e => decide (decode e.1 = .ok e.2) && encode e.2 == e.1

/-- 02 R34 and the example of 02; 10, table of words; 08 R167. -/
theorem test_words_integer : read [
    (0x0040_4181#32, .add ⟨false, false, 3, 1, 2⟩), (0x8040_4181#32, .add ⟨true, false, 3, 1, 2⟩), (0x7FE0_C190#32, .addi ⟨false, 3, 3, 0x3FF⟩),
    (0xBFFF_829C#32, .lis ⟨5, 0xFFFE⟩), (0x0040_0214#32, .shli ⟨false, 4, 0, 2⟩), (0x003E_0214#32, .shli ⟨false, 4, 120, 1⟩),
    (0x1C18_0287#32, .mov ⟨false, false, 5, 96⟩), (0x0080_830A#32, .addd ⟨false, false, 6, 2, 4⟩), (0x1040_4382#32, .mulhn ⟨false, false, 7, 1, 2⟩),
    (0x2040_4408#32, .clts ⟨false, false, 8, 1, 2⟩), (0x403E_4388#32, .ceq ⟨false, true, 7, 121, 1⟩),
    (0x3040_430A#32, .mulws ⟨false, false, 6, 1, 2⟩), (0x3C00_7007#32, .gpwr ⟨false, 1⟩), (0x048D_011C#32, .lih ⟨2, 0x1234⟩),
    (0xC000_819C#32, .adpc ⟨3, 2⟩), (0x0039_C091#32, .andi ⟨false, 1, 103, 1⟩), (0x0C1F_3008#32, .ceq ⟨false, false, 96, 124, 96⟩),
    (0x554E_349C#32, .lil ⟨105, 0x5538⟩), (0x2C1F_0406#32, .brev ⟨false, false, 8, 124⟩), (0x101A_0181#32, .sub ⟨false, false, 3, 104, 0⟩),
    (0x0060_0187#32, .sel ⟨false, false, 3, 0, 3⟩), (0x20A0_C001#32, .mullo ⟨false, false, 0, 3, 5⟩), (0x1060_8104#32, .or ⟨false, false, 2, 2, 3⟩),
    (0x101A_3009#32, .clen ⟨false, false, 96, 104, 0⟩), (0x5D00_0001#32, .sub ⟨false, true, 0, 0, 104⟩)] = true := by decide +kernel

/-- 02, the example; 09; 10, tables of words. -/
theorem test_words_float_and_lanes : read [
    (0xEC82_0522#32, .fmul ⟨true, true, .bf16x2, 10, 8, 100⟩), (0x0102_0420#32, .fadd ⟨false, false, .f32, 8, 8, 8⟩),
    (0x0040_41A3#32, .fma ⟨false, false, .f32, 3, 1, 2⟩), (0x2040_41AE#32, .fdot2Bf16x2 ⟨false, false, 3, 1, 2⟩),
    (0x2C00_41A8#32, .fsqrt ⟨false, false, 3, 1⟩), (0x3060_81AC#32, .cvtfhh ⟨false, false, 3, 2, 3⟩), (0x1040_41AB#32, .cvtfn ⟨false, false, 3, 1, 2⟩),
    (0x0042_0A30#32, .pack8 ⟨false, false, 20, 8, 2⟩), (0x1C00_82B2#32, .fmtchk ⟨false, false, 5, 2⟩),
    (0x0201_02BD#32, .shfxi ⟨false, 5, 4, 16⟩), (0x03E1_0339#32, .bcasti ⟨false, 6, 4, 31⟩), (0x2C00_B0BA#32, .vbal ⟨false, false, 97, 2⟩),
    (0x7C00_81BB#32, .fredadd ⟨false, true, 3, 2⟩), (0x5C00_823C#32, .fscanadd ⟨false, true, 4, 2⟩), (0x40C0_82B8#32, .shfx ⟨false, true, 5, 2, 6⟩)]
    = true := by decide +kernel

/-- 08, `WADJ`; 13, R286 to R298 and the listing; 12 R272. -/
theorem test_words_control : read [
    (0xFFFD_0040#32, .jmp 0x3FFF4), (0x000A_0641#32, .call 12 40), (0x0C01_B042#32, .jmpr 6), (0x1C01_8642#32, .callr 12 6), (0x2C18_3042#32, .ret),
    (0x3C18_3042#32, .exit false), (0x7C18_3042#32, .exit true), (0x0040_80C3#32, .beq ⟨1, 2, 2⟩), (0x7FB8_00C4#32, .bne ⟨1, 96, 0x3FD⟩),
    (0x0022_F049#32, .loop 11 1), (0x0081_3049#32, .loop 4 4), (0x0C18_014A#32, .rjen 2), (0x1C18_014A#32, .rjwait 2), (0x2C18_014A#32, .rjdrop 2),
    (0x3C18_014A#32, .rjclr 2), (0x7C18_304B#32, .wadj 0x3E0), (0x0818_304B#32, .wadj 64), (0x0C18_304C#32, .nop), (0x1C18_304C#32, .yield),
    (0x2C18_01CC#32, .bar 3), (0x3C18_01CC#32, .bara 3), (0x0C00_704D#32, .trapc ⟨false, 1⟩), (0x1C18_304D#32, .brk false),
    (0x2C00_704D#32, .sigx ⟨false, 1⟩), (0x0C18_304E#32, .ifence), (0x1C01_B04E#32, .icinv 6)] = true := by decide +kernel

/-- 02, the example; 06, 13, 16, tables of words. -/
theorem test_words_memory : read [
    (0x7FC1_03D0#32, .ldw ⟨false, 7, 4, 0x3FE⟩), (0x0018_8151#32, .ldd ⟨false, 2, 98, 0⟩), (0x0018_B452#32, .ldq ⟨false, 104, 98, 0⟩),
    (0x0061_03D4#32, .ldhs ⟨false, 7, 4, 3⟩), (0x0001_8457#32, .stw ⟨false, 8, 6, 0⟩), (0x0001_8A58#32, .std ⟨false, 20, 6, 0⟩),
    (0x8058_8459#32, .stq ⟨true, 8, 98, 2⟩), (0x00C1_04DC#32, .ldwx ⟨false, false, 9, 4, 6⟩), (0x2F9B_01DC#32, .stwx ⟨false, 3, 108, 124⟩),
    (0x30C1_055C#32, .stdx ⟨false, 10, 4, 6⟩), (0x7FE0_81DD#32, .llw ⟨false, 3, 2, 0x3FF⟩), (0x3060_845F#32, .lsq ⟨false, 8, 2, 3⟩),
    (0x60C1_01E0#32, .aadd ⟨.acq, .device, 3, 4, 6⟩), (0xE0C1_01E9#32, .acas ⟨.ar, .device, 3, 4, 6⟩), (0x7C1A_00EB#32, .ald ⟨true, .system, 1, 104⟩),
    (0x3C18_306D#32, .fence .rlx .system), (0x0C01_306E#32, .cwb ⟨false, 4⟩)] = true := by decide +kernel

/-- 05, 11, 17, tables of words. -/
theorem test_words_engines : read [
    (0x4C02_04F0#32, .cpy ⟨false, true, 9, 8⟩), (0x4162_B072#32, .binit ⟨true, 10, 11⟩), (0x2C02_8672#32, .bwait ⟨false, false, 12, 10⟩),
    (0x0060_B074#32, .mma 2 3), (0x1060_B074#32, .mmas 2 3), (0x2060_B074#32, .mmaz 2 3), (0x0C18_4475#32, .acrd ⟨false, false, 8, 97⟩),
    (0x1C18_4475#32, .acwr ⟨false, 8, 97⟩), (0x20A1_3075#32, .acz ⟨false, 4, 5⟩), (0x3041_0A75#32, .accvt ⟨false, false, 20, 4, 2⟩),
    (0x0100_41F8#32, .spawn ⟨false, false, 3, 1, 8⟩), (0x1C00_7078#32, .sflush ⟨false, 1⟩), (0x2C00_41F8#32, .launch ⟨false, false, 3, 1⟩),
    (0x0C01_07F9#32, .vpub ⟨false, false, 15, 4⟩), (0x1C01_07F9#32, .vfin ⟨false, false, 15, 4⟩), (0x2C00_7079#32, .vstop ⟨false, 1⟩),
    (0x3C18_01F9#32, .vstale ⟨false, false, 3⟩), (0x0C04_8A7A#32, .vrd ⟨false, false, 20, 18⟩), (0x1C18_307A#32, .vslack),
    (0x2C18_087A#32, .vseen ⟨false, false, 16⟩)] = true := by decide +kernel

/-- 08 R180, R181; 09; 19 R366. -/
theorem test_words_system : read [
    (0x0A38_017C#32, .gets 2 0x051), (0x1238_017C#32, .gets 2 0x091), (0x0801_707D#32, .puts 0x040 5), (0x0400_707D#32, .puts 0x020 1),
    (0x20C0_B07D#32, .puts 0x106 2), (0x0C01_057E#32, .dwrd 10 4), (0x1141_05FE#32, .dwwr 11 4 10), (0x2C18_307E#32, .tret 96),
    (0x2C00_707E#32, .tret 1), (0x3C18_00FE#32, .halt 1)] = true := by decide +kernel

/-- 02 R32, R34: reserved bits, reserved fields, unassigned opcodes and functions. -/
theorem test_words_illegal : ([0x0000_0000#32, 0xFFFF_FFFF#32, 0x0040_4186#32, 0x0040_7C01#32, 0x2040_4103#32].all fun w =>
    match decode w with
    | .ok _ => false
    | .error _ => true) = true := by decide +kernel

/-! ### Ill-formed terms -/

/-- One term against each check: a latch as a destination, field values 125 and 127 as sources, the odd register of a pair in each
position, an unaligned quad as destination, source and data, numbers out of range, unassigned selectors (02 R22 to R24; 08 R176). -/
theorem test_illformed : ([.add ⟨false, false, 120, 1, 2⟩, .add ⟨false, false, 1, 125, 2⟩, .add ⟨false, false, 1, 2, 127⟩,
    .addd ⟨false, false, 3, 2, 4⟩, .addd ⟨false, false, 2, 5, 4⟩, .ldd ⟨false, 7, 4, 0⟩, .ldq ⟨false, 2, 4, 0⟩, .stq ⟨false, 6, 4, 0⟩,
    .pack8 ⟨false, false, 0, 94, 1⟩, .spawn ⟨false, false, 0, 1, 89⟩, .call 0 0, .callr 89 1, .loop 125 0, .ldw ⟨false, 1, 3, 0⟩,
    .gets 1 0x002, .gets 120 0x051, .puts 0x3FF 1, .halt 121] : List Instr).all (fun i => !i.wellFormed) = true := by decide +kernel
/-! ### Single steps, with results that the spec works out -/

/-- A group of 32 lanes whose windows hold given words by register number. -/
def regs (v : LaneIx → List (Nat × Word)) (gp : Word := 0) : Group :=
  { team := 1, gp, lanes := Vector.ofFn fun l => { stack := (v l).map fun e => (e.1, { val := e.2 }) } }
/-- A group of one lane whose window holds given words. -/
def regs1 (v : List (Nat × Word)) : Group :=
  { team := 1, lanes := Vector.ofFn fun l =>
      if l.val = 0 then { stack := v.map fun e => (e.1, { val := e.2 }) } else { st := .exited } }
/-- A register of a lane of the group after an instruction. -/
def after (i : Instr) (g : Group) (l : LaneIx) (r : Nat) : Option Word :=
  match exec i (pack g) with
  | .next t => (t.grp 0).map fun g' => (g'.cell 128 l r).val
  | _ => none
/-- An FP event counter of the grid after it. -/
def eventsAfter (i : Instr) (g : Group) (n : Nat) : Option Nat :=
  match exec i (pack g) with
  | .next t => (t.grid 1).map fun gr => gr.fp.getD 0 n
  | _ => none
/-- The PC of a lane after it. -/
def pcAfter (i : Instr) (g : Group) (l : LaneIx) : Option Word :=
  match exec i (pack g) with
  | .next t => (t.grp 0).map fun g' => (g'.lane l).pc
  | _ => none

/-- 09, "Four values, packed and back". -/
def four (w : Word) : Group := regs1
  [(2, w), (8, 0x3E99_999A), (9, 0x4150_0000), (10, 0xBA83_126F), (11, 0x4396_0000), (20, 0x7F81_5D32)]
theorem test_pack8 : after (.pack8 ⟨false, false, 20, 8, 2⟩) (four 0x0008_0004) 0 20 = some 0x7F81_5D32#32 ∧
    after (.pack8 ⟨false, false, 20, 8, 2⟩) (four 0x0000_0004) 0 20 = some 0x8081_5D32#32 := by decide +kernel
theorem test_unpk8 : (List.range 4).map (fun k => after (.unpk8 ⟨false, false, 12, 20, 2⟩) (four 0x0008_0004) 0 (12 + k)) =
    [some 0x3EA0_0000#32, some 0x4150_0000#32, some 0xBA80_0000#32, some 0x4370_0000#32] ∧
    after (.unpk8 ⟨false, false, 12, 20, 2⟩) (four 0x0008_0004) 0 120 = some 0x4370_0000#32 ∧
    after (.unpk8 ⟨false, false, 12, 20, 2⟩) (four 0x0008_0004) 0 123 = some 0x3EA0_0000#32 := by decide +kernel

/-- 09, R187's example: 1 + 1.5 × 2^−23 under RNE and under RTZ. -/
def small (m : Word) : Group := { regs1 [(1, 0x3F80_0000), (2, 0x3440_0000)] with fmode := m }
theorem test_fadd : after (.fadd ⟨false, false, .f32, 3, 1, 2⟩) (small 0) 0 3 = some 0x3F80_0002#32 ∧
    after (.fadd ⟨false, false, .f32, 4, 1, 2⟩) (small 1) 0 4 = some 0x3F80_0001#32 := by decide +kernel

/-- 10, "A guarded sum, traced". -/
def sums : Group := regs (gp := 0x37) fun l =>
  [(2, [0x4B80_0000, 0x3F80_0000, 0x3F80_0000, 0x40A0_0000, 0x3F80_0000, 0x3F80_0000].getD l.val 0), (6, 1)]
theorem test_fredadd : [0, 1, 2, 3, 4, 5, 6].map (fun l => after (.fredadd ⟨false, true, 3, 2⟩) sums l 3) =
    [some 0x4B80_0001#32, some 0x4B80_0001#32, some 0x4B80_0001#32, some 0#32, some 0x4B80_0001#32, some 0x4B80_0001#32, some 0#32] := by
  decide +kernel
theorem test_fscanadd : [0, 1, 2, 3, 4, 5].map (fun l => after (.fscanadd ⟨false, true, 4, 2⟩) sums l 4) =
    [some 0x4B80_0000#32, some 0x4B80_0000#32, some 0x4B80_0000#32, some 0#32, some 0x4B80_0000#32, some 0x4B80_0001#32] := by
  decide +kernel
theorem test_shfx : [0, 1, 2, 3, 4, 5].map (fun l => after (.shfx ⟨false, true, 5, 2, 6⟩) sums l 5) =
    [some 0x3F80_0000#32, some 0x4B80_0000#32, some 0x40A0_0000#32, some 0#32, some 0x3F80_0000#32, some 0x3F80_0000#32] := by
  decide +kernel

/-- 11, "One accumulator, worked": the sum of the two chunks, plain, with A nonzero at k = 1, and from +0. -/
def chunk0 (a1 b1 : Nat) : List (Fp × Fp) :=
  (edDecode 0x0004 0x48, edDecode 0x0053 0x1C) :: (edDecode 0x0004 a1, edDecode 0x0053 b1) ::
    List.replicate 30 (edDecode 0x0004 0x38, edDecode 0x0053 0x01)
def chunk1 : List (Fp × Fp) := List.replicate 32 (edDecode 0x0004 0x38, edDecode 0x0053 0x04)
theorem test_chunks : accStep 0x4B80_0000 (chunkSum (chunk0 0x00 0x1F)) = 0x4B80_0008#32 ∧
    accStep 0x4B80_0008 (chunkSum chunk1) = 0x4B80_0009#32 ∧ accStep 0x4B80_0000 (chunkSum (chunk0 0x48 0x1F)) = 0x7F80_0000#32 ∧
    accStep 0x4B80_0000 (chunkSum (chunk0 0x00 0x20)) = 0x4B80_0008#32 ∧
    accStep (accStep 0 (chunkSum (chunk0 0x00 0x1F))) (chunkSum chunk1) = 0x4193_C000#32 := by decide +kernel

/-- 03 R50's example: the home of address 0x00_4000_0100, die-wide (valid, PART 31) and in a partition of domain 0. -/
theorem test_home : ({ pack grp with dies := [(0, { region := [(1, 0x3F#64)] })] } : State).home 0x4000_0100 = 30 ∧
    ({ pack grp with dies := [(0, { region := [(1, 1#64)], sets := [(1, 1#4)] })] } : State).home 0x4000_0100 = 11 := by decide +kernel

/-- 20 R411: the partition of domains 0 and 1 with the grid's eight teams on cores 0 to 7, or none; and one interval of both domains,
with the permits and states after it. -/
def burst (permits st : Nat) (here : Bool) (idle allowed : Nat) : State :=
  { pack grp with
    parts := [(0, { domains := 3 })]
    groups := if here then (List.range 8).map fun k => (32 * k, { grp with pclass := 6 }) else []
    domains := [0, 1].map fun d => (d, { st, idleCount := idle, idleSoFar := !here, allowed })
    power := { permits, boostClass := 4, poolSize := 64 } }
def afterOne (s : State) : Option (Nat × Nat × Nat) :=
  ([execBoostClaim 0, execBoostClaim 1, execPermitArbitration 3, execDomainIntervalBoundary 0, execDomainIntervalBoundary 1].foldl
    (fun (o : Option State) f => o.bind fun s => match f s with
      | .next t => some t
      | _ => none) (some s)).map fun t => (t.power.permits, (t.domain 0).st, (t.domain 1).st)
/-- 20 R411, its table, and the outcomes for 63 permits and for a rise to class 7. -/
theorem test_burst : afterOne (burst 64 0 true 0 0) = some (62, 2, 2) ∧ afterOne (burst 2 2 true 0 0) = some (0, 2, 2) ∧
    afterOne (burst 0 2 true 0 0) = some (0, 1, 1) ∧ afterOne (burst 0 1 true 0 0) = some (0, 0, 0) ∧
    afterOne (burst 0 0 false 15 0) = some (2, 0, 0) ∧ afterOne (burst 1 2 true 0 0) = some (0, 2, 1) ∧
    afterOne (burst 64 2 true 0 7) = some (64, 0, 0) := by decide +kernel
/-- 20 R411: R352 puts ranks 0 to 7 of the 8 × 1 cluster on cores 0 to 7. -/
theorem test_burst_placement :
    (({ burst 64 0 false 0 0 with
        teams := [], grids := [(1, { part := 0, queue := 0, evQueue := 0, seq := 0, recd := { flags := 0x60, x := 8, w := 8 } })] } :
      State).placeFirst 1 (({ x := 8, w := 8 } : LaunchRec).need 1) 8 1).map (fun ps => ps.map Prod.fst) = some [0, 1, 2, 3, 4, 5, 6, 7] := by
  decide +kernel
/-- 04 R71: the part's loops meet what the rule says of them, and every pair of stations shares one. -/
theorem test_loops : Config.loopsOk Config.loopStations = true ∧ ∀ a b, a < 72 → b < 72 → (loopFor a b).isSome = true :=
  ⟨loopsOk_loopStations loopsOk_example, loopFor_isSome⟩

/-- 12 R258's examples. -/
theorem test_selected : mix32 0 = 0#32 ∧ mix32 1 = 0x6889_90C0#32 ∧ selected 1 0 0 = true ∧
    (List.range 8).map (fun k => selected k 0 1) = [false, false, false, false, false, false, true, true] := by decide +kernel

/-- 16 R319: the store signature of the 32 words, and lane 0's register signature. -/
theorem test_store_signature :
    let t := (List.range 32).foldl (fun (t : Team) l =>
      t.foldStore (BitVec.ofNat 64 (0x6000000100 + 4 * l)) (bytesOf (if l = 7 then 0x3F00_0000#32 else 0x4040_0000#32))) tm1
    t.sh = 0x4D40_0000#32 ∧ t.sl = 0x26C0_27C0#32 := by decide +kernel
theorem test_register_signature :
    (([0, 0x60, 0x80, 0x60, 0x100, 0x60, 0x3F80_0000, 0x4000_0000, 0x4040_0000] : List Word).foldl Lane.fold {}).rsig = 0x4C82_0CD0#32 := by
  decide +kernel

/-- 05, the worked copy: three packed bytes become four (R95); the word at offset 0x400 is 0x0302_0101. -/
theorem test_expand : expand6 0x0C2041 = [0x01, 0x01, 0x02, 0x03] ∧ compact6 [0x01, 0x01, 0x02, 0x03] = [0x41, 0x20, 0x0C] := by
  decide +kernel

/-- 10 R212, R213, R215, R216, by hand. -/
def ints : Group := regs1 [(0, 0x1234_5678), (1, 0xFFFF_FFFF), (2, 1), (3, 0x0000_0804), (4, 0xFFFF_FFFF), (5, 0), (6, 32), (7, 0x8000_0000)]
theorem test_integers :
    after (.add ⟨false, false, 10, 1, 2⟩) ints 0 10 = some 0#32 ∧ after (.mulhs ⟨false, false, 10, 1, 2⟩) ints 0 10 = some 0xFFFF_FFFF#32 ∧
    after (.mulhn ⟨false, false, 10, 1, 1⟩) ints 0 10 = some 0xFFFF_FFFE#32 ∧ after (.sra ⟨false, false, 10, 7, 6⟩) ints 0 10 = some 0xFFFF_FFFF#32 ∧
    after (.shl ⟨false, false, 10, 1, 6⟩) ints 0 10 = some 0#32 ∧ after (.bfx ⟨false, false, 10, 0, 3⟩) ints 0 10 = some 0x67#32 ∧
    after (.clz ⟨false, false, 10, 2⟩) ints 0 10 = some 31#32 ∧ after (.addd ⟨false, false, 10, 4, 2⟩) ints 0 11 = some 0x0000_0805#32 ∧
    after (.lih ⟨0, 0xABCD⟩) ints 0 0 = some 0xABCD_5678#32 := by decide +kernel

/-- 13 R286 to R288: a taken branch, and a call: the return address and the window's move are in the new window. -/
theorem test_control : pcAfter (.bne ⟨1, 96, 0x3FD⟩) ints 0 = some 0xFFFF_FFF4#32 ∧ pcAfter (.call 12 40) ints 0 = some 160#32 ∧
    after (.call 12 40) ints 0 94 = some 12#32 ∧ after (.call 12 40) ints 0 95 = some 4#32 := by decide +kernel

/-- A step runs the word at PC 0, `ADD v3, v1, v2` (02, the example), and the turn moves on. -/
theorem test_step :
    (match step { runner 0x0040_4181 [] with groups := [(0, ints)] } with
     | .next t => (((t.grp 0).map fun g => ((g.cell 128 0 3).val, (g.lane 0).pc)), t.turn)
     | _ => (none, 0)) = (some (0#32, 4#32), 1) := by decide +kernel
/-! ### skovas: statements and the kernel of 02's worked example -/

/-- The word of a statement that stands at location 0 and names no symbol. -/
def sk (name ops : String) : Option Word :=
  (Skovas.lexLine ops.toList).bind (Skovas.statement ⟨fun _ => none, fun _ => false, 0⟩ false name)
/-- 02, "A few more encodings"; a misaligned offset, a suffix out of order and a pair as one register are errors (R38 to R40). -/
theorem test_skovas_statements : sk "FMUL.bf16x2.g.nw" "v10, v8, s4" = some 0xEC820522#32 ∧ sk "LDW" "v7, v4:5, -8" = some 0x7FC103D0#32 ∧
    sk "LDW" "v7, v4:5, 2" = none ∧ sk "ADD.nw.g" "v1, v2, v3" = none ∧ sk "LDW" "v7, v4" = none ∧ sk "PUTS" "DROPCNT, v1" = none := by
  decide +kernel
/-- 02, "A kernel, assembled": two of its lines, and its attribute record. -/
theorem test_skovas_kernel :
    ((Skovas.assemble (".kernel twice64\n.groups 2\n.stack 256\n.class 5\nLDD v2:3, s2:3 // data\nEXIT\n.end").toList).map fun i =>
      (i.bytes, i.kernels.map fun k => (k.flags, [k.entry, k.groups, k.w, k.h, k.stack, k.locBytes, k.accBytes]))) =
    some ([0x51, 0x81, 0x18, 0x00, 0x42, 0x30, 0x18, 0x3C], [(0x50#32, [0, 2, 1, 1, 1, 0, 0])]) := by decide +kernel

end Sys2Proof.Tests
end

section
/-! SUPPORT. What one step does, once for each form of move (01 R13; log 1), and the statement that a step runs the instruction of
the word it fetches. -/

namespace Sys2Proof.Machine

@[simp] theorem thenDo_next (s : State) (f : State → State) : thenDo (.next s) f = .next (f s) := rfl

@[simp] theorem afterMove_next (s : State) (f : State → State) : afterMove (.next s) f = .next (f s.quiesce) := rfl

theorem instrOf_of_ok {w : Word} {i : Instr} (h : decode w = .ok i) : instrOf w = i := by
  simp only [instrOf, h]

/-- An illegal word runs as ILLEGAL_WORD_ISSUE (02 R32). -/
theorem instrOf_of_error {w : Word} {e} (h : decode w = .error e) : instrOf w = .illegalWordIssue w := by
  simp only [instrOf, h]

/-! ### A unit's turn -/

/-- With no issue, or on a miss, a turn changes nothing (13 R298). -/
theorem State.runTurn_of_no_word {s : State} (h : ∀ x, s.issue = some x → s.fetchWord x = none) : s.runTurn = .next s := by
  unfold State.runTurn
  split
  case h_1 => rfl
  case h_2 x hx => rw [h x hx]

/-- A turn that fetches a word runs its instruction, and then what follows an issue. -/
theorem State.runTurn_of_word {s t : State} {x : Issue} {w : Word} {i : Instr} (hx : s.issue = some x)
    (hw : s.fetchWord x = some w) (hi : instrOf w = i) (ht : exec i s = .next t) : s.runTurn = .next (t.afterIssue i w x) := by
  simp only [State.runTurn, hx, hw, hi, ht, thenDo_next]

/-! ### A step of a package that no thermal trip holds -/

/-- With nothing on the agenda the next unit has its turn. -/
theorem step_of_no_move {s : State} (hp : s.phase ≠ .tripped) (ha : s.agenda = []) :
    step s = afterMove s.runTurn fun t => { t.rotate with turn := (s.turn + 1) % 1028 } := by
  unfold step
  rw [ha]
  cases h : s.phase with
  | tripped => exact absurd h hp
  | _ => rfl

/-- The first move of the agenda is the one that the step makes. -/
theorem step_of_move {s : State} {m : Move} {rest : List Move} (hp : s.phase ≠ .tripped) (ha : s.agenda = m :: rest) :
    step s = runMove m { s with agenda := rest } := by
  unfold step
  rw [ha]
  cases h : s.phase with
  | tripped => exact absurd h hp
  | _ => rfl

/-- A turn that ends in `t` makes a step with nothing on the agenda end in `turned s t`. -/
theorem step_of_runTurn {s t : State} (hp : s.phase ≠ .tripped) (ha : s.agenda = []) (h : s.runTurn = .next t) :
    step s = .next (Rules.turned s t) := by
  rw [step_of_no_move hp ha, h, afterMove_next]
  rfl

theorem runMove_event_of_spontaneous {e : Instr} {s t : State} (he : Instr.spontaneous e = true) (ht : exec e s = .next t) :
    runMove (.event e) s = .next (t.quiesce.deferred (.event e)) := by
  simp only [runMove, he, if_true, ht, afterMove_next]

theorem runMove_event_of_not_spontaneous {e : Instr} {s : State} (he : Instr.spontaneous e = false) :
    runMove (.event e) s = .next s := by
  simp [runMove, he]

theorem runMove_turn {u : Nat} {s t : State} (h : ({ s with turn := u } : State).runTurn = .next t) :
    runMove (.turn u) s = .next t.quiesce.rotate := by
  simp only [runMove, h, afterMove_next]

/-! ### The fetch -/

/-- Outside any loop body no loop buffer gives the word (13 R295). -/
theorem State.loopWord_of_no_levels {g : Group} (s : State) (gid wb : Nat) (pc : Word) (h : g.levels = []) :
    s.loopWord gid g wb pc = none := by
  simp [State.loopWord, h]

/-- Outside any loop body and any instruction the word is the instruction cache's (13 R298). -/
theorem State.fetchWord_eq_ilineWord {x : Issue} (s : State) (hpin : x.g.pin = none) (hl : x.g.levels = []) :
    s.fetchWord x = s.ilineWord (coreOf x.gid) (s.fetchPart x.g) (s.fetchVa x.g x.pc) := by
  simp only [State.fetchWord, hpin, State.fetchAt, s.loopWord_of_no_levels _ _ _ hl, Option.none_or]

/-- Settles O53: by the form of the move that the step makes, a turn of the next unit, an event or a turn of the agenda. -/
theorem stepRunsDecoded : Obligations.StepRunsDecoded := by
  unfold Obligations.StepRunsDecoded
  refine ⟨fun s hp ha => ⟨?_, ?_, ?_⟩, fun s rest hp => ⟨?_, ?_, ?_⟩, ?_⟩
  · intro x w i t hx hw hd ht
    exact step_of_runTurn hp ha (State.runTurn_of_word hx hw (instrOf_of_ok hd) ht)
  · intro x w e t hx hw hd ht
    exact step_of_runTurn hp ha (State.runTurn_of_word hx hw (instrOf_of_error hd) ht)
  · intro h
    exact step_of_runTurn hp ha (State.runTurn_of_no_word h)
  · intro e t ha he ht
    rw [step_of_move hp ha, runMove_event_of_spontaneous he ht]
  · intro e ha he
    rw [step_of_move hp ha, runMove_event_of_not_spontaneous he]
  · intro u x w i t ha hx hw hd ht
    rw [step_of_move hp ha]
    exact runMove_turn (State.runTurn_of_word hx hw (instrOf_of_ok hd) ht)
  · intro s x hpin hl
    exact s.fetchWord_eq_ilineWord hpin hl

end Sys2Proof.Machine
end

section
/-! SUPPORT. The fields of an encoded word, format by format (02 R20): each field reads back, and a word is made of its fields. -/

namespace Sys2Proof

/-! ### Formats A and X -/

theorem getLsbD_eX (order scope : BitVec 2) (b a d op : BitVec 7) (i : Nat) :
    (eX order scope b a d op).getLsbD i =
      if i < 7 then op.getLsbD i else if i < 14 then d.getLsbD (i - 7) else if i < 21 then a.getLsbD (i - 14)
      else if i < 28 then b.getLsbD (i - 21) else if i < 30 then scope.getLsbD (i - 28) else order.getLsbD (i - 30) := by
  change BitVec.getLsbD (w := 2 + 2 + 7 + 7 + 7 + 7) (order ++ scope ++ b ++ a ++ d ++ op) i = _
  simp only [BitVec.getLsbD_append]
  split_ifs <;> grind

section
variable (order scope : BitVec 2) (b a d op : BitVec 7)

@[simp] theorem opF_eX : opF (eX order scope b a d op) = op := by
  ext i hi; simp [opF, getLsbD_eX, hi]
@[simp] theorem dF_eX : dF (eX order scope b a d op) = d := by
  ext i hi; simp [dF, getLsbD_eX]; grind
@[simp] theorem aF_eX : aF (eX order scope b a d op) = a := by
  ext i hi; simp [aF, getLsbD_eX]; grind
@[simp] theorem bF_eX : bF (eX order scope b a d op) = b := by
  ext i hi; simp [bF, getLsbD_eX]; grind
@[simp] theorem fnF_eX : fnF (eX order scope b a d op) = scope := by
  ext i hi; simp [fnF, getLsbD_eX]; grind
@[simp] theorem topPair_eX : (eX order scope b a d op).extractLsb' 30 2 = order := by
  ext i hi; simp [getLsbD_eX]; grind
@[simp] theorem gF_eX : gF (eX order scope b a d op) = order.getLsbD 0 := by
  rw [gF, getLsbD_eX]; simp
@[simp] theorem topF_eX : topF (eX order scope b a d op) = order.getLsbD 1 := by
  rw [topF, getLsbD_eX]; simp

end

theorem eX_fields (w : Word) : eX (w.extractLsb' 30 2) (fnF w) (bF w) (aF w) (dF w) (opF w) = w := by
  apply BitVec.eq_of_getLsbD_eq
  intro i hi
  simp [getLsbD_eX, fnF, bF, aF, dF, opF]
  grind

/-- Format A is format X with nw and g where X has its order. -/
theorem eA_eq_eX (nw g : Bool) (fn : BitVec 2) (b a d op : BitVec 7) :
    eA nw g fn b a d op = eX (BitVec.ofBool nw ++ BitVec.ofBool g) fn b a d op := rfl

section
variable (nw g : Bool) (fn : BitVec 2) (b a d op : BitVec 7)

@[simp] theorem opF_eA : opF (eA nw g fn b a d op) = op := opF_eX ..
@[simp] theorem dF_eA : dF (eA nw g fn b a d op) = d := dF_eX ..
@[simp] theorem aF_eA : aF (eA nw g fn b a d op) = a := aF_eX ..
@[simp] theorem bF_eA : bF (eA nw g fn b a d op) = b := bF_eX ..
@[simp] theorem fnF_eA : fnF (eA nw g fn b a d op) = fn := fnF_eX ..
@[simp] theorem gF_eA : gF (eA nw g fn b a d op) = g := by cases nw <;> cases g <;> simp [eA_eq_eX]
@[simp] theorem topF_eA : topF (eA nw g fn b a d op) = nw := by cases nw <;> cases g <;> simp [eA_eq_eX]

end

theorem ofBool_topF_gF (w : Word) : BitVec.ofBool (topF w) ++ BitVec.ofBool (gF w) = w.extractLsb' 30 2 := by
  ext i hi
  simp [topF, gF]
  grind

theorem eA_fields (w : Word) : eA (topF w) (gF w) (fnF w) (bF w) (aF w) (dF w) (opF w) = w := by
  rw [eA_eq_eX, ofBool_topF_gF, eX_fields]

/-! ### Formats I, M, B and S -/

theorem getLsbD_eI (top : Bool) (imm : BitVec 10) (a d op : BitVec 7) (i : Nat) :
    (eI top imm a d op).getLsbD i =
      if i < 7 then op.getLsbD i else if i < 14 then d.getLsbD (i - 7) else if i < 21 then a.getLsbD (i - 14)
      else if i < 31 then imm.getLsbD (i - 21) else i = 31 && top := by
  change BitVec.getLsbD (w := 1 + 10 + 7 + 7 + 7) (BitVec.ofBool top ++ imm ++ a ++ d ++ op) i = _
  simp only [BitVec.getLsbD_append, BitVec.getLsbD_ofBool]
  split_ifs <;> grind

section
variable (top : Bool) (imm : BitVec 10) (a d op : BitVec 7)

@[simp] theorem opF_eI : opF (eI top imm a d op) = op := by
  ext i hi; simp [opF, getLsbD_eI, hi]
@[simp] theorem dF_eI : dF (eI top imm a d op) = d := by
  ext i hi; simp [dF, getLsbD_eI]; grind
@[simp] theorem aF_eI : aF (eI top imm a d op) = a := by
  ext i hi; simp [aF, getLsbD_eI]; grind
@[simp] theorem immF_eI : immF (eI top imm a d op) = imm := by
  ext i hi; simp [immF, getLsbD_eI]; grind
@[simp] theorem topF_eI : topF (eI top imm a d op) = top := by
  rw [topF, getLsbD_eI]; simp

end

theorem eI_fields (w : Word) : eI (topF w) (immF w) (aF w) (dF w) (opF w) = w := by
  apply BitVec.eq_of_getLsbD_eq
  intro i hi
  simp [getLsbD_eI, topF, immF, aF, dF, opF]
  grind

/-! ### Format K -/

theorem getLsbD_eK (fn : BitVec 2) (imm : BitVec 16) (d op : BitVec 7) (i : Nat) :
    (eK fn imm d op).getLsbD i =
      if i < 7 then op.getLsbD i else if i < 14 then d.getLsbD (i - 7) else if i < 30 then imm.getLsbD (i - 14)
      else fn.getLsbD (i - 30) := by
  change BitVec.getLsbD (w := 2 + 16 + 7 + 7) (fn ++ imm ++ d ++ op) i = _
  simp only [BitVec.getLsbD_append]
  split_ifs <;> grind

section
variable (fn : BitVec 2) (imm : BitVec 16) (d op : BitVec 7)

@[simp] theorem opF_eK : opF (eK fn imm d op) = op := by
  ext i hi; simp [opF, getLsbD_eK, hi]
@[simp] theorem dF_eK : dF (eK fn imm d op) = d := by
  ext i hi; simp [dF, getLsbD_eK]; grind
@[simp] theorem imm16F_eK : imm16F (eK fn imm d op) = imm := by
  ext i hi; simp [imm16F, getLsbD_eK]; grind
@[simp] theorem topPair_eK : (eK fn imm d op).extractLsb' 30 2 = fn := by
  ext i hi; simp [getLsbD_eK]; grind

end

theorem eK_fields (w : Word) : eK (w.extractLsb' 30 2) (imm16F w) (dF w) (opF w) = w := by
  apply BitVec.eq_of_getLsbD_eq
  intro i hi
  simp [getLsbD_eK, imm16F, dF, opF]
  grind

/-! ### Format J -/

theorem getLsbD_eJ (off : BitVec 18) (k op : BitVec 7) (i : Nat) :
    (eJ off k op).getLsbD i =
      if i < 7 then op.getLsbD i else if i < 14 then k.getLsbD (i - 7) else off.getLsbD (i - 14) := by
  change BitVec.getLsbD (w := 18 + 7 + 7) (off ++ k ++ op) i = _
  simp only [BitVec.getLsbD_append]
  split_ifs <;> grind

section
variable (off : BitVec 18) (k op : BitVec 7)

@[simp] theorem opF_eJ : opF (eJ off k op) = op := by
  ext i hi; simp [opF, getLsbD_eJ, hi]
@[simp] theorem dF_eJ : dF (eJ off k op) = k := by
  ext i hi; simp [dF, getLsbD_eJ]; grind
@[simp] theorem off18F_eJ : off18F (eJ off k op) = off := by
  ext i hi; simp [off18F, getLsbD_eJ]; grind

end

theorem eJ_fields (w : Word) : eJ (off18F w) (dF w) (opF w) = w := by
  apply BitVec.eq_of_getLsbD_eq
  intro i hi
  simp [getLsbD_eJ, off18F, dF, opF]
  grind

end Sys2Proof
end

section
/-! SUPPORT. What each format's decoder makes of an encoded word, and which word it read (02 R20 to R31). -/

namespace Sys2Proof

@[simp] theorem need_eq_ok {c : Bool} {e : Illegal} {k : Decoded} {i : Instr} : need c e k = .ok i ↔ c = true ∧ k = .ok i := by
  cases c <;> simp [need]

@[simp] theorem need_true (e : Illegal) (k : Decoded) : need true e k = k := rfl

@[simp] theorem orderOf_orderBits (o : MOrder) : orderOf (orderBits o) = o := by cases o <;> rfl
@[simp] theorem scopeOf_scopeBits (s : Scope) : scopeOf (scopeBits s) = s := by cases s <;> rfl
@[simp] theorem orderBits_orderOf (b : BitVec 2) : orderBits (orderOf b) = b := by revert b; decide
@[simp] theorem scopeBits_scopeOf (b : BitVec 2) : scopeBits (scopeOf b) = b := by revert b; decide

/-- The five high bits of imm10, which R28 wants zero for an amount, and its five low bits. -/
theorem immF_high (w : Word) : w.extractLsb' 26 5 = (immF w).extractLsb' 5 5 := by
  ext i hi; simp [immF]; grind
theorem immF_low (w : Word) : w.extractLsb' 21 5 = (immF w).extractLsb' 0 5 := by
  ext i hi; simp [immF]; grind
theorem immF_of_high {w : Word} (h : w.extractLsb' 26 5 = 0#5) : 0#5 ++ w.extractLsb' 21 5 = immF w := by
  rw [immF_low, ← h, immF_high]
  exact BitVec.extractLsb'_append_extractLsb' (w := 5) (len := 5)
/-- A number in the d field of the rejoin instructions, and of the barriers (02 R24). -/
theorem dF_high3 (w : Word) : w.extractLsb' 10 4 = (dF w).extractLsb' 3 4 := by
  ext i hi; simp [dF]; grind
theorem dF_low3 (w : Word) : w.extractLsb' 7 3 = (dF w).extractLsb' 0 3 := by
  ext i hi; simp [dF]; grind
theorem dF_of_high3 {w : Word} (h : w.extractLsb' 10 4 = 0#4) : 0#4 ++ w.extractLsb' 7 3 = dF w := by
  rw [dF_low3, ← h, dF_high3]
  exact BitVec.extractLsb'_append_extractLsb' (w := 4) (len := 3)
theorem dF_high4 (w : Word) : w.extractLsb' 11 3 = (dF w).extractLsb' 4 3 := by
  ext i hi; simp [dF]; grind
theorem dF_low4 (w : Word) : w.extractLsb' 7 4 = (dF w).extractLsb' 0 4 := by
  ext i hi; simp [dF]; grind
theorem dF_of_high4 {w : Word} (h : w.extractLsb' 11 3 = 0#3) : 0#3 ++ w.extractLsb' 7 4 = dF w := by
  rw [dF_low4, ← h, dF_high4]
  exact BitVec.extractLsb'_append_extractLsb' (w := 3) (len := 4)

/-! ### A format's decoder reads the word that the encoder made of the fields -/

theorem byFn_eA {nw g : Bool} {fn : BitVec 2} {b a d op : BitVec 7} {k0 k1 k2 k3 r : Decoded} (h : byFn fn k0 k1 k2 k3 = r) :
    byFn (fnF (eA nw g fn b a d op)) k0 k1 k2 k3 = r := by
  rw [fnF_eA, h]

section
variable (fn : BitVec 2) (op : BitVec 7)

theorem dA3_eA (c : A3 → Instr) (o : A3) : dA3 c (eA o.nw o.g fn o.b o.a o.d op) = .ok (c o) := by simp [dA3]
theorem dA2_eA (c : A2 → Instr) (o : A2) : dA2 c (eA o.nw o.g fn Reg.z o.a o.d op) = .ok (c o) := by simp [dA2]
theorem dA1d_eA (c : A1d → Instr) (o : A1d) : dA1d c (eA o.nw o.g fn Reg.z Reg.z o.d op) = .ok (c o) := by simp [dA1d]
theorem dA1a_eA (c : A1a → Instr) (o : A1a) : dA1a c (eA false o.g fn Reg.z o.a Reg.z op) = .ok (c o) := by simp [dA1a]
theorem dA2ab_eA (c : A2ab → Instr) (o : A2ab) : dA2ab c (eA false o.g fn o.b o.a Reg.z op) = .ok (c o) := by simp [dA2ab]
theorem dA3s_eA (c : A3s → Instr) (o : A3s) : dA3s c (eA false o.g fn o.b o.a o.d op) = .ok (c o) := by simp [dA3s]
theorem dA2s_eA (c : A2s → Instr) (o : A2s) : dA2s c (eA false o.g fn Reg.z o.a o.d op) = .ok (c o) := by simp [dA2s]
theorem dAF_eA (c : AF → Instr) (o : AF) : dAF c (eA o.nw o.g (ftypeBits o.ty) o.b o.a o.d op) = .ok (c o) := by
  obtain ⟨nw, g, ty, d, a, b⟩ := o
  cases ty <;> simp [dAF, byFn, ftypeBits]
theorem dI_eI (c : AI → Instr) (o : AI) : dI c (eI o.nw o.imm o.a o.d op) = .ok (c o) := by simp [dI]
theorem dIsh_eI (c : AIsh → Instr) (o : AIsh) : dIsh c (eI o.nw (0#5 ++ o.imm) o.a o.d op) = .ok (c o) := by
  have high : (0#5 ++ o.imm : BitVec 10).extractLsb' 5 5 = 0#5 := BitVec.extractLsb'_append_eq_left
  have low : (0#5 ++ o.imm : BitVec 10).extractLsb' 0 5 = o.imm := BitVec.extractLsb'_append_eq_right
  simp [dIsh, immF_high, immF_low, high, low]
theorem dIst_eI (c : AIst → Instr) (o : AIst) : dIst c (eI false o.imm o.a o.d op) = .ok (c o) := by simp [dIst]
theorem dK_eK (c : AK → Instr) (o : AK) : dK c (eK fn o.imm o.d op) = .ok (c o) := by simp [dK]
theorem dM_eI (c : AM → Instr) (o : AM) : dM c (eI o.g o.off o.a o.t op) = .ok (c o) := by simp [dM]
theorem dX_eX (c : AX → Instr) (o : AX) :
    dX c (eX (orderBits o.order) (scopeBits o.scope) o.b o.a o.d op) = .ok (c o) := by simp [dX]
/-- The order bits of `ALD` and of `AST` are format A's nw and g, one of them clear (02 R30). -/
theorem dXld_eA (c : AXld → Instr) (o : AXld) :
    dXld c (eA false o.acq (scopeBits o.scope) Reg.z o.a o.d op) = .ok (c o) := by simp [dXld]
theorem dXst_eA (c : AXst → Instr) (o : AXst) :
    dXst c (eA o.rel false (scopeBits o.scope) o.b o.a Reg.z op) = .ok (c o) := by simp [dXst]
theorem dXF_eX (c : MOrder → Scope → Instr) (order : MOrder) (scope : Scope) :
    dXF c (eX (orderBits order) (scopeBits scope) Reg.z Reg.z Reg.z op) = .ok (c order scope) := by simp [dXF]
theorem dB_eI (c : AB → Instr) (o : AB) : dB c (eI false o.off o.b o.a op) = .ok (c o) := by simp [dB]
theorem dJ0_eJ (c : BitVec 18 → Instr) (off : BitVec 18) : dJ0 c (eJ off 0#7 op) = .ok (c off) := by simp [dJ0]
theorem dJk_eJ (c : Reg → BitVec 18 → Instr) (k : Reg) (off : BitVec 18) : dJk c (eJ off k op) = .ok (c k off) := by simp [dJk]
theorem dP0_eA (c : Instr) : dP0 c (eA false false fn Reg.z Reg.z Reg.z op) = .ok c := by simp [dP0, plain]
theorem dP1a_eA (c : Reg → Instr) (a : Reg) : dP1a c (eA false false fn Reg.z a Reg.z op) = .ok (c a) := by simp [dP1a, plain]
theorem dP1d_eA (c : Reg → Instr) (d : Reg) : dP1d c (eA false false fn Reg.z Reg.z d op) = .ok (c d) := by simp [dP1d, plain]
theorem dPka_eA (c : Reg → Reg → Instr) (k a : Reg) : dPka c (eA false false fn Reg.z a k op) = .ok (c k a) := by
  simp [dPka, plain]
theorem dPda_eA (c : Reg → Reg → Instr) (d a : Reg) : dPda c (eA false false fn Reg.z a d op) = .ok (c d a) := by
  simp [dPda, plain]
theorem dP2_eA (c : Reg → Reg → Instr) (a b : Reg) : dP2 c (eA false false fn b a Reg.z op) = .ok (c a b) := by simp [dP2, plain]
theorem dP3_eA (c : Reg → Reg → Reg → Instr) (d a b : Reg) : dP3 c (eA false false fn b a d op) = .ok (c d a b) := by
  simp [dP3, plain]
theorem dAg_eA (c : Bool → Instr) (g : Bool) : dAg c (eA false g fn Reg.z Reg.z Reg.z op) = .ok (c g) := by simp [dAg]
theorem dL_eI (c : Reg → BitVec 10 → Instr) (a : Reg) (len : BitVec 10) : dL c (eI false len a Reg.z op) = .ok (c a len) := by
  simp [dL]
theorem dW_eI (c : BitVec 10 → Instr) (imm : BitVec 10) : dW c (eI false imm Reg.z Reg.z op) = .ok (c imm) := by simp [dW]
theorem dN3_eA (c : BitVec 3 → Instr) (k : BitVec 3) : dN3 c (eA false false fn Reg.z Reg.z (0#4 ++ k) op) = .ok (c k) := by
  have high : (0#4 ++ k : BitVec 7).extractLsb' 3 4 = 0#4 := BitVec.extractLsb'_append_eq_left
  have low : (0#4 ++ k : BitVec 7).extractLsb' 0 3 = k := BitVec.extractLsb'_append_eq_right
  simp [dN3, plain, dF_high3, dF_low3, high, low]
theorem dN4_eA (c : BitVec 4 → Instr) (n : BitVec 4) : dN4 c (eA false false fn Reg.z Reg.z (0#3 ++ n) op) = .ok (c n) := by
  have high : (0#3 ++ n : BitVec 7).extractLsb' 4 3 = 0#3 := BitVec.extractLsb'_append_eq_left
  have low : (0#3 ++ n : BitVec 7).extractLsb' 0 4 = n := BitVec.extractLsb'_append_eq_right
  simp [dN4, plain, dF_high4, dF_low4, high, low]
theorem dSg_eI (c : Reg → BitVec 10 → Instr) (d : Reg) (sel : BitVec 10) : dSg c (eI false sel Reg.z d op) = .ok (c d sel) := by
  simp [dSg]
theorem dSp_eI (c : BitVec 10 → Reg → Instr) (sel : BitVec 10) (a : Reg) : dSp c (eI false sel a Reg.z op) = .ok (c sel a) := by
  simp [dSp]

end

/-! ### The word that a format's decoder reads is the word of what it answers -/

/-- What a decoder answers for a word, if anything, is an instruction whose word that is. -/
def Encodes (w : Word) (k : Decoded) : Prop := ∀ i, k = .ok i → encode i = w

theorem encodes_error {w : Word} (e : Illegal) : Encodes w (.error e) := nofun

theorem encodes_ok {w : Word} {i : Instr} (h : encode i = w) : Encodes w (.ok i) := by
  rintro _ ⟨⟩
  exact h

section
variable {w : Word} {e : Illegal} {k : Decoded}

theorem encodes_need {c : Bool} (h : c = true → Encodes w k) : Encodes w (need c e k) := fun i hi =>
  h (need_eq_ok.mp hi).1 i (need_eq_ok.mp hi).2
theorem encodes_need_not {c : Bool} (h : c = false → Encodes w k) : Encodes w (need (!c) e k) :=
  encodes_need fun hc => h (by simpa using hc)
theorem encodes_need_eq {n : Nat} {x y : BitVec n} (h : x = y → Encodes w k) : Encodes w (need (x == y) e k) :=
  encodes_need fun hc => h (by simpa using hc)
theorem encodes_need_eq₂ {n : Nat} {x y x' y' : BitVec n} (h : x = y → x' = y' → Encodes w k) :
    Encodes w (need (x == y && x' == y') e k) :=
  encodes_need fun hc => have ⟨h1, h2⟩ : x = y ∧ x' = y' := by simpa using hc
    h h1 h2
theorem encodes_need_eq₃ {n : Nat} {x y x' y' x'' y'' : BitVec n} (h : x = y → x' = y' → x'' = y'' → Encodes w k) :
    Encodes w (need (x == y && x' == y' && x'' == y'') e k) :=
  encodes_need fun hc => have ⟨⟨h1, h2⟩, h3⟩ : (x = y ∧ x' = y') ∧ x'' = y'' := by simpa using hc
    h h1 h2 h3
theorem encodes_plain (h : gF w = false → topF w = false → Encodes w k) : Encodes w (plain w k) :=
  encodes_need_not fun hg => encodes_need_not fun ht => h hg ht

end

theorem encodes_byFn {w : Word} {fn : BitVec 2} {c0 c1 c2 c3 : Decoded} (h0 : fn = 0#2 → Encodes w c0)
    (h1 : fn = 1#2 → Encodes w c1) (h2 : fn = 2#2 → Encodes w c2) (h3 : fn = 3#2 → Encodes w c3) :
    Encodes w (byFn fn c0 c1 c2 c3) := by
  unfold byFn
  split_ifs with e0 e1 e2
  · exact h0 e0
  · exact h1 e1
  · exact h2 e2
  · have last : ∀ f : BitVec 2, f ≠ 0#2 → f ≠ 1#2 → f ≠ 2#2 → f = 3#2 := by decide
    exact h3 (last fn e0 e1 e2)

section
variable {w : Word} {op : BitVec 7} (hop : (opF w).toNat = op.toNat)
include hop

theorem encodes_dI {c : AI → Instr} (hc : ∀ o, encode (c o) = eI o.nw o.imm o.a o.d op) : Encodes w (dI c w) :=
  encodes_ok (by simpa [hc, BitVec.eq_of_toNat_eq hop] using eI_fields w)
theorem encodes_dIsh {c : AIsh → Instr} (hc : ∀ o, encode (c o) = eI o.nw (0#5 ++ o.imm) o.a o.d op) : Encodes w (dIsh c w) :=
  encodes_need_eq fun hz => encodes_ok (by simpa [hc, immF_of_high hz, BitVec.eq_of_toNat_eq hop] using eI_fields w)
theorem encodes_dIst {c : AIst → Instr} (hc : ∀ o, encode (c o) = eI false o.imm o.a o.d op) : Encodes w (dIst c w) :=
  encodes_need_not fun ht => encodes_ok (by simpa [hc, ht, BitVec.eq_of_toNat_eq hop] using eI_fields w)
theorem encodes_dM {c : AM → Instr} (hc : ∀ o, encode (c o) = eI o.g o.off o.a o.t op) : Encodes w (dM c w) :=
  encodes_ok (by simpa [hc, BitVec.eq_of_toNat_eq hop] using eI_fields w)
theorem encodes_dB {c : AB → Instr} (hc : ∀ o, encode (c o) = eI false o.off o.b o.a op) : Encodes w (dB c w) :=
  encodes_need_not fun ht => encodes_ok (by simpa [hc, ht, BitVec.eq_of_toNat_eq hop] using eI_fields w)
theorem encodes_dL {c : Reg → BitVec 10 → Instr} (hc : ∀ a len, encode (c a len) = eI false len a Reg.z op) : Encodes w (dL c w) :=
  encodes_need_not fun ht => encodes_need_eq fun hd => encodes_ok (by simpa [hc, ht, hd, BitVec.eq_of_toNat_eq hop] using eI_fields w)
theorem encodes_dW {c : BitVec 10 → Instr} (hc : ∀ imm, encode (c imm) = eI false imm Reg.z Reg.z op) : Encodes w (dW c w) :=
  encodes_need_not fun ht => encodes_need_eq₂ fun hd ha =>
    encodes_ok (by simpa [hc, ht, hd, ha, BitVec.eq_of_toNat_eq hop] using eI_fields w)
theorem encodes_dSg {c : Reg → BitVec 10 → Instr} (hc : ∀ d sel, encode (c d sel) = eI false sel Reg.z d op) : Encodes w (dSg c w) :=
  encodes_need_not fun ht => encodes_need_eq fun ha => encodes_ok (by simpa [hc, ht, ha, BitVec.eq_of_toNat_eq hop] using eI_fields w)
theorem encodes_dSp {c : BitVec 10 → Reg → Instr} (hc : ∀ sel a, encode (c sel a) = eI false sel a Reg.z op) : Encodes w (dSp c w) :=
  encodes_need_not fun ht => encodes_need_eq fun hd => encodes_ok (by simpa [hc, ht, hd, BitVec.eq_of_toNat_eq hop] using eI_fields w)
theorem encodes_dX {c : AX → Instr} (hc : ∀ o, encode (c o) = eX (orderBits o.order) (scopeBits o.scope) o.b o.a o.d op) :
    Encodes w (dX c w) :=
  encodes_ok (by simpa [hc, BitVec.eq_of_toNat_eq hop] using eX_fields w)
theorem encodes_dXF {c : MOrder → Scope → Instr}
    (hc : ∀ order scope, encode (c order scope) = eX (orderBits order) (scopeBits scope) Reg.z Reg.z Reg.z op) :
    Encodes w (dXF c w) :=
  encodes_need_eq₃ fun hd ha hb =>
    encodes_ok (by simpa [hc, hd, ha, hb, BitVec.eq_of_toNat_eq hop] using eX_fields w)
theorem encodes_dXld {c : AXld → Instr} (hc : ∀ o, encode (c o) = eA false o.acq (scopeBits o.scope) Reg.z o.a o.d op) :
    Encodes w (dXld c w) :=
  encodes_need_not fun ht => encodes_need_eq fun hb => encodes_ok (by simpa [hc, ht, hb, BitVec.eq_of_toNat_eq hop] using eA_fields w)
theorem encodes_dXst {c : AXst → Instr} (hc : ∀ o, encode (c o) = eA o.rel false (scopeBits o.scope) o.b o.a Reg.z op) :
    Encodes w (dXst c w) :=
  encodes_need_not fun hg => encodes_need_eq fun hd => encodes_ok (by simpa [hc, hg, hd, BitVec.eq_of_toNat_eq hop] using eA_fields w)
theorem encodes_dAF {c : AF → Instr} (hc : ∀ o, encode (c o) = eA o.nw o.g (ftypeBits o.ty) o.b o.a o.d op) : Encodes w (dAF c w) := by
  refine encodes_byFn (fun hfn => encodes_ok ?_) (fun hfn => encodes_ok ?_) (fun hfn => encodes_ok ?_) fun _ => encodes_error _
  all_goals simpa [hc, ftypeBits, hfn, BitVec.eq_of_toNat_eq hop] using eA_fields w
theorem encodes_dJ0 {c : BitVec 18 → Instr} (hc : ∀ off, encode (c off) = eJ off 0#7 op) : Encodes w (dJ0 c w) :=
  encodes_need_eq fun hk => encodes_ok (by simpa [hc, hk, BitVec.eq_of_toNat_eq hop] using eJ_fields w)
theorem encodes_dJk {c : Reg → BitVec 18 → Instr} (hc : ∀ k off, encode (c k off) = eJ off k op) : Encodes w (dJk c w) :=
  encodes_ok (by simpa [hc, BitVec.eq_of_toNat_eq hop] using eJ_fields w)
theorem encodes_dK {c : AK → Instr} (hc : ∀ o, encode (c o) = eK (w.extractLsb' 30 2) o.imm o.d op) : Encodes w (dK c w) :=
  encodes_ok (by simpa [hc, BitVec.eq_of_toNat_eq hop] using eK_fields w)

variable {fn : BitVec 2}

theorem encodes_dA3 {c : A3 → Instr} (hc : ∀ o, encode (c o) = eA o.nw o.g fn o.b o.a o.d op) (hfn : fnF w = fn) :
    Encodes w (dA3 c w) :=
  encodes_ok (by simpa [hc, hfn, BitVec.eq_of_toNat_eq hop] using eA_fields w)
theorem encodes_dA2 {c : A2 → Instr} (hc : ∀ o, encode (c o) = eA o.nw o.g fn Reg.z o.a o.d op) (hfn : fnF w = fn) :
    Encodes w (dA2 c w) :=
  encodes_need_eq fun hb => encodes_ok (by simpa [hc, hb, hfn, BitVec.eq_of_toNat_eq hop] using eA_fields w)
theorem encodes_dA1d {c : A1d → Instr} (hc : ∀ o, encode (c o) = eA o.nw o.g fn Reg.z Reg.z o.d op) (hfn : fnF w = fn) :
    Encodes w (dA1d c w) :=
  encodes_need_eq₂ fun hb ha =>
    encodes_ok (by simpa [hc, hb, ha, hfn, BitVec.eq_of_toNat_eq hop] using eA_fields w)
theorem encodes_dA1a {c : A1a → Instr} (hc : ∀ o, encode (c o) = eA false o.g fn Reg.z o.a Reg.z op) (hfn : fnF w = fn) :
    Encodes w (dA1a c w) :=
  encodes_need_not fun ht => encodes_need_eq₂ fun hb hd =>
    encodes_ok (by simpa [hc, ht, hb, hd, hfn, BitVec.eq_of_toNat_eq hop] using eA_fields w)
theorem encodes_dA2ab {c : A2ab → Instr} (hc : ∀ o, encode (c o) = eA false o.g fn o.b o.a Reg.z op) (hfn : fnF w = fn) :
    Encodes w (dA2ab c w) :=
  encodes_need_not fun ht => encodes_need_eq fun hd =>
    encodes_ok (by simpa [hc, ht, hd, hfn, BitVec.eq_of_toNat_eq hop] using eA_fields w)
theorem encodes_dA3s {c : A3s → Instr} (hc : ∀ o, encode (c o) = eA false o.g fn o.b o.a o.d op) (hfn : fnF w = fn) :
    Encodes w (dA3s c w) :=
  encodes_need_not fun ht => encodes_ok (by simpa [hc, ht, hfn, BitVec.eq_of_toNat_eq hop] using eA_fields w)
theorem encodes_dA2s {c : A2s → Instr} (hc : ∀ o, encode (c o) = eA false o.g fn Reg.z o.a o.d op) (hfn : fnF w = fn) :
    Encodes w (dA2s c w) :=
  encodes_need_not fun ht => encodes_need_eq fun hb =>
    encodes_ok (by simpa [hc, ht, hb, hfn, BitVec.eq_of_toNat_eq hop] using eA_fields w)
theorem encodes_dAg {c : Bool → Instr} (hc : ∀ g, encode (c g) = eA false g fn Reg.z Reg.z Reg.z op) (hfn : fnF w = fn) :
    Encodes w (dAg c w) :=
  encodes_need_not fun ht => encodes_need_eq₃ fun hd ha hb =>
    encodes_ok (by simpa [hc, ht, hd, ha, hb, hfn, BitVec.eq_of_toNat_eq hop] using eA_fields w)
theorem encodes_dP0 {c : Instr} (hc : encode c = eA false false fn Reg.z Reg.z Reg.z op) (hfn : fnF w = fn) : Encodes w (dP0 c w) :=
  encodes_plain fun hg ht => encodes_need_eq₃ fun hd ha hb =>
    encodes_ok (by simpa [hc, hg, ht, hd, ha, hb, hfn, BitVec.eq_of_toNat_eq hop] using eA_fields w)
theorem encodes_dP1a {c : Reg → Instr} (hc : ∀ a, encode (c a) = eA false false fn Reg.z a Reg.z op) (hfn : fnF w = fn) :
    Encodes w (dP1a c w) :=
  encodes_plain fun hg ht => encodes_need_eq₂ fun hd hb =>
    encodes_ok (by simpa [hc, hg, ht, hd, hb, hfn, BitVec.eq_of_toNat_eq hop] using eA_fields w)
theorem encodes_dP1d {c : Reg → Instr} (hc : ∀ d, encode (c d) = eA false false fn Reg.z Reg.z d op) (hfn : fnF w = fn) :
    Encodes w (dP1d c w) :=
  encodes_plain fun hg ht => encodes_need_eq₂ fun ha hb =>
    encodes_ok (by simpa [hc, hg, ht, ha, hb, hfn, BitVec.eq_of_toNat_eq hop] using eA_fields w)
theorem encodes_dPka {c : Reg → Reg → Instr} (hc : ∀ k a, encode (c k a) = eA false false fn Reg.z a k op) (hfn : fnF w = fn) :
    Encodes w (dPka c w) :=
  encodes_plain fun hg ht => encodes_need_eq fun hb =>
    encodes_ok (by simpa [hc, hg, ht, hb, hfn, BitVec.eq_of_toNat_eq hop] using eA_fields w)
theorem encodes_dPda {c : Reg → Reg → Instr} (hc : ∀ d a, encode (c d a) = eA false false fn Reg.z a d op) (hfn : fnF w = fn) :
    Encodes w (dPda c w) :=
  encodes_plain fun hg ht => encodes_need_eq fun hb =>
    encodes_ok (by simpa [hc, hg, ht, hb, hfn, BitVec.eq_of_toNat_eq hop] using eA_fields w)
theorem encodes_dP2 {c : Reg → Reg → Instr} (hc : ∀ a b, encode (c a b) = eA false false fn b a Reg.z op) (hfn : fnF w = fn) :
    Encodes w (dP2 c w) :=
  encodes_plain fun hg ht => encodes_need_eq fun hd =>
    encodes_ok (by simpa [hc, hg, ht, hd, hfn, BitVec.eq_of_toNat_eq hop] using eA_fields w)
theorem encodes_dP3 {c : Reg → Reg → Reg → Instr} (hc : ∀ d a b, encode (c d a b) = eA false false fn b a d op) (hfn : fnF w = fn) :
    Encodes w (dP3 c w) :=
  encodes_plain fun hg ht =>
    encodes_ok (by simpa [hc, hg, ht, hfn, BitVec.eq_of_toNat_eq hop] using eA_fields w)
theorem encodes_dN3 {c : BitVec 3 → Instr} (hc : ∀ k, encode (c k) = eA false false fn Reg.z Reg.z (0#4 ++ k) op) (hfn : fnF w = fn) :
    Encodes w (dN3 c w) :=
  encodes_plain fun hg ht => encodes_need_eq₂ fun ha hb => encodes_need_eq fun hz =>
    encodes_ok (by simpa [hc, dF_of_high3 hz, hg, ht, ha, hb, hfn, BitVec.eq_of_toNat_eq hop] using eA_fields w)
theorem encodes_dN4 {c : BitVec 4 → Instr} (hc : ∀ n, encode (c n) = eA false false fn Reg.z Reg.z (0#3 ++ n) op) (hfn : fnF w = fn) :
    Encodes w (dN4 c w) :=
  encodes_plain fun hg ht => encodes_need_eq₂ fun ha hb => encodes_need_eq fun hz =>
    encodes_ok (by simpa [hc, dF_of_high4 hz, hg, ht, ha, hb, hfn, BitVec.eq_of_toNat_eq hop] using eA_fields w)

end

end Sys2Proof
end

section
/-! Decoding and encoding agree in both directions (02 R19, R20, R29, R31). -/

namespace Sys2Proof

/-- The case `h_n` is the `n`-th opcode of the map; the opcodes with the same formats under their four functions go together. -/
theorem encodes_decodeFields (w : Word) : Encodes w (decodeFields w) := by
  unfold decodeFields
  split
  case h_1 hop | h_2 hop | h_4 hop | h_5 hop | h_8 hop | h_10 hop | h_32 hop | h_44 hop =>
    exact encodes_byFn (encodes_dA3 hop fun _ => rfl) (encodes_dA3 hop fun _ => rfl) (encodes_dA3 hop fun _ => rfl)
      (encodes_dA3 hop fun _ => rfl)
  case h_3 hop | h_9 hop | h_12 hop | h_39 hop =>
    exact encodes_byFn (encodes_dA3 hop fun _ => rfl) (encodes_dA3 hop fun _ => rfl) (fun _ => encodes_error _)
      (fun _ => encodes_error _)
  case h_6 hop | h_34 hop | h_36 hop | h_46 hop | h_47 hop =>
    exact encodes_byFn (encodes_dA2 hop fun _ => rfl) (encodes_dA2 hop fun _ => rfl) (encodes_dA2 hop fun _ => rfl)
      (encodes_dA2 hop fun _ => rfl)
  case h_7 hop =>
    exact encodes_byFn (encodes_dA3 hop fun _ => rfl) (encodes_dA2 hop fun _ => rfl) (encodes_dA1d hop fun _ => rfl)
      (encodes_dA1a hop fun _ => rfl)
  case h_11 hop | h_41 hop | h_42 hop =>
    exact encodes_byFn (encodes_dA3 hop fun _ => rfl) (encodes_dA3 hop fun _ => rfl) (encodes_dA3 hop fun _ => rfl)
      (fun _ => encodes_error _)
  case h_13 hop | h_14 hop | h_15 hop | h_16 hop | h_21 hop | h_22 hop | h_23 hop | h_24 hop | h_78 hop =>
    exact encodes_dI hop fun _ => rfl
  case h_17 hop | h_18 hop | h_19 hop | h_20 hop | h_45 hop | h_49 hop =>
    exact encodes_dIsh hop fun _ => rfl
  case h_25 hop =>
    exact encodes_byFn (fun hfn => encodes_dK hop fun _ => by rw [hfn]; rfl) (fun hfn => encodes_dK hop fun _ => by rw [hfn]; rfl)
      (fun hfn => encodes_dK hop fun _ => by rw [hfn]; rfl) (fun hfn => encodes_dK hop fun _ => by rw [hfn]; rfl)
  case h_26 hop | h_27 hop | h_28 hop | h_29 hop | h_30 hop | h_31 hop =>
    exact encodes_dAF hop fun _ => rfl
  case h_33 hop =>
    exact encodes_byFn (encodes_dA2 hop fun _ => rfl) (encodes_dA2 hop fun _ => rfl) (encodes_dA3 hop fun _ => rfl)
      (encodes_dA2 hop fun _ => rfl)
  case h_35 hop =>
    exact encodes_byFn (encodes_dA2 hop fun _ => rfl) (encodes_dA2 hop fun _ => rfl) (encodes_dA2 hop fun _ => rfl)
      (fun _ => encodes_error _)
  case h_37 hop =>
    exact encodes_byFn (encodes_dA2 hop fun _ => rfl) (encodes_dA3 hop fun _ => rfl) (encodes_dA2 hop fun _ => rfl)
      (encodes_dA3 hop fun _ => rfl)
  case h_38 hop =>
    exact encodes_byFn (encodes_dA2 hop fun _ => rfl) (encodes_dA2 hop fun _ => rfl) (encodes_dA3 hop fun _ => rfl)
      (encodes_dA3 hop fun _ => rfl)
  case h_40 hop =>
    exact encodes_byFn (fun _ => encodes_error _) (encodes_dA3 hop fun _ => rfl) (encodes_dA3 hop fun _ => rfl)
      (fun _ => encodes_error _)
  case h_43 hop =>
    exact encodes_byFn (encodes_dA3 hop fun _ => rfl) (encodes_dA2 hop fun _ => rfl) (fun _ => encodes_error _)
      (fun _ => encodes_error _)
  case h_48 hop | h_97 hop =>
    exact encodes_byFn (encodes_dA2 hop fun _ => rfl) (encodes_dA2 hop fun _ => rfl) (fun _ => encodes_error _)
      (fun _ => encodes_error _)
  case h_50 hop =>
    exact encodes_dJ0 hop fun _ => rfl
  case h_51 hop =>
    exact encodes_dJk hop fun _ _ => rfl
  case h_52 hop =>
    exact encodes_byFn (encodes_dP1a hop fun _ => rfl) (encodes_dPka hop fun _ _ => rfl) (encodes_dP0 hop rfl)
      (encodes_dAg hop fun _ => rfl)
  case h_53 hop | h_54 hop | h_55 hop | h_56 hop | h_57 hop | h_58 hop =>
    exact encodes_dB hop fun _ => rfl
  case h_59 hop =>
    exact encodes_dL hop fun _ _ => rfl
  case h_60 hop =>
    exact encodes_byFn (encodes_dN3 hop fun _ => rfl) (encodes_dN3 hop fun _ => rfl) (encodes_dN3 hop fun _ => rfl)
      (encodes_dN3 hop fun _ => rfl)
  case h_61 hop =>
    exact encodes_dW hop fun _ => rfl
  case h_62 hop =>
    exact encodes_byFn (encodes_dP0 hop rfl) (encodes_dP0 hop rfl) (encodes_dN4 hop fun _ => rfl) (encodes_dN4 hop fun _ => rfl)
  case h_63 hop =>
    exact encodes_byFn (encodes_dA1a hop fun _ => rfl) (encodes_dAg hop fun _ => rfl) (encodes_dA1a hop fun _ => rfl)
      (fun _ => encodes_error _)
  case h_64 hop =>
    exact encodes_byFn (encodes_dP0 hop rfl) (encodes_dP1a hop fun _ => rfl) (fun _ => encodes_error _) (fun _ => encodes_error _)
  case h_65 hop | h_66 hop | h_67 hop | h_68 hop | h_69 hop | h_70 hop | h_71 hop | h_72 hop | h_73 hop | h_74 hop | h_75 hop | h_76 hop
    =>
    exact encodes_dM hop fun _ => rfl
  case h_77 hop =>
    exact encodes_byFn (encodes_dA3 hop fun _ => rfl) (encodes_dA3 hop fun _ => rfl) (encodes_dA3s hop fun _ => rfl)
      (encodes_dA3s hop fun _ => rfl)
  case h_79 hop =>
    exact encodes_dIst hop fun _ => rfl
  case h_80 hop =>
    exact encodes_byFn (encodes_dA3 hop fun _ => rfl) (encodes_dA3s hop fun _ => rfl) (encodes_dA3 hop fun _ => rfl)
      (encodes_dA3s hop fun _ => rfl)
  case h_81 hop | h_82 hop | h_83 hop | h_84 hop | h_85 hop | h_86 hop | h_87 hop | h_88 hop | h_89 hop | h_90 hop | h_91 hop =>
    exact encodes_dX hop fun _ => rfl
  case h_92 hop =>
    exact encodes_dXld hop fun _ => rfl
  case h_93 hop =>
    exact encodes_dXst hop fun _ => rfl
  case h_94 hop =>
    exact encodes_dXF hop fun _ _ => rfl
  case h_95 hop =>
    exact encodes_byFn (encodes_dA1a hop fun _ => rfl) (encodes_dA1a hop fun _ => rfl) (encodes_dA1a hop fun _ => rfl)
      (fun _ => encodes_error _)
  case h_96 hop =>
    exact encodes_byFn (encodes_dA2 hop fun _ => rfl) (encodes_dA1a hop fun _ => rfl) (encodes_dA2 hop fun _ => rfl)
      (fun _ => encodes_error _)
  case h_98 hop =>
    exact encodes_byFn (encodes_dA2ab hop fun _ => rfl) (encodes_dA2ab hop fun _ => rfl) (encodes_dA2 hop fun _ => rfl)
      (encodes_dA1a hop fun _ => rfl)
  case h_99 hop =>
    exact encodes_byFn (encodes_dA2ab hop fun _ => rfl) (encodes_dA2 hop fun _ => rfl) (fun _ => encodes_error _)
      (fun _ => encodes_error _)
  case h_100 hop =>
    exact encodes_byFn (encodes_dP2 hop fun _ _ => rfl) (encodes_dP2 hop fun _ _ => rfl) (encodes_dP2 hop fun _ _ => rfl)
      (fun _ => encodes_error _)
  case h_101 hop =>
    exact encodes_byFn (encodes_dA2 hop fun _ => rfl) (encodes_dA2s hop fun _ => rfl) (encodes_dA2ab hop fun _ => rfl)
      (encodes_dA3 hop fun _ => rfl)
  case h_102 hop =>
    exact encodes_byFn (encodes_dA3 hop fun _ => rfl) (encodes_dA1a hop fun _ => rfl) (encodes_dA2 hop fun _ => rfl)
      (fun _ => encodes_error _)
  case h_103 hop =>
    exact encodes_byFn (encodes_dA2 hop fun _ => rfl) (encodes_dA2 hop fun _ => rfl) (encodes_dA1a hop fun _ => rfl)
      (encodes_dA1d hop fun _ => rfl)
  case h_104 hop =>
    exact encodes_byFn (encodes_dA2 hop fun _ => rfl) (encodes_dP0 hop rfl) (encodes_dA1d hop fun _ => rfl) (fun _ => encodes_error _)
  case h_105 hop =>
    exact encodes_dSg hop fun _ _ => rfl
  case h_106 hop =>
    exact encodes_dSp hop fun _ _ => rfl
  case h_107 hop =>
    exact encodes_byFn (encodes_dPda hop fun _ _ => rfl) (encodes_dP3 hop fun _ _ _ => rfl) (encodes_dP1a hop fun _ => rfl)
      (encodes_dP1d hop fun _ => rfl)
  case h_108 => exact encodes_error _

/-- The instructions of one format go together; a word without operands is closed, and an event has no word. -/
theorem decodeFields_encode (i : Instr) (h : i.hasWord = true) : decodeFields (encode i) = .ok i := by
  cases i
  case add | sub | mullo | maclo | mulhs | mulhn | mins | minn | maxs | maxn | and | or | xor | andn | shl | shr | sra | rotl | sel
    | ceq | cne | clts | cltn | cles | clen | addd | subd | mulw | mulws | shld | shrd | srad | bfx | bfi | fceq | fclt | fcle | fcun
    | fcpsgn | cvtfn | cvtnf | cvtfhl | cvtfhh | cvtfbl | cvtfbh | fdot2F16x2 | fdot2Bf16x2 | pack8 | pack8h | pack8b | unpk8 | unpk8h
    | unpk8b | amax4 | shfx | shfup | shfdn | shfix | ldwx | lddx | lld | llq | accvt | spawn =>
    change decodeFields (eA ..) = _
    rw [decodeFields, opF_eA]
    exact byFn_eA (dA3_eA ..)
  case clz | popc | brev | bswap | mov | fabs | fneg | fclass | frcp | frsq | fsqrt | fex2 | flg2 | fsinpi | fcospi | frint | ffloor
    | fceil | ftrunc | cvtfi | cvtif | cvthf | cvtbf | fmtchk | vall | vany | vbal | vcnt | redadd | redmin | redmax | fredadd | scanadd
    | fscanadd | cpy | cpyst | put | putm | bwait | btest | acrd | launch | vpub | vfin | vrd =>
    change decodeFields (eA ..) = _
    rw [decodeFields, opF_eA]
    exact byFn_eA (dA2_eA ..)
  case gprd | vstale | vseen =>
    change decodeFields (eA ..) = _
    rw [decodeFields, opF_eA]
    exact byFn_eA (dA1d_eA ..)
  case gpwr | trapc | sigx | cwb | cinv | pref | cpywait | bkill | sflush | vstop =>
    change decodeFields (eA ..) = _
    rw [decodeFields, opF_eA]
    exact byFn_eA (dA1a_eA ..)
  case addi | andi | ori | xori | muli | ceqi | cltsi | cltni | llw =>
    change decodeFields (eI ..) = _
    rw [decodeFields, opF_eI]
    exact dI_eI ..
  case shli | shri | srai | rotli | bcasti | shfxi =>
    change decodeFields (eI ..) = _
    rw [decodeFields, opF_eI]
    exact dIsh_eI ..
  case lih | lil | lis | adpc =>
    change decodeFields (eK ..) = _
    rw [decodeFields, opF_eK, topPair_eK]
    exact dK_eK ..
  case fadd | fsub | fmul | fma | fmin | fmax =>
    change decodeFields (eA ..) = _
    rw [decodeFields, opF_eA]
    exact dAF_eA ..
  case jmp =>
    change decodeFields (eJ ..) = _
    rw [decodeFields, opF_eJ]
    exact dJ0_eJ ..
  case call =>
    change decodeFields (eJ ..) = _
    rw [decodeFields, opF_eJ]
    exact dJk_eJ ..
  case jmpr | icinv | tret =>
    change decodeFields (eA ..) = _
    rw [decodeFields, opF_eA]
    exact byFn_eA (dP1a_eA ..)
  case callr =>
    change decodeFields (eA ..) = _
    rw [decodeFields, opF_eA]
    exact byFn_eA (dPka_eA ..)
  case ret | nop | yield | ifence | vslack => rfl
  case exit | brk =>
    change decodeFields (eA ..) = _
    rw [decodeFields, opF_eA]
    exact byFn_eA (dAg_eA ..)
  case beq | bne | blts | bltn | bges | bgen =>
    change decodeFields (eI ..) = _
    rw [decodeFields, opF_eI]
    exact dB_eI ..
  case loop =>
    change decodeFields (eI ..) = _
    rw [decodeFields, opF_eI]
    exact dL_eI ..
  case rjen | rjwait | rjdrop | rjclr =>
    change decodeFields (eA ..) = _
    rw [decodeFields, opF_eA]
    exact byFn_eA (dN3_eA ..)
  case wadj =>
    change decodeFields (eI ..) = _
    rw [decodeFields, opF_eI]
    exact dW_eI ..
  case bar | bara =>
    change decodeFields (eA ..) = _
    rw [decodeFields, opF_eA]
    exact byFn_eA (dN4_eA ..)
  case ldw | ldd | ldq | ldhn | ldhs | ldbn | ldbs | stw | std | stq | sth | stb =>
    change decodeFields (eI ..) = _
    rw [decodeFields, opF_eI]
    exact dM_eI ..
  case stwx | stdx | lsd | lsq =>
    change decodeFields (eA ..) = _
    rw [decodeFields, opF_eA]
    exact byFn_eA (dA3s_eA ..)
  case lsw =>
    change decodeFields (eI ..) = _
    rw [decodeFields, opF_eI]
    exact dIst_eI ..
  case aadd | aand | aor | axor | amins | aminn | amaxs | amaxn | aswap | acas | afadd =>
    change decodeFields (eX ..) = _
    rw [decodeFields, opF_eX]
    exact dX_eX ..
  case ald =>
    change decodeFields (eA false ..) = _
    rw [decodeFields, opF_eA]
    exact dXld_eA ..
  case ast =>
    change decodeFields (eA _ false ..) = _
    rw [decodeFields, opF_eA]
    exact dXst_eA ..
  case fence =>
    change decodeFields (eX ..) = _
    rw [decodeFields, opF_eX]
    exact dXF_eX ..
  case binit | barv | bexp | acz =>
    change decodeFields (eA ..) = _
    rw [decodeFields, opF_eA]
    exact byFn_eA (dA2ab_eA ..)
  case mma | mmas | mmaz =>
    change decodeFields (eA ..) = _
    rw [decodeFields, opF_eA]
    exact byFn_eA (dP2_eA ..)
  case acwr =>
    change decodeFields (eA ..) = _
    rw [decodeFields, opF_eA]
    exact byFn_eA (dA2s_eA ..)
  case gets =>
    change decodeFields (eI ..) = _
    rw [decodeFields, opF_eI]
    exact dSg_eI ..
  case puts =>
    change decodeFields (eI ..) = _
    rw [decodeFields, opF_eI]
    exact dSp_eI ..
  case dwrd =>
    change decodeFields (eA ..) = _
    rw [decodeFields, opF_eA]
    exact byFn_eA (dPda_eA ..)
  case dwwr =>
    change decodeFields (eA ..) = _
    rw [decodeFields, opF_eA]
    exact byFn_eA (dP3_eA ..)
  case halt =>
    change decodeFields (eA ..) = _
    rw [decodeFields, opF_eA]
    exact byFn_eA (dP1d_eA ..)
  all_goals exact absurd h Bool.false_ne_true

theorem hasWord_of_decodeFields {w : Word} {i : Instr} (hd : decodeFields w = .ok i) (hw : encode i = w) : i.hasWord = true := by
  subst hw
  refine bne_iff_ne.mpr fun zero => ?_
  rw [zero] at hd
  exact nomatch hd

theorem decode_eq_ok {w : Word} {i : Instr} : decode w = .ok i ↔ decodeFields w = .ok i ∧ i.wellFormed = true := by
  unfold decode
  cases decodeFields w with
  | error e => simp
  | ok j =>
    by_cases hj : j.wellFormed = true
    · simp only [hj, if_true, Except.ok.injEq]
      exact ⟨fun h => ⟨h, h ▸ hj⟩, And.left⟩
    · simp only [hj, if_false, Except.ok.injEq, reduceCtorEq, false_iff]
      exact fun ⟨h, hi⟩ => hj (h ▸ hi)

/-- Settles O52: each format's decoder reads back the fields that the encoder laid out, and a word is made of its fields. -/
theorem decodeEncode : Obligations.DecodeEncode := by
  unfold Obligations.DecodeEncode
  refine ⟨fun i hf hw => decode_eq_ok.mpr ⟨decodeFields_encode i hw, hf⟩, fun w i hd => ?_⟩
  obtain ⟨hi, hf⟩ := decode_eq_ok.mp hd
  have hw := encodes_decodeFields w i hi
  exact ⟨hw, hf, hasWord_of_decodeFields hi hw⟩

/-- Settles O51: each word is decoded by evaluation, and a word that decodes is its instruction's word. -/
theorem decodeSpecWords : Obligations.DecodeSpecWords := by
  unfold Obligations.DecodeSpecWords
  have ok {w i} (h : decode w = .ok i) : decode w = .ok i ∧ encode i = w := ⟨h, (decodeEncode.2 w i h).1⟩
  simp only [Rules.specWords, List.forall_mem_cons, List.not_mem_nil, false_imp_iff, implies_true, and_true]
  exact ⟨ok rfl, ok rfl, ok rfl, ok rfl, ok rfl, ok rfl, ok rfl, ok rfl, ok rfl, ok rfl, ok rfl, ok rfl,
    ⟨_, rfl⟩, ⟨_, rfl⟩, ⟨_, rfl⟩, ⟨_, rfl⟩, ⟨_, rfl⟩⟩

end Sys2Proof
end

section
/-! SUPPORT. What taking a trap for every active lane leaves (02 R31 to R33; 19 R362, R363, R369). -/

namespace Sys2Proof.Machine

/-! ### An alert touches neither groups nor dies -/

@[simp] theorem State.alert_groups (s : State) (kind : Nat) (id : Dword) (a b : Word) (c : Dword) :
    (s.alert kind id a b c).groups = s.groups := by
  unfold State.alert
  dsimp only
  split <;> rfl
@[simp] theorem State.alert_dies (s : State) (kind : Nat) (id : Dword) (a b : Word) (c : Dword) :
    (s.alert kind id a b c).dies = s.dies := by
  unfold State.alert
  dsimp only
  split <;> rfl
theorem State.alert_of_groups_dies (s : State) (gs : Tab Group) (ds : Tab DieSt) (kind : Nat) (id : Dword) (a b : Word) (c : Dword) :
    ({ ({ s with groups := gs, dies := ds } : State).alert kind id a b c with groups := s.groups, dies := s.dies } : State) =
      s.alert kind id a b c := by
  unfold State.alert
  dsimp only
  split <;> rfl

/-! ### Taking a trap -/

/-- The group of a trap that all its active lanes take: the issue is counted and ends, and the group parks with the record. -/
def Group.trapped (g : Group) (act : Mask) (tr : Trap) : Group :=
  { g.countIssue act with pin := none, wait := .none, acq := false, trap := some tr }

/-- What a trap does to its die (19 R363, R369). -/
def DieSt.trapped (d : DieSt) (gid : Nat) : DieSt :=
  if gid < 8192 then { d with trapQ := d.trapQ ++ [gid] } else { d with ctrlStopped := true }

theorem Group.starve_countIssue (g : Group) (act : Mask) (l : LaneIx) :
    { (g.countIssue act).lane l with starve := 0 } = { g.lane l with starve := 0 } := by
  unfold Group.countIssue
  dsimp only
  rw [Group.lane_mapLanes]
  split
  · rfl
  · split <;> rfl

theorem Group.starve_trapped (g : Group) (act : Mask) (tr : Trap) (l : LaneIx) :
    { (g.trapped act tr).lane l with starve := 0 } = { g.lane l with starve := 0 } := by
  have same : (g.trapped act tr).lane l = (g.countIssue act).lane l := by simp only [Group.trapped, Group.lane]
  rw [same, Group.starve_countIssue]

theorem Group.trapped_rest (g : Group) (act : Mask) (tr : Trap) :
    { g.trapped act tr with lanes := g.lanes, trap := none, pin := none, wait := .none, acq := false } =
      { g with trap := none, pin := none, wait := .none, acq := false } := by
  simp only [Group.trapped, Group.countIssue, Group.mapLanes]

/-- The state that a trap of all active lanes leaves, before a control core's alert. -/
def State.trapped (s : State) (x : Issue) (tr : Trap) : State :=
  (s.updGrp x.gid fun g => g.trapped x.act tr).updDie (dieOf x.gid) fun d => d.trapped x.gid

theorem State.trapAll_core {s : State} {x : Issue} (h : x.gid < 8192) (code : Nat) (info : Word) (addr : Dword) :
    s.trapAll x code info addr = .next (s.trapped x ⟨code, x.pc, x.act, info, addr, false⟩) := by
  simp only [State.trapAll, State.takeTrap, if_pos h, State.updGrp_updGrp]
  simp only [State.trapped, DieSt.trapped, if_pos h, Group.trapped]

theorem State.trapAll_ctrl {s : State} {x : Issue} (h : 8192 ≤ x.gid) (code : Nat) (info : Word) (addr : Dword) :
    s.trapAll x code info addr = .next ((s.trapped x ⟨code, x.pc, x.act, info, addr, false⟩).alert 3 0
      (BitVec.ofNat 32 (dieOf x.gid)) (BitVec.ofNat 32 code) (x.pc.setWidth 64)) := by
  simp only [State.trapAll, State.takeTrap, if_neg (Nat.not_lt.mpr h), State.updGrp_updGrp]
  simp only [State.trapped, DieSt.trapped, if_neg (Nat.not_lt.mpr h), Group.trapped]

section
variable {s t : State} {x : Issue} {tr : Trap}

/-- `Trapped` from the groups and dies that are left; the rest is the caller's. -/
theorem trapped_of (hg : s.grp x.gid = some x.g) (groups : t.groups = (s.trapped x tr).groups) (dies : t.dies = (s.trapped x tr).dies)
    (core : x.gid < 8192 → ({ t with groups := s.groups, dies := s.dies } : State) = s)
    (ctrl : 8192 ≤ x.gid → ({ t with groups := s.groups, dies := s.dies } : State) =
      s.alert 3 0 (BitVec.ofNat 32 (dieOf x.gid)) (BitVec.ofNat 32 tr.code) (tr.pc.setWidth 64)) : Rules.Trapped s t x tr := by
  have grp (k : Nat) : t.grp k = if k = x.gid then (s.grp k).map fun g => g.trapped x.act tr else s.grp k := by
    simp only [State.grp, groups, State.trapped, State.updDie_groups, State.updGrp_groups, Tab.find_upd]
  have die (d : Nat) : t.die d = if d = dieOf x.gid then (s.die (dieOf x.gid)).trapped x.gid else s.die d := by
    simp only [State.die, dies, State.trapped, State.updDie_dies, State.updGrp_dies, Tab.getD_setD]
  refine ⟨⟨x.g.trapped x.act tr, ?_, rfl, x.g.starve_trapped x.act tr, x.g.trapped_rest x.act tr⟩, ?_, ?_, fun h => ⟨?_, core h⟩,
    fun h => ⟨?_, ctrl h⟩⟩
  · rw [grp, if_pos rfl, hg, Option.map_some]
  · intro k hk
    rw [grp, if_neg hk]
  · intro d hd
    rw [die, if_neg hd]
  · rw [die, if_pos rfl, DieSt.trapped, if_pos h]
  · rw [die, if_pos rfl, DieSt.trapped, if_neg (Nat.not_lt.mpr h)]

theorem State.trapAll_trapped (hi : s.issue = some x) (code : Nat) (info : Word) (addr : Dword) :
    ∃ t, s.trapAll x code info addr = .next t ∧ Rules.Trapped s t x ⟨code, x.pc, x.act, info, addr, false⟩ := by
  have hg := State.grp_of_issue hi
  rcases Nat.lt_or_ge x.gid 8192 with h | h
  · exact ⟨_, State.trapAll_core h .., trapped_of hg rfl rfl (fun _ => rfl) fun h' => absurd h (Nat.not_lt.mpr h')⟩
  · refine ⟨_, State.trapAll_ctrl h .., trapped_of hg (State.alert_groups ..) (State.alert_dies ..)
      (fun h' => absurd h' (Nat.not_lt.mpr h)) fun _ => ?_⟩
    exact s.alert_of_groups_dies ..

/-! ### Words that trap at decode -/

theorem issueTrap_of_error {w : Word} {e : Illegal} (h : decode w = .error e) (priv : Bool) : issueTrap w priv = 0x01 := by
  rw [issueTrap, h]

theorem illegalWordIssue_trapped (hi : s.issue = some x) {w : Word} {e : Illegal} (h : decode w = .error e) :
    ∃ t, execIllegalWordIssue w s = .next t ∧ Rules.Trapped s t x ⟨0x01, x.pc, x.act, w, 0, false⟩ := by
  rw [execIllegalWordIssue, State.withIssue_of hi, issueTrap_of_error h]
  exact State.trapAll_trapped hi ..

theorem gets_trapped (hi : s.issue = some x) {d : Reg} {sel : BitVec 10} {c : Nat}
    (h : (Instr.gets d sel).modeTrap x.g.priv = some c) :
    ∃ t, execGets d sel s = .next t ∧ Rules.Trapped s t x ⟨c, x.pc, x.act, encode (.gets d sel), 0, false⟩ := by
  rw [execGets, State.getsOp, State.withIssue_of hi, h]
  exact State.trapAll_trapped hi ..

theorem ctrlOp_trapped (hi : s.issue = some x) {i : Instr} {c : Nat} (h : i.modeTrap x.g.priv = some c) (srcs : List Operand)
    (dst : Operand) (run : Issue → Nat → List LaneIx → State → Option (State × (LaneIx → List Word))) :
    ∃ t, s.ctrlOp i srcs dst run = .next t ∧ Rules.Trapped s t x ⟨c, x.pc, x.act, encode i, 0, false⟩ := by
  rw [State.ctrlOp, State.withIssue_of hi, h]
  exact State.trapAll_trapped hi ..

/-- A write of ACOWNER has a path of its own, with the same trap. -/
theorem puts_trapped (hi : s.issue = some x) {sel : BitVec 10} {a : Reg} {c : Nat}
    (h : (Instr.puts sel a).modeTrap x.g.priv = some c) :
    ∃ t, execPuts sel a s = .next t ∧ Rules.Trapped s t x ⟨c, x.pc, x.act, encode (.puts sel a), 0, false⟩ := by
  unfold execPuts
  split
  next hs =>
    subst hs
    rw [State.acownerOp, State.withIssue_of hi, h]
    exact State.trapAll_trapped hi ..
  next =>
    rw [State.withIssue_of hi, h]
    exact State.trapAll_trapped hi ..

end

theorem privSelector_iff (k : Nat) : privSelector k = true ↔ 0x100 ≤ k ∧ k ≤ 0x107 := by simp [privSelector]

theorem modeTrap_gets_user {sel : BitVec 10} (d : Reg) (h : privSelector sel.toNat = true) :
    (Instr.gets d sel).modeTrap false = some 0x02 := by simp [Instr.modeTrap, h]
theorem modeTrap_puts_user {sel : BitVec 10} (a : Reg) (h : privSelector sel.toNat = true) :
    (Instr.puts sel a).modeTrap false = some 0x02 := by simp [Instr.modeTrap, h]
theorem modeTrap_puts_unwritable {sel : BitVec 10} (a : Reg) {priv : Bool} (hw : writableIn sel.toNat priv = false)
    (h : (privSelector sel.toNat && !priv) = false) : (Instr.puts sel a).modeTrap priv = some 0x01 := by
  simp [Instr.modeTrap, hw, h]

/-- Settles O56: the four paths of an issue that its mode refuses all end in one trap of every active lane. -/
theorem decodeTraps : Obligations.DecodeTraps := by
  unfold Obligations.DecodeTraps
  intro s x hi
  refine ⟨fun w e hd => illegalWordIssue_trapped hi hd, fun hu i hform => ?_, fun sel a hw hm => puts_trapped hi ?_⟩
  · obtain ⟨d, a, b, rfl | rfl | rfl | rfl | ⟨sel, lo, hi', rfl | rfl⟩⟩ := hform
    · change ∃ t, execDwrd d a s = _ ∧ _
      exact ctrlOp_trapped hi (by rw [hu]; rfl) ..
    · change ∃ t, execDwwr d a b s = _ ∧ _
      exact ctrlOp_trapped hi (by rw [hu]; rfl) ..
    · change ∃ t, execTret a s = _ ∧ _
      exact ctrlOp_trapped hi (by rw [hu]; rfl) ..
    · change ∃ t, execHalt d s = _ ∧ _
      exact ctrlOp_trapped hi (by rw [hu]; rfl) ..
    · exact gets_trapped hi (hu ▸ modeTrap_gets_user d ((privSelector_iff _).mpr ⟨lo, hi'⟩))
    · exact puts_trapped hi (hu ▸ modeTrap_puts_user a ((privSelector_iff _).mpr ⟨lo, hi'⟩))
  · refine modeTrap_puts_unwritable a hw ?_
    cases hp : x.g.priv with
    | true => simp
    | false =>
      have out : ¬ (0x100 ≤ sel.toNat ∧ sel.toNat ≤ 0x107) := by simp [hp] at hm; omega
      simpa [← privSelector_iff] using out

end Sys2Proof.Machine
end

section
/-! SUPPORT. Every instruction and event answers a next state (02 R32; 19 R362): so does each shape that they share, and every
branch of those that have a shape of their own. -/

namespace Sys2Proof.Machine

/-- The outcome is a next state: no fault, and no refusal. -/
def HasNext (o : Out) : Prop := ∃ t, o = .next t

theorem hasNext_next (t : State) : HasNext (.next t) := ⟨t, rfl⟩

theorem hasNext_ite {c : Prop} [Decidable c] {a b : Out} (ha : HasNext a) (hb : HasNext b) : HasNext (if c then a else b) := by
  split
  · exact ha
  · exact hb

/-! ### The shapes of every issue -/

section
variable {s : State} {x : Issue}

theorem hasNext_withIssue {k : Issue → Out} (h : ∀ x, HasNext (k x)) : HasNext (s.withIssue k) := by
  unfold State.withIssue
  split
  · exact hasNext_next s
  · exact h _

theorem hasNext_thenDo {o : Out} {f : State → State} (h : HasNext o) : HasNext (thenDo o f) := by
  obtain ⟨t, rfl⟩ := h
  exact hasNext_next (f t)

theorem hasNext_trapAll {code info addr} : HasNext (s.trapAll x code info addr) := hasNext_next _

theorem hasNext_finishStay {part trap eff stay next} : HasNext (s.finishStay x part trap eff stay next) := by
  unfold State.finishStay
  dsimp only
  split
  · exact hasNext_next _
  · exact hasNext_next _

theorem hasNext_finish {part trap eff next} : HasNext (s.finish x part trap eff next) := hasNext_finishStay

theorem hasNext_reachOp {n k part va wait eff} : HasNext (s.reachOp x n k part va wait eff) :=
  hasNext_ite (hasNext_next s) hasNext_finishStay

theorem hasNext_pinWait {n part srcs trap w k} : HasNext (s.pinWait x n part srcs trap w k) := by
  unfold State.pinWait
  dsimp only
  split
  · exact hasNext_next _
  · exact hasNext_next _

theorem hasNext_inputOp {n part srcs trap key nw dst folds eff val} :
    HasNext (s.inputOp x n part srcs trap key nw dst folds eff val) := by
  unfold State.inputOp
  dsimp only
  split
  · exact hasNext_next _
  · exact hasNext_finish

theorem hasNext_stepOp {guard srcs trap eff stay next} : HasNext (s.stepOp guard srcs trap eff stay next) :=
  hasNext_withIssue fun _ => hasNext_ite (hasNext_next s) hasNext_finishStay

theorem hasNext_valueOp {guard nw srcs wide dst trap f} : HasNext (s.valueOp guard nw srcs wide dst trap f) :=
  hasNext_withIssue fun _ => hasNext_ite (hasNext_next s) hasNext_finish

/-! ### The shapes of the instructions that compute a value in each lane -/

theorem hasNext_laneOp {guard nw srcs dst f} : HasNext (s.laneOp guard nw srcs dst f) := hasNext_valueOp
theorem hasNext_cmpOp {guard nw srcs dst f} : HasNext (s.cmpOp guard nw srcs dst f) := hasNext_valueOp
theorem hasNext_fpOp {g nw srcs d f} : HasNext (s.fpOp g nw srcs d f) := hasNext_valueOp
theorem hasNext_fpCmp {o f} : HasNext (s.fpCmp o f) := by
  unfold State.fpCmp
  exact hasNext_fpOp
theorem hasNext_specialOp {o f} : HasNext (s.specialOp o f) := by
  unfold State.specialOp
  exact hasNext_valueOp
theorem hasNext_modeConv {g nw srcs d f} : HasNext (s.modeConv g nw srcs d f) := by
  unfold State.modeConv
  exact hasNext_fpOp
theorem hasNext_narrowConv {o t high} : HasNext (s.narrowConv o t high) := by
  unfold State.narrowConv
  exact hasNext_fpOp
theorem hasNext_wordConv {g nw srcs w narrow dst f} : HasNext (s.wordConv g nw srcs w narrow dst f) := hasNext_valueOp
theorem hasNext_pack {o t} : HasNext (s.pack o t) := by
  unfold State.pack
  exact hasNext_wordConv
theorem hasNext_unpack {o t} : HasNext (s.unpack o t) := by
  unfold State.unpack
  exact hasNext_wordConv
theorem hasNext_collective {o f} : HasNext (s.collective o f) := hasNext_valueOp
theorem hasNext_branch {o c} : HasNext (s.branch o c) := by
  unfold State.branch
  exact hasNext_stepOp

/-! ### Memory -/

theorem hasNext_loadOp {f t size sext} : HasNext (s.loadOp f t size sext) :=
  hasNext_withIssue fun _ => hasNext_ite (hasNext_next s) hasNext_reachOp

theorem hasNext_storeOp {f t size} : HasNext (s.storeOp f t size) :=
  hasNext_withIssue fun _ => hasNext_ite (hasNext_next s) hasNext_reachOp

theorem hasNext_localOp {guard k off nw dst data} : HasNext (s.localOp guard k off nw dst data) :=
  hasNext_withIssue fun _ => hasNext_ite (hasNext_next s) (hasNext_ite (hasNext_next s) hasNext_finish)

theorem hasNext_atomicOp {word op order scope d a b} : HasNext (s.atomicOp word op order scope d a b) := by
  refine hasNext_withIssue fun x => hasNext_ite (hasNext_next s) ?_
  dsimp only
  split
  · exact hasNext_next _
  · exact hasNext_reachOp

theorem hasNext_atomicX {word op o} : HasNext (s.atomicX word op o) := hasNext_atomicOp

theorem hasNext_fenceDone {acq rel scope vec} : HasNext (s.fenceDone x acq rel scope vec) := hasNext_finish

theorem hasNext_execFence {order scope} : HasNext (execFence order scope s) := by
  refine hasNext_withIssue fun x => hasNext_ite ?_ (hasNext_ite hasNext_fenceDone (hasNext_next s))
  split
  · exact hasNext_next s
  · exact hasNext_ite hasNext_fenceDone (hasNext_next s)
  · exact hasNext_ite (hasNext_next _) (hasNext_next s)

theorem hasNext_execCwb {o} : HasNext (execCwb o s) := by
  refine hasNext_withIssue fun x => hasNext_ite (hasNext_next s) ?_
  dsimp only
  split
  · exact hasNext_reachOp
  · exact hasNext_next s
  · exact hasNext_ite (hasNext_next s) (hasNext_ite hasNext_reachOp (hasNext_next _))

theorem hasNext_execCinv {o} : HasNext (execCinv o s) :=
  hasNext_withIssue fun _ => hasNext_ite (hasNext_next s) hasNext_reachOp

theorem hasNext_execPref {o} : HasNext (execPref o s) :=
  hasNext_withIssue fun _ => hasNext_ite (hasNext_next s) hasNext_finish

/-! ### Shuffles, windows and loops -/

theorem hasNext_thenScrub {a read} {o : Out} (h : HasNext o) : HasNext (s.thenScrub a read o) := by
  obtain ⟨t, rfl⟩ := h
  unfold State.thenScrub
  cases s.issue with
  | none => exact hasNext_next t
  | some x => exact hasNext_ite (hasNext_next t) (hasNext_next _)

theorem hasNext_shuffle {g nw d a own j} : HasNext (s.shuffle g nw d a own j) := hasNext_thenScrub hasNext_valueOp

theorem hasNext_windowEnd {n srcs tr moves links} : HasNext (s.windowEnd x n srcs tr moves links) := hasNext_finish

theorem hasNext_windowOp {w srcs trap delta links next} : HasNext (s.windowOp w srcs trap delta links next) := by
  refine hasNext_withIssue fun x => ?_
  dsimp only
  split
  · exact hasNext_ite hasNext_windowEnd (hasNext_next s)
  · exact hasNext_ite (hasNext_next s) (hasNext_ite hasNext_windowEnd (hasNext_next _))

theorem hasNext_execLoop {a len} : HasNext (execLoop a len s) := by
  refine hasNext_withIssue fun x => ?_
  dsimp only
  split
  · exact hasNext_next s
  refine hasNext_ite (hasNext_next s) ?_
  split
  · exact hasNext_trapAll
  refine hasNext_ite hasNext_trapAll (hasNext_ite hasNext_finish (hasNext_ite hasNext_finish (hasNext_ite hasNext_trapAll
    (hasNext_ite hasNext_trapAll ?_))))
  split
  · exact hasNext_next _
  · split
    · exact hasNext_next _
    · exact hasNext_finish
  · refine hasNext_ite hasNext_trapAll ?_
    split
    · exact hasNext_next _
    · exact hasNext_finish

/-! ### The engine, the matrix unit and the task unit -/

theorem hasNext_objOp {guard word srcs a init again f} : HasNext (s.objOp guard word srcs a init again f) :=
  hasNext_withIssue fun _ => hasNext_ite (hasNext_next s) hasNext_finish

theorem hasNext_execBtest {o} : HasNext (execBtest o s) :=
  hasNext_withIssue fun _ => hasNext_ite (hasNext_next s) hasNext_inputOp

theorem hasNext_waitDone {n o part srcs trap ws first} : HasNext (s.waitDone x n o part srcs trap ws first) := by
  refine hasNext_ite hasNext_finish ?_
  dsimp only
  split
  · exact hasNext_next _
  · exact hasNext_ite (hasNext_next _) hasNext_inputOp

theorem hasNext_execBwait {o} : HasNext (execBwait o s) := by
  refine hasNext_withIssue fun x => ?_
  dsimp only
  split
  · exact hasNext_ite hasNext_waitDone (hasNext_next s)
  · exact hasNext_ite (hasNext_next s) (hasNext_ite hasNext_waitDone hasNext_pinWait)

theorem hasNext_copyOp {guard nw word d a size trap start key} :
    HasNext (s.copyOp guard nw word d a size trap start key) := by
  refine hasNext_withIssue fun x => hasNext_ite (hasNext_next s) (hasNext_ite (hasNext_next s) ?_)
  dsimp only
  split
  · exact hasNext_next _
  · exact hasNext_finish

theorem hasNext_execCpywait {o} : HasNext (execCpywait o s) :=
  hasNext_withIssue fun _ => hasNext_ite (hasNext_next s) hasNext_finish

theorem hasNext_execCpyst {o} : HasNext (execCpyst o s) :=
  hasNext_withIssue fun _ => hasNext_ite (hasNext_next s) hasNext_inputOp

theorem hasNext_mmaOp {word a b split zero} : HasNext (s.mmaOp word a b split zero) := by
  refine hasNext_withIssue fun x => ?_
  dsimp only
  split
  · exact hasNext_trapAll
  · exact hasNext_finish
  · exact hasNext_next s
  refine hasNext_ite (hasNext_next s) ?_
  split
  · exact hasNext_trapAll
  split
  · refine hasNext_ite (hasNext_next _) ?_
    split
    · exact hasNext_trapAll
    · exact hasNext_ite (hasNext_next _) (hasNext_ite hasNext_finish (hasNext_next _))
  · exact hasNext_next _

theorem hasNext_accOp {guard srcs dst own idx eff} : HasNext (s.accOp guard srcs dst own idx eff) :=
  hasNext_withIssue fun _ => hasNext_ite (hasNext_next s) hasNext_finish

theorem hasNext_outcomeOp {guard nw word srcs d scope rel trap wait f} :
    HasNext (s.outcomeOp guard nw word srcs d scope rel trap wait f) :=
  hasNext_withIssue fun _ => hasNext_ite (hasNext_next s) hasNext_inputOp

theorem hasNext_publishOp {o word fin} : HasNext (s.publishOp o word fin) := by
  refine hasNext_withIssue fun x => ?_
  dsimp only
  split
  · exact hasNext_ite (hasNext_next s) hasNext_finish
  · exact hasNext_ite (hasNext_next s) (hasNext_ite hasNext_inputOp (hasNext_ite hasNext_finish hasNext_pinWait))
  · exact hasNext_ite (hasNext_next s) hasNext_finish

theorem hasNext_execVstale {o} : HasNext (execVstale o s) := by
  refine hasNext_withIssue fun x => hasNext_ite (hasNext_next s) ?_
  dsimp only
  split
  · exact hasNext_next _
  · exact hasNext_ite hasNext_finishStay hasNext_inputOp

theorem hasNext_boardOp {guard nw word srcs dst kind trap} : HasNext (s.boardOp guard nw word srcs dst kind trap) := by
  refine hasNext_withIssue fun x => hasNext_ite (hasNext_next s) ?_
  dsimp only
  split
  · exact hasNext_next _
  · exact hasNext_finish

theorem hasNext_execVrd {o} : HasNext (execVrd o s) := hasNext_withIssue fun _ => hasNext_boardOp

theorem hasNext_execVslack : HasNext (execVslack s) := hasNext_withIssue fun _ => hasNext_ite hasNext_finish (hasNext_next _)

/-! ### Modes: system registers and the control instructions -/

theorem hasNext_getsOp {d sel} : HasNext (s.getsOp d sel) := by
  refine hasNext_withIssue fun x => ?_
  split
  · exact hasNext_trapAll
  refine hasNext_ite (hasNext_next s) ?_
  split
  · exact hasNext_inputOp
  · exact hasNext_finish

theorem hasNext_acownerOp {word a} : HasNext (s.acownerOp word a) := by
  refine hasNext_withIssue fun x => ?_
  split
  · exact hasNext_trapAll
  dsimp only
  split
  · exact hasNext_finish
  · exact hasNext_next s
  refine hasNext_ite (hasNext_next s) ?_
  split
  · exact hasNext_trapAll
  · exact hasNext_ite hasNext_finish hasNext_pinWait

theorem hasNext_execPuts {sel a} : HasNext (execPuts sel a s) := by
  refine hasNext_ite hasNext_acownerOp (hasNext_withIssue fun x => ?_)
  split
  · exact hasNext_trapAll
  refine hasNext_ite (hasNext_next s) ?_
  dsimp only
  split
  · exact hasNext_trapAll
  · exact hasNext_finish

theorem hasNext_ctrlOp {i srcs dst run} : HasNext (s.ctrlOp i srcs dst run) := by
  refine hasNext_withIssue fun x => ?_
  split
  · exact hasNext_trapAll
  refine hasNext_ite (hasNext_next s) ?_
  dsimp only
  split
  · exact hasNext_next s
  · exact hasNext_finish

theorem hasNext_execIllegalWordIssue {w} : HasNext (execIllegalWordIssue w s) := hasNext_withIssue fun _ => hasNext_trapAll

/-! ### Requests -/

theorem hasNext_manage {r type rom die} {k : State → Out} (h : ∀ s, HasNext (k s)) : HasNext (s.manage r type rom die k) :=
  hasNext_ite (hasNext_next s) <| hasNext_ite (hasNext_next _) <| hasNext_ite
    (hasNext_ite (hasNext_next _) (hasNext_ite (hasNext_next _) (h s)))
    (hasNext_ite (hasNext_next _) (h _))

theorem hasNext_managePart {r type die} {k : Part → State → Out} (h : ∀ p s, HasNext (k p s)) :
    HasNext (s.managePart r type die k) := by
  refine hasNext_manage fun s => hasNext_ite (hasNext_next _) ?_
  split
  · exact hasNext_next _
  · exact h _ _

theorem hasNext_lateRequest {r type} : HasNext (s.lateRequest r type) := hasNext_manage fun _ => hasNext_next _

theorem hasNext_ctxRequest {die c command} : HasNext (s.ctxRequest die c command) :=
  hasNext_manage fun _ => hasNext_ite (hasNext_next _) (hasNext_ite (hasNext_next _) (hasNext_next _))

theorem hasNext_keyChange {r ident pair} : HasNext (s.keyChange r ident pair) :=
  hasNext_ite (hasNext_next _) (hasNext_next _)

theorem hasNext_execContextSave {die via} : HasNext (execContextSave die via s) := by
  unfold execContextSave
  split
  · exact hasNext_ctxRequest
  refine hasNext_ite (hasNext_next s) ?_
  dsimp only
  split
  · exact hasNext_next _
  split
  · exact hasNext_ite (hasNext_next _) (hasNext_next _)
  · exact hasNext_next _

theorem hasNext_execContextRestore {die via} : HasNext (execContextRestore die via s) := by
  unfold execContextRestore
  split
  · exact hasNext_ctxRequest
  refine hasNext_ite (hasNext_next s) ?_
  split
  · exact hasNext_next s
  · exact hasNext_next _

theorem hasNext_execEbbFinalCopy : HasNext (execEbbFinalCopy s) := by
  unfold execEbbFinalCopy
  split
  · exact hasNext_next s
  refine hasNext_ite (hasNext_next s) (hasNext_ite (hasNext_next s) (hasNext_ite (hasNext_ite (hasNext_next s) (hasNext_next _)) ?_))
  split
  exact hasNext_next _

theorem hasNext_execDataQpCreate {r service} : HasNext (execDataQpCreate r service s) := by
  refine hasNext_managePart fun _ s => ?_
  dsimp only
  split
  · exact hasNext_next _
  · exact hasNext_next _

theorem hasNext_execPartitionDestroy {r} : HasNext (execPartitionDestroy r s) :=
  hasNext_ite (hasNext_ite (hasNext_next s) (hasNext_next _)) (hasNext_managePart fun _ _ => hasNext_next _)

theorem hasNext_execKeyDestroy {r ident} : HasNext (execKeyDestroy r ident s) :=
  hasNext_ite (hasNext_thenDo hasNext_keyChange) (hasNext_manage fun _ => hasNext_ite (hasNext_next _) hasNext_keyChange)

theorem hasNext_execKeyReplace {r ident point wrapped} : HasNext (execKeyReplace r ident point wrapped s) :=
  hasNext_ite (hasNext_thenDo hasNext_keyChange) (hasNext_manage fun _ => hasNext_ite (hasNext_next _)
    (hasNext_ite (hasNext_next _) hasNext_keyChange))

end

/-! ### Every instruction and event -/

/-- What shares a shape goes by the shape's lemma, what has a `let` before it once that is reduced; the last groups are events and
requests of which every branch ends in a next state. -/
theorem hasNext_exec (i : Instr) (s : State) : HasNext (exec i s) := by
  cases i
  all_goals dsimp only [exec]
  case add | sub | mullo | maclo | mulhs | mulhn | mins | minn | maxs | maxn | and | or | xor | andn | shl | shr | sra | rotl
    | clz | popc | brev | bswap | mov | addd | subd | mulw | mulws | shld | shrd | srad | bfx | bfi | lih | lil | lis | fabs
    | fneg | fcpsgn | fclass | amax4 => exact hasNext_laneOp
  case addi | andi | ori | xori | shli | shri | srai | rotli | muli =>
    dsimp only [execAddi, execAndi, execOri, execXori, execShli, execShri, execSrai, execRotli, execMuli]
    exact hasNext_laneOp
  case gprd | gpwr | adpc => exact hasNext_valueOp
  case sel | fmtchk =>
    dsimp only [execSel, execFmtchk]
    exact hasNext_valueOp
  case ceq | cne | clts | cltn | cles | clen => exact hasNext_cmpOp
  case ceqi | cltsi | cltni =>
    dsimp only [execCeqi, execCltsi, execCltni]
    exact hasNext_cmpOp
  case fadd | fsub | fmul | fma | fmin | fmax | frint | ffloor | fceil | ftrunc | cvtfi | fdot2F16x2 | fdot2Bf16x2 =>
    exact hasNext_fpOp
  case fceq | fclt | fcle | fcun => exact hasNext_fpCmp
  case frcp | frsq | fsqrt | fex2 | flg2 | fsinpi | fcospi => exact hasNext_specialOp
  case cvtfn | cvtnf => exact hasNext_wordConv
  case cvtif | cvthf | cvtbf => exact hasNext_modeConv
  case cvtfhl | cvtfhh | cvtfbl | cvtfbh => exact hasNext_narrowConv
  case pack8 | pack8h | pack8b => exact hasNext_pack
  case unpk8 | unpk8h | unpk8b => exact hasNext_unpack
  case shfx | shfup | shfdn | shfix | bcasti | shfxi => exact hasNext_shuffle
  case vall | vany | vbal | vcnt | redadd | redmin | redmax | fredadd | scanadd | fscanadd => exact hasNext_collective
  case jmp | exit | rjen | rjdrop | rjclr | nop | yield | bar | bara | brk | ifence => exact hasNext_stepOp
  case jmpr | rjwait | trapc | sigx | icinv | sflush | vstop =>
    dsimp only [execJmpr, execRjwait, execTrapc, execSigx, execIcinv, execSflush, execVstop]
    exact hasNext_stepOp
  case call | ret | wadj => exact hasNext_windowOp
  case callr =>
    dsimp only [execCallr]
    exact hasNext_windowOp
  case beq | bne | blts | bltn | bges | bgen => exact hasNext_branch
  case ldw | ldd | ldq | ldhn | ldhs | ldbn | ldbs | ldwx | lddx => exact hasNext_loadOp
  case stw | std | stq | sth | stb | stwx | stdx => exact hasNext_storeOp
  case llw | lsw | lld | lsd | llq | lsq => exact hasNext_localOp
  case aadd | aand | aor | axor | amins | aminn | amaxs | amaxn | aswap | afadd => exact hasNext_atomicX
  case acas | ald | ast => exact hasNext_atomicOp
  case cpy | put | putm =>
    dsimp only [execCpy, execPut, execPutm]
    exact hasNext_copyOp
  case binit | barv | bkill | bexp => exact hasNext_objOp
  case mma | mmas | mmaz => exact hasNext_mmaOp
  case acwr | acz => exact hasNext_accOp
  case acrd | accvt =>
    dsimp only [execAcrd, execAccvt]
    exact hasNext_accOp
  case spawn | launch =>
    dsimp only [execSpawn, execLaunch]
    exact hasNext_outcomeOp
  case vpub | vfin => exact hasNext_publishOp
  case vseen => exact hasNext_boardOp
  case gets | cycloRead => exact hasNext_getsOp
  case dwrd | dwwr | tret | halt => exact hasNext_ctrlOp
  case acownerWrite => exact hasNext_acownerOp
  case loop => exact hasNext_execLoop
  case fence => exact hasNext_execFence
  case cwb => exact hasNext_execCwb
  case cinv => exact hasNext_execCinv
  case pref => exact hasNext_execPref
  case cpywait => exact hasNext_execCpywait
  case cpyst => exact hasNext_execCpyst
  case bwait => exact hasNext_execBwait
  case btest => exact hasNext_execBtest
  case vstale => exact hasNext_execVstale
  case vrd => exact hasNext_execVrd
  case vslack => exact hasNext_execVslack
  case puts => exact hasNext_execPuts
  case illegalWordIssue => exact hasNext_execIllegalWordIssue
  case contextSave => exact hasNext_execContextSave
  case contextRestore => exact hasNext_execContextRestore
  case ebbFinalCopy => exact hasNext_execEbbFinalCopy
  case partitionDestroy => exact hasNext_execPartitionDestroy
  case keyReplace => exact hasNext_execKeyReplace
  case keyDestroy => exact hasNext_execKeyDestroy
  case dataQpCreate => exact hasNext_execDataQpCreate
  case epochClose | binTimerExpire | releaseWave | preemptForce | permitArbitration | shedForce | resetPin | hostPortsUp
    | dieSupplyChange | mmasInstanceStart => exact hasNext_next _
  case acownerChange | contextCommandDone | icacheFill | translationWalkDone | asyncReturn | storeCurrentAtHome | atomicAtHome
    | loadAtHome | sharerUpdateApply | storeAck | closeMarkerArrive | sequencerServe | spillBlock | fillBlock | loopPacketEject
    | edgeFlitSend | edgeFlitReceive | edgeAckReceive | edgeNakReceive | windowAuditSend | windowAuditReceive | linkLossOfLock
    | linkRetrainDone | linkDown | rutikPlaneDown | copyReadReturn | copyLanding | putReceive | putReply | mmaQueueStart
    | mmaOperandRead | mmaComplete | groupRetire | teamRetire | commit | gridEnd | holdTimeout | demeritExpire | fpThresholdEvent
    | binGroupStart | overflowDrain | taskUnitClock | doorbellWrite | dispatch | placement | compactorMove | teamSave
    | cutMarkerReceive | cutComplete | ebbPass | ebbMessageReceive | domainIntervalBoundary | boostClaim | domainIdleEnter
    | domainWake | telemetryFrame | telemetryLoss | powerControlStep | thermalThrottle | thermalRecover | thermalTrip | rdmaWrite
    | rdmaRead | uecPacketReceive | cmReq | cmRtu | cmDreq | regionFlushDrained | tlbShootdownComplete | memoryScrubComplete
    | controllerAcceptsWrite | linkTrainingComplete =>
    dsimp only [execAcownerChange, execContextCommandDone, execIcacheFill, execTranslationWalkDone, execAsyncReturn,
      execStoreCurrentAtHome, execAtomicAtHome, execLoadAtHome, execSharerUpdateApply, execStoreAck, execCloseMarkerArrive,
      execSequencerServe, execSpillBlock, execFillBlock, execLoopPacketEject, execEdgeFlitSend, execEdgeFlitReceive,
      execEdgeAckReceive, execEdgeNakReceive, execWindowAuditSend, execWindowAuditReceive, execLinkLossOfLock,
      execLinkRetrainDone, execLinkDown, execRutikPlaneDown, execCopyReadReturn, execCopyLanding, execPutReceive, execPutReply,
      execMmaQueueStart, execMmaOperandRead, execMmaComplete, execGroupRetire, execTeamRetire, execCommit, execGridEnd,
      execHoldTimeout, execDemeritExpire, execFpThresholdEvent, execBinGroupStart, execOverflowDrain, execTaskUnitClock,
      execDoorbellWrite, execDispatch, execPlacement, execCompactorMove, execTeamSave, execCutMarkerReceive, execCutComplete,
      execEbbPass, execEbbMessageReceive, execDomainIntervalBoundary, execBoostClaim, execDomainIdleEnter, execDomainWake,
      execTelemetryFrame, execTelemetryLoss, execPowerControlStep, execThermalThrottle, execThermalRecover, execThermalTrip,
      execRdmaWrite, execRdmaRead, execUecPacketReceive, execCmReq, execCmRtu, execCmDreq, execRegionFlushDrained,
      execTlbShootdownComplete, execMemoryScrubComplete, execControllerAcceptsWrite, execLinkTrainingComplete]
    repeat' (split <;> try exact hasNext_next _)
  case unknownRequest | identity | healthRecord | powerStatusRead | powerStatusClear | suspectSliceClear | packageReset =>
    exact hasNext_manage fun _ => hasNext_next _
  case migrationSession | firmwareChunk | firmwareStart | partitionCreate | regionTableWrite | regionFlush | slotTableWrite
    | multicastEntryLoad | keyInstall | powerSettingsWrite | demeritPolicySet | unfence | linkStatusRead | linkStatusClear
    | linkReset | packageNumberSet | ueAddressSet =>
    dsimp only [execMigrationSession, execFirmwareChunk, execFirmwareStart, execPartitionCreate, execRegionTableWrite,
      execRegionFlush, execSlotTableWrite, execMulticastEntryLoad, execKeyInstall, execPowerSettingsWrite, execDemeritPolicySet,
      execUnfence, execLinkStatusRead, execLinkStatusClear, execLinkReset, execPackageNumberSet, execUeAddressSet]
    refine hasNext_manage fun _ => ?_
    repeat' (split <;> try exact hasNext_next _)
  case doorbellPageRead | tlbShootdown => exact hasNext_managePart fun _ _ => hasNext_next _
  case preemption | cut | hostQueueDescriptorWrite | spillPoolSet | logRegionSet | overflowQueueSet | holdTimeoutSet
    | pageTableRootSet | dataQpDestroy | killGrid =>
    dsimp only [execPreemption, execCut, execHostQueueDescriptorWrite, execSpillPoolSet, execLogRegionSet, execOverflowQueueSet,
      execHoldTimeoutSet, execPageTableRootSet, execDataQpDestroy, execKillGrid]
    refine hasNext_managePart fun _ _ => ?_
    repeat' (split <;> try exact hasNext_next _)

/-! ### The step -/

theorem hasNext_runTurn (s : State) : HasNext s.runTurn := by
  unfold State.runTurn
  split
  · exact hasNext_next s
  split
  · exact hasNext_next s
  · exact hasNext_thenDo (hasNext_exec _ s)

theorem hasNext_runMove (m : Move) (s : State) : HasNext (runMove m s) := by
  unfold runMove
  split
  · exact hasNext_thenDo (hasNext_runTurn _)
  · exact hasNext_ite (hasNext_thenDo (hasNext_exec _ s)) (hasNext_next s)
  · exact hasNext_thenDo hasNext_lateRequest
  · exact hasNext_next _

theorem hasNext_step (s : State) : HasNext (step s) := by
  unfold step
  split
  · exact hasNext_exec _ _
  · exact hasNext_next _
  · exact hasNext_next s
  · exact hasNext_runMove _ _
  · exact hasNext_thenDo (hasNext_runTurn s)

section
variable {s : State} (tripped : s.phase = .tripped)
include tripped

theorem step_of_tripped_nil (h : s.agenda = []) : step s = .next s := by
  rw [step, tripped, h]

theorem step_of_tripped_move {m : Move} {rest : List Move} (h : s.agenda = m :: rest) (hm : m ≠ .event .resetPin) :
    step s = .next { s with agenda := rest } := by
  rw [step, tripped, h]
  split
  next hl => exact absurd (List.head_eq_of_cons_eq hl) hm
  next hl => rw [List.tail_eq_of_cons_eq hl]
  next hl => cases hl
  all_goals
    next hne => exact absurd rfl hne

theorem step_of_tripped_resetPin {rest : List Move} (h : s.agenda = .event .resetPin :: rest) :
    step s = exec .resetPin { s with agenda := rest } := by
  rw [step, tripped, h]

end

theorem freshPackage_afterReset (s : State) (phase : BootPhase) : Rules.FreshPackage s (s.afterReset phase) phase [] := by
  rw [Rules.FreshPackage, State.afterReset, List.append_nil]

/-- Settles O54: by the shape of each instruction and event; a package held in reset by the thermal trip by what its agenda holds. -/
theorem alwaysAnswers : Obligations.AlwaysAnswers := by
  unfold Obligations.AlwaysAnswers
  refine ⟨hasNext_exec, hasNext_step, fun s hp => ⟨step_of_tripped_nil hp, fun m rest ha => ⟨step_of_tripped_move hp ha, ?_⟩⟩⟩
  rintro rfl
  exact ⟨_, step_of_tripped_resetPin hp ha, freshPackage_afterReset ..⟩

end Sys2Proof.Machine
end

section
/-! SUPPORT. Laws of links and of packets on their way (04 R73 to R87): what a direction of a link holds after each update, and that
sending and arriving change of a link no more than its queue, its reassembly and its count of dropped copies. -/

namespace Sys2Proof.Machine

/-- Reading a table whose values have been changed one by one. -/
theorem Tab.find_map_snd {α β : Type} (m : Tab α) (f : α → β) (k : Nat) :
    Tab.find (m.map fun e => (e.1, f e.2)) k = (m.find k).map f := by
  induction m with
  | nil => rfl
  | cons e t ih =>
    obtain ⟨k', v⟩ := e
    simp only [List.map_cons, Tab.find_cons, ih]
    split <;> rfl

/-! ### The directions of links -/

theorem LinkId.index_inj {k l : LinkId} : 2 * k.link + k.rev.toNat = 2 * l.link + l.rev.toNat ↔ k = l := by
  obtain ⟨n, r⟩ := k
  obtain ⟨m, q⟩ := l
  rw [LinkId.mk.injEq]
  cases r <;> cases q <;> simp <;> omega

@[simp] theorem State.link_setLink (s : State) (l : LinkId) (v : LinkDir) (k : LinkId) :
    (s.setLink l v).link k = if k = l then v else s.link k := by
  simp only [State.link, State.setLink_links, Tab.getD_setD, LinkId.index_inj]

theorem State.link_congr {s t : State} (h : t.links = s.links) (l : LinkId) : t.link l = s.link l := by
  rw [State.link, State.link, h]

/-- A change of both directions of a link changes no other link (R83). -/
@[simp] theorem State.link_bothDirs (s : State) (n : Nat) (f : LinkDir → LinkDir) (l : LinkId) :
    (s.bothDirs n f).link l = if l.link = n then f (s.link l) else s.link l := by
  obtain ⟨m, r⟩ := l
  simp only [State.bothDirs, State.link_setLink, LinkId.mk.injEq]
  cases r <;> by_cases h : m = n <;> simp [h]

theorem State.bothDirs_rest (s : State) (n : Nat) (f : LinkDir → LinkDir) : { s.bothDirs n f with links := s.links } = s := by
  cases s
  rfl

theorem State.link_startRetrain (s : State) (n : Nat) (rev : Bool) : (s.startRetrain n).link ⟨n, rev⟩ =
    { s.link ⟨n, rev⟩ with
      state := 2, wire := [], seenFlits := 0, refused := [], retrain := min ((s.link ⟨n, rev⟩).retrain + 1) 4095 } := by
  rw [State.startRetrain, State.link_bothDirs, if_pos rfl, satInc]

/-! ### The wire of a link and what a packet's travel leaves of it -/

/-- A direction of a link without what packets change on their way: its queue, its reassembly and its count of dropped copies. -/
def LinkDir.wired (d : LinkDir) : LinkDir := { d with queue := [], parts := [], mcDrop := 0 }

/-- Setting a direction that differs in nothing else leaves every wire. -/
theorem State.wired_setLink {s : State} {l : LinkId} {v : LinkDir} (h : v.wired = (s.link l).wired) (k : LinkId) :
    ((s.setLink l v).link k).wired = (s.link k).wired := by
  rw [State.link_setLink]
  split
  next hk => rw [h, hk]
  next => rfl

section enter
variable (s : State) (pid : Nat) (p : Packet)

@[simp] theorem State.enter_packets : (s.enter pid p).packets = s.packets.put pid { p with seq := s.nextId, on := none } := by
  unfold State.enter; dsimp only [State.fresh]; split <;> rfl
@[simp] theorem State.enter_nextId : (s.enter pid p).nextId = s.nextId + 1 := by
  unfold State.enter; dsimp only [State.fresh]; split <;> rfl
@[simp] theorem State.enter_groups : (s.enter pid p).groups = s.groups := by
  unfold State.enter; dsimp only [State.fresh]; split <;> rfl
@[simp] theorem State.enter_dram : (s.enter pid p).dram = s.dram := by
  unfold State.enter; dsimp only [State.fresh]; split <;> rfl
theorem State.wired_enter (l : LinkId) : ((s.enter pid p).link l).wired = (s.link l).wired := by
  unfold State.enter
  dsimp only [State.fresh]
  split
  · exact (State.wired_setLink (by rfl) l).trans rfl
  · rfl

end enter

/-- From `s` to `t` packets with new names have been sent and none that was on its way has moved; groups, memory and wires stay. -/
structure Sent (s t : State) : Prop where
  groups : t.groups = s.groups
  dram : t.dram = s.dram
  nextId : s.nextId ≤ t.nextId
  packet : ∀ pid < s.nextId, t.packets.find pid = s.packets.find pid
  wired : ∀ l, (t.link l).wired = (s.link l).wired

theorem Sent.refl (s : State) : Sent s s := ⟨rfl, rfl, le_rfl, fun _ _ => rfl, fun _ => rfl⟩

theorem Sent.trans {s t u : State} (h : Sent s t) (k : Sent t u) : Sent s u :=
  ⟨k.groups.trans h.groups, k.dram.trans h.dram, h.nextId.trans k.nextId,
    fun pid hp => (k.packet pid (hp.trans_le h.nextId)).trans (h.packet pid hp), fun l => (k.wired l).trans (h.wired l)⟩

theorem sent_ite {s t u : State} {c : Prop} [Decidable c] (ht : Sent s t) (hu : Sent s u) : Sent s (if c then t else u) := by
  split
  · exact ht
  · exact hu

theorem sent_foldl {α : Type} {f : State → α → State} (h : ∀ s a, Sent s (f s a)) (as : List α) (s : State) :
    Sent s (as.foldl f s) := by
  induction as generalizing s with
  | nil => exact Sent.refl s
  | cons a t ih => exact (h s a).trans (ih _)

theorem sent_send (s : State) (part flits : Nat) (legs : List Leg) (c : Cargo) : Sent s (s.send part flits legs c) := by
  unfold State.send
  split
  · exact Sent.refl s
  · refine ⟨by simp [State.fresh], by simp [State.fresh], by simp [State.fresh]; omega, fun pid hp => ?_, fun l => ?_⟩
    · simp [State.fresh, hp.ne]
    · exact State.wired_enter { s with nextId := s.nextId + 1 } ..

theorem sent_sendAll (s : State) (part bytes : Nat) (legs : List Leg) (c : Cargo) : Sent s (s.sendAll part bytes legs c) :=
  sent_foldl (fun s n => sent_send s part n legs c) _ s

theorem sent_addDest (s : State) (core cid : Nat) (d : PutDest) : Sent s (s.addDest core cid d) :=
  ⟨rfl, rfl, le_rfl, fun _ _ => rfl, fun _ => rfl⟩

theorem sent_countDrop (s : State) (d d' : Nat) : Sent s (s.countDrop d d') :=
  ⟨rfl, rfl, le_rfl, fun _ _ => rfl, fun l => State.wired_setLink (by rfl) l⟩

/-- A multicast transfer that spreads from a station (R77). -/
theorem sent_spread (s : State) (part core cid ident die st : Nat) (seen : List Nat) (e : BitVec 128) :
    Sent s (s.spread part core cid ident die st seen e) := by
  unfold State.spread
  split
  · exact Sent.refl s
  · have dests (cs ds : List Nat) := (sent_foldl (fun s k => sent_addDest s core cid { core := k, tslot := gridSlot }) cs s).trans
      (sent_foldl (fun s _ => sent_addDest s core cid { core := core, tslot := 33, stage := 1, err := 0x05 }) ds _)
    exact (sent_ite ((dests _ _).trans (sent_addDest ..)) (dests _ _)).trans (sent_foldl (fun _ _ => sent_sendAll ..) _ _)

/-- What a packet's arrival does by itself (R77 to R79; 17 R332). -/
theorem sent_arrive (s : State) (part : Nat) (c : Cargo) : Sent s (s.arrive part c) := by
  unfold State.arrive
  split
  case h_1 core cid ident die seen =>
    split
    · exact Sent.refl s
    · dsimp only
      split
      · exact sent_spread ..
      · exact (sent_countDrop ..).trans (sent_addDest ..)
  case h_2 id =>
    split
    · exact ⟨rfl, rfl, le_rfl, fun _ _ => rfl, fun _ => rfl⟩
    · exact Sent.refl s
  case h_3 id => exact ⟨rfl, rfl, le_rfl, fun _ _ => rfl, fun _ => rfl⟩
  case h_4 => exact Sent.refl s

/-- A multicast packet at a station that ejects it rides on with the rest of its legs and stops, or is gone after the last (R77). -/
theorem sent_stopDone (s : State) (pid : Nat) (p : Packet) (core cid ident die : Nat) (seen : List Nat) (stops : List (Nat × Nat)) :
    Sent { s with
        packets := if (p.legs.drop 1).isEmpty then s.packets.del pid else s.packets.put pid
          { p with legs := p.legs.drop 1, cargo := .mput core cid ident die seen (stops.drop 1) } }
      (s.stopDone pid p core cid ident die seen stops) := by
  unfold State.stopDone
  dsimp only
  cases stops.head? with
  | none => exact Sent.refl _
  | some stop =>
    refine sent_ite (sent_send ..) ?_
    cases edgeDie die stop.1 with
    | some d' => exact sent_send ..
    | none => exact Sent.refl _

/-- A packet that a cut holds leaves the links as they are (19 R379). -/
theorem State.links_holdPacket (s : State) (i pid : Nat) (p : Packet) (leg : Leg) : (s.holdPacket i pid p leg).links = s.links := by
  unfold State.holdPacket
  dsimp only
  split
  · split <;> rfl
  · rfl
  · split
    · rfl
    · split
      · split <;> rfl
      · rfl
  · rfl

/-- The end of a packet's leg leaves every wire. -/
theorem State.wired_legDone (s : State) (pid : Nat) (l : LinkId) : ((s.legDone pid).link l).wired = (s.link l).wired := by
  unfold State.legDone
  split
  · rfl
  dsimp only
  split
  · rw [State.link_congr (State.links_holdPacket ..)]
  split
  · exact (sent_stopDone ..).wired l
  split
  · exact (sent_arrive ..).wired l
  · exact State.wired_enter ..

/-- So do the loop flits that a receiver takes out of an edge flit (R81). -/
theorem State.wired_reassemble (s : State) (l : LinkId) (lanes : List (Nat × Nat)) (k : LinkId) :
    ((s.reassemble l lanes).link k).wired = (s.link k).wired := by
  unfold State.reassemble
  induction lanes generalizing s with
  | nil => rfl
  | cons e t ih =>
    rw [List.foldl_cons, ih]
    dsimp only
    split
    · rfl
    split
    · exact State.wired_setLink (by rfl) k
    · rw [State.wired_legDone]
      exact State.wired_setLink (by rfl) k

end Sys2Proof.Machine
end

section
/-! SUPPORT. What each event of a packet's travel and of a link does, case by case (04 R73 to R87), and the statement on packets, flits and
link states. -/

namespace Sys2Proof.Machine

/-! ### Packets on a loop (R73 to R77) -/

/-- An empty container of the packet's partition takes the packet that is first on its path (R74, R75). -/
theorem State.find_injectInto {s : State} {pid c n : Nat} {p : Packet} {g : Leg} {rest : List Leg} {d : Die} {a b : Nat}
    (hp : s.packets.find pid = some p) (hl : p.legs = g :: rest) (hd : g.onDie = some (d, a, b)) (hn : g.loopNo = some n)
    (hf : s.firstOn p g = true) (hon : p.on = none) (hc : c < loopContainers n) (howner : s.slotOwner d n (c % 16) = p.part)
    (hempty : ∀ e ∈ s.packets, e.2.rides d n c = false) :
    (s.injectInto pid c).packets.find pid = some { p with on := some c, seq := s.nextId } := by
  have he : s.emptyAt p.part d n c = true := by simpa [State.emptyAt, howner] using fun k v h => hempty (k, v) h
  simp [State.injectInto, hp, hl, hd, hn, hon, hc, he, hf]

/-- A packet that rides its loop first on its path has travelled its leg when an ejection buffer is free (R74). -/
theorem execLoopPacketEject_of_first {s : State} {pid c n : Nat} {p : Packet} {g : Leg} {rest : List Leg} {d : Die} {a b : Nat}
    (hp : s.packets.find pid = some p) (hl : p.legs = g :: rest) (hd : g.onDie = some (d, a, b)) (hn : g.loopNo = some n)
    (hf : s.firstOn p g = true) (hon : p.on = some c) (hfree : ejectKey d n b ∉ s.ejFull) :
    execLoopPacketEject pid s = .next (s.legDone pid) := by
  simp [execLoopPacketEject, hp, hl, hd, hn, hon, hf, hfree]

section legDone
variable {s : State} {pid : Nat} {p : Packet} (hp : s.packets.find pid = some p) (hc : s.cuts = [])
include hp hc

theorem State.legDone_of_mput {core cid ident die : Nat} {seen : List Nat} {stops : List (Nat × Nat)}
    (h : p.cargo = .mput core cid ident die seen stops) : s.legDone pid = s.stopDone pid p core cid ident die seen stops := by
  simp [State.legDone, hp, hc, h]

theorem State.legDone_of_next (h : ∀ core cid ident die seen stops, p.cargo ≠ .mput core cid ident die seen stops)
    (hl : p.legs.drop 1 ≠ []) : s.legDone pid = s.enter pid { p with legs := p.legs.drop 1 } := by
  simp only [State.legDone, hp, hc, List.findIdx?_nil, Option.map_none, Option.bind_fun_none, List.isEmpty_iff, if_neg hl]

theorem State.legDone_of_last (h : ∀ core cid ident die seen stops, p.cargo ≠ .mput core cid ident die seen stops)
    (hl : p.legs.drop 1 = []) : s.legDone pid = { s with packets := s.packets.del pid }.arrive p.part p.cargo := by
  simp only [State.legDone, hp, hc, List.findIdx?_nil, Option.map_none, Option.bind_fun_none, List.isEmpty_iff, if_pos hl]

/-- A packet that is not multicast starts its next leg, or is gone after its last. -/
theorem State.find_legDone_of_unicast (hlt : pid < s.nextId)
    (h : ∀ core cid ident die seen stops, p.cargo ≠ .mput core cid ident die seen stops) :
    (s.legDone pid).packets.find pid =
      if p.legs.drop 1 = [] then none else some { p with legs := p.legs.drop 1, on := none, seq := s.nextId } := by
  split
  next hl =>
    rw [State.legDone_of_last hp hc h hl]
    exact ((sent_arrive { s with packets := s.packets.del pid } ..).packet pid hlt).trans (by rw [Tab.find_del, if_pos rfl])
  next hl => rw [State.legDone_of_next hp hc h hl, State.enter_packets, Tab.find_put, if_pos rfl]

/-- A multicast one goes on in its container to the next stop, or is gone after the last (R77). -/
theorem State.find_legDone_of_mput (hlt : pid < s.nextId) {core cid ident die : Nat} {seen : List Nat} {stops : List (Nat × Nat)}
    (h : p.cargo = .mput core cid ident die seen stops) :
    (s.legDone pid).packets.find pid = if p.legs.drop 1 = [] then none else
      some { p with legs := p.legs.drop 1, cargo := .mput core cid ident die seen (stops.drop 1) } := by
  rw [State.legDone_of_mput hp hc h, (sent_stopDone ..).packet pid hlt]
  simp only [List.isEmpty_iff]
  split
  · rw [Tab.find_del, if_pos rfl]
  · rw [Tab.find_put, if_pos rfl]

theorem State.find_legDone_of_last (hlt : pid < s.nextId) (hl : p.legs.drop 1 = []) : (s.legDone pid).packets.find pid = none := by
  by_cases h : ∃ core cid ident die seen stops, p.cargo = .mput core cid ident die seen stops
  · obtain ⟨core, cid, ident, die, seen, stops, h⟩ := h
    rw [State.find_legDone_of_mput hp hc hlt h, if_pos hl]
  · push Not at h
    rw [State.find_legDone_of_unicast hp hc hlt h, if_pos hl]

theorem State.legDone_groups_dram : (s.legDone pid).groups = s.groups ∧ (s.legDone pid).dram = s.dram := by
  by_cases h : ∃ core cid ident die seen stops, p.cargo = .mput core cid ident die seen stops
  · obtain ⟨core, cid, ident, die, seen, stops, h⟩ := h
    rw [State.legDone_of_mput hp hc h]
    exact ⟨(sent_stopDone ..).groups, (sent_stopDone ..).dram⟩
  · push Not at h
    by_cases hl : p.legs.drop 1 = []
    · rw [State.legDone_of_last hp hc h hl]
      exact ⟨(sent_arrive ..).groups, (sent_arrive ..).dram⟩
    · rw [State.legDone_of_next hp hc h hl]
      exact ⟨State.enter_groups .., State.enter_dram ..⟩

end legDone

/-! ### Edge flits (R81 to R85) -/

section
variable {s : State} {l : LinkId}

theorem execEdgeFlitSend_of_unacked {f : EFlit} (hst : (s.link l).state = 1) (hf : (s.link l).replay[(s.link l).sentTo]? = some f) :
    execEdgeFlitSend l s =
      .next (s.setLink l { s.link l with wire := (s.link l).wire ++ [f], sentTo := (s.link l).sentTo + 1 }) := by
  simp [execEdgeFlitSend, hst, hf]

/-- The flit that a sender packs from the head of its queue (R81). -/
def LinkDir.packed (d : LinkDir) : EFlit := { seq := d.nextSeq, lanes := d.queue.take 4 }

theorem execEdgeFlitSend_of_room (hst : (s.link l).state = 1) (hf : (s.link l).replay[(s.link l).sentTo]? = none)
    (hq : (s.link l).queue ≠ []) (hw : 0 < (s.link l).win) (hr : (s.link l).replay.length < 1024) (ha : (s.link l).auditDue = false) :
    execEdgeFlitSend l s = .next (s.setLink l { s.link l with
      queue := (s.link l).queue.drop 4, nextSeq := ((s.link l).nextSeq + 1) % 65536
      replay := (s.link l).replay ++ [(s.link l).packed], sentTo := (s.link l).sentTo + 1, win := (s.link l).win - 1
      wire := (s.link l).wire ++ [(s.link l).packed], sent := ((s.link l).sent + 1) % 2 ^ 32 }) := by
  simp [execEdgeFlitSend, LinkDir.packed, hst, hf, hq, hw, hr, ha]

/-- The receiver once the flit at the end of the wire has come. -/
def LinkDir.came (d : LinkDir) (rest : List EFlit) : LinkDir := { d with wire := rest, seenFlits := d.seenFlits + 1 }
/-- The receiver once it has accepted the flit (R82, R84). -/
def LinkDir.accepted (d : LinkDir) (rest : List EFlit) : LinkDir :=
  LinkDir.answer { d.came rest with expect := (d.expect + 1) % 65536, inUse := d.inUse + 1 } false

section receive
variable {f : EFlit} {rest : List EFlit} (hw : (s.link l).wire = f :: rest) (ha : f.audit = none)
include hw ha

theorem execEdgeFlitReceive_of_expected (hq : f.seq = (s.link l).expect) (hb : f.bad = false) (hu : (s.link l).inUse < 392) :
    execEdgeFlitReceive l true s = .next ((s.setLink l ((s.link l).accepted rest)).reassemble l f.lanes) := by
  simp [execEdgeFlitReceive, LinkDir.accepted, LinkDir.came, hw, ha, hq, hb, hu]

/-- A flit with a bad CRC is refused, and so is the expected one that finds all buffers in use (R82, R84). -/
theorem execEdgeFlitReceive_of_refused {crcOk : Bool} (h : crcOk = false ∨ (f.seq = (s.link l).expect ∧ 392 ≤ (s.link l).inUse)) :
    let r := ((s.link l).came rest).refuse
    execEdgeFlitReceive l crcOk s =
      .next (if r.2 || 392 ≤ r.1.inUse then (s.setLink l r.1).startRetrain l.link else s.setLink l r.1) := by
  intro r
  unfold execEdgeFlitReceive
  simp only [hw, ha]
  rcases h with rfl | ⟨hq, hu⟩
  · rfl
  · have here : (f.seq + 65536 - (s.link l).expect) % 65536 = 0 := by omega
    rw [if_neg (by simp), if_neg (by simp [hu]), if_neg (by simp [here])]
    rfl

end receive
/-- The answer that a receiver gives: the last number accepted, the credits owed and an audit's D (R82, R84, R85). -/
def LinkDir.ack (d : LinkDir) (nak : Bool) : Ack :=
  { upto := (d.expect + 65535) % 65536, credits := d.owed, d := d.dOwed.map fun n => (n + 2 ^ 32 - d.freed) % 2 ^ 32, nak }

theorem LinkDir.acks_answer (d : LinkDir) (nak : Bool) : (d.answer nak).acks = d.acks ++ [d.ack nak] := rfl

/-- The refusals within the last 65,536 flits (R83). -/
def LinkDir.recent (d : LinkDir) : List Nat := d.refused.filter fun n => d.seenFlits < n + 65536

/-- A refusal is noted, and the 16th within 65,536 flits is one too many (R83). -/
theorem LinkDir.refuse_eq (d : LinkDir) :
    d.refuse = ({ d.answer true with refused := d.seenFlits :: d.recent }, decide (15 ≤ d.recent.length)) := by
  unfold LinkDir.refuse
  dsimp only
  rw [List.filter_cons_of_pos (by simp)]
  exact congrArg _ (decide_eq_decide.mpr Nat.succ_le_succ_iff)

section refused
variable {f : EFlit} {rest : List EFlit} {crcOk : Bool} (hw : (s.link l).wire = f :: rest) (ha : f.audit = none)
  (h : crcOk = false ∨ (f.seq = (s.link l).expect ∧ 392 ≤ (s.link l).inUse))
include hw ha h

/-- Too many refusals, or no free buffer, retrain the link (R83, R84). -/
theorem execEdgeFlitReceive_of_retrain (hr : 15 ≤ ((s.link l).came rest).recent.length ∨ 392 ≤ (s.link l).inUse) :
    execEdgeFlitReceive l crcOk s = .next ((s.setLink l ((s.link l).came rest).refuse.1).startRetrain l.link) := by
  have hu : ((s.link l).came rest).refuse.1.inUse = (s.link l).inUse := rfl
  rw [execEdgeFlitReceive_of_refused hw ha h, hu, LinkDir.refuse_eq, if_pos (by simpa using hr)]

theorem execEdgeFlitReceive_of_nak (hr : ((s.link l).came rest).recent.length < 15) (hu : (s.link l).inUse < 392) :
    execEdgeFlitReceive l crcOk s = .next (s.setLink l ((s.link l).came rest).refuse.1) := by
  have hu' : ((s.link l).came rest).refuse.1.inUse = (s.link l).inUse := rfl
  rw [execEdgeFlitReceive_of_refused hw ha h, hu', LinkDir.refuse_eq, if_neg (by simp; omega)]

end refused

/-- The window after an answer: its credits, or what an audit finds (R84, R85). -/
def LinkDir.windowAfter (d : LinkDir) (a : Ack) : Int :=
  if a.d = none then d.win + a.credits else 384 - (a.d.getD 0) - ((d.sent + 2 ^ 32 - d.audited) % 2 ^ 32 : Nat)

/-- An answer takes the acknowledged flits out of the replay buffer and sets the window; besides, it counts what an audit finds. -/
theorem LinkDir.credit_eq (d : LinkDir) (a : Ack) :
    ∃ loss gain, d.credit a = { d.acked a.upto with win := d.windowAfter a, audLoss := loss, audGain := gain } := by
  unfold LinkDir.credit LinkDir.windowAfter
  cases a.d with
  | none => exact ⟨_, _, rfl⟩
  | some n =>
    rw [if_neg (Option.some_ne_none n), Option.getD_some]
    dsimp only
    split
    next hw => exact ⟨_, _, congrArg (fun w => { d.acked a.upto with win := w }) hw⟩
    next =>
      split
      · exact ⟨_, _, rfl⟩
      · exact ⟨_, _, rfl⟩

theorem LinkDir.acked_of_found {d : LinkDir} {upto i : Nat} (h : (d.replay.findIdx? fun f => f.seq == upto) = some i) :
    d.acked upto = { d with replay := d.replay.drop (i + 1), sentTo := d.sentTo - (i + 1) } := by
  rw [LinkDir.acked, h]
  rfl

theorem LinkDir.credit_of_found {d : LinkDir} {a : Ack} {i : Nat} (h : (d.replay.findIdx? fun f => f.seq == a.upto) = some i) :
    ∃ loss gain, d.credit a = { d with
      replay := d.replay.drop (i + 1), sentTo := d.sentTo - (i + 1), win := d.windowAfter a, audLoss := loss, audGain := gain } := by
  obtain ⟨loss, gain, hc⟩ := d.credit_eq a
  exact ⟨loss, gain, by rw [hc, LinkDir.acked_of_found h]⟩

section answered
variable {a : Ack} {rest : List Ack} {i : Nat} (ha : (s.link l).acks = a :: rest)
  (hi : ((s.link l).replay.findIdx? fun f => f.seq == a.upto) = some i)
include ha hi

theorem execEdgeAckReceive_of_found (hn : a.nak = false) : ∃ loss gain, execEdgeAckReceive l s = .next (s.setLink l { s.link l with
    acks := rest, replay := (s.link l).replay.drop (i + 1), sentTo := (s.link l).sentTo - (i + 1)
    win := (s.link l).windowAfter a, audLoss := loss, audGain := gain }) := by
  obtain ⟨loss, gain, h⟩ := LinkDir.credit_of_found (d := { s.link l with acks := rest }) hi
  exact ⟨loss, gain, by simp only [execEdgeAckReceive, ha, hn, h]; rfl⟩

theorem execEdgeNakReceive_of_found (hn : a.nak = true) : ∃ loss gain, execEdgeNakReceive l s = .next (s.setLink l { s.link l with
    acks := rest, replay := (s.link l).replay.drop (i + 1), sentTo := 0
    win := (s.link l).windowAfter a, audLoss := loss, audGain := gain }) := by
  obtain ⟨loss, gain, h⟩ := LinkDir.credit_of_found (d := { s.link l with acks := rest }) hi
  exact ⟨loss, gain, by simp only [execEdgeNakReceive, ha, hn, h]; rfl⟩

end answered

theorem execWindowAuditSend_of_due (hst : (s.link l).state = 1)
    (hdue : 4096 ≤ ((s.link l).sent + 2 ^ 32 - (s.link l).audited) % 2 ^ 32) : execWindowAuditSend l s =
      .next (s.setLink l { s.link l with
        audited := (s.link l).sent
        wire := (s.link l).wire ++ [{ seq := 0, lanes := [], audit := some (s.link l).sent }] }) := by
  have due : (s.link l).auditDue = true := decide_eq_true hdue
  simp [execWindowAuditSend, hst, due]

theorem execWindowAuditReceive_of_audit {f : EFlit} {n : Nat} {rest : List EFlit} (hw : (s.link l).wire = f :: rest)
    (ha : f.audit = some n) (intact : Bool) : execWindowAuditReceive l intact s =
      .next (s.setLink l { s.link l with
        wire := rest, dOwed := if intact && !f.bad then some n else (s.link l).dOwed }) := by
  simp only [execWindowAuditReceive, hw, ha]

end

/-! ### Packets, flits, credits and audits -/

/-- Packets, edge flits, credits and audits, event by event (R73 to R76, R81, R82, R84, R85). -/
theorem packetsAndFlits : Rules.PacketsAndFlits := by
  unfold Rules.PacketsAndFlits
  refine fun s => ⟨fun pid p g rest d a b n hp hl hd hn hf => ⟨?_, ?_⟩, fun l => ⟨fun hst => ⟨?_, ?_⟩, ?_, ?_, ?_, ?_⟩⟩
  · exact fun c hon hc howner hempty => State.find_injectInto hp hl hd hn hf hon hc howner hempty
  · intro c hon hfree hcuts hlt
    obtain ⟨hgroups, hdram⟩ := State.legDone_groups_dram hp hcuts
    have hrest : p.legs.drop 1 = rest := by rw [hl]; rfl
    refine ⟨_, execLoopPacketEject_of_first hp hl hd hn hf hon hfree, hgroups, hdram, ?_, ?_, ?_⟩
    · exact fun hr => State.find_legDone_of_last hp hcuts hlt (hrest.trans hr)
    · intro hr hcargo
      exact ⟨_, by rw [State.find_legDone_of_unicast hp hcuts hlt hcargo, hrest, if_neg hr]⟩
    · intro hr core cid ident die seen stops hcargo
      rw [State.find_legDone_of_mput hp hcuts hlt hcargo, hrest, if_neg hr]
  · exact fun f hf => ⟨_, execEdgeFlitSend_of_unacked hst hf, rfl, by rw [State.link_setLink, if_pos rfl]⟩
  · intro hf hq hw hr ha
    refine ⟨_, (s.link l).packed, execEdgeFlitSend_of_room hst hf hq hw hr ha, rfl, rfl, ?_⟩
    rw [State.link_setLink, if_pos rfl]
    exact ⟨rfl, rfl, rfl, rfl, rfl⟩
  · intro f rest hw hlt ha
    refine ⟨fun hq hb hu => ?_, fun hq hu => ?_, fun hr hu => ?_, fun hr => ?_⟩
    · have wired := State.wired_reassemble (s.setLink l ((s.link l).accepted rest)) l f.lanes l
      rw [State.link_setLink, if_pos rfl] at wired
      refine ⟨_, execEdgeFlitReceive_of_expected hw ha hq hb hu, congrArg LinkDir.wire wired, congrArg LinkDir.inUse wired,
        congrArg LinkDir.expect wired, (congrArg LinkDir.acks wired).trans ((LinkDir.acks_answer ..).trans ?_)⟩
      have upto : (((s.link l).expect + 1) % 65536 + 65535) % 65536 = f.seq := by omega
      rw [← upto]
      rfl
    · refine ⟨_, execEdgeFlitReceive_of_retrain hw ha (.inr ⟨hq, hu⟩) (.inr hu), fun rev => ?_⟩
      rw [State.link_startRetrain]
      exact ⟨rfl, rfl⟩
    · refine ⟨_, ((s.link l).came rest).ack true, execEdgeFlitReceive_of_nak hw ha (.inl rfl) hr hu, ?_⟩
      rw [State.link_setLink, if_pos rfl, LinkDir.refuse_eq]
      exact ⟨rfl, LinkDir.acks_answer .., rfl, rfl, rfl⟩
    · refine ⟨_, execEdgeFlitReceive_of_retrain hw ha (.inl rfl) (.inl hr), fun rev => ?_⟩
      rw [State.link_startRetrain]
      exact ⟨rfl, rfl⟩
  · intro a rest i ha hi
    refine ⟨fun hn => ?_, fun hn => ?_⟩
    · obtain ⟨loss, gain, he⟩ := execEdgeAckReceive_of_found ha hi hn
      refine ⟨_, he, rfl, ?_⟩
      rw [State.link_setLink, if_pos rfl]
      exact ⟨rfl, rfl, rfl, rfl⟩
    · obtain ⟨loss, gain, he⟩ := execEdgeNakReceive_of_found ha hi hn
      refine ⟨_, he, rfl, ?_⟩
      rw [State.link_setLink, if_pos rfl]
      exact ⟨rfl, rfl, rfl, rfl⟩
  · exact fun hst hdue => ⟨_, execWindowAuditSend_of_due hst hdue, by rw [State.link_setLink, if_pos rfl]⟩
  · intro f n rest hw ha hb
    refine ⟨⟨_, execWindowAuditReceive_of_audit hw ha _, ?_⟩, ⟨_, execWindowAuditReceive_of_audit hw ha _, ?_⟩⟩
    · rw [State.link_setLink, if_pos rfl, hb]
      rfl
    · rw [State.link_setLink, if_pos rfl]
      rfl

end Sys2Proof.Machine
end

section
/-! SUPPORT. What retraining, training and the loss of a link or of a Rutik plane leave (04 R83, R86, R87). -/

namespace Sys2Proof.Machine

/-! ### A Rutik plane that goes down (R87) -/

/-- A leg over one direction of a link, turned to another. -/
def Leg.turned (l l' : LinkId) (g : Leg) : Leg := if g = .link l then .link l' else g

/-- A packet whose path leads over another direction of a link. -/
def Packet.turned (l l' : LinkId) (p : Packet) : Packet := { p with legs := p.legs.map (Leg.turned l l') }

/-- The flits that a direction of a link holds, queued and unacknowledged, packet by packet. -/
def State.heldFlits (s : State) (l : LinkId) : List (Nat × Nat) :=
  let pids := ((s.link l).replay.flatMap EFlit.lanes ++ (s.link l).queue).map Prod.fst
  (s.packets.filter fun e => pids.contains e.1).flatMap fun e => (List.range e.2.flits).map fun i => (e.1, i)

/-- They depend on the direction, and on the packets' names and lengths. -/
theorem State.heldFlits_congr {s t : State} {l : LinkId} {f : Packet → Packet} (hf : ∀ p, (f p).flits = p.flits)
    (hp : t.packets = s.packets.map fun e => (e.1, f e.2)) (hr : (t.link l).replay = (s.link l).replay)
    (hq : (t.link l).queue = (s.link l).queue) : t.heldFlits l = s.heldFlits l := by
  simp only [State.heldFlits, hp, hr, hq, List.filter_map, List.flatMap_map, hf, Function.comp_def]

theorem State.packets_movePlane (s : State) (l l' : LinkId) : (s.movePlane l l').packets =
    s.packets.map fun e => (e.1, e.2.turned l l') := rfl

theorem State.link_movePlane (s : State) {l l' : LinkId} (h : l' ≠ l) (k : LinkId) : (s.movePlane l l').link k =
    if k = l' then { s.link l' with queue := s.heldFlits l ++ (s.link l').queue }
    else if k = l then { s.link l with queue := [], replay := [], sentTo := 0, wire := [], parts := [] } else s.link k := by
  simp only [State.movePlane, State.link_setLink, if_neg h]
  rfl

theorem State.nextPlane_ne {s : State} {n q : Nat} (_hn : n < 16) (h : s.nextPlane n = some q) : q < 16 ∧ q ≠ n := by
  obtain ⟨i, hi, rfl⟩ := List.mem_map.mp (List.mem_of_find?_eq_some h)
  have := List.mem_range.mp hi
  omega

/-- The choice of the next plane does not ask about the plane itself. -/
theorem State.nextPlane_bothDirs (s : State) {n : Nat} (_hn : n < 16) (f : LinkDir → LinkDir) :
    (s.bothDirs (8 + n) f).nextPlane n = s.nextPlane n := by
  refine List.find?_congr fun p hp => ?_
  obtain ⟨i, hi, rfl⟩ := List.mem_map.mp hp
  have := List.mem_range.mp hi
  rw [State.link_bothDirs, if_neg (by dsimp only; omega)]

/-- The two directions of a plane's link move to another plane's (R87). -/
def State.moveBoth (s : State) (n q : Nat) : State :=
  (s.movePlane ⟨8 + n, false⟩ ⟨8 + q, false⟩).movePlane ⟨8 + n, true⟩ ⟨8 + q, true⟩

theorem execRutikPlaneDown_of_next {s : State} {n q : Nat} (hn : n < 16) (h : s.nextPlane n = some q) :
    execRutikPlaneDown n s = .next ((s.bothDirs (8 + n) fun d => { d with state := 3 }).moveBoth n q) := by
  rw [execRutikPlaneDown, if_neg (by omega)]
  dsimp only
  rw [State.nextPlane_bothDirs _ hn, h]
  rfl

section moveBoth
variable (s : State) {n q : Nat} (h : q ≠ n) (rev : Bool)
include h

theorem State.link_moveBoth_from : (s.moveBoth n q).link ⟨8 + n, rev⟩ =
    { s.link ⟨8 + n, rev⟩ with queue := [], replay := [], sentTo := 0, wire := [], parts := [] } := by
  cases rev <;> simp [State.moveBoth, State.link_movePlane, h, h.symm]

theorem State.link_moveBoth_to : (s.moveBoth n q).link ⟨8 + q, rev⟩ =
    { s.link ⟨8 + q, rev⟩ with queue := s.heldFlits ⟨8 + n, rev⟩ ++ (s.link ⟨8 + q, rev⟩).queue } := by
  have same : (s.movePlane ⟨8 + n, false⟩ ⟨8 + q, false⟩).heldFlits ⟨8 + n, true⟩ = s.heldFlits ⟨8 + n, true⟩ :=
    State.heldFlits_congr (f := Packet.turned _ _) (fun _ => rfl) (State.packets_movePlane ..) (by simp [State.link_movePlane, h])
      (by simp [State.link_movePlane, h])
  cases rev <;> simp [State.moveBoth, State.link_movePlane, h, same]

end moveBoth

/-- A packet's legs over the plane's link lead over the other plane's, each way. -/
theorem State.find_moveBoth (s : State) (n q pid : Nat) : (s.moveBoth n q).packets.find pid = (s.packets.find pid).map fun p =>
    { p with legs := p.legs.map fun g =>
        if g = .link ⟨8 + n, false⟩ then .link ⟨8 + q, false⟩ else if g = .link ⟨8 + n, true⟩ then .link ⟨8 + q, true⟩ else g } := by
  have both (g : Leg) : Leg.turned ⟨8 + n, true⟩ ⟨8 + q, true⟩ (Leg.turned ⟨8 + n, false⟩ ⟨8 + q, false⟩ g) =
      if g = .link ⟨8 + n, false⟩ then .link ⟨8 + q, false⟩ else if g = .link ⟨8 + n, true⟩ then .link ⟨8 + q, true⟩ else g := by
    unfold Leg.turned
    split <;> simp
  rw [State.moveBoth, State.packets_movePlane, State.packets_movePlane, Tab.find_map_snd, Tab.find_map_snd, Option.map_map]
  simp only [Packet.turned, Function.comp_def, List.map_map, both]

theorem State.link_emit (s : State) (m : Msg) (l : LinkId) : (s.emit m).link l = s.link l := rfl

/-! ### The states of links (R83, R86, R87) -/

section
variable {s : State} {n : Nat}

theorem execLinkLossOfLock_of_up (h : (s.link ⟨n, false⟩).state = 1) : execLinkLossOfLock n s = .next (s.startRetrain n) := if_pos h

theorem execLinkRetrainDone_of_retraining (h : (s.link ⟨n, false⟩).state = 2) :
    execLinkRetrainDone n s = .next (s.bothDirs n fun d => { d with state := 1, sentTo := 0 }) := if_pos h

theorem execLinkTrainingComplete_of_training (h : (s.link ⟨n, false⟩).state = 0) :
    execLinkTrainingComplete n s = .next (s.bothDirs n fun d => { d with state := 1, sentTo := 0 }) := if_pos h

theorem execLinkDown_of_retraining (h : (s.link ⟨n, false⟩).state = 2) :
    execLinkDown n s = .next ((s.bothDirs n fun d => { d with state := 3 }).emit (.firmware "link down" n)) := if_pos h

end

/-- The states of links, and a plane's flows on another plane (R83, R86, R87). -/
theorem linkStates : Rules.LinkStates := by
  unfold Rules.LinkStates
  refine fun s n => ⟨fun up => ?_, fun up => ?_, fun up => ?_, fun up => ?_, fun q hn hq => ?_⟩
  · exact ⟨_, execLinkLossOfLock_of_up up, s.bothDirs_rest .., s.link_startRetrain n⟩
  · exact ⟨_, execLinkRetrainDone_of_retraining up, s.bothDirs_rest .., fun rev => by rw [State.link_bothDirs, if_pos rfl]⟩
  · exact ⟨_, execLinkTrainingComplete_of_training up, s.bothDirs_rest .., fun rev => by rw [State.link_bothDirs, if_pos rfl]⟩
  · refine ⟨_, execLinkDown_of_retraining up, rfl, fun rev => ?_⟩
    rw [State.link_emit, State.link_bothDirs, if_pos rfl]
  · obtain ⟨hlt, hne⟩ := State.nextPlane_ne hn hq
    have other (rev : Bool) : (s.bothDirs (8 + n) fun d => { d with state := 3 }).link ⟨8 + q, rev⟩ = s.link ⟨8 + q, rev⟩ := by
      rw [State.link_bothDirs, if_neg (by dsimp only; omega)]
    refine ⟨hlt, hne, _, execRutikPlaneDown_of_next hn hq, fun rev => ?_, fun pid p hp => ?_⟩
    · dsimp only
      rw [State.link_moveBoth_from _ hne, State.link_moveBoth_to _ hne, other, State.link_bothDirs, if_pos rfl]
      refine ⟨rfl, rfl, rfl, congrArg (· ++ _) ?_⟩
      exact State.heldFlits_congr (f := id) (fun _ => rfl) (by simp; rfl) (by rw [State.link_bothDirs, if_pos rfl])
        (by rw [State.link_bothDirs, if_pos rfl])
    · rw [State.find_moveBoth]
      exact congrArg _ hp

/-- Settles O34: event by event, from what the event leaves of its link or its packet; what a packet's arrival sends has new names
and leaves every wire. -/
theorem packetsAndLinks : Obligations.PacketsAndLinks := ⟨packetsAndFlits, linkStates⟩

end Sys2Proof.Machine
end

section
/-! SUPPORT. Nothing leaves the package while its memory is read: neither a line's fill and eviction nor a walk of the tables sends
anything off it (03 R51, R57, R63; 21 R412). -/

namespace Sys2Proof.Machine

/-- What no step of a fold changes, the fold does not change. -/
theorem foldl_same {α β γ : Type} (m : β → γ) {f : β → α → β} (h : ∀ b a, m (f b a) = m b) (as : List α) (b : β) :
    m (as.foldl f b) = m b := by
  induction as generalizing b with
  | nil => rfl
  | cons a t ih => rw [List.foldl_cons, ih, h]

theorem State.out_putBlock (s : State) (lid bn : Nat) (bs : List Byte) : (s.putBlock lid bn bs).out = s.out := by
  unfold State.putBlock
  split <;> rfl

theorem State.out_putSector (s : State) (lid sn : Nat) (bs : List Byte) (bad : Bool) : (s.putSector lid sn bs bad).out = s.out := by
  unfold State.putSector
  dsimp only
  exact foldl_same State.out (fun _ _ => State.out_putBlock ..) _ s

theorem State.out_writeBackOf (s : State) (k : Nat) (which : L2Line → BitVec 4) : (s.writeBackOf k which).out = s.out := by
  unfold State.writeBackOf
  split
  · rfl
  · dsimp only
    refine foldl_same State.out (fun s i => ?_) _ s
    split
    · exact State.out_putSector ..
    · rfl

theorem State.out_l1Drop (s : State) (c ln7 : Nat) : (s.l1Drop c ln7).out = s.out := rfl

theorem State.out_l1DropAll (s : State) (ln : Nat) : (s.l1DropAll ln).out = s.out := by
  unfold State.l1DropAll
  dsimp only
  exact foldl_same State.out (fun _ _ => (State.out_l1Drop ..).trans (State.out_l1Drop ..)) _ s

theorem State.out_evict (s : State) (k : Nat) : (s.evict k).out = s.out :=
  (State.out_l1DropAll ..).trans (State.out_writeBackOf ..)

theorem State.out_makeRoom (s : State) (home set : Nat) : (s.makeRoom home set).out = s.out := by
  unfold State.makeRoom
  split
  · rfl
  · exact State.out_evict ..

theorem State.out_openLine (s : State) (home ln key : Nat) : (s.openLine home ln key).out = s.out := by
  unfold State.openLine
  dsimp only
  split
  · exact State.out_makeRoom ..
  · split
    · rfl
    · exact (State.out_makeRoom ..).trans (State.out_evict ..)

theorem State.out_fillSector (s : State) (home ln i : Nat) : (s.fillSector home ln i).out = s.out := by
  unfold State.fillSector
  dsimp only
  split
  · rfl
  · split <;> rfl

/-- A read at a home (03 R51, R63). -/
theorem State.out_readHome (s : State) (pa key n : Nat) : (s.readHome pa key n).1.out = s.out :=
  (foldl_same State.out (fun _ _ => State.out_fillSector ..) _ _).trans (State.out_openLine ..)

/-- The entry of a die's walker cache for a table address; leaves of the last level are not cached (03 R58, R60). -/
def State.cachedEntry (s : State) (d part pa level : Nat) : Option PteC :=
  if level = 0 then none else (s.die d).pteCache.find? fun c => c.part == part && c.level == level && c.pa == pa

/-- A table entry at an address, cached or read at its home, and whether it is uncorrectable (03 R57). -/
def State.walkEntry (s : State) (pa : Nat) (cached : Option PteC) : State × Dword × Bool :=
  match cached with
  | some c => (s, c.entry, false)
  | none =>
    let (s, bs, bad) := s.readHome pa 0 8
    (s, BitVec.ofNat 64 (natOfBytes bs), bad)

theorem State.out_walkEntry (s : State) (pa : Nat) (cached : Option PteC) : (s.walkEntry pa cached).1.out = s.out := by
  cases cached with
  | some c => rfl
  | none => exact State.out_readHome ..

/-- One level of a walk, and what goes on from the next level's table (03 R57). -/
def State.walkLevel (s : State) (now : Bool) (d part va table level : Nat) (next : State → Nat → State × WalkEnd) : State × WalkEnd :=
  let pa := table + 8 * vaIndex va level
  let cached := s.cachedEntry d part pa level
  if !now && cached.isNone && !(s.homeReady 31 pa 0 8 && s.wayOpen 31 (72 * d + 64) pa) then (s, .wait)
  else
    let (s, e, bad) := s.walkEntry pa cached
    if bad then (s, .absent level)
    else if s.leafOk e level then
      let b := pageBits level
      (s, .leaf ⟨part, b, va / 2 ^ b, (e.extractLsb' 0 40).toNat / 2 ^ b, (e.extractLsb' 48 16).toNat, e.extractLsb' 2 4⟩)
    else if tableOk e level then
      let s := if cached.isSome || level = 0 then s else
        s.updDie d fun k => { k with pteCache := (⟨part, level, pa, e⟩ :: k.pteCache).take 256 }
      next s ((e.extractLsb' 0 40).toNat / 2 ^ 11 * 2 ^ 11)
    else (s, .absent level)

theorem State.walkFrom_zero (s : State) (now : Bool) (d part va table : Nat) :
    s.walkFrom now d part va table 0 = s.walkLevel now d part va table 0 fun s _ => (s, .absent 0) := rfl
theorem State.walkFrom_succ (s : State) (now : Bool) (d part va table n : Nat) :
    s.walkFrom now d part va table (n + 1) = s.walkLevel now d part va table (n + 1) fun s next => s.walkFrom now d part va next n := rfl

theorem State.out_walkLevel (s : State) (now : Bool) (d part va table level : Nat) {next : State → Nat → State × WalkEnd}
    (h : ∀ s table, (next s table).1.out = s.out) : (s.walkLevel now d part va table level next).1.out = s.out := by
  unfold State.walkLevel
  dsimp only
  split
  · rfl
  generalize hr : s.walkEntry _ _ = r
  have entry : r.1.out = s.out := by rw [← hr, State.out_walkEntry]
  split
  · exact entry
  split
  · exact entry
  split
  · rw [h]
    split
    · exact entry
    · exact entry
  · exact entry

/-- A walk of the tables (03 R57). -/
theorem State.out_walkFrom (s : State) (now : Bool) (d part va table level : Nat) :
    (s.walkFrom now d part va table level).1.out = s.out := by
  induction level generalizing s table with
  | zero =>
    rw [State.walkFrom_zero]
    exact State.out_walkLevel _ _ _ _ _ _ _ fun _ _ => rfl
  | succ n ih =>
    rw [State.walkFrom_succ]
    exact State.out_walkLevel _ _ _ _ _ _ _ fun s table => ih s table

theorem State.out_walkTables (s : State) (now : Bool) (d part : Nat) (va : Dword) : (s.walkTables now d part va).1.out = s.out := by
  unfold State.walkTables
  split
  · rfl
  · exact State.out_walkFrom ..

/-- A translation for the part or the host (03 R59; 21 R412). -/
theorem State.out_lookPart (s : State) (die part : Nat) (va : Dword) (need : BitVec 4) : (s.lookPart die part va need).1.out = s.out := by
  have h := s.out_walkTables true die part va
  unfold State.lookPart
  split <;> (next hw => rw [hw] at h; exact h)

/-- A read of bytes of a partition (21 R412). -/
theorem State.out_partRead (s : State) (part : Nat) (va : Dword) (n : Nat) : (s.partRead part va n).1.out = s.out := by
  refine foldl_same (fun acc : State × Option (List Byte) => acc.1.out) (fun acc p => ?_) _ (s, some [])
  obtain ⟨u, _ | bs⟩ := acc
  · rfl
  have look := u.out_lookPart (u.taskDie part) part (BitVec.ofNat 64 p.2.1) needRead
  dsimp only
  split
  next h =>
    rw [h] at look
    exact (State.out_readHome ..).trans look
  next h =>
    rw [h] at look
    exact look

end Sys2Proof.Machine
end

section
/-! SUPPORT. What the host's accesses, the connection messages and the events of bring-up do, case by case (04 R88; 21 R412 to R422, R427),
and the statement on them. -/

namespace Sys2Proof.Machine

/-! ### RDMA and the doorbell page (R345, R412, R427) -/

theorem foldl_range_ite {β : Type} (g : β → β) (q m : Nat) (b : β) :
    (List.range m).foldl (fun b n => if n = q then g b else b) b = if q < m then g b else b := by
  induction m with
  | zero => rfl
  | succ m ih =>
    rw [List.range_succ, List.foldl_append, ih, List.foldl_cons, List.foldl_nil]
    by_cases hm : m = q
    · rw [if_pos hm, if_neg (by omega), if_pos (by omega)]
    · rw [if_neg hm]
      exact if_congr (by omega) rfl rfl

/-- Bytes of a whole word ring its doorbell and no other (R345). -/
theorem State.ringBytes_word (s : State) (part : Nat) {queue : Nat} (hq : queue < 64) {bytes : List Byte} (hl : bytes.length = 8) :
    s.ringBytes part (8 * queue) bytes = s.ring part queue (BitVec.ofNat 64 (natOfBytes bytes)) := by
  have word (old : List Byte) : ((List.range 8).map fun i =>
      if 8 * queue ≤ 8 * queue + i then bytes.getD (8 * queue + i - 8 * queue) (old.getD i 0) else old.getD i 0) = bytes := by
    refine List.ext_getElem (by simp [hl]) fun i _ hi => ?_
    simp [hi]
  unfold State.ringBytes
  trans (List.range 64).foldl (fun s n => if n = queue then s.ring part queue (BitVec.ofNat 64 (natOfBytes bytes)) else s) s
  · congr
    funext s n
    by_cases hn : n = queue
    · subst hn
      simp only [hl, word]
      simp
    · rw [if_neg hn, if_neg (by simp; omega)]
  · rw [foldl_range_ite (fun s : State => s.ring part queue _), if_pos hq]

theorem State.partWrite_of_false {s s1 : State} {part : Nat} {va : Dword} {bs : List Byte} {cc : Clk} {rel : Option RelRec}
    (h : s.partWrite part va bs cc rel = (s1, false)) : s1 = s := by
  unfold State.partWrite at h
  split at h
  · exact (congrArg Prod.fst h).symm
  · cases congrArg Prod.snd h

section rdma
variable {s : State} {qp part : Nat} (hq : s.qpPart qp = some part)
include hq

section write
variable {rem : Remote} {bytes : List Byte}

section data
variable {s1 : State} {ok : Bool} (hk : rem.rkey ≠ Config.doorbellKey part) (hw : s.partWrite part rem.va bytes {} none = (s1, ok))
  (hr : s.partReady part rem.va bytes.length needWrite ioStation = true)
include hk hw hr

theorem execRdmaWrite_of_lands (hg : globalRange rem.va bytes.length = true) (hok : ok = true) :
    execRdmaWrite qp rem bytes s = .next s1 := by
  subst hok
  simp [execRdmaWrite, hq, hk, hw, hr, hg]

theorem execRdmaWrite_of_fails (h : globalRange rem.va bytes.length = false ∨ ok = false) :
    execRdmaWrite qp rem bytes s = .next (s.emit (.remoteError qp)) := by
  rcases h with hg | rfl
  · simp [execRdmaWrite, hq, hk, hr, hg]
  · simp [execRdmaWrite, hq, hk, hw, hr, State.partWrite_of_false hw]

end data

section doorbell
variable (hk : rem.rkey = Config.doorbellKey part)
include hk

theorem execRdmaWrite_of_page (hb : pageBase part ≤ rem.va.toNat) (he : rem.va.toNat + bytes.length ≤ pageBase part + 8192) :
    execRdmaWrite qp rem bytes s = .next (s.ringBytes part (rem.va.toNat - pageBase part) bytes) := by
  simp [execRdmaWrite, hq, hk, hb, he]

theorem execRdmaWrite_of_off_page (h : rem.va.toNat < pageBase part ∨ pageBase part + 8192 < rem.va.toNat + bytes.length) :
    execRdmaWrite qp rem bytes s = .next (s.emit (.remoteError qp)) := by
  simp only [execRdmaWrite, hq, hk, if_true]
  rw [if_neg (by simp; omega)]

theorem execDoorbellWrite_of_queue {queue : Nat} (hlt : queue < 64) (hva : rem.va.toNat = pageBase part + 8 * queue) (val : Dword) :
    execDoorbellWrite qp rem val s = .next (s.ring part queue val) := by
  have : s.doorbellOf qp rem = some (part, queue) := by
    simp [State.doorbellOf, hq, hk, hva]
    omega
  rw [execDoorbellWrite, this]

end doorbell

end write

section read
variable {va : Dword} {len : Nat} {s1 : State} {r : Option (List Byte)} (hp : s.partRead part va len = (s1, r))
  (hr : s.partReady part va len needRead ioStation = true)
include hp hr

theorem execRdmaRead_of_served {bs : List Byte} (hg : globalRange va len = true) (hb : r = some bs) :
    ∃ t, execRdmaRead qp va len s = .next t ∧ t.out = s.out ++ [.readData qp bs] := by
  have out : s1.out = s.out := by rw [← s.out_partRead part va len, hp]
  subst hb
  exact ⟨s1.emit (.readData qp bs), by simp [execRdmaRead, hq, hp, hr, hg], congrArg (· ++ _) out⟩

theorem execRdmaRead_of_fails (h : globalRange va len = false ∨ r = none) :
    ∃ t, execRdmaRead qp va len s = .next t ∧ t.out = s.out ++ [.remoteError qp] := by
  have out : s1.out = s.out := by rw [← s.out_partRead part va len, hp]
  rcases h with hg | rfl
  · exact ⟨s.emit (.remoteError qp), by simp [execRdmaRead, hq, hr, hg], rfl⟩
  · by_cases hg : globalRange va len = true
    · exact ⟨s1.emit (.remoteError qp), by simp [execRdmaRead, hq, hp, hr, hg], congrArg (· ++ _) out⟩
    · exact ⟨s.emit (.remoteError qp), by simp [execRdmaRead, hq, hr, hg], rfl⟩

end read

end rdma

/-- A packet of a scale-out port lands like host RDMA (04 R88). -/
theorem execUecPacketReceive_of_lands {s : State} {part : Nat} {p : Part} {va : Dword} {bytes : List Byte} (runs : s.fwRuns = true)
    (hp : s.part part = some p) (hg : globalRange va bytes.length = true)
    (hr : s.partReady part va bytes.length needWrite ioStation = true) :
    execUecPacketReceive part va bytes s = .next (s.partWrite part va bytes {} none).1 := by
  simp [execUecPacketReceive, runs, hp, hg, hr]

/-! ### Connections (R412, R413, R415) -/

section request
variable {s : State} {service : Dword} {src : BitVec 128} (up : s.portsUp = true)
include up

theorem execCmReq_of_not_rc : execCmReq service src false s = .next (s.emit (.rej service)) := by
  simp [execCmReq, up]

theorem execCmReq_of_mgmt_refused (h : s.mgmtConn = true ∨ (s.fwRuns = true ∧ src ∉ s.fw.allow)) :
    execCmReq mgmtService src true s = .next (s.emit (.rej mgmtService)) := by
  simp [execCmReq, up, h]

theorem execCmReq_of_mgmt_free (hc : s.mgmtConn = false) (h : s.fwRuns = false ∨ src ∈ s.fw.allow) :
    execCmReq mgmtService src true s = .next (State.sendRep { s with mgmtWait := true } 2 mgmtService) := by
  have allowed : ¬ (s.fwRuns = true ∧ src ∉ s.fw.allow) := by rcases h with h | h <;> simp [h]
  simp [execCmReq, up, hc, allowed]

variable (hs : service ≠ mgmtService)
include hs

theorem execCmReq_of_none_free (h : ∀ e ∈ s.qps, e.2.service = service → e.2.st = .ready) :
    execCmReq service src true s = .next (s.emit (.rej service)) := by
  have none : (s.qps.filter fun e => e.2.service == service && e.2.st != .ready) = [] := by
    simpa using fun n q hq he => h (n, q) hq he
  simp [execCmReq, up, hs, none]

/-- A queue pair of the service that waits for a connection takes it (R412). -/
theorem execCmReq_of_free {n : Nat} {q : Qp} (hq : (n, q) ∈ s.qps) (he : q.service = service) (hc : q.st = .created) :
    ∃ m, ∃ p : Qp, p.service = service ∧ execCmReq service src true s =
      .next (State.sendRep { s with qps := s.qps.put m { p with st := .connecting } } m service) := by
  have named : (n, q) ∈ s.qps.filter fun e => e.2.service == service && e.2.st != .ready :=
    List.mem_filter.mpr ⟨hq, by simp [he, hc]⟩
  obtain ⟨e, first⟩ := Option.isSome_iff_exists.mp (List.isSome_head?.mpr (List.append_ne_nil_of_right_ne_nil
    ((s.qps.filter fun e => e.2.service == service && e.2.st != .ready).filter fun e => e.2.st == .created)
    (List.ne_nil_of_mem named)))
  have mem : e ∈ s.qps.filter fun e => e.2.service == service && e.2.st != .ready := by
    rcases List.mem_append.mp (List.mem_of_head? first) with h | h
    · exact List.mem_of_mem_filter h
    · exact h
  have hservice : e.2.service = service := by
    have := (List.mem_filter.mp mem).2
    simp only [Bool.and_eq_true, beq_iff_eq] at this
    exact this.1
  refine ⟨e.1, e.2, hservice, ?_⟩
  simp only [execCmReq, up, first, if_neg hs]
  rfl

end request

section ready
variable {s : State}

theorem execCmRtu_of_mgmt (h : s.mgmtWait = true) :
    execCmRtu 2 s = .next (State.sendAlerts { s with mgmtWait := false, mgmtConn := true }) := by
  simp [execCmRtu, h]

theorem State.sendAlerts_of_sends {s : State} (hc : s.mgmtConn = true) (hp : s.phase = .ready) :
    s.sendAlerts = { s with out := s.out ++ s.alerts, alerts := [] } := by
  simp [State.sendAlerts, hc, hp]

theorem State.sendAlerts_of_not {s : State} (h : s.mgmtConn = false ∨ s.phase ≠ .ready) : s.sendAlerts = s := by
  rcases h with h | h <;> simp [State.sendAlerts, h]

theorem execCmDreq_of_mgmt (h : s.mgmtConn = true) :
    execCmDreq 2 s = .next (State.emit { s with mgmtConn := false, mgmtWait := false } (.drep 2)) := by
  simp [execCmDreq, h]

variable {qp : Nat} {q : Qp} (h2 : qp ≠ 2) (hq : s.qps.find qp = some q)
include h2

theorem execCmRtu_of_data : execCmRtu qp s =
    .next { s with qps := s.qps.upd qp fun q => { q with st := if q.st = .connecting then .ready else q.st } } := by
  simp [execCmRtu, h2]

include hq

theorem execCmDreq_of_data (h : q.st ≠ .created) :
    execCmDreq qp s = .next (State.emit { s with qps := s.qps.upd qp fun q => { q with st := .created } } (.drep qp)) := by
  simp [execCmDreq, h2, hq, h]

end ready

/-! ### Requests that are handled, and bring-up (R414, R416, R422) -/

theorem State.portsUp_of_fwRuns {s : State} (h : s.fwRuns = true) : s.portsUp = true := by
  unfold State.fwRuns at h
  unfold State.portsUp
  cases hp : s.phase <;> simp_all

/-- A message without a fault, for a partition's number or the package's (R414). -/
theorem MReq.not_wrong {r : MReq} (good : r.bad = false) (part : r.part < 16 ∨ r.part = 255) :
    ¬ ((r.bad || (decide (16 ≤ r.part) && decide (r.part ≠ 255))) = true) := by
  simp only [good, Bool.false_or, Bool.and_eq_true, decide_eq_true_eq]
  omega

section manage
variable {s : State} {r : MReq} (type die : Nat)

theorem State.manage_of_handled (h : Rules.Handled s r) (rom : Bool) (k : State → Out) :
    s.manage r type rom die k = k (s.updDie die fun d => { d with msgPend := true }) := by
  obtain ⟨runs, conn, free, good, part⟩ := h
  simp only [State.manage, State.portsUp_of_fwRuns runs, conn, free, runs]
  exact if_neg (MReq.not_wrong good part)

theorem State.manage_of_romHandled (h : Rules.RomHandled s r) (k : State → Out) : s.manage r type true die k = k s := by
  obtain ⟨phase, conn, free, good, part⟩ := h
  simp only [State.manage, State.portsUp, State.fwRuns, phase, conn, free]
  exact if_neg (MReq.not_wrong good part)

end manage

/-- A package reset's reply is the last that leaves before the reset (R422; log 35). -/
theorem execPackageReset_of_handled {s : State} {r : MReq} (h : Rules.Handled s r ∨ Rules.RomHandled s r) :
    ∃ t, execPackageReset r s = .next t ∧ Rules.FreshPackage s t .rom [.reply r 0x4F 0 []] := by
  rcases h with h | h
  · exact ⟨_, State.manage_of_handled _ _ h _ _, rfl⟩
  · exact ⟨_, State.manage_of_romHandled _ _ h _, rfl⟩

theorem State.resumeMgmt_eq (s : State) : ∃ agenda mgmtQ, s.resumeMgmt = { s with agenda, mgmtQ } := by
  unfold State.resumeMgmt
  split
  · exact ⟨s.agenda, s.mgmtQ, rfl⟩
  · exact ⟨_, _, rfl⟩

/-- The state after the scrub, the ready alert held ahead of the others, at most 256 in all (R415, R422). -/
def State.afterScrub (s : State) : State :=
  { s with
    dram := [], dramKey := [], dramBad := [], phase := .ready
    alerts := .alert 1 0 s.fw.version 0 0 :: s.alerts.drop (s.alerts.length + 1 - 256) }

theorem execMemoryScrubComplete_of_training {s : State} (h : s.phase = .training) :
    ∃ agenda mgmtQ, execMemoryScrubComplete s = .next { s.afterScrub.sendAlerts with agenda, mgmtQ } := by
  obtain ⟨agenda, mgmtQ, he⟩ := s.afterScrub.sendAlerts.resumeMgmt_eq
  exact ⟨agenda, mgmtQ, by rw [← he, execMemoryScrubComplete, if_pos h]; rfl⟩

theorem execHostPortsUp_of_rom {s : State} (h : s.phase = .rom) : execHostPortsUp s = .next { s with phase := .romPorts } := by
  rw [execHostPortsUp, if_pos h]

/-- Settles O46: case by case, from what each event does. -/
theorem hostAndBringUp : Obligations.HostAndBringUp := by
  unfold Obligations.HostAndBringUp
  refine fun s => ⟨?_, ?_, ?_, ?_, ?_, ?_, ?_, ?_, ?_, ?_, ?_, ?_⟩
  · intro qp part rem bytes s1 ok hq hk hw hr
    exact ⟨execRdmaWrite_of_lands hq hk hw hr, fun h => ⟨_, execRdmaWrite_of_fails hq hk hw hr h, rfl⟩⟩
  · intro qp part rem bytes hq hk
    refine ⟨fun queue hlt hva hl => ?_, fun h => ⟨_, execRdmaWrite_of_off_page hq hk h, rfl⟩⟩
    refine (execRdmaWrite_of_page hq hk (by omega) (by omega)).trans (.trans ?_ (execDoorbellWrite_of_queue hq hk hlt hva _).symm)
    rw [hva, Nat.add_sub_cancel_left, State.ringBytes_word _ _ hlt hl]
  · intro qp part va len s1 r hq hp hr
    exact ⟨fun bs => execRdmaRead_of_served hq hp hr, execRdmaRead_of_fails hq hp hr⟩
  · exact fun part p va bytes runs hp hg hr => execUecPacketReceive_of_lands runs hp hg hr
  · intro service src up
    refine ⟨⟨_, execCmReq_of_not_rc up, rfl⟩, fun hc => ⟨_, execCmReq_of_mgmt_refused up (.inl hc), rfl⟩,
      fun hc ha => ⟨_, _, execCmReq_of_mgmt_free up hc ha, rfl⟩,
      fun runs ha => ⟨_, execCmReq_of_mgmt_refused up (.inr ⟨runs, ha⟩), rfl⟩,
      fun hs none => ⟨_, execCmReq_of_none_free up hs none, rfl⟩, fun n q hs hq he hc => ?_⟩
    obtain ⟨m, p, hp, h⟩ := execCmReq_of_free up hs hq he hc
    exact ⟨_, m, { p with st := .connecting }, _, h, rfl, (Tab.find_put ..).trans (if_pos rfl), hp, rfl⟩
  · intro hw
    refine ⟨_, execCmRtu_of_mgmt hw, fun hp => ?_, fun hp => ?_⟩
    · exact State.sendAlerts_of_sends rfl hp
    · exact State.sendAlerts_of_not (.inr hp)
  · intro qp q h2 hq
    refine ⟨fun hc => ⟨_, execCmRtu_of_data h2, rfl, ?_⟩, fun hc => ⟨_, execCmDreq_of_data h2 hq hc, rfl, ?_⟩⟩
    · rw [Tab.find_upd, if_pos rfl, hq, Option.map_some, if_pos hc]
    · exact (Tab.find_upd ..).trans (by rw [if_pos rfl, hq]; rfl)
  · exact fun hc => ⟨_, execCmDreq_of_mgmt hc, rfl, rfl, rfl⟩
  · exact ⟨_, rfl, freshPackage_afterReset ..⟩
  · exact fun r h => execPackageReset_of_handled h
  · exact fun hp => ⟨_, execHostPortsUp_of_rom hp, rfl⟩
  · intro hp
    obtain ⟨agenda, mgmtQ, h⟩ := execMemoryScrubComplete_of_training hp
    cases hc : s.mgmtConn with
    | true =>
      rw [State.sendAlerts_of_sends (s := s.afterScrub) hc rfl] at h
      exact ⟨_, h, rfl, rfl, rfl, rfl, rfl, fun _ => ⟨rfl, rfl⟩, nofun⟩
    | false =>
      rw [State.sendAlerts_of_not (s := s.afterScrub) (.inl hc)] at h
      exact ⟨_, h, rfl, rfl, rfl, rfl, rfl, nofun, fun _ => ⟨rfl, rfl⟩⟩

end Sys2Proof.Machine
end

section
/-! SUPPORT. Where the active lanes of an issue stand when it has ended (13 R282, R289 to R294), and what an issue that writes no register
leaves of its group. -/

namespace Sys2Proof.Machine

/-! ### Issues that write no register -/

/-- A group whose operands have been read and whose lanes have moved on is as `Moved` says. -/
theorem Group.moved {g g' : Group} {n wb : Nat} {part : Mask} {ops : List Operand} (h : g'.still = (g.scrub n wb part ops).still) :
    Moved g g' where
  window l k := by rw [Group.stack_of_still h]; exact Group.scrub_near ..
  uniform k := by rw [Group.s_of_still h]; exact Group.scrub_nearS ..
  latches l i hi := by rw [Group.fw_of_still h]; exact Group.scrub_nearFw _ _ _ _ _ _ _ hi
  rest l := by
    have hr := Group.scrub_other g n wb part ops l
    rw [← Group.lane_still, h, Group.lane_still]
    generalize (g.scrub n wb part ops).lane l = a at hr ⊢
    generalize g.lane l = b at hr ⊢
    exact congrArg Lane.still hr
  frame := by
    have hf := Group.scrub_frame g n wb part ops
    generalize g.scrub n wb part ops = a at h hf
    rw [h]
    simp only [Group.still, Group.mapLanes]
    rw [← hf]

/-! ### Lanes that have gone on -/

/-- A lane is eligible at a PC and has arrived at no open level: no decision of a level and no release of a rejoin mask concerns it. -/
def Group.Stands (g : Group) (l : LaneIx) (pc : Word) : Prop :=
  (g.lane l).pc = pc ∧ (g.lane l).st = .eligible ∧ ∀ lv ∈ g.levels, Mask.has lv.arrived l = false

section stands
variable {g : Group} {l : LaneIx} {pc : Word} (h : g.Stands l pc)
include h

theorem Group.Stands.of_lane {g' : Group} (hl : g'.lane l = g.lane l) (hv : ∀ lv ∈ g'.levels, Mask.has lv.arrived l = false) :
    g'.Stands l pc := by
  obtain ⟨hp, hs, -⟩ := h
  exact ⟨by rw [hl, hp], by rw [hl, hs], hv⟩

theorem Group.Stands.moveLane {k : LaneIx} (hk : l ≠ k) (p next : Word) : (g.moveLane k p next).Stands l pc := by
  obtain ⟨-, -, hv⟩ := id h
  unfold Group.moveLane
  split
  · refine h.of_lane (by simp [hk]) fun lv hm => ?_
    simp only [Group.setLane_levels, Group.updLevel_levels, List.mem_map] at hm
    obtain ⟨⟨lv0, i⟩, hz, rfl⟩ := hm
    have h0 := hv lv0 (List.fst_mem_of_mem_zipIdx hz)
    dsimp only
    split
    · simp [h0, hk]
    · exact h0
  · refine h.of_lane ?_ fun lv hm => ?_
    · have := Group.lane_setLane g k l { g.lane k with pc := next, st := .eligible }
      rw [if_neg hk] at this
      simpa only [Group.lane] using this
    · obtain ⟨lv0, hz, rfl⟩ := List.mem_map.mp hm
      have h0 := hv lv0 hz
      split
      · exact h0
      · exact h0

theorem Group.Stands.moveLanes {m : Mask} (hm : Mask.has m l = false) (p next : Group → LaneIx → Word) :
    ((Mask.lanes m).foldl (fun g k => g.moveLane k (p g k) (next g k)) g).Stands l pc := by
  have away : ∀ k ∈ Mask.lanes m, l ≠ k := by
    rintro k hk rfl
    rw [Mask.mem_lanes, hm] at hk
    cases hk
  clear hm
  generalize Mask.lanes m = ls at away ⊢
  induction ls generalizing g with
  | nil => exact h
  | cons k t ih => exact ih (h.moveLane (away k (by simp)) ..) fun j hj => away j (by simp [hj])

theorem Group.Stands.mapOn {m : Mask} (hm : Mask.has m l = false) (f : LaneIx → Lane → Lane) : (g.mapOn m f).Stands l pc :=
  h.of_lane (by simp [hm]) (by rw [Group.mapOn_levels]; exact h.2.2)

theorem Group.Stands.dropLevel (n : Nat) : (g.dropLevel n).Stands l pc := by
  obtain ⟨-, hs, hv⟩ := id h
  have hlane : (g.dropLevel n).lane l = g.lane l := by
    simp only [Group.dropLevel, Group.lane_mapLanes]
    have : Group.lane { g with levels := g.levels.eraseIdx n } l = g.lane l := rfl
    simp only [Group.lane] at hs ⊢
    rw [hs]
  refine h.of_lane hlane fun lv hm => hv lv ?_
  simp only [Group.dropLevel, Group.mapLanes_levels] at hm
  exact List.mem_of_mem_eraseIdx hm

theorem Group.Stands.decideLevel {lv : Level} (hlv : lv ∈ g.levels) (n : Nat) : (g.decideLevel n lv).Stands l pc := by
  obtain ⟨-, -, hv⟩ := id h
  unfold Group.decideLevel
  dsimp only
  split
  · refine Group.Stands.mapOn (h.of_lane (by simp only [Group.updLevel, Group.lane]) fun lv' hm => ?_) (hv lv hlv) _
    simp only [Group.updLevel_levels, List.mem_map] at hm
    obtain ⟨⟨lv0, i⟩, hz, rfl⟩ := hm
    dsimp only
    split
    · exact Mask.has_zero l
    · exact hv lv0 (List.fst_mem_of_mem_zipIdx hz)
  · exact ((h.dropLevel n).mapOn (hv lv hlv) _).moveLanes (hv lv hlv) (fun _ _ => lv.stop) fun _ _ => lv.stop + 4#32

theorem Group.Stands.settleLoops (fuel : Nat) : (g.settleLoops fuel).Stands l pc := by
  induction fuel generalizing g with
  | zero => exact h
  | succ fuel ih =>
    unfold Group.settleLoops
    split
    · exact h
    next lv n hlast =>
      have hm := List.mem_of_getLast? hlast
      exact ih (h.decideLevel (List.fst_mem_of_mem_zipIdx (List.mem_filter.mp hm).1) n)

theorem Group.Stands.releaseRejoin (k : Nat) : (g.releaseRejoin k).Stands l pc := by
  obtain ⟨-, hs, -⟩ := id h
  have hm : Mask.has (g.inState (.rejoin k)) l = false := by
    simp [Group.inState, hs]
  have cleared (rj : Vector Mask 8) : Group.Stands { g with rj := rj } l pc := h.of_lane (by simp only [Group.lane]) h.2.2
  unfold Group.releaseRejoin
  dsimp only
  generalize g.inState (.rejoin k) = w at hm ⊢
  exact ((cleared _).mapOn hm _).moveLanes hm (fun g k => (g.lane k).pc) fun g k => (g.lane k).pc + 4#32

/-- Releases of rejoin masks and decisions of loop levels leave such a lane where it stands (13 R289, R294). -/
theorem Group.Stands.settle : g.settle.Stands l pc := by
  unfold Group.settle
  refine Group.Stands.settleLoops ?_ 8
  induction List.range 8 generalizing g with
  | nil => exact h
  | cons k t ih =>
    rw [List.foldl_cons]
    split
    · exact ih (h.releaseRejoin k)
    · exact ih h

end stands

/-! ### The active lanes of a steady issue -/

/-- No active lane has arrived at an open level, and none arrives at one by going on (13 R294). -/
def Group.Calm (g : Group) (x : Issue) (next : LaneIx → Word) : Prop :=
  ∀ l, Mask.has x.act l = true → ∀ lv ∈ g.levels, Mask.has lv.arrived l = false ∧
    (Mask.has lv.members l = true → ¬ (lv.wbn = (g.lane l).wb ∧ lv.stop = x.pc ∧ next l = lv.stop + 4#32))

section calm
variable {g : Group} {x : Issue} {next : LaneIx → Word} (h : g.Calm x next)
include h

theorem Group.Calm.arrivesAt {l : LaneIx} (hl : Mask.has x.act l = true) : g.arrivesAt l x.pc (next l) = none := by
  unfold Group.arrivesAt
  dsimp only
  rw [Option.map_eq_none_iff, List.getLast?_eq_none_iff, List.filter_eq_nil_iff]
  rintro ⟨lv, i⟩ hz hok
  have hlv := (h l hl lv (List.fst_mem_of_mem_zipIdx hz)).2
  simp only [Bool.and_eq_true, beq_iff_eq] at hok
  obtain ⟨⟨⟨⟨hm, -⟩, hw⟩, hs⟩, hn⟩ := hok
  exact hlv hm ⟨hw, hs, hn⟩

theorem Group.Calm.moveLane_eq {l : LaneIx} (hl : Mask.has x.act l = true) : g.moveLane l x.pc (next l) =
    { g.setLane l { g.lane l with pc := next l, st := .eligible } with
      levels := g.levels.map fun lv => if lv.leaves (g.lane l).wb (next l) then { lv with members := Mask.drop lv.members l } else lv } := by
  unfold Group.moveLane
  rw [h.arrivesAt hl]

theorem Group.Calm.moveLane {k : LaneIx} (hk : Mask.has x.act k = true) : (g.moveLane k x.pc (next k)).Calm x next := by
  have hwb : ∀ l, ((g.moveLane k x.pc (next k)).lane l).wb = (g.lane l).wb := fun l => Group.wb_of_still (Group.still_moveLane ..) l
  intro l hl lv hm
  rw [hwb]
  rw [h.moveLane_eq hk] at hm
  obtain ⟨lv0, h0, rfl⟩ := List.mem_map.mp hm
  obtain ⟨ha, hn⟩ := h l hl lv0 h0
  split
  · exact ⟨ha, fun hmem => hn (by simp at hmem; exact hmem.1)⟩
  · exact ⟨ha, hn⟩

theorem Group.Calm.stands {l : LaneIx} (hl : Mask.has x.act l = true) : (g.moveLane l x.pc (next l)).Stands l (next l) := by
  have hv := fun lv hm => ((h.moveLane hl) l hl lv hm).1
  refine ⟨?_, ?_, hv⟩ <;> rw [h.moveLane_eq hl] <;> simp [Group.lane]

theorem Group.Calm.moveLanes {l : LaneIx} (ls : List LaneIx) (hls : ∀ k ∈ ls, Mask.has x.act k = true)
    (hl : l ∈ ls ∨ g.Stands l (next l)) : (ls.foldl (fun g k => g.moveLane k x.pc (next k)) g).Stands l (next l) := by
  induction ls generalizing g with
  | nil => exact hl.resolve_left (by simp)
  | cons k t ih =>
    have hk := hls k (by simp)
    refine ih (h.moveLane hk) (fun j hj => hls j (by simp [hj])) ?_
    by_cases hlk : l = k
    · subst hlk; exact .inr (h.stands hk)
    · rcases hl with hm | hs
      · exact .inl ((List.mem_cons.mp hm).resolve_left hlk)
      · exact .inr (hs.moveLane hlk ..)

end calm

/-- The active lanes of a steady issue go on, each at its next PC (13 R282). -/
theorem Group.goOn_advance {g : Group} {x : Issue} {next : LaneIx → Word} (hlv : g.levels = x.g.levels)
    (hwb : ∀ l, (g.lane l).wb = (x.g.lane l).wb) (h : Rules.Steady x next) : Rules.GoOn x x.act next (g.advance x x.act next) := by
  intro l hl
  have calm : Group.Calm { g.countIssue x.act with pin := none, wait := .none, acq := false } x next := by
    intro k hk lv hm
    have hm' : lv ∈ x.g.levels := by
      rw [← hlv]
      simpa only [Group.countIssue, Group.mapLanes_levels] using hm
    obtain ⟨-, -, hs⟩ := h lv hm'
    obtain ⟨ha, hn⟩ := hs k hk
    refine ⟨ha, fun hmem => ?_⟩
    have hw := (Group.wb_of_still ((Group.still_unpin _).trans (Group.still_countIssue g x.act)) k).trans (hwb k)
    rw [hw]
    exact (hn hmem).2
  obtain ⟨hp, hs, -⟩ := (calm.moveLanes (l := l) (Mask.lanes x.act) (fun k hk => (Mask.mem_lanes ..).mp hk)
    (.inl ((Mask.mem_lanes ..).mpr hl))).settle
  exact ⟨hp, hs⟩

/-! ### The end of an issue without a trap -/

theorem Issue.act_eq_part_or (x : Issue) (guard : Bool) : (x.part guard ||| (x.act &&& ~~~x.part guard)) &&& ~~~(0#32) = x.act := by
  refine Mask.ext' fun l => ?_
  have hsub : Mask.has (x.part guard) l = true → Mask.has x.act l = true := by
    unfold Issue.part
    split
    · rw [Mask.has_and, Bool.and_eq_true]; exact And.left
    · exact id
  simp only [Mask.has_and, Mask.has_or, Mask.has_not, Mask.has_zero]
  cases ha : Mask.has x.act l <;> cases hp : Mask.has (x.part guard) l <;> simp_all

/-- An issue in which no participating lane meets a condition: its effect happens, and every active lane goes on (19 R362). -/
theorem State.finish_part {s : State} {x : Issue} {guard : Bool} {trap : LaneIx → Option TrapC} (eff : Mask → State → State)
    (next : LaneIx → Word) (h : ∀ l, Mask.has (x.part guard) l = true → trap l = none) :
    s.finish x (x.part guard) trap eff next =
      .next ((eff (x.part guard) s).updGrp x.gid fun g => g.advance x x.act next) := by
  rw [State.finish_of_no_trap _ _ _ _ _ _ h, Issue.act_eq_part_or]

end Sys2Proof.Machine
end

section
/-! SUPPORT. Groups, teams and grids end (05 R90; 13 R301; 17 R331; 18 R349), and the statement on them. -/

namespace Sys2Proof.Machine

/-! ### A group retires -/

theorem Tab.mem_del_iff {α : Type} {m : Tab α} {a : Nat} {e : Nat × α} : e ∈ Tab.del m a ↔ e ∈ m ∧ e.1 ≠ a := by
  refine ⟨Tab.mem_del, ?_⟩
  rintro ⟨hm, hne⟩
  induction m with
  | nil => cases hm
  | cons b t ih =>
    obtain ⟨k, v⟩ := b
    simp only [Tab.del]
    rcases List.mem_cons.mp hm with rfl | ht
    · rw [if_neg hne]
      exact List.mem_cons_self
    · split
      · exact ih ht
      · exact List.mem_cons_of_mem _ (ih ht)

/-- A team has no group left once a group has gone. -/
theorem State.groupsOf_delGrp_isEmpty (s : State) (gid tid : Nat) : ((s.delGrp gid).groupsOf tid).isEmpty = true ↔
    ∀ e ∈ s.groups, e.1 ≠ gid → e.2.team = tid → e.2.priv = true := by
  rw [List.isEmpty_iff, State.groupsOf, List.filter_eq_nil_iff]
  refine forall_congr' fun e => ?_
  rw [State.delGrp_groups, Tab.mem_del_iff, and_imp]
  simp

/-- What a group's retirement leaves of its team: its register signature's terms, whether a replaying run has ended short of its log,
and whether it was the last (12 R268, R271; 13 R301). -/
def Team.withoutGroup (t : Team) (g : Group) (short last : Bool) : Team :=
  { t with rs := t.rs + g.rsTerm, diverged := t.diverged || short, ending := last || t.ending }

theorem execGroupRetire_of_done {s : State} {gid : Nat} {g : Group} {tm : Team} (hg : s.grp gid = some g) (hpriv : g.priv = false)
    (hlive : g.live = 0#32) (htrap : g.trap = none)
    (howed : ∀ e ∈ s.reqs, ∀ ln, e.2.maker = .lane gid ln → e.2.team = g.team → e.2.dead = true ∧ e.2.kind.writes = false)
    (hteam : s.team g.team = some tm) (hcheck : tm.check = none) :
    ∃ short, execGroupRetire gid s = .next ((((s.delGrp gid).updTeam g.team fun t =>
      t.withoutGroup g short ((s.delGrp gid).groupsOf g.team).isEmpty).updGrid tm.grid fun q => { q with vc := q.vc.join g.vc }).updDomain
        (domainOf (coreOf gid)) fun d => { d with relq := d.relq.filter (· ≠ gid) }) := by
  refine ⟨tm.replays && decide (g.replayed < (s.logOf g).length), ?_⟩
  unfold execGroupRetire
  rw [hg]
  dsimp only
  rw [if_neg, hteam]
  · dsimp only
    rw [hcheck]
    have hgroups (f : Team → Team) (q : Grid → Grid) :
        (((s.delGrp gid).updTeam g.team f).updGrid tm.grid q).groupsOf g.team = (s.delGrp gid).groupsOf g.team := rfl
    rw [hgroups]
    cases hlast : ((s.delGrp gid).groupsOf g.team).isEmpty with
    | true => simp only [if_true, State.updTeam, State.updGrid, Tab.upd_upd, Team.withoutGroup, Bool.true_or]
    | false => rfl
  · simp only [hpriv, hlive, htrap, Bool.false_or, Option.isSome_none, Bool.or_false, ne_eq, not_true, decide_false, Bool.not_eq_true,
      List.any_eq_false]
    intro e he
    split
    next k ln hm =>
      by_cases h : k = gid ∧ e.2.team = g.team
      · obtain ⟨rfl, ht⟩ := h
        obtain ⟨hd, hw⟩ := howed e he ln hm ht
        rw [hd, hw]
        simp
      · rw [not_and] at h
        cases hk : k == gid with
        | false => simp
        | true => simp [h (by simpa using hk)]
    next => simp

/-! ### What leaves the units alone -/

/-- From `s` to `t` no team, grid, core or die has changed: packets, multicast entries, alerts or stops in progress may have. -/
structure Untouched (s t : State) : Prop where
  teams : t.teams = s.teams
  grids : t.grids = s.grids
  cores : t.cores = s.cores
  dies : t.dies = s.dies

theorem Untouched.refl (s : State) : Untouched s s := ⟨rfl, rfl, rfl, rfl⟩

theorem Untouched.trans {s t u : State} (h : Untouched s t) (k : Untouched t u) : Untouched s u :=
  ⟨k.teams.trans h.teams, k.grids.trans h.grids, k.cores.trans h.cores, k.dies.trans h.dies⟩

/-- What is unchanged from a state with the same units. -/
theorem Untouched.of_eq {s t u : State} (h : Untouched t u) (ht : t.teams = s.teams) (hg : t.grids = s.grids) (hc : t.cores = s.cores)
    (hd : t.dies = s.dies) : Untouched s u := .trans ⟨ht, hg, hc, hd⟩ h

theorem untouched_foldl {α : Type} {f : State → α → State} (h : ∀ s a, Untouched s (f s a)) (as : List α) (s : State) :
    Untouched s (as.foldl f s) := by
  induction as generalizing s with
  | nil => exact Untouched.refl s
  | cons a t ih => exact (h s a).trans (ih _)

theorem untouched_enter (s : State) (pid : Nat) (p : Packet) : Untouched s (s.enter pid p) := by
  unfold State.enter
  dsimp only [State.fresh]
  split <;> exact ⟨rfl, rfl, rfl, rfl⟩

theorem untouched_send (s : State) (part flits : Nat) (legs : List Leg) (c : Cargo) : Untouched s (s.send part flits legs c) := by
  unfold State.send
  split
  · exact Untouched.refl s
  · exact Untouched.of_eq (untouched_enter { s with nextId := s.nextId + 1 } ..) rfl rfl rfl rfl

theorem untouched_clearBands (s : State) (base w h k : Nat) : Untouched s (s.clearBands base w h k) := by
  unfold State.clearBands
  refine untouched_foldl (fun s b => ?_) _ s
  refine untouched_foldl (fun s i => ?_) _ s
  exact ⟨rfl, rfl, rfl, rfl⟩

theorem untouched_freeBands (s : State) (t : Team) : Untouched s (s.freeBands t) := by
  unfold State.freeBands
  split
  · exact Untouched.refl s
  · dsimp only
    split
    · exact Untouched.refl s
    · cases t.band with
      | none => rw [Option.elim_none]; exact Untouched.refl s
      | some k => rw [Option.elim_some]; exact untouched_clearBands ..

theorem untouched_alert (s : State) (kind : Nat) (id : Dword) (a b : Word) (c : Dword) : Untouched s (s.alert kind id a b c) := by
  unfold State.alert
  dsimp only
  split <;> exact ⟨rfl, rfl, rfl, rfl⟩

theorem untouched_pruneStops (s : State) : Untouched s s.pruneStops := by
  unfold State.pruneStops
  dsimp only
  exact Untouched.of_eq (untouched_foldl (fun _ _ => untouched_alert ..) _ _) rfl rfl rfl rfl

/-! ### A team retires -/

/-- A team has left its core: its marks have gone, its die has counted it, and the operand groups of its cluster are free (05 R90; 04
R78; 13 R301). -/
def State.withoutTeam (s : State) (tid : Nat) (t : Team) : State :=
  State.freeBands { ((s.updCore t.core fun c => { c with marks := c.marks.filter fun m =>
      !(t.locBlk ≤ 16 * m && 16 * m < t.locBlk + roundBlock t.locSize) }).updDie (t.core / 64) fun d =>
        { d with retired := d.retired + 1 }) with teams := s.teams.del tid } t

section withoutTeam
variable (s : State) (tid : Nat) (t : Team)

theorem State.withoutTeam_team : (s.withoutTeam tid t).team tid = none := by
  rw [State.team, State.withoutTeam, (untouched_freeBands ..).teams, Tab.find_del, if_pos rfl]

theorem State.withoutTeam_retired : ((s.withoutTeam tid t).die (t.core / 64)).retired = (s.die (t.core / 64)).retired + 1 := by
  rw [State.die, State.withoutTeam, (untouched_freeBands ..).dies]
  simp [State.die]

theorem State.withoutTeam_marks : ((s.withoutTeam tid t).core t.core).marks = (s.core t.core).marks.filter fun m =>
    !(t.locBlk ≤ 16 * m && 16 * m < t.locBlk + roundBlock t.locSize) := by
  rw [State.core, State.withoutTeam, (untouched_freeBands ..).cores]
  simp [State.core]

theorem State.withoutTeam_grids : (s.withoutTeam tid t).grids = s.grids := (untouched_freeBands ..).grids

end withoutTeam

/-- What an unchecked team tells its task unit when it retires: the end of a tile's run (17 R331). -/
def State.tellRunEnd (s : State) (t : Team) : State :=
  match t.kind with
  | .tile i => if t.role ≤ 1 then s.sendTask t.core t.grid (.runEnd i) else s
  | _ => s

theorem execTeamRetire_of_idle {s : State} {tid : Nat} {tm : Team} (ht : s.team tid = some tm) (hend : tm.ending = true)
    (hg : s.groupsOf tid = []) (hidle : s.engineIdle (tid, tm) = true) (hcheck : tm.check = none) :
    execTeamRetire tid s = .next ((s.withoutTeam tid tm).tellRunEnd tm).pruneStops := by
  unfold execTeamRetire
  rw [ht]
  dsimp only
  rw [hend, hg, hidle, if_neg (by simp), hcheck, State.tellRunEnd]
  cases tm.kind <;> rfl

/-- An event sent to a grid's task unit changes of the units that grid's scoreboard alone. -/
theorem State.sendTask_eq (s : State) (core n : Nat) (e : TaskEv) : ∃ gs, Untouched { s with grids := gs } (s.sendTask core n e) := by
  unfold State.sendTask
  split
  · exact ⟨s.grids, Untouched.refl s⟩
  · exact ⟨_, Untouched.of_eq (untouched_send ..) rfl rfl rfl rfl⟩

/-- An event sent to a grid's task unit stands in its scoreboard (17 R332). -/
theorem State.sendTask_ev {s : State} {core n : Nat} {g : Grid} {r : Refine} (hg : s.grid n = some g) (hr : g.refine = some r)
    (e : TaskEv) : ∃ id, (s.sendTask core n e).grid n = some { g with refine := some { r with ev := r.ev.put id e } } := by
  refine ⟨s.nextId, ?_⟩
  rw [State.sendTask, hg]
  dsimp only [State.fresh]
  rw [State.grid, (untouched_send ..).grids, State.updGrid_grids, Tab.find_upd, if_pos rfl]
  rw [State.grid] at hg
  rw [hg, Option.map_some, hr, Option.map_some]

theorem State.tellRunEnd_eq (s : State) (t : Team) : ∃ gs, Untouched { s with grids := gs } (s.tellRunEnd t) := by
  unfold State.tellRunEnd
  split
  · split
    · exact State.sendTask_eq ..
    · exact ⟨s.grids, Untouched.refl s⟩
  · exact ⟨s.grids, Untouched.refl s⟩

theorem State.tellRunEnd_of_tile {s : State} {t : Team} {i : Nat} (hk : t.kind = .tile i) (hr : t.role ≤ 1) :
    s.tellRunEnd t = s.sendTask t.core t.grid (.runEnd i) := by
  rw [State.tellRunEnd, hk]
  exact if_pos hr

/-! ### The part's own writes leave every grid -/

theorem State.grids_putBlock (s : State) (lid bn : Nat) (bs : List Byte) : (s.putBlock lid bn bs).grids = s.grids := by
  unfold State.putBlock
  split <;> rfl

theorem State.grids_putSector (s : State) (lid sn : Nat) (bs : List Byte) (bad : Bool) : (s.putSector lid sn bs bad).grids = s.grids := by
  unfold State.putSector
  dsimp only
  exact foldl_same State.grids (fun _ _ => State.grids_putBlock ..) _ s

theorem State.grids_writeBackOf (s : State) (k : Nat) (which : L2Line → BitVec 4) : (s.writeBackOf k which).grids = s.grids := by
  unfold State.writeBackOf
  split
  · rfl
  · dsimp only
    refine foldl_same State.grids (fun s i => ?_) _ s
    split
    · exact State.grids_putSector ..
    · rfl

theorem State.grids_l1Drop (s : State) (c ln7 : Nat) : (s.l1Drop c ln7).grids = s.grids := rfl

theorem State.grids_l1DropAll (s : State) (ln : Nat) : (s.l1DropAll ln).grids = s.grids := by
  unfold State.l1DropAll
  dsimp only
  exact foldl_same State.grids (fun _ _ => (State.grids_l1Drop ..).trans (State.grids_l1Drop ..)) _ s

theorem State.grids_evict (s : State) (k : Nat) : (s.evict k).grids = s.grids :=
  (State.grids_l1DropAll ..).trans (State.grids_writeBackOf ..)

theorem State.grids_openLine (s : State) (home ln key : Nat) : (s.openLine home ln key).grids = s.grids := by
  have room (s : State) (set : Nat) : (s.makeRoom home set).grids = s.grids := by
    unfold State.makeRoom
    split
    · rfl
    · exact State.grids_evict ..
  unfold State.openLine
  dsimp only
  split
  · exact room ..
  · split
    · rfl
    · exact (room ..).trans (State.grids_evict ..)

theorem State.grids_fillSector (s : State) (home ln i : Nat) : (s.fillSector home ln i).grids = s.grids := by
  unfold State.fillSector
  dsimp only
  split
  · rfl
  · split <;> rfl

theorem State.grids_readHome (s : State) (pa key n : Nat) : (s.readHome pa key n).1.grids = s.grids :=
  (foldl_same State.grids (fun _ _ => State.grids_fillSector ..) _ _).trans (State.grids_openLine ..)

theorem State.grids_writeLine (s : State) (pa key : Nat) (bs : List Byte) : (s.writeLine pa key bs).grids = s.grids := by
  have filled (skip : Nat → Bool) (home ln : Nat) (is : List Nat) (s : State) :
      (is.foldl (fun s i => if skip i then s else s.fillSector home ln i) s).grids = s.grids := by
    refine foldl_same State.grids (fun s i => ?_) is s
    split
    · rfl
    · exact State.grids_fillSector ..
  unfold State.writeLine
  dsimp only
  split
  · exact (filled ..).trans (State.grids_openLine ..)
  · exact (filled ..).trans (State.grids_openLine ..)

/-- A granule's bit is set in its bitmap (03 R67). -/
theorem State.grids_setBit (s : State) (pa : Nat) : (s.setBit pa).grids = s.grids := by
  unfold State.setBit
  dsimp only
  split
  · exact State.grids_readHome ..
  · exact (State.grids_writeLine ..).trans (State.grids_readHome ..)

theorem State.grids_markDirty (s : State) (pa : Nat) : (s.markDirty pa).grids = s.grids := by
  unfold State.markDirty
  split
  · rfl
  · split
    · exact State.grids_setBit ..
    · rfl

theorem State.grids_forward (s : State) (rid part pa epoch : Nat) (cc : Clk) (bs : List Byte) (writer : Option Nat) :
    (s.forward rid part pa epoch cc bs writer).grids = s.grids := by
  unfold State.forward
  dsimp only
  refine foldl_same State.grids (fun s c => ?_) _ s
  exact (untouched_send ..).grids

theorem State.grids_closeEpoch (s : State) (d : Nat) : (s.closeEpoch d).grids = s.grids := by
  unfold State.closeEpoch
  dsimp only
  exact (untouched_foldl (fun _ _ => untouched_send ..) _ _).grids

/-- A write becomes current at its home (06 R119). -/
theorem State.grids_makeCurrent (s : State) (rid part pa key : Nat) (bs : List Byte) (cc : Clk) (rel : Option RelRec)
    (writer : Option Nat) : (s.makeCurrent rid part pa key bs cc rel writer).1.grids = s.grids := by
  have written (s : State) (w : Tab Clk) : ({ s with wclk := w }.recordRel pa rel).grids = s.grids := rfl
  unfold State.makeCurrent
  dsimp only
  split
  · rw [State.grids_closeEpoch, State.grids_forward, written, State.grids_markDirty, State.grids_writeLine]
  · rw [State.grids_forward, written, State.grids_markDirty, State.grids_writeLine]

theorem State.grids_machineWrite (s : State) (part pa key : Nat) (va : Dword) (bs : List Byte) (cc : Clk) (rel : Option RelRec)
    (grid : Nat) (writer : Option Nat) : (s.machineWrite part pa key va bs cc rel grid writer).1.grids = s.grids := by
  unfold State.machineWrite
  refine foldl_same (fun acc : State × List Nat => acc.1.grids) (fun acc p => ?_) _ (s, [])
  exact State.grids_makeCurrent { acc.1 with nextId := acc.1.nextId + 1 } ..

theorem State.grids_walkEntry (s : State) (pa : Nat) (cached : Option PteC) : (s.walkEntry pa cached).1.grids = s.grids := by
  cases cached with
  | some c => rfl
  | none => exact State.grids_readHome ..

theorem State.grids_walkLevel (s : State) (now : Bool) (d part va table level : Nat) {next : State → Nat → State × WalkEnd}
    (h : ∀ s table, (next s table).1.grids = s.grids) : (s.walkLevel now d part va table level next).1.grids = s.grids := by
  have entry := s.grids_walkEntry (table + 8 * vaIndex va level) (s.cachedEntry d part (table + 8 * vaIndex va level) level)
  unfold State.walkLevel
  dsimp only
  generalize s.walkEntry _ _ = r at entry ⊢
  split
  · rfl
  split
  · exact entry
  split
  · exact entry
  split
  · rw [h]
    split
    · exact entry
    · exact entry
  · exact entry

/-- A walk of the tables (03 R57). -/
theorem State.grids_walkFrom (s : State) (now : Bool) (d part va table level : Nat) :
    (s.walkFrom now d part va table level).1.grids = s.grids := by
  induction level generalizing s table with
  | zero =>
    rw [State.walkFrom_zero]
    exact State.grids_walkLevel _ _ _ _ _ _ _ fun _ _ => rfl
  | succ n ih =>
    rw [State.walkFrom_succ]
    exact State.grids_walkLevel _ _ _ _ _ _ _ fun s table => ih s table

theorem State.grids_lookPart (s : State) (die part : Nat) (va : Dword) (need : BitVec 4) :
    (s.lookPart die part va need).1.grids = s.grids := by
  have walk : (s.walkTables true die part va).1.grids = s.grids := by
    unfold State.walkTables
    split
    · rfl
    · exact State.grids_walkFrom ..
  unfold State.lookPart
  split <;> (next hw => rw [hw] at walk; exact walk)

/-- A write of the part's own in a partition (07 R155). -/
theorem State.grids_partWrite (s : State) (part : Nat) (va : Dword) (bs : List Byte) (cc : Clk) (rel : Option RelRec) :
    (s.partWrite part va bs cc rel).1.grids = s.grids := by
  unfold State.partWrite
  split
  · rfl
  · refine foldl_same State.grids (fun s p => ?_) _ s
    have look := s.grids_lookPart (s.taskDie part) part (BitVec.ofNat 64 p.2.1) needWrite
    split
    next h =>
      rw [h] at look
      exact (State.grids_machineWrite ..).trans look
    next h =>
      rw [h] at look
      exact look

theorem State.grids_writeCompletion (s : State) (part : Nat) (va : Dword) (status : Word) (body : List Byte) (cc : Clk) :
    (s.writeCompletion part va status body cc).grids = s.grids := by
  unfold State.writeCompletion
  split
  · exact (State.grids_partWrite ..).trans (State.grids_partWrite ..)
  · rfl

/-! ### A grid ends -/

theorem Grid.status_eq (g : Grid) : g.status = if g.ended = .running then 1#32 else if g.ended = .killed then 9#32 else 5#32 := by
  unfold Grid.status
  cases g.ended <;> rfl

theorem execGridEnd_of_done {s : State} {n : Nat} {g : Grid} (hg : s.grid n = some g) (hd : s.gridDone n g = true)
    (hr : s.partReady g.part g.recd.complAddr 128 needWrite = true) : execGridEnd n s = .next
      { s.writeCompletion g.part g.recd.complAddr g.status (completionBody g.queue g.seq g.counts g.fp) g.vc with
        grids := s.grids.del n } := by
  unfold execGridEnd
  rw [hg]
  dsimp only
  rw [hd, hr, Bool.and_self, if_pos rfl, State.grids_writeCompletion]

/-- Settles O37: each end by what its event leaves when its condition holds. -/
theorem retirement : Obligations.Retirement := by
  unfold Obligations.Retirement
  refine fun s => ⟨?_, ?_, ?_⟩
  · intro gid g tm gr hg hpriv hlive htrap howed hteam hcheck _ hgrid
    obtain ⟨short, h⟩ := execGroupRetire_of_done hg hpriv hlive htrap howed hteam hcheck
    rw [State.grp] at hg
    rw [State.team] at hteam
    rw [State.grid] at hgrid
    refine ⟨_, tm.withoutGroup g short ((s.delGrp gid).groupsOf g.team).isEmpty, h, ?_, fun k hk => ?_, ?_, rfl, ?_, ?_, rfl, rfl⟩
    · simp [State.grp, Tab.find_del]
    · simp [State.grp, Tab.find_del, hk]
    · simp [State.team, Tab.find_upd, hteam]
    · rw [← State.groupsOf_delGrp_isEmpty, Team.withoutGroup, Bool.or_eq_true, or_comm]
    · simp [State.grid, Tab.find_upd, hgrid]
  · intro tid tm hteam hend hgroups hidle hcheck
    have stops := untouched_pruneStops ((s.withoutTeam tid tm).tellRunEnd tm)
    obtain ⟨gs, told⟩ := (s.withoutTeam tid tm).tellRunEnd_eq tm
    have units := told.trans stops
    refine ⟨_, execTeamRetire_of_idle hteam hend hgroups hidle hcheck, ?_, ?_, fun m hm => ?_, fun i gr r hk hrole hgrid hr => ?_⟩
    · exact (congrArg (Tab.find · tid) units.teams).trans (s.withoutTeam_team tid tm)
    · rw [State.die, units.dies]
      exact s.withoutTeam_retired tid tm
    · rw [State.core, units.cores] at hm
      obtain ⟨hmem, hout⟩ := List.mem_filter.mp ((s.withoutTeam_marks tid tm) ▸ hm)
      exact ⟨hmem, fun ⟨hlo, hhi⟩ => by simp [hlo, hhi] at hout⟩
    · rw [State.tellRunEnd_of_tile hk hrole] at stops ⊢
      obtain ⟨id, he⟩ := State.sendTask_ev (s := s.withoutTeam tid tm) (core := tm.core) (n := tm.grid)
        ((congrArg (Tab.find · tm.grid) (s.withoutTeam_grids tid tm)).trans hgrid) hr (.runEnd i)
      refine ⟨_, _, id, (congrArg (Tab.find · tm.grid) stops.grids).trans he, rfl, ?_⟩
      rw [Tab.find_put, if_pos rfl]
  · intro n g hg hd hr
    refine ⟨_, execGridEnd_of_done hg hd hr, ?_, fun k hk => ?_, ?_, ?_⟩
    · simp [State.grid, Tab.find_del]
    · simp [State.grid, Tab.find_del, hk]
    · rw [← Grid.status_eq]
    · rw [← Grid.status_eq]

end Sys2Proof.Machine
end

section
/-! SUPPORT. Tickets: their numbers, `CPYWAIT` and `CPYST` (05 R97, R101). -/

namespace Sys2Proof.Machine

/-! ### What a result leaves, by its words in the completing lanes -/

/-- Only the words of the completing lanes matter to what a result leaves. -/
theorem Wrote.congr {g g' : Group} {n : Nat} {done : Mask} {nw : Bool} {dst : Operand} {vals vals' : LaneIx → List Word}
    (h : Wrote g n done nw dst vals g') (hv : ∀ l, Mask.has done l = true → vals l = vals' l) : Wrote g n done nw dst vals' g' where
  window hnw hd l hl i hi := (hv l hl) ▸ h.window hnw hd l hl i hi
  uniform hnw h97 h119 l0 hl0 i hi := (hv l0 (Mask.has_of_low hl0)) ▸ h.uniform hnw h97 h119 l0 hl0 i hi
  others := h.others
  othersS := h.othersS
  latches l := by
    obtain ⟨fw, hnear, hfw⟩ := h.latches l
    refine ⟨fw, hnear, hfw.trans ?_⟩
    split
    next hl => rw [resultOf_congr hv hl]
    next => rfl
  signature l := by
    refine (h.signature l).trans ?_
    split
    next hl =>
      rw [Bool.and_eq_true] at hl
      rw [resultOf_congr hv hl.1]
    next => rfl
  rest := h.rest
  frame := h.frame
where
  resultOf_congr {done : Mask} {dst : Operand} {vals vals' : LaneIx → List Word} (hv : ∀ l, Mask.has done l = true → vals l = vals' l)
      {l : LaneIx} (hl : Mask.has done l = true) : resultOf done dst vals l = resultOf done dst vals' l := by
    unfold resultOf
    split
    · cases h0 : Mask.low done with
      | none => rfl
      | some l0 => exact hv l0 (Mask.has_of_low h0)
    · exact hv l hl

theorem Group.putGp_zero (g : Group) (b : LaneIx → Bool) : g.putGp 0#32 b = g := by
  have h : setGp g.gp 0#32 b = g.gp := Mask.ext' fun l => by simp [setGp]
  unfold Group.putGp
  rw [h]

/-- What remains of a group when its operands have been read, a word written in each lane and the lanes moved on. -/
theorem Group.wrote_word {g g' : Group} {n wb : Nat} {part : Mask} {ops : List Operand} {nw : Bool} {d : Reg} {vals : LaneIx → Word}
    (hn : 96 ≤ n) (hd : d.toNat ≤ 119) (h : g'.still = (g.readWrite n wb part part ops nw ⟨d, 1⟩ fun l => [vals l]).still) :
    Wrote g n part nw ⟨d, 1⟩ (fun l => [vals l]) g' ∧ g'.gp = g.gp := by
  have hw := Group.wrote g n wb part part ops nw ⟨d, 1⟩ (fun l => [vals l]) 0#32 (fun _ => false) g' hn
    (fun h96 => by dsimp only at h96 ⊢; omega) hd (fun _ => rfl) (by rw [Group.putGp_zero, h])
  refine ⟨hw.1, hw.2.trans ?_⟩
  exact congrArg Group.gp (g.putGp_zero fun _ => false)

section readWrite
variable (g : Group) (n wb : Nat) (part done : Mask) (ops : List Operand) (nw : Bool) (dst : Operand) (vals : LaneIx → List Word)

theorem readWrite_levels : (g.readWrite n wb part done ops nw dst vals).levels = g.levels := by
  have h := readWrite_frame g n wb part done ops nw dst vals
  generalize g.readWrite n wb part done ops nw dst vals = a at h ⊢
  rw [← h]

theorem readWrite_copySeq : (g.readWrite n wb part done ops nw dst vals).copySeq = g.copySeq := by
  have h := readWrite_frame g n wb part done ops nw dst vals
  generalize g.readWrite n wb part done ops nw dst vals = a at h ⊢
  rw [← h]

end readWrite

theorem Instr.field_ok {i : Instr} (h : i.wellFormed = true) {f : Role × Reg} (hf : f ∈ i.operands) : f.1.ok f.2 = true := by
  rw [Instr.wellFormed, Bool.and_eq_true] at h
  exact List.all_eq_true.mp h.1 f hf

/-- A destination field of a well-formed instruction names a register (02 R22). -/
theorem Instr.dst_le {i : Instr} (h : i.wellFormed = true) {d : Reg} (hd : (Role.dst, d) ∈ i.operands) : d.toNat ≤ 119 :=
  of_decide_eq_true (Instr.field_ok h hd)

/-! ### A lane's rank -/

theorem idxOf_eq_length_filter_lt {n : Nat} {ls : List (Fin n)} (hs : ls.Pairwise (· < ·)) {l : Fin n} (hl : l ∈ ls) :
    ls.idxOf l = (ls.filter fun k => k.val < l.val).length := by
  induction ls with
  | nil => cases hl
  | cons a t ih =>
    obtain ⟨ha, ht⟩ := List.pairwise_cons.mp hs
    rcases List.mem_cons.mp hl with rfl | hlt
    · have below : t.filter (fun k => decide (k.val < l.val)) = [] :=
        List.filter_eq_nil_iff.mpr fun k hk => by simpa using (ha k hk).le
      rw [List.idxOf_cons_self, List.filter_cons_of_neg (by simp), below, List.length_nil]
    · have hal := ha l hlt
      rw [List.idxOf_cons_ne _ hal.ne, ih ht hlt, List.filter_cons_of_pos (by simpa using hal), List.length_cons]

/-- A lane's place among the lanes of a mask is the number of those below it. -/
theorem rankIn_eq_rankOf {m : Mask} {l : LaneIx} (h : Mask.has m l = true) : rankIn m l = Rules.rankOf m l :=
  idxOf_eq_length_filter_lt ((List.pairwise_lt_finRange 32).sublist List.filter_sublist) ((Mask.mem_lanes m l).mpr h)

/-- A ticket's number: GRPIX above the copy sequence number (R97). -/
theorem ticketOf_eq (g : Group) (i : Nat) :
    ticketOf g i = BitVec.ofNat 32 (g.grpix % 65536 * 65536 + (g.copySeq.toNat + i) % 65536) := by
  apply BitVec.eq_of_toNat_eq
  have hseq : (g.copySeq + BitVec.ofNat 16 i).toNat = (g.copySeq.toNat + i) % 65536 := by simp
  rw [ticketOf, BitVec.toNat_append, hseq, BitVec.toNat_ofNat, BitVec.toNat_ofNat,
    ← Nat.shiftLeft_add_eq_or_of_lt (Nat.mod_lt _ (by decide)), Nat.shiftLeft_eq]
  omega

/-! ### The operands of an issue -/

section ready
variable {x : Issue} {n : Nat} {guard : Bool} {srcs waits : List Operand} (h : x.Ready n (x.part guard) srcs waits)
include h

theorem Issue.Ready.pending : x.g.pending n x.act waits = false := h.1
theorem Issue.Ready.operandTrap {l : LaneIx} (hl : Mask.has (x.part guard) l = true) : x.g.operandTrap n srcs l = none := h.2 l hl

/-- A lane with such operands and a ticket below 2^21 meets no condition (R101). -/
theorem ticketTrap_of_ready {l : LaneIx} (hl : Mask.has (x.part guard) l = true) {t : Word} (ht : t.toNat < 2 ^ 21) :
    ticketTrap x n srcs l t = none := by
  have hz : t.extractLsb' 21 11 = 0#11 := by
    apply BitVec.eq_of_toNat_eq
    rw [BitVec.extractLsb'_toNat, Nat.shiftRight_eq_div_pow, Nat.div_eq_of_lt ht]
    rfl
  rw [ticketTrap, h.operandTrap hl, Option.none_or, if_pos hz]

end ready

/-- An issue whose effect is on its own group alone, which reads operands, writes no register and goes on. -/
theorem State.moved_of_updGrp {s : State} {x : Issue} (hi : s.issue = some x) (wb : Nat) (part : Mask) (srcs : List Operand) :
    ∃ g', OnlyGroup s ((s.updGrp x.gid fun g => g.scrub (s.stackOf x.g) wb part srcs).updGrp x.gid fun g => g.advance x x.act x.seq)
        x.gid g' ∧ Moved x.g g' ∧ (Rules.Steady x x.seq → Rules.GoOn x x.act x.seq g') := by
  rw [State.updGrp_updGrp]
  refine ⟨_, OnlyGroup.updGrp s s _ _ x.g rfl (State.grp_of_issue hi), Group.moved (Group.still_advance ..), fun hs => ?_⟩
  exact Group.goOn_advance (by simp only [Group.scrub, Group.mapLanes_levels]) (fun l => Group.scrub_wb ..) hs

/-! ### CPYWAIT and CPYST -/

section cpywait
variable {s : State} {x : Issue} {o : A1a} (hi : s.issue = some x)
  (hr : x.Ready (s.stackOf x.g) (x.part o.g) [⟨o.a, 1⟩] [⟨o.a, 1⟩])
  (ht : ∀ l, Mask.has (x.part o.g) l = true → (x.g.src (s.stackOf x.g) l o.a).toNat < 2 ^ 21)
include hi hr ht

theorem execCpywait_of_none
    (hf : ∀ l, Mask.has (x.part o.g) l = true → s.inFlight (coreOf x.gid) x.g.team (x.g.src (s.stackOf x.g) l o.a) = false) :
    ∃ wb, execCpywait o s = .next ((s.updGrp x.gid fun g => g.scrub (s.stackOf x.g) wb (x.part o.g) [⟨o.a, 1⟩]).updGrp x.gid
      fun g => g.advance x x.act x.seq) := by
  refine ⟨((Mask.low x.act).map fun l => (x.g.lane l).wb).getD 0, ?_⟩
  have idle : ((Mask.lanes (x.part o.g)).any fun l =>
      (ticketTrap x (s.stackOf x.g) [⟨o.a, 1⟩] l (x.g.src (s.stackOf x.g) l o.a)).isNone &&
        s.inFlight (coreOf x.gid) x.g.team (x.g.src (s.stackOf x.g) l o.a)) = false := by
    rw [List.any_eq_false]
    intro l hl
    rw [hf l ((Mask.mem_lanes ..).mp hl)]
    simp
  unfold execCpywait
  rw [State.withIssue_of hi]
  dsimp only
  rw [hr.pending, idle, if_neg (by simp), State.finish_part _ _ fun l hl => ticketTrap_of_ready hr hl (ht l hl)]

theorem execCpywait_of_flying
    (hf : ∃ l, Mask.has (x.part o.g) l = true ∧ s.inFlight (coreOf x.gid) x.g.team (x.g.src (s.stackOf x.g) l o.a) = true) :
    execCpywait o s = .next s := by
  have waits : ((Mask.lanes (x.part o.g)).any fun l =>
      (ticketTrap x (s.stackOf x.g) [⟨o.a, 1⟩] l (x.g.src (s.stackOf x.g) l o.a)).isNone &&
        s.inFlight (coreOf x.gid) x.g.team (x.g.src (s.stackOf x.g) l o.a)) = true := by
    obtain ⟨l, hl, hfl⟩ := hf
    refine List.any_eq_true.mpr ⟨l, (Mask.mem_lanes ..).mpr hl, ?_⟩
    rw [ticketTrap_of_ready hr hl (ht l hl), hfl]
    rfl
  unfold execCpywait
  rw [State.withIssue_of hi]
  dsimp only
  rw [waits, if_pos (by simp)]

end cpywait

/-- An issue of no checked run logs nothing (12 R259, R265). -/
theorem State.logged_of_plain {s : State} {x : Issue} (h : Rules.Plain s x) (lanes : List LaneIx) (key : LaneIx → LogKey) :
    s.logged x lanes key = .plain := by
  unfold Rules.Plain at h
  unfold State.logged
  cases ht : s.team x.g.team with
  | none => rfl
  | some t =>
    rw [ht, Option.map_some, Option.getD_some] at h
    dsimp only
    rw [Team.logs, Team.replays, h]
    rfl

/-- A synchronous value whose lanes meet no condition, in no checked run: it is written and the lanes go on (12 R265). -/
theorem State.inputOp_of_plain {s : State} {x : Issue} {guard : Bool} {srcs : List Operand} {trap : LaneIx → Option TrapC}
    (hp : Rules.Plain s x) (ht : ∀ l, Mask.has (x.part guard) l = true → trap l = none) (n : Nat) (key : LaneIx → LogKey) (nw : Bool)
    (dst : Operand) (folds : Bool) (eff : Mask → State → State) (val : LaneIx → Word) :
    ∃ wb, s.inputOp x n (x.part guard) srcs trap key nw dst folds eff val =
      .next ((eff (x.part guard) (s.updGrp x.gid fun g =>
        (g.scrub n wb (x.part guard) srcs).writeSync n (x.part guard) nw dst (fun l => [val l]) folds)).updGrp x.gid
          fun g => g.advance x x.act x.seq) := by
  refine ⟨((Mask.low x.act).map fun l => (x.g.lane l).wb).getD 0, ?_⟩
  unfold State.inputOp
  dsimp only
  rw [State.logged_of_plain hp]
  dsimp only [Logged.values, Logged.onState, Option.bind_none, Option.getD_none]
  rw [State.finish_part _ _ ht]

theorem execCpyst_of_plain {s : State} {x : Issue} {o : A2} (hi : s.issue = some x) (hp : Rules.Plain s x)
    (hr : x.Ready (s.stackOf x.g) (x.part o.g) [⟨o.a, 1⟩] ([⟨o.a, 1⟩] ++ if o.nw then [] else [⟨o.d, 1⟩]))
    (ht : ∀ l, Mask.has (x.part o.g) l = true → (x.g.src (s.stackOf x.g) l o.a).toNat < 2 ^ 21) :
    ∃ wb, execCpyst o s = .next (s.updGrp x.gid fun g =>
      (g.readWrite (s.stackOf x.g) wb (x.part o.g) (x.part o.g) [⟨o.a, 1⟩] o.nw ⟨o.d, 1⟩ fun l =>
        [if s.inFlight (coreOf x.gid) x.g.team (x.g.src (s.stackOf x.g) l o.a) then 0#32 else 1#32]).advance x x.act x.seq) := by
  obtain ⟨wb, h⟩ := State.inputOp_of_plain (srcs := [⟨o.a, 1⟩]) hp (fun l hl => ticketTrap_of_ready hr hl (ht l hl)) (s.stackOf x.g)
    (fun _ => { kind := 5, operand := encode (.cpyst o), addr := 0 }) o.nw ⟨o.d, 1⟩ true (fun _ s => s)
    fun l => ofBool (!s.inFlight (coreOf x.gid) x.g.team (x.g.src (s.stackOf x.g) l o.a))
  refine ⟨wb, ?_⟩
  unfold execCpyst
  rw [State.withIssue_of hi]
  dsimp only
  rw [hr.pending, if_neg (by simp), h, State.updGrp_updGrp]
  have word (b : Bool) : ofBool (!b) = if b then 0#32 else 1#32 := by cases b <;> rfl
  simp only [word]
  rfl

/-- What the tickets' own instructions do (R97, R101). -/
theorem copyTickets : Rules.CopyTickets := by
  refine fun s x hi => ⟨fun o hr ht => ⟨fun hf => ?_, execCpywait_of_flying hi hr ht⟩, fun o hwf hp hruns ht => ?_⟩
  · obtain ⟨wb, h⟩ := execCpywait_of_none hi hr ht hf
    obtain ⟨g', h'⟩ := State.moved_of_updGrp hi wb (x.part o.g) [⟨o.a, 1⟩]
    exact ⟨_, g', h, h'⟩
  · obtain ⟨-, hn, hr⟩ := hruns
    obtain ⟨wb, h⟩ := execCpyst_of_plain hi hp hr ht
    have hd : o.d.toNat ≤ 119 := Instr.dst_le hwf (by simp [Instr.operands])
    obtain ⟨wrote, hgp⟩ := Group.wrote_word hn hd (Group.still_advance
      (x.g.readWrite (s.stackOf x.g) wb (x.part o.g) (x.part o.g) [⟨o.a, 1⟩] o.nw ⟨o.d, 1⟩ fun l =>
        [if s.inFlight (coreOf x.gid) x.g.team (x.g.src (s.stackOf x.g) l o.a) then 0#32 else 1#32]) x x.act x.seq)
    refine ⟨_, _, h, OnlyGroup.updGrp s s _ _ x.g rfl (State.grp_of_issue hi), hgp, wrote, fun hs => ?_⟩
    exact Group.goOn_advance (readWrite_levels ..) (fun l => readWrite_wb ..) hs

end Sys2Proof.Machine
end

section
/-! SUPPORT. Copies and transfers as they are issued (05 R91, R97, R101, R114 to R116), and the statement on them. -/

namespace Sys2Proof.Rules
open Sys2Proof Sys2Proof.Machine

/-! ### Local operands that pass their checks -/

section localRuns
variable {s : State} {x : Issue} {tm : Team} {part : Mask} {srcs waits : List Operand} {a : Reg} {size : Nat}
  (h : LocalRuns s x tm part srcs waits a size)
include h

/-- The group's local accesses are those of its team's block. -/
theorem LocalRuns.locOf : s.locOf x.g = (tm.locBlk, tm.locSize, tm.owner) := by
  rw [State.locOf, h.team]

theorem LocalRuns.locBytes (l : LaneIx) :
    s.locBytes x.g (coreOf x.gid) (x.g.src (s.stackOf x.g) l a).toNat size = descOf s x tm a size l := by
  rw [State.locBytes, h.locOf, descOf, placeOf, h.core]

theorem LocalRuns.localTrap {l : LaneIx} (hl : Mask.has part l = true) (word : Word) :
    localTrap word (x.g.src (s.stackOf x.g) l a).toNat size tm.locSize = none := by
  obtain ⟨halign, hin⟩ := h.inside l hl
  rw [Machine.localTrap, if_neg (by omega), if_neg (by omega)]

theorem LocalRuns.descTrap {l : LaneIx} (hl : Mask.has part l = true) (word : Word) :
    s.descTrap x (s.stackOf x.g) word srcs size l (x.g.src (s.stackOf x.g) l a) = none := by
  rw [State.descTrap, h.ready.2 l hl, h.locOf, h.localTrap hl, Option.none_or]

end localRuns

end Sys2Proof.Rules

namespace Sys2Proof.Machine

/-! ### The issue of a copy instruction -/


/-- The group of a copy instruction, its operands read, its tickets written and its next number advanced (R97). -/
def Group.ticketed (g : Group) (n wb : Nat) (part : Mask) (nw : Bool) (d a : Reg) (tk : LaneIx → Word) : Group :=
  { g.readWrite n wb part part [⟨a, 1⟩] nw ⟨d, 1⟩ (fun l => [tk l]) with
    copySeq := g.copySeq + BitVec.ofNat 16 (Mask.lanes part).length }

/-- A copy instruction whose descriptors pass their checks, with slots for all of them, starts one copy or transfer a lane (R91, R97,
R101, R114). -/
theorem State.copyOp_of_runs {s : State} {x : Issue} {tm : Team} {guard nw : Bool} {d a : Reg} {size : Nat}
    (h : Rules.CopyRuns s x tm (x.part guard) nw d a size) (word : Word) {trap : Issue → List Byte → Option TrapC}
    (ht : ∀ l, Mask.has (x.part guard) l = true → trap x (Rules.descOf s x tm a size l) = none)
    (start : Issue → LaneIx → Word → List Byte → State → State) (key : Option (LaneIx → LogKey)) :
    ∃ wb, s.copyOp guard nw word d a size trap start key =
      .next (((Mask.lanes (x.part guard)).foldl (fun s' l =>
          start x l (ticketOf x.g (rankIn (x.part guard) l)) (Rules.descOf s x tm a size l) s')
        (s.updGrp x.gid fun g => g.ticketed (s.stackOf x.g) wb (x.part guard) nw d a fun l =>
          ticketOf x.g (rankIn (x.part guard) l))).updGrp x.gid fun g => g.advance x x.act x.seq) := by
  refine ⟨((Mask.low x.act).map fun l => (x.g.lane l).wb).getD 0, ?_⟩
  have plain : (key.map fun k => s.logged x ((Mask.lanes (x.part guard)).filter fun l =>
      ((s.descTrap x (s.stackOf x.g) word [⟨a, 1⟩] size l (x.g.src (s.stackOf x.g) l a)).or
        (trap x (Rules.descOf s x tm a size l))).isNone) k).getD .plain = .plain := by
    cases key with
    | none => rfl
    | some k => exact State.logged_of_plain (by rw [Rules.Plain, h.runs.team, Option.map_some, Option.getD_some, h.plain]) _ _
  have noTrap (l : LaneIx) (hl : Mask.has (x.part guard) l = true) :
      (s.descTrap x (s.stackOf x.g) word [⟨a, 1⟩] size l (x.g.src (s.stackOf x.g) l a)).or
        (trap x (Rules.descOf s x tm a size l)) = none := by
    rw [h.runs.descTrap hl, ht l hl, Option.none_or]
  have present : ((Mask.lanes (x.part guard)).any fun l =>
      (s.descTrap x (s.stackOf x.g) word [⟨a, 1⟩] size l (x.g.src (s.stackOf x.g) l a)).isNone &&
        (s.core (coreOf x.gid)).anyAbsent ((s.locOf x.g).1 + (x.g.src (s.stackOf x.g) l a).toNat) size) = false := by
    rw [List.any_eq_false]
    intro l hl
    have := h.present l ((Mask.mem_lanes ..).mp hl)
    rw [Rules.placeOf, h.runs.core] at this
    rw [h.runs.locOf, this]
    simp
  have room : ¬ 128 < (s.core (coreOf x.gid)).copies.length + ((Mask.lanes (x.part guard)).filter fun l =>
      ((s.descTrap x (s.stackOf x.g) word [⟨a, 1⟩] size l (x.g.src (s.stackOf x.g) l a)).or
        (trap x (Rules.descOf s x tm a size l))).isNone).length := by
    have := h.room
    have := List.length_filter_le (fun l =>
      ((s.descTrap x (s.stackOf x.g) word [⟨a, 1⟩] size l (x.g.src (s.stackOf x.g) l a)).or
        (trap x (Rules.descOf s x tm a size l))).isNone) (Mask.lanes (x.part guard))
    rw [h.runs.core] at *
    omega
  unfold State.copyOp
  rw [State.withIssue_of h.runs.issue]
  dsimp only
  simp only [h.runs.locBytes]
  rw [h.runs.ready.pending, present, if_neg (by simp), if_neg room, plain]
  dsimp only [Logged.onState]
  rw [State.finish_part _ _ noTrap]
  rfl

theorem Group.still_copySeq (g : Group) (c : BitVec 16) : Group.still { g with copySeq := c } = { g.still with copySeq := c } := by
  simp only [Group.still, Group.mapLanes]

/-- The group of such an issue, and where its lanes go on. -/
theorem Group.tickets {s : State} {x : Issue} {tm : Team} {guard nw : Bool} {d a : Reg} {size : Nat}
    (h : Rules.CopyRuns s x tm (x.part guard) nw d a size) (hd : d.toNat ≤ 119) {wb : Nat} {r : Group}
    (hr : r = x.g.ticketed (s.stackOf x.g) wb (x.part guard) nw d a fun l => ticketOf x.g (rankIn (x.part guard) l)) :
    Rules.Tickets s x (x.part guard) nw d (r.advance x x.act x.seq) ∧
      (Rules.Steady x x.seq → Rules.GoOn x x.act x.seq (r.advance x x.act x.seq)) := by
  have levels := readWrite_levels x.g (s.stackOf x.g) wb (x.part guard) (x.part guard) [⟨a, 1⟩] nw ⟨d, 1⟩
    fun l => [ticketOf x.g (rankIn (x.part guard) l)]
  have seq := readWrite_copySeq x.g (s.stackOf x.g) wb (x.part guard) (x.part guard) [⟨a, 1⟩] nw ⟨d, 1⟩
    fun l => [ticketOf x.g (rankIn (x.part guard) l)]
  have wbs := readWrite_wb x.g (s.stackOf x.g) wb (x.part guard) (x.part guard) [⟨a, 1⟩] nw ⟨d, 1⟩
    fun l => [ticketOf x.g (rankIn (x.part guard) l)]
  have wrote (r : Group) (hr : r.still = _) := Group.wrote_word (g := x.g) (g' := r) (wb := wb) (part := x.part guard) (ops := [⟨a, 1⟩])
    (nw := nw) (vals := fun l => ticketOf x.g (rankIn (x.part guard) l)) h.stack hd hr
  have still : (r.advance x x.act x.seq).still = r.still := Group.still_advance ..
  rw [Group.ticketed] at hr
  generalize x.g.readWrite _ _ _ _ _ _ _ _ = written at *
  have core : r.still = { written.still with copySeq := x.g.copySeq + BitVec.ofNat 16 (Mask.lanes (x.part guard)).length } := by
    rw [hr, Group.still_copySeq]
  rw [core] at still
  refine ⟨⟨?_, ?_⟩, fun hs => ?_⟩
  · refine Wrote.congr (wrote _ ?_).1 fun l hl => ?_
    · rw [Group.still_copySeq, still, ← Group.still_copySeq, ← seq]
    · rw [ticketOf_eq, rankIn_eq_rankOf hl]
  · have := congrArg Group.copySeq still
    simpa [Group.still] using this
  · refine Group.goOn_advance (by rw [hr]; exact levels) (fun l => ?_) hs
    rw [← wbs, hr]
    rfl

/-! ### Copies that are put in flight -/

/-- From `s` to `t` copies have been put in flight on a core, with names from `n` on, and packets sent: copies with lower names are as
they were, and so is what the issue reads. -/
structure Issuing (core n : Nat) (s t : State) : Prop where
  nextId : s.nextId ≤ t.nextId
  kept : ∀ cid < n, (t.core core).copies.find cid = (s.core core).copies.find cid
  reads : ∀ owner a k, (t.core core).scrRead owner a k = (s.core core).scrRead owner a k
  groups : t.groups = s.groups
  teams : t.teams = s.teams
  grids : t.grids = s.grids
  dram : t.dram = s.dram
  mcast : t.mcast = s.mcast
  pkgId : t.pkgId = s.pkgId
  wired : ∀ l, (t.link l).wired = (s.link l).wired

theorem Issuing.refl (core n : Nat) (s : State) : Issuing core n s s :=
  ⟨le_rfl, fun _ _ => rfl, fun _ _ _ => rfl, rfl, rfl, rfl, rfl, rfl, rfl, fun _ => rfl⟩

theorem Issuing.trans {core n m : Nat} {s t u : State} (h : Issuing core n s t) (k : Issuing core m t u) (hm : n ≤ m) : Issuing core n s u :=
  ⟨h.nextId.trans k.nextId, fun cid hc => (k.kept cid (hc.trans_le hm)).trans (h.kept cid hc),
    fun o a n => (k.reads o a n).trans (h.reads o a n), k.groups.trans h.groups, k.teams.trans h.teams, k.grids.trans h.grids,
    k.dram.trans h.dram, k.mcast.trans h.mcast, k.pkgId.trans h.pkgId, fun l => (k.wired l).trans (h.wired l)⟩

/-- Issues one after another, each of which puts a copy in flight of which `Q` holds, leave all those copies in flight. -/
theorem issuing_foldl {core : Nat} {s : State} {f : State → LaneIx → State} {Q : LaneIx → Copy → Prop} (ls : List LaneIx)
    (h : ∀ t, ∀ l ∈ ls, Issuing core s.nextId s t → Issuing core t.nextId t (f t l) ∧
      ∃ cid < (f t l).nextId, ∃ c, ((f t l).core core).copies.find cid = some c ∧ Q l c) :
    Issuing core s.nextId s (ls.foldl f s) ∧
      ∀ l ∈ ls, ∃ cid c, ((ls.foldl f s).core core).copies.find cid = some c ∧ Q l c := by
  suffices hall : Issuing core s.nextId s (ls.foldl f s) ∧
      ∀ l ∈ ls, ∃ cid < (ls.foldl f s).nextId, ∃ c, ((ls.foldl f s).core core).copies.find cid = some c ∧ Q l c by
    refine ⟨hall.1, fun l hl => ?_⟩
    obtain ⟨cid, -, c, hc⟩ := hall.2 l hl
    exact ⟨cid, c, hc⟩
  induction ls using List.reverseRecOn with
  | nil => exact ⟨Issuing.refl .., nofun⟩
  | append_singleton ls a ih =>
    obtain ⟨hs, hls⟩ := ih fun t l hl => h t l (List.mem_append_left _ hl)
    rw [List.foldl_append, List.foldl_cons, List.foldl_nil]
    obtain ⟨ha, hnew⟩ := h _ a (by simp) hs
    refine ⟨hs.trans ha hs.nextId, fun l hl => ?_⟩
    rcases List.mem_append.mp hl with hl | hl
    · obtain ⟨cid, hlt, c, hc, hq⟩ := hls l hl
      exact ⟨cid, hlt.trans_le ha.nextId, c, (ha.kept cid hlt).trans hc, hq⟩
    · rw [List.mem_singleton.mp hl]
      exact hnew

theorem State.core_updCore (s : State) (c : Nat) (f : Core → Core) (k : Nat) :
    (s.updCore c f).core k = if k = c then f (s.core c) else s.core k := by
  simp [State.core, State.updCore, State.setCore]

theorem issuing_fresh (core n : Nat) (s : State) : Issuing core n s s.fresh.2 :=
  ⟨Nat.le_succ _, fun _ _ => rfl, fun _ _ _ => rfl, rfl, rfl, rfl, rfl, rfl, rfl, fun _ => rfl⟩

/-- A copy takes a slot under a name that none had before the issue. -/
theorem issuing_slot {core n cid : Nat} (h : n ≤ cid) (s : State) (c : Copy) :
    Issuing core n s (s.updCore core fun k => { k with copies := k.copies.put cid c }) := by
  refine ⟨le_rfl, fun k hk => ?_, fun _ _ _ => ?_, rfl, rfl, rfl, rfl, rfl, rfl, fun _ => rfl⟩ <;> rw [State.core_updCore, if_pos rfl]
  · exact (Tab.find_put ..).trans (if_neg (hk.trans_le h).ne)
  · rfl

theorem issuing_put (s : State) (core : Nat) (c : Copy) : Issuing core s.nextId s
    (State.updCore { s with nextId := s.nextId + 1 } core fun k => { k with copies := k.copies.put s.nextId c }) :=
  (issuing_fresh core s.nextId s).trans (issuing_slot le_rfl _ c) le_rfl

theorem find_put_copy (s : State) (core : Nat) (c : Copy) :
    ((State.updCore { s with nextId := s.nextId + 1 } core fun k => { k with copies := k.copies.put s.nextId c }).core core).copies.find
      s.nextId = some c := by
  simp [State.core]

/-! ### CPY -/

/-- What a copy in flight holds of its descriptor (R92, R97). -/
def Copy.IsCopy (x : Issue) (ticket : Word) (d : CopyDesc) (c : Copy) : Prop :=
  c.kind = .copy ∧ c.team = x.g.team ∧ c.gid = x.gid ∧ c.ticket = ticket ∧ c.src = d.src ∧ c.dst = d.dst ∧ c.rowBytes = d.rowBytes ∧
    c.rows = d.rows ∧ c.srcStride = d.srcStride ∧ c.dstStride = d.dstStride ∧ c.obj = d.obj ∧ c.ctrl = d.ctrl ∧ c.landed = [] ∧ c.buf = []

theorem State.startCopy_eq (s : State) (x : Issue) (tk : Word) (d : CopyDesc) : ∃ c, c.IsCopy x tk d ∧ s.startCopy x tk d =
    State.updCore { s with nextId := s.nextId + 1 } (coreOf x.gid) fun k => { k with copies := k.copies.put s.nextId c } :=
  ⟨_, ⟨rfl, rfl, rfl, rfl, rfl, rfl, rfl, rfl, rfl, rfl, rfl, rfl, rfl, rfl⟩, rfl⟩

/-- A state without its groups, its cores and its names. -/
def State.bare (s : State) : State := { s with groups := [], cores := [], nextId := 0 }

theorem State.bare_updGrp (s : State) (gid : Nat) (f : Group → Group) : (s.updGrp gid f).bare = s.bare := by
  simp only [State.bare, State.updGrp]

theorem State.eq_of_bare {s t : State} (h : t.bare = s.bare) :
    { t with groups := s.groups, cores := s.cores, nextId := s.nextId } = s := by
  have := congrArg (fun t : State => { t with groups := s.groups, cores := s.cores, nextId := s.nextId }) h
  simpa only [State.bare] using this

theorem State.bare_startCopy (s : State) (x : Issue) (tk : Word) (d : CopyDesc) : (s.startCopy x tk d).bare = s.bare := by
  obtain ⟨c, -, h⟩ := s.startCopy_eq x tk d
  rw [h]
  simp only [State.bare, State.updCore, State.setCore]

theorem State.grp_updGrp (s : State) (gid : Nat) (f : Group → Group) (k : Nat) :
    (s.updGrp gid f).grp k = if k = gid then (s.grp k).map f else s.grp k := by
  rw [State.grp, State.updGrp_groups, Tab.find_upd]
  rfl

/-- A copy instruction that can go, with starts that each put in flight a copy of which `Q` holds. -/
theorem State.copyOp_issues {s : State} {x : Issue} {tm : Team} {guard nw : Bool} {d a : Reg} {size : Nat}
    (h : Rules.CopyRuns s x tm (x.part guard) nw d a size) (hd : d.toNat ≤ 119) (word : Word) {trap : Issue → List Byte → Option TrapC}
    (ht : ∀ l, Mask.has (x.part guard) l = true → trap x (Rules.descOf s x tm a size l) = none)
    {start : Issue → LaneIx → Word → List Byte → State → State} (key : Option (LaneIx → LogKey)) {Q : LaneIx → Word → Copy → Prop}
    (hq : ∀ f t l tk, Mask.has (x.part guard) l = true → Issuing tm.core s.nextId (s.updGrp x.gid f) t →
      Issuing tm.core t.nextId t (start x l tk (Rules.descOf s x tm a size l) t) ∧
        ∃ cid < (start x l tk (Rules.descOf s x tm a size l) t).nextId, ∃ c,
          ((start x l tk (Rules.descOf s x tm a size l) t).core tm.core).copies.find cid = some c ∧ Q l tk c) :
    ∃ f f' u g', u = (Mask.lanes (x.part guard)).foldl (fun s' l =>
        start x l (ticketOf x.g (rankIn (x.part guard) l)) (Rules.descOf s x tm a size l) s') (s.updGrp x.gid f) ∧
      s.copyOp guard nw word d a size trap start key = .next (u.updGrp x.gid f') ∧
      (u.updGrp x.gid f').grp x.gid = some g' ∧ Rules.Tickets s x (x.part guard) nw d g' ∧ (u.updGrp x.gid f').dram = s.dram ∧
      (∀ k, k ≠ x.gid → (u.updGrp x.gid f').grp k = s.grp k) ∧
      (∀ l, Mask.has (x.part guard) l = true → ∃ cid c, ((u.updGrp x.gid f').core tm.core).copies.find cid = some c ∧
        Q l (ticketOf x.g (Rules.rankOf (x.part guard) l)) c) ∧
      (Rules.Steady x x.seq → Rules.GoOn x x.act x.seq g') := by
  obtain ⟨wb, hop⟩ := State.copyOp_of_runs h word ht start key
  obtain ⟨issuing, copies⟩ := issuing_foldl (core := tm.core)
    (s := s.updGrp x.gid fun g => g.ticketed (s.stackOf x.g) wb (x.part guard) nw d a fun l => ticketOf x.g (rankIn (x.part guard) l))
    (f := fun s' l => start x l (ticketOf x.g (rankIn (x.part guard) l)) (Rules.descOf s x tm a size l) s')
    (Q := fun l => Q l (ticketOf x.g (rankIn (x.part guard) l))) (Mask.lanes (x.part guard))
    fun t l hl ht => hq _ t l _ ((Mask.mem_lanes ..).mp hl) ht
  obtain ⟨tickets, goOn⟩ := Group.tickets h hd (wb := wb) rfl
  generalize hu : (Mask.lanes (x.part guard)).foldl _ _ = u at hop issuing copies
  have grp (k : Nat) : u.grp k = (s.updGrp x.gid fun g =>
      g.ticketed (s.stackOf x.g) wb (x.part guard) nw d a fun l => ticketOf x.g (rankIn (x.part guard) l)).grp k := by
    rw [State.grp, State.grp, issuing.groups]
  refine ⟨_, _, u, _, hu.symm, hop, ?_, tickets, issuing.dram, fun k hk => ?_, fun l hl => ?_, goOn⟩
  · rw [State.grp_updGrp, if_pos rfl, grp, State.grp_updGrp, if_pos rfl, State.grp_of_issue h.runs.issue]
    rfl
  · rw [State.grp_updGrp, if_neg hk, grp, State.grp_updGrp, if_neg hk]
  · rw [← rankIn_eq_rankOf hl]
    exact copies l ((Mask.mem_lanes ..).mpr hl)

/-- Copies that pass their checks are put in flight (05 R91, R97, R101). -/
theorem execCpy_of_runs {s : State} {x : Issue} {tm : Team} {o : A2} (hd : o.d.toNat ≤ 119)
    (h : Rules.CopyRuns s x tm (x.part o.g) o.nw o.d o.a 48)
    (ok : ∀ l, Mask.has (x.part o.g) l = true →
      copyRangeTrap (encode (.cpy o)) (CopyDesc.ofBytes (Rules.descOf s x tm o.a 48 l)) tm.locSize = none ∧
        s.copyReason x.g.team (CopyDesc.ofBytes (Rules.descOf s x tm o.a 48 l)) = none) :
    ∃ t g', exec (.cpy o) s = .next t ∧ t.grp x.gid = some g' ∧ Rules.Tickets s x (x.part o.g) o.nw o.d g' ∧
      { t with groups := s.groups, cores := s.cores, nextId := s.nextId } = s ∧ (∀ k, k ≠ x.gid → t.grp k = s.grp k) ∧
      (∀ l, Mask.has (x.part o.g) l = true → ∃ cid c, (t.core tm.core).copies.find cid = some c ∧
        c.IsCopy x (ticketOf x.g (Rules.rankOf (x.part o.g) l)) (CopyDesc.ofBytes (Rules.descOf s x tm o.a 48 l))) ∧
      (Rules.Steady x x.seq → Rules.GoOn x x.act x.seq g') := by
  obtain ⟨f, f', u, g', hu, hop, own, tickets, -, others, copies, goOn⟩ := State.copyOp_issues h hd (encode (.cpy o))
    (trap := fun x b => (copyRangeTrap (encode (.cpy o)) (CopyDesc.ofBytes b) (s.locOf x.g).2.1).or
      ((s.copyReason x.g.team (CopyDesc.ofBytes b)).map descErr))
    (fun l hl => by rw [h.runs.locOf, (ok l hl).1, (ok l hl).2]; rfl)
    (start := fun x _ tk b s => s.startCopy x tk (CopyDesc.ofBytes b)) none
    (Q := fun l tk c => c.IsCopy x tk (CopyDesc.ofBytes (Rules.descOf s x tm o.a 48 l)))
    fun _ t l tk hl _ => by
      obtain ⟨c, hc, hs⟩ := t.startCopy_eq x tk (CopyDesc.ofBytes (Rules.descOf s x tm o.a 48 l))
      rw [hs, h.runs.core]
      exact ⟨issuing_put t _ c, t.nextId, Nat.lt_succ_self _, c, find_put_copy t _ c, hc⟩
  refine ⟨_, g', hop, own, tickets, ?_, others, copies, goOn⟩
  refine State.eq_of_bare ((State.bare_updGrp ..).trans ?_)
  rw [hu]
  exact (foldl_same State.bare (fun _ _ => State.bare_startCopy ..) _ _).trans (State.bare_updGrp ..)

/-! ### What sending leaves of an issue's state -/

theorem State.enter_mcast (s : State) (pid : Nat) (p : Packet) : (s.enter pid p).mcast = s.mcast := by
  unfold State.enter; dsimp only [State.fresh]; split <;> rfl

theorem State.enter_pkgId (s : State) (pid : Nat) (p : Packet) : (s.enter pid p).pkgId = s.pkgId := by
  unfold State.enter; dsimp only [State.fresh]; split <;> rfl

theorem Untouched.core {s t : State} (h : Untouched s t) (c : Nat) : t.core c = s.core c := by
  rw [State.core, State.core, h.cores]

theorem issuing_send (core n : Nat) (s : State) (part flits : Nat) (legs : List Leg) (c : Cargo) :
    Issuing core n s (s.send part flits legs c) := by
  have sent := sent_send s part flits legs c
  have rest := untouched_send s part flits legs c
  refine ⟨sent.nextId, fun _ _ => by rw [rest.core], fun _ _ _ => by rw [rest.core], sent.groups, rest.teams, rest.grids, sent.dram,
    ?_, ?_, sent.wired⟩ <;> unfold State.send <;> split
  · rfl
  · exact State.enter_mcast ..
  · rfl
  · exact State.enter_pkgId ..

theorem issuing_steps {α : Type} {core n : Nat} {f : State → α → State} (h : ∀ s a, Issuing core n s (f s a)) (as : List α) (s : State) :
    Issuing core n s (as.foldl f s) := by
  induction as generalizing s with
  | nil => exact Issuing.refl ..
  | cons a as ih => exact (h s a).trans (ih _) le_rfl

theorem issuing_sendAll (core n : Nat) (s : State) (part bytes : Nat) (legs : List Leg) (c : Cargo) :
    Issuing core n s (s.sendAll part bytes legs c) :=
  issuing_steps (fun _ _ => issuing_send ..) _ s

theorem State.core_sendAll (s : State) (part bytes : Nat) (legs : List Leg) (c : Cargo) (k : Nat) :
    (s.sendAll part bytes legs c).core k = s.core k :=
  (untouched_foldl (fun s n => untouched_send s part n legs c) _ s).core k

/-- Changing a copy that was put in flight after the issue began. -/
theorem issuing_updCopy {core n cid : Nat} (h : n ≤ cid) (s : State) (f : Copy → Copy) : Issuing core n s (s.updCopy core cid f) := by
  refine ⟨le_rfl, fun k hk => ?_, fun _ _ _ => ?_, rfl, rfl, rfl, rfl, rfl, rfl, fun _ => rfl⟩ <;>
    rw [State.updCopy, State.core_updCore, if_pos rfl]
  · exact (Tab.find_upd ..).trans (if_neg (hk.trans_le h).ne)
  · rfl

theorem find_updCopy (s : State) (core cid : Nat) (f : Copy → Copy) :
    ((s.updCopy core cid f).core core).copies.find cid = ((s.core core).copies.find cid).map f := by
  rw [State.updCopy, State.core_updCore, if_pos rfl]
  exact (Tab.find_upd ..).trans (if_pos rfl)

section
variable {core n : Nat} {s t : State} (h : Issuing core n s t)
include h

theorem Issuing.team (tid : Nat) : t.team tid = s.team tid := by rw [State.team, State.team, h.teams]

theorem Issuing.partOf (g : Group) : t.partOf g = s.partOf g := by
  simp only [State.partOf, State.gridOf, State.grid, h.team, h.grids]

theorem Issuing.putDest (tid : Nat) (w : Word) : t.putDest tid w = s.putDest tid w := by
  simp only [State.putDest, h.team, h.teams, h.pkgId]

theorem Issuing.mcEntry (die st ident part : Nat) : t.mcEntry die st ident part = s.mcEntry die st ident part := by
  simp only [State.mcEntry, h.mcast]

theorem Issuing.linkState (l : LinkId) : (t.link l).state = (s.link l).state := (congrArg LinkDir.state (h.wired l) :)

theorem Issuing.pathDown (legs : List Leg) : t.pathDown legs = s.pathDown legs := by
  refine congrArg legs.any (funext fun g => ?_)
  cases g <;> simp only [h.linkState]

theorem Issuing.putPath (a b : Nat) : t.putPath a b = s.putPath a b := by
  simp only [State.putPath, State.planeOf, State.planeFrom, State.nextPlane, h.linkState]

end

/-! ### PUT and PUTM -/

/-- What a transfer in flight holds of its descriptor and of its source at issue (R112, R115). -/
def Copy.IsPut (s : State) (x : Issue) (tm : Team) (kind : CopyKind) (ticket : Word) (d : PutDesc) (c : Copy) : Prop :=
  c.kind = kind ∧ c.team = x.g.team ∧ c.gid = x.gid ∧ c.ticket = ticket ∧ c.obj = d.sobj ∧ c.robj = d.robj ∧ c.destOff = d.destOff ∧
    c.ctrl = d.ctrl ∧ c.bytes = (s.core tm.core).scrRead tm.owner (tm.locBlk + d.src) d.count

theorem State.updTeam_self {s : State} {tid : Nat} {f : Team → Team} (h : ∀ t, s.team tid = some t → f t = t) : s.updTeam tid f = s := by
  rw [State.updTeam, Tab.upd_self _ _ _ h]

/-- The kind of a transfer. -/
def putKind (multi : Bool) : CopyKind := if multi then .putm else .put

/-- The destinations that a transfer has before it is sent: those of a `PUT` (R115, R116). -/
def State.newDests (s : State) (tid : Nat) (multi : Bool) (d : PutDesc) : List PutDest :=
  if multi then [] else [{ core := (s.putDest tid d.dest).1, tslot := (s.putDest tid d.dest).2 }]

theorem Issuing.newDests {core n : Nat} {s t : State} (h : Issuing core n s t) (tid : Nat) (multi : Bool) (d : PutDesc) :
    t.newDests tid multi d = s.newDests tid multi d := by
  rw [State.newDests, h.putDest, State.newDests]

/-- The transfer that a plain team's issue puts in flight (R115, R116). -/
def State.newPut (s : State) (x : Issue) (tm : Team) (multi : Bool) (tk : Word) (d : PutDesc) : Copy :=
  { Copy.ofIssue s x (putKind multi) tk d.ctrl d.sobj with
    robj := d.robj, destWord := d.dest, destOff := d.destOff
    bytes := (s.core tm.core).scrRead tm.owner (tm.locBlk + d.src) d.count
    dests := s.newDests x.g.team multi d
    owed := s.putOwes x.gid tm.core d.ctrl }

/-- A transfer takes its slot, and is sent if its release is met. -/
def State.takeOff (s : State) (core cid : Nat) (c : Copy) : State :=
  let u := s.updCore core fun k => { k with copies := k.copies.put cid c }
  if u.putReleased core c then u.sendPut core cid c else u

/-- A transfer of a plain team is put in flight, and sent when its release is met. -/
theorem State.startPut_of_plain {t : State} {x : Issue} {tm : Team} (ht : t.team x.g.team = some tm) (hc : tm.core = coreOf x.gid)
    (hp : tm.role = 0) (l : LaneIx) (multi : Bool) (tk : Word) (d : PutDesc) (w : Word) :
    t.startPut x l multi tk d w =
      t.fresh.2.takeOff tm.core t.fresh.1 (t.fresh.2.newPut x tm multi tk d) := by
  have team : t.fresh.2.team x.g.team = some tm := ht
  have core : t.core tm.core = t.fresh.2.core tm.core := rfl
  have bytes : t.locBytes x.g (coreOf x.gid) d.src d.count =
      (t.fresh.2.core tm.core).scrRead tm.owner (tm.locBlk + d.src) d.count := by
    rw [State.locBytes, State.locOf, ht, ← hc, core]
  unfold State.startPut
  extract_lets core bs
  rw [show bs = _ from bytes]
  generalize t.fresh = v at team ⊢
  obtain ⟨cid, v⟩ := v
  have plain (b : List Byte) : (v.updTeam x.g.team fun t => if t.role = 0 then t else t.foldPut d.destOff d.dest b) = v :=
    State.updTeam_self fun t' h => by
      rw [show v.team _ = _ from team, Option.some.injEq] at h
      rw [← h, if_pos hp]
  have replays : tm.replays = false := by simp [Team.replays, hp]
  have logs : tm.logs = false := by simp [Team.logs, hp]
  have team' : v.team x.g.team = some tm := team
  simp only [plain, team', show core = tm.core from hc.symm, replays, logs, Bool.false_eq_true, if_false]
  rfl

theorem isPut_newPut {s t : State} {x : Issue} {tm : Team} {f : Group → Group} {n : Nat} (hi : Issuing tm.core n (s.updGrp x.gid f) t)
    (multi : Bool) (tk : Word) (d : PutDesc) : (t.fresh.2.newPut x tm multi tk d).IsPut s x tm (putKind multi) tk d :=
  ⟨rfl, rfl, rfl, rfl, rfl, rfl, rfl, rfl, hi.reads ..⟩

/-- A transfer to one team is sent on its way (R115; 04 R87). -/
theorem sendPut_of_put {s : State} {core cid n dst slot : Nat} {c : Copy} (hn : n ≤ cid)
    (hf : (s.core core).copies.find cid = some c) (hk : c.kind = .put) (hd : c.dests = [{ core := dst, tslot := slot }])
    (hp : (s.team c.team).any Team.holds = false) (dom : 256 ≤ dst → Config.inDomain (dst / 256 - 1) = true)
    (path : s.pathDown (s.putPath core dst) = false) : Issuing core n s (s.sendPut core cid c) ∧
      ∃ fl, ((s.sendPut core cid c).core core).copies.find cid =
        some { c with sent := true, dests := [{ core := dst, tslot := slot, flow := fl }] } := by
  have sent := issuing_updCopy (core := core) hn s fun c => { c with sent := true }
  have found := (find_updCopy s core cid fun c => { c with sent := true }).trans (by rw [hf, Option.map_some])
  have rel : s.engineRel c.team (ctrlRel c.ctrl) = s := by rw [State.engineRel, hp, Bool.and_false, if_neg Bool.false_ne_true]
  have head : (c.dests.head?.map PutDest.core).getD core = dst := by rw [hd]; rfl
  unfold State.sendPut
  dsimp only
  rw [rel, head, if_neg (by rw [hk]; exact CopyKind.noConfusion)]
  generalize s.updCopy core cid (fun c => { c with sent := true }) = u at sent found ⊢
  rw [if_neg (by simpa using dom), if_neg (by rw [sent.putPath, sent.pathDown, path]; exact Bool.false_ne_true)]
  by_cases hfar : dst < 256
  · rw [if_pos hfar]
    refine ⟨sent.trans (issuing_sendAll ..) le_rfl, 0, ?_⟩
    rw [State.core_sendAll, found, hd]
  · rw [if_neg hfar]
    have flow (v : Tab Nat) : Issuing core n u { u with flowOut := v } :=
      ⟨le_rfl, fun _ _ => rfl, fun _ _ _ => rfl, rfl, rfl, rfl, rfl, rfl, rfl, fun _ => rfl⟩
    refine ⟨(sent.trans ((flow _).trans (issuing_updCopy hn _ _) le_rfl) le_rfl).trans (issuing_sendAll ..) le_rfl,
      u.flowOut.getD 0 (flowKey core dst), ?_⟩
    rw [State.core_sendAll, find_updCopy]
    refine (congrArg (Option.map _) found).trans ?_
    rw [Option.map_some, Copy.setDest, hd]
    rfl

/-- A transfer in flight has at least these destinations. -/
def State.Bound (s : State) (core cid : Nat) (c : Copy) (ds : List PutDest) : Prop :=
  ∃ all, (s.core core).copies.find cid = some { c with dests := all } ∧ ∀ d ∈ ds, d ∈ all

theorem State.Bound.addDest {s : State} {core cid : Nat} {c : Copy} {ds : List PutDest} (h : s.Bound core cid c ds) (d : PutDest) :
    (s.addDest core cid d).Bound core cid c (d :: ds) := by
  obtain ⟨all, found, hds⟩ := h
  refine ⟨all ++ [d], (find_updCopy s core cid fun c => { c with dests := c.dests ++ [d] }).trans (by rw [found, Option.map_some]), ?_⟩
  intro v hv
  rcases List.mem_cons.mp hv with rfl | hv
  · simp
  · exact List.mem_append_left _ (hds v hv)

theorem State.Bound.foldl {α : Type} {s : State} {core cid : Nat} {c : Copy} {ds : List PutDest} (h : s.Bound core cid c ds)
    (f : α → PutDest) (as : List α) : (as.foldl (fun s a => s.addDest core cid (f a)) s).Bound core cid c (as.map f ++ ds) := by
  induction as generalizing s ds with
  | nil => exact h
  | cons a as ih =>
    obtain ⟨all, found, hds⟩ := ih (h.addDest (f a))
    exact ⟨all, found, fun d hd => hds d (by simpa [or_left_comm] using hd)⟩

/-- The destinations that an entry of a station adds to a transfer that spreads from there (04 R77). -/
def putDrops (die st : Nat) (e : BitVec 128) : List PutDest :=
  ((mcDrops die e).filter fun k => (mcLoop e st (k % 64)).isSome).map fun k => { core := k, tslot := gridSlot }

theorem State.Bound.mono {s : State} {core cid : Nat} {c : Copy} {ds es : List PutDest} (h : s.Bound core cid c ds)
    (hs : ∀ d ∈ es, d ∈ ds) : s.Bound core cid c es := by
  obtain ⟨all, found, hds⟩ := h
  exact ⟨all, found, fun d hd => hds d (hs d hd)⟩

/-- A transfer that spreads has at least these destinations, nothing but its issue having happened. -/
def Spreading (core n cid : Nat) (c : Copy) (ds : List PutDest) (s t : State) : Prop := Issuing core n s t ∧ t.Bound core cid c ds

section spreading
variable {core n cid : Nat} {c : Copy} {ds : List PutDest} {s t : State} (h : Spreading core n cid c ds s t)
include h

theorem Spreading.addDests {α : Type} (hn : n ≤ cid) (f : α → PutDest) (as : List α) :
    Spreading core n cid c (as.map f ++ ds) s (as.foldl (fun s a => s.addDest core cid (f a)) t) :=
  ⟨h.1.trans (issuing_steps (fun s a => issuing_updCopy hn s fun c => { c with dests := c.dests ++ [f a] }) as t) le_rfl, h.2.foldl f as⟩

theorem Spreading.mono {es : List PutDest} (hs : ∀ d ∈ es, d ∈ ds) : Spreading core n cid c es s t := ⟨h.1, h.2.mono hs⟩

theorem Spreading.sends {α : Type} {f : State → α → State} (hi : ∀ s a, Issuing core n s (f s a)) (hc : ∀ s a, Untouched s (f s a))
    (as : List α) : Spreading core n cid c ds s (as.foldl f t) := by
  refine ⟨h.1.trans (issuing_steps hi as t) le_rfl, ?_⟩
  rw [State.Bound, (untouched_foldl hc as t).core]
  exact h.2

end spreading

theorem Spreading.ite {core n cid : Nat} {c : Copy} {ds : List PutDest} {s t u : State} {p : Prop} [Decidable p]
    (ht : Spreading core n cid c ds s t) (hu : Spreading core n cid c ds s u) : Spreading core n cid c ds s (if p then t else u) := by
  split
  · exact ht
  · exact hu

/-- A transfer that spreads from a station gets the destinations of the entry. -/
theorem spreading_spread {s : State} {core cid n : Nat} {c : Copy} (hn : n ≤ cid) (hf : (s.core core).copies.find cid = some c)
    (part ident die st : Nat) (seen : List Nat) (e : BitVec 128) :
    Spreading core n cid c (putDrops die st e) s (s.spread part core cid ident die st seen e) := by
  have start : Spreading core n cid c [] s s := ⟨Issuing.refl .., c.dests, hf, nofun⟩
  have dropped := start.addDests hn (fun k => { core := k, tslot := gridSlot })
    ((mcDrops die e).filter fun k => (mcLoop e st (k % 64)).isSome)
  rw [List.append_nil, ← putDrops] at dropped
  have down (ds : List Nat) := (dropped.addDests hn (fun _ => { core := core, tslot := 33, stage := 1, err := 0x05 }) ds).mono
    fun d hd => List.mem_append_right _ hd
  have alone (ds : List Nat) := ((down ds).addDests hn id [{ core := core, tslot := 33, stage := 1 }]).mono
    fun d hd => List.mem_append_right _ hd
  unfold State.spread
  rw [hf]
  dsimp only
  refine Spreading.sends ?_ ?_ ?_ _
  · refine Spreading.ite ?_ ?_
    · exact alone _
    · exact down _
  · intro s l
    exact issuing_sendAll ..
  · intro s l
    exact untouched_foldl (fun _ _ => untouched_send ..) _ _

/-- A multicast transfer is sent as its entry says (R116; 04 R77). -/
theorem sendPut_of_putm {s : State} {core cid n : Nat} {c : Copy} {e : BitVec 128} (hn : n ≤ cid)
    (hf : (s.core core).copies.find cid = some c) (hk : c.kind = .putm) (hp : (s.team c.team).any Team.holds = false)
    (he : s.mcEntry (core / 64) (core % 64) c.destWord.toNat ((s.partOf { team := c.team }).getD 0) = some e) :
    Spreading core n cid { c with sent := true } (putDrops (core / 64) (core % 64) e) s (s.sendPut core cid c) := by
  have sent := issuing_updCopy (core := core) hn s fun c => { c with sent := true }
  have found := (find_updCopy s core cid fun c => { c with sent := true }).trans (by rw [hf, Option.map_some])
  have rel : s.engineRel c.team (ctrlRel c.ctrl) = s := by rw [State.engineRel, hp, Bool.and_false, if_neg Bool.false_ne_true]
  unfold State.sendPut
  dsimp only
  rw [rel, if_pos hk]
  generalize s.updCopy core cid (fun c => { c with sent := true }) = u at sent found ⊢
  rw [sent.mcEntry, he]
  have spread := spreading_spread hn found ((s.partOf { team := c.team }).getD 0) c.destWord.toNat (core / 64) (core % 64) [] e
  exact ⟨sent.trans spread.1 le_rfl, spread.2⟩

/-- A transfer with a name of its own that takes off is in flight, and sent to destinations of which `go` holds unless its release is
awaited (R115). -/
theorem takeOff_of_sends {s : State} {core n cid : Nat} {c : Copy} (hn : n ≤ cid) {go : List PutDest → Prop}
    (send : ∀ u, Issuing core n s u → (u.core core).copies.find cid = some c → Issuing core n u (u.sendPut core cid c) ∧
      ∃ ds, ((u.sendPut core cid c).core core).copies.find cid = some { c with sent := true, dests := ds } ∧ go ds) :
    Issuing core n s (s.takeOff core cid c) ∧ ∃ c', ((s.takeOff core cid c).core core).copies.find cid = some c' ∧
      { c' with sent := c.sent, dests := c.dests } = c ∧ (c'.sent = true ∧ go c'.dests ∨ ctrlRel c.ctrl = true ∧ c' = c) := by
  have put := issuing_slot (core := core) hn s c
  have found : ((s.updCore core fun k => { k with copies := k.copies.put cid c }).core core).copies.find cid = some c := by
    rw [State.core_updCore, if_pos rfl]
    exact (Tab.find_put ..).trans (if_pos rfl)
  rw [State.takeOff]
  generalize (s.updCore core fun k => { k with copies := k.copies.put cid c }) = u at put found ⊢
  split
  next =>
    obtain ⟨issuing, ds, hds, hgo⟩ := send u put found
    exact ⟨put.trans issuing le_rfl, _, hds, rfl, .inl ⟨rfl, hgo⟩⟩
  next hr => exact ⟨put, c, found, rfl, .inr ⟨by simp [State.putReleased] at hr; exact hr.1, rfl⟩⟩

/-- An issued transfer holds what its descriptor says, and is sent to destinations of which `go` holds unless its release is awaited. -/
def Copy.Issued (s : State) (x : Issue) (tm : Team) (multi : Bool) (tk : Word) (d : PutDesc) (go : List PutDest → Prop) (c : Copy) : Prop :=
  c.IsPut s x tm (putKind multi) tk d ∧
    (c.sent = true ∧ go c.dests ∨ ctrlRel d.ctrl = true ∧ c.dests = s.newDests x.g.team multi d)

/-- A transfer that is issued is in flight, and sent to destinations of which `go` holds unless its release is awaited (R115). -/
theorem startPut_of_sends {s t : State} {x : Issue} {tm : Team} {f : Group → Group} {n : Nat}
    (hi : Issuing tm.core n (s.updGrp x.gid f) t) (ht : s.team x.g.team = some tm) (hc : tm.core = coreOf x.gid) (hp : tm.role = 0)
    (l : LaneIx) (multi : Bool) (tk : Word) (d : PutDesc) (w : Word) {go : List PutDest → Prop}
    (send : ∀ u c, Issuing tm.core t.nextId t u → (u.core tm.core).copies.find t.nextId = some c → c.IsPut s x tm (putKind multi) tk d →
      c.destWord = d.dest → c.dests = s.newDests x.g.team multi d → Issuing tm.core t.nextId u (u.sendPut tm.core t.nextId c) ∧
        ∃ ds, ((u.sendPut tm.core t.nextId c).core tm.core).copies.find t.nextId = some { c with sent := true, dests := ds } ∧ go ds) :
    Issuing tm.core t.nextId t (t.startPut x l multi tk d w) ∧ ∃ cid < (t.startPut x l multi tk d w).nextId, ∃ c,
      ((t.startPut x l multi tk d w).core tm.core).copies.find cid = some c ∧ c.Issued s x tm multi tk d go := by
  have isPut := isPut_newPut hi multi tk d
  have dests : (t.fresh.2.newPut x tm multi tk d).dests = s.newDests x.g.team multi d := hi.newDests ..
  have word : (t.fresh.2.newPut x tm multi tk d).destWord = d.dest := rfl
  have fresh := issuing_fresh tm.core t.nextId t
  rw [State.startPut_of_plain ((hi.team _).trans ht) hc hp]
  generalize t.fresh.2.newPut x tm multi tk d = c at isPut dests word ⊢
  obtain ⟨issuing, c', found, same, sent⟩ := takeOff_of_sends (core := tm.core) (s := t.fresh.2) (cid := t.fresh.1) (c := c)
    (n := t.nextId) le_rfl fun u hu hf => send u c (fresh.trans hu le_rfl) hf isPut word dests
  have ctrl : c.ctrl = d.ctrl := isPut.2.2.2.2.2.2.2.1
  refine ⟨fresh.trans issuing le_rfl, t.nextId, issuing.nextId, c', found, ?_, sent.imp_right fun h => ⟨ctrl ▸ h.1, by rw [h.2, dests]⟩⟩
  rw [← same] at isPut
  exact isPut

theorem putTrap_of_ok {s : State} {x : Issue} {tm : Team} {multi : Bool} {b : List Byte} (hl : s.locOf x.g = (tm.locBlk, tm.locSize, tm.owner))
    (h : Rules.PutOk s x tm multi (PutDesc.ofBytes b)) : s.putTrap x multi b = none := by
  obtain ⟨inside, reason⟩ := h
  unfold State.putTrap
  dsimp only
  rw [hl, reason, if_neg (by simp; omega)]
  rfl

theorem any_holds_of_plain {s : State} {tid : Nat} {tm : Team} (h : s.team tid = some tm) (hp : tm.role = 0) :
    (s.team tid).any Team.holds = false := by
  rw [h]
  simp [Team.holds, hp]

theorem inFlight_of_issued {s t : State} {x : Issue} {tm : Team} {multi : Bool} {tk : Word} {d : PutDesc} {cid : Nat} {c : Copy}
    {go : List PutDest → Prop} (hf : (t.core tm.core).copies.find cid = some c) (hc : c.Issued s x tm multi tk d go)
    (hg : ctrlRel d.ctrl = true → go (s.newDests x.g.team multi d)) : Rules.InFlight s t x tm (putKind multi) tk d go := by
  obtain ⟨⟨kind, team, gid, ticket, obj, robj, off, ctrl, bytes⟩, state⟩ := hc
  refine ⟨cid, c, hf, kind, team, gid, ticket, obj, robj, off, ctrl, bytes, fun hr => ?_, ?_⟩
  · rcases state with ⟨sent, -⟩ | ⟨rel, -⟩
    · exact sent
    · exact absurd (hr.symm.trans rel) Bool.false_ne_true
  · rcases state with ⟨-, sent⟩ | ⟨rel, dests⟩
    · exact sent
    · exact dests ▸ hg rel

/-- The one destination of a `PUT` that has been sent (R113; 04 R87). -/
def State.SentTo (s : State) (tid : Nat) (d : PutDesc) (ds : List PutDest) : Prop :=
  ∃ fl, ds = [{ core := (s.putDest tid d.dest).1, tslot := (s.putDest tid d.dest).2, flow := fl }]

/-- Transfers that pass their checks are put in flight, and sent to destinations of which `go` holds unless their release is awaited (R114,
R115). -/
theorem State.transferOp_of_runs {s : State} {x : Issue} {tm : Team} {o : A2} (hd : o.d.toNat ≤ 119)
    (h : Rules.CopyRuns s x tm (x.part o.g) o.nw o.d o.a 32) (multi : Bool) (w : Word) {key : Option (LaneIx → LogKey)}
    (ok : ∀ l, Mask.has (x.part o.g) l = true → Rules.PutOk s x tm multi (PutDesc.ofBytes (Rules.descOf s x tm o.a 32 l)))
    {go : LaneIx → List PutDest → Prop}
    (send : ∀ f v cid n tk c l, Mask.has (x.part o.g) l = true → Issuing tm.core s.nextId (s.updGrp x.gid f) v → n ≤ cid →
      (v.core tm.core).copies.find cid = some c → (v.team c.team).any Team.holds = false →
      c.IsPut s x tm (putKind multi) tk (PutDesc.ofBytes (Rules.descOf s x tm o.a 32 l)) →
      c.destWord = (PutDesc.ofBytes (Rules.descOf s x tm o.a 32 l)).dest →
      c.dests = s.newDests x.g.team multi (PutDesc.ofBytes (Rules.descOf s x tm o.a 32 l)) →
      Issuing tm.core n v (v.sendPut tm.core cid c) ∧
        ∃ ds, ((v.sendPut tm.core cid c).core tm.core).copies.find cid = some { c with sent := true, dests := ds } ∧ go l ds)
    (await : ∀ l, ctrlRel (PutDesc.ofBytes (Rules.descOf s x tm o.a 32 l)).ctrl = true →
      go l (s.newDests x.g.team multi (PutDesc.ofBytes (Rules.descOf s x tm o.a 32 l)))) :
    ∃ t g', s.copyOp o.g o.nw w o.d o.a 32 (fun x b => s.putTrap x multi b)
        (fun x l tk b s => s.startPut x l multi tk (PutDesc.ofBytes b) w) key = .next t ∧
      t.grp x.gid = some g' ∧ Rules.Tickets s x (x.part o.g) o.nw o.d g' ∧ t.dram = s.dram ∧ (∀ k, k ≠ x.gid → t.grp k = s.grp k) ∧
      (∀ l, Mask.has (x.part o.g) l = true → Rules.InFlight s t x tm (putKind multi) (ticketOf x.g (Rules.rankOf (x.part o.g) l))
        (PutDesc.ofBytes (Rules.descOf s x tm o.a 32 l)) (go l)) ∧
      (Rules.Steady x x.seq → Rules.GoOn x x.act x.seq g') := by
  obtain ⟨f, f', u, g', -, hop, own, tickets, dram, others, copies, goOn⟩ := State.copyOp_issues h hd w
    (trap := fun x b => s.putTrap x multi b) (fun l hl => putTrap_of_ok h.runs.locOf (ok l hl))
    (start := fun x l tk b s => s.startPut x l multi tk (PutDesc.ofBytes b) w) key
    (Q := fun l tk c => c.Issued s x tm multi tk (PutDesc.ofBytes (Rules.descOf s x tm o.a 32 l)) (go l))
    fun f t l tk hl hi => startPut_of_sends hi h.runs.team h.runs.core h.plain l multi tk _ w fun v c hv hf hc hw hds => by
      have all : Issuing tm.core s.nextId (s.updGrp x.gid f) v := hi.trans hv hi.nextId
      exact send f v t.nextId t.nextId tk c l hl all le_rfl hf
        (any_holds_of_plain (by rw [hc.2.1, all.team]; exact h.runs.team) h.plain) hc hw hds
  refine ⟨_, g', hop, own, tickets, dram, others, fun l hl => ?_, goOn⟩
  obtain ⟨cid, c, found, issued⟩ := copies l hl
  exact inFlight_of_issued found issued (await l)

/-- Transfers to one team that pass their checks are put in flight (R114, R115). -/
theorem execPut_of_runs {s : State} {x : Issue} {tm : Team} {o : A2} (hd : o.d.toNat ≤ 119)
    (h : Rules.CopyRuns s x tm (x.part o.g) o.nw o.d o.a 32)
    (ok : ∀ l, Mask.has (x.part o.g) l = true → let d := PutDesc.ofBytes (Rules.descOf s x tm o.a 32 l)
      Rules.PutOk s x tm false d ∧ s.pathDown (s.putPath tm.core (s.putDest x.g.team d.dest).1) = false ∧
        (256 ≤ (s.putDest x.g.team d.dest).1 → Config.inDomain ((s.putDest x.g.team d.dest).1 / 256 - 1) = true)) :
    ∃ t g', exec (.put o) s = .next t ∧ t.grp x.gid = some g' ∧ Rules.Tickets s x (x.part o.g) o.nw o.d g' ∧ t.dram = s.dram ∧
      (∀ k, k ≠ x.gid → t.grp k = s.grp k) ∧
      (∀ l, Mask.has (x.part o.g) l = true → let d := PutDesc.ofBytes (Rules.descOf s x tm o.a 32 l)
        Rules.InFlight s t x tm .put (ticketOf x.g (Rules.rankOf (x.part o.g) l)) d (s.SentTo x.g.team d)) ∧
      (Rules.Steady x x.seq → Rules.GoOn x x.act x.seq g') := by
  refine State.transferOp_of_runs hd h false (encode (.put o)) (fun l hl => (ok l hl).1) ?_ fun _ _ => ⟨0, rfl⟩
  intro f v cid n tk c l hl all hn hf hp isPut _ dests
  obtain ⟨-, path, dom⟩ := ok l hl
  obtain ⟨issuing, fl, found⟩ := sendPut_of_put hn hf isPut.1 dests hp dom (by rw [all.putPath, all.pathDown]; exact path)
  exact ⟨issuing, _, found, fl, rfl⟩

theorem mem_putDrops {tm : Team} {e : BitVec 128} {k : Nat} (hk : k ∈ mcDrops (tm.core / 64) e) (hr : Rules.McReaches tm e (k % 64)) :
    { core := k, tslot := gridSlot } ∈ putDrops (tm.core / 64) (tm.core % 64) e :=
  List.mem_map.mpr ⟨k, List.mem_filter.mpr ⟨hk, hr⟩, rfl⟩

/-- The destinations of a `PUTM` that has been sent: each core that its entry at its own station drops at and a loop of it reaches (R116;
04 R77). -/
def State.Dropped (s : State) (x : Issue) (tm : Team) (d : PutDesc) (dests : List PutDest) : Prop :=
  ctrlRel d.ctrl = false → ∀ e, s.mcEntry (tm.core / 64) (tm.core % 64) d.dest.toNat ((s.partOf x.g).getD 0) = some e →
    ∀ k ∈ mcDrops (tm.core / 64) e, Rules.McReaches tm e (k % 64) → { core := k, tslot := gridSlot } ∈ dests

/-- Transfers to a group that pass their checks are put in flight (R114, R116). -/
theorem execPutm_of_runs {s : State} {x : Issue} {tm : Team} {o : A2} (hd : o.d.toNat ≤ 119)
    (h : Rules.CopyRuns s x tm (x.part o.g) o.nw o.d o.a 32)
    (ok : ∀ l, Mask.has (x.part o.g) l = true → let d := PutDesc.ofBytes (Rules.descOf s x tm o.a 32 l)
      Rules.PutOk s x tm true d ∧ ∃ e, s.mcEntry (tm.core / 64) (tm.core % 64) d.dest.toNat ((s.partOf x.g).getD 0) = some e) :
    ∃ t g', exec (.putm o) s = .next t ∧ t.grp x.gid = some g' ∧ Rules.Tickets s x (x.part o.g) o.nw o.d g' ∧ t.dram = s.dram ∧
      (∀ k, k ≠ x.gid → t.grp k = s.grp k) ∧
      (∀ l, Mask.has (x.part o.g) l = true → let d := PutDesc.ofBytes (Rules.descOf s x tm o.a 32 l)
        Rules.InFlight s t x tm .putm (ticketOf x.g (Rules.rankOf (x.part o.g) l)) d (s.Dropped x tm d)) ∧
      (Rules.Steady x x.seq → Rules.GoOn x x.act x.seq g') := by
  refine State.transferOp_of_runs hd h true (encode (.putm o)) (fun l hl => (ok l hl).1) ?_
    fun _ hr hn => absurd (hr.symm.trans hn) (by simp)
  intro f v cid n tk c l hl all hn hf hp isPut word _
  obtain ⟨-, e, he⟩ := ok l hl
  have part : v.partOf { team := c.team } = s.partOf x.g := by
    rw [isPut.2.1, all.partOf]
    rfl
  obtain ⟨issuing, ds, found, drops⟩ := sendPut_of_putm hn hf isPut.1 hp (e := e) (by rw [all.mcEntry, part, word]; exact he)
  refine ⟨issuing, ds, found, fun _ e' he' k hk hr => drops _ ?_⟩
  rw [he, Option.some.injEq] at he'
  exact he' ▸ mem_putDrops (he' ▸ hk) (he' ▸ hr)

/-- Copies and transfers are put in flight (R91, R97, R101, R114 to R116). -/
theorem copiesIssue : Rules.CopiesIssue := by
  intro s x tm o cpy put putm
  exact ⟨fun h ok => execCpy_of_runs (Instr.dst_le cpy (by simp [Instr.operands])) h ok,
    fun h => ⟨execPut_of_runs (Instr.dst_le put (by simp [Instr.operands])) h,
      execPutm_of_runs (Instr.dst_le putm (by simp [Instr.operands])) h⟩⟩

/-- Settles O21: copies and transfers are put in flight with their tickets, and tickets are followed. -/
theorem copies : Obligations.Copies := ⟨copiesIssue, copyTickets⟩

end Sys2Proof.Machine
end

section
/-! SUPPORT. Barrier objects on a core: what a change of one, and a new one, do to the scratchpad that it stands in (03 R66; 05 R102 to R107). -/

namespace Sys2Proof.Machine

/-! ### An object's words and its core -/

/-- The words of the object at a place of a core's scratchpad, and whether its granule is marked (05 R90, R102). -/
structure Obj where
  expected : Word
  arrived : Word
  status : Word
  gen : Word
  marked : Bool

/-- The object at a byte of a core's scratchpad. -/
def Core.obj (k : Core) (a : Nat) : Obj := ⟨k.word a, k.word (a + 4), k.word (a + 8), k.word (a + 12), k.marked a⟩

/-- An object that is open (R105). -/
def Obj.isOpen (o : Obj) : Bool := objOpen o.expected o.arrived o.status

theorem Core.isOpen_obj (k : Core) (a : Nat) : (k.obj a).isOpen = k.isOpen a := rfl

/-- An object is released: its generation rises (R105). -/
def Obj.release (o : Obj) : Obj := { o with gen := o.gen + 1#32 }

/-- An object that opens is released once (R105). -/
def Obj.change (f : Obj → Obj) (o : Obj) : Obj := if !o.isOpen && (f o).isOpen then (f o).release else f o

/-- An error is applied to an object, which is released; one that finds no mark is discarded (R104, R107). -/
def Obj.fail (code : Nat) (o : Obj) : Obj := if o.marked then Obj.release { o with status := statusErr o.status code } else o

/-- A count arrives at an object; arrived saturates with the error (R104, R105, R109). -/
def Obj.arrive (n : Nat) (o : Obj) : Obj :=
  let added := { o with arrived := BitVec.ofNat 32 (min (o.arrived.toNat + n) 0xFFFFFFFF) }
  if 0xFFFFFFFF < o.arrived.toNat + n then if o.isOpen then added.fail 7 else (added.fail 7).release
  else o.change fun o => { o with arrived := BitVec.ofNat 32 (min (o.arrived.toNat + n) 0xFFFFFFFF) }

/-- An object expects more (R109). -/
def Obj.expect (n : Word) (o : Obj) : Obj := o.change fun o => { o with expected := o.expected + n }

/-- An object is killed, and its granule unmarked (R105, R109). -/
def Obj.kill (o : Obj) : Obj := { Obj.fail 6 { o with status := o.status ||| 0x40000000#32 } with marked := false }

/-- Two objects' places: different granules, 16 bytes apart. -/
def Separate (a b : Nat) : Prop := a / 16 ≠ b / 16 ∧ (a + 16 ≤ b ∨ b + 16 ≤ a)

/-- A core differs from another in its object at a place alone, which `f` has changed. -/
structure Core.Becomes (a : Nat) (f : Obj → Obj) (k k' : Core) : Prop where
  obj : k'.obj a = f (k.obj a)
  lineTag : k'.lineTag = k.lineTag
  bytes : ∀ b, b < a ∨ a + 16 ≤ b → Tab.getD k'.scratch 0 b = Tab.getD k.scratch 0 b
  marks : ∀ b, b / 16 ≠ a / 16 → k'.marked b = k.marked b

theorem Core.Becomes.trans {a : Nat} {f g : Obj → Obj} {k k' k'' : Core} (h : Core.Becomes a f k k') (h' : Core.Becomes a g k' k'') :
    Core.Becomes a (g ∘ f) k k'' :=
  ⟨h'.obj.trans (congrArg g h.obj), h'.lineTag.trans h.lineTag, fun b hb => (h'.bytes b hb).trans (h.bytes b hb),
    fun b hb => (h'.marks b hb).trans (h.marks b hb)⟩

theorem Core.Becomes.congr {a : Nat} {f g : Obj → Obj} {k k' : Core} (h : Core.Becomes a f k k') (e : f (k.obj a) = g (k.obj a)) :
    Core.Becomes a g k k' := { h with obj := h.obj.trans e }

theorem Core.Becomes.refl (a : Nat) (k : Core) : Core.Becomes a id k k := ⟨rfl, rfl, fun _ _ => rfl, fun _ _ => rfl⟩

theorem getBytes_congr {m m' : Tab Byte} {a n : Nat} (h : ∀ i < n, m'.getD 0 (a + i) = m.getD 0 (a + i)) : getBytes m' a n = getBytes m a n :=
  List.map_congr_left fun i hi => h i (List.mem_range.mp hi)

theorem wordOf_bytesOf (w : Word) : wordOf (bytesOf w) = w := by
  change w.extractLsb' 24 8 ++ w.extractLsb' 16 8 ++ w.extractLsb' 8 8 ++ w.extractLsb' 0 8 = w
  rw [BitVec.extractLsb'_append_extractLsb'_eq_extractLsb' (by rfl), BitVec.extractLsb'_append_extractLsb'_eq_extractLsb' (by rfl),
    BitVec.extractLsb'_append_extractLsb'_eq_extractLsb' (by rfl)]
  exact BitVec.extractLsb'_eq_self

theorem Core.word_setWord_same (k : Core) (a : Nat) (w : Word) : (k.setWord a w).word a = w := by
  have := getBytes_putBytes k.scratch a (bytesOf w)
  rw [Core.word, Core.setWord]
  exact (congrArg wordOf this).trans (wordOf_bytesOf w)

theorem Core.word_setWord_of_ne (k : Core) (a b : Nat) (w : Word) (h : b + 4 ≤ a ∨ a + 4 ≤ b) : (k.setWord a w).word b = k.word b := by
  rw [Core.word, Core.setWord]
  refine congrArg wordOf (getBytes_congr fun i hi => getD_putBytes_outside _ _ _ _ ?_)
  have : (bytesOf w).length = 4 := rfl
  omega

section objects
variable {a b : Nat} {k k' : Core}

theorem Core.Becomes.apart {f : Obj → Obj} (h : Core.Becomes a f k k') (hs : Separate a b) : k'.obj b = k.obj b := by
  obtain ⟨hg, hd⟩ := hs
  have word (j : Nat) (hj : j + 4 ≤ 16) : k'.word (b + j) = k.word (b + j) :=
    congrArg wordOf (getBytes_congr fun i hi => h.bytes _ (by omega))
  rw [Core.obj, Core.obj, h.marks b hg.symm, word 4, word 8, word 12, show k'.word b = k.word b from word 0 (by omega)] <;> omega

theorem Core.Becomes.scrByte {f : Obj → Obj} (h : Core.Becomes a f k k') (owner : Nat) (hb : b < a ∨ a + 16 ≤ b) :
    k'.scrByte owner b = k.scrByte owner b := by
  rw [Core.scrByte, Core.scrByte, h.lineTag, h.bytes b hb]

/-- Writing one of an object's words. -/
theorem Core.becomes_setWord {j : Nat} {w : Word} {f : Obj → Obj} (hj : j + 4 ≤ 16) (ho : (k.setWord (a + j) w).obj a = f (k.obj a)) :
    Core.Becomes a f k (k.setWord (a + j) w) :=
  ⟨ho, rfl, fun b hb => getD_putBytes_outside _ _ _ _ (by have : (bytesOf w).length = 4 := rfl; omega), fun _ _ => rfl⟩

theorem Core.becomes_expected (k : Core) (a : Nat) (w : Word) : Core.Becomes a (fun o => { o with expected := w }) k (k.setWord a w) :=
  Core.becomes_setWord (j := 0) (by omega) (by
    simp (disch := omega) only [Core.obj, Nat.add_zero, Core.word_setWord_same, Core.word_setWord_of_ne]
    rfl)

theorem Core.becomes_arrived (k : Core) (a : Nat) (w : Word) : Core.Becomes a (fun o => { o with arrived := w }) k (k.setWord (a + 4) w) :=
  Core.becomes_setWord (by omega) (by
    simp (disch := omega) only [Core.obj, Core.word_setWord_same, Core.word_setWord_of_ne]
    rfl)

theorem Core.becomes_status (k : Core) (a : Nat) (w : Word) : Core.Becomes a (fun o => { o with status := w }) k (k.setWord (a + 8) w) :=
  Core.becomes_setWord (by omega) (by
    simp (disch := omega) only [Core.obj, Core.word_setWord_same, Core.word_setWord_of_ne]
    rfl)

theorem Core.becomes_gen (k : Core) (a : Nat) (w : Word) : Core.Becomes a (fun o => { o with gen := w }) k (k.setWord (a + 12) w) :=
  Core.becomes_setWord (by omega) (by
    simp (disch := omega) only [Core.obj, Core.word_setWord_same, Core.word_setWord_of_ne]
    rfl)

/-- A granule is unmarked. -/
theorem Core.becomes_unmarked (k : Core) (a : Nat) :
    Core.Becomes a (fun o => { o with marked := false }) k { k with marks := k.marks.filter (· ≠ a / 16) } :=
  ⟨by simp [Core.obj, Core.word, Core.marked], rfl, fun _ _ => rfl, fun b hb => by simp [Core.marked, hb]⟩

end objects

/-! ### A write to the scratchpad as its owner reads it (03 R66) -/

theorem Tab.find_filter_key {α : Type} (m : Tab α) (p : Nat → Bool) (k : Nat) :
    Tab.find (m.filter fun e => p e.1) k = if p k then m.find k else none := by
  induction m with
  | nil => simp
  | cons e t ih =>
    obtain ⟨j, v⟩ := e
    rw [List.filter_cons]
    by_cases hj : j = k
    · subst hj
      split
      next hp => rw [Tab.find_cons, Tab.find_cons, if_pos rfl, if_pos rfl]
      next hp => rw [ih, if_neg hp]
    · split
      next => rw [Tab.find_cons, if_neg hj, ih, Tab.find_cons, if_neg hj]
      next => rw [ih, Tab.find_cons, if_neg hj]

theorem Core.own_of_owned {k : Core} {owner line : Nat} (h : k.lineTag.getD 0 line = owner) : k.own owner line = k := if_pos h

theorem Core.own_of_foreign {k : Core} {owner line : Nat} (h : k.lineTag.getD 0 line ≠ owner) : k.own owner line =
    { k with lineTag := k.lineTag.setD 0 line owner, scratch := k.scratch.filter fun c => c.1 / 128 ≠ line } := if_neg h

section own
variable (k : Core) (owner line : Nat)

theorem Core.lineTag_own (m : Nat) : (k.own owner line).lineTag.getD 0 m = if m = line then owner else k.lineTag.getD 0 m := by
  by_cases h : k.lineTag.getD 0 line = owner
  · rw [Core.own_of_owned h]
    split
    next hm => rw [hm, h]
    next => rfl
  · rw [Core.own_of_foreign h]
    exact Tab.getD_setD ..

theorem Core.scrByte_own (b : Nat) : (k.own owner line).scrByte owner b = k.scrByte owner b := by
  by_cases h : k.lineTag.getD 0 line = owner
  · rw [Core.own_of_owned h]
  · have kept : Tab.getD (k.own owner line).scratch 0 b = if b / 128 = line then 0 else Tab.getD k.scratch 0 b := by
      rw [Core.own_of_foreign h]
      refine (congrArg (Option.getD · 0) (Tab.find_filter_key k.scratch (fun j => j / 128 ≠ line) b)).trans ?_
      by_cases hb : b / 128 = line
      · rw [if_pos hb, if_neg (by simpa using hb)]
        rfl
      · rw [if_neg hb, if_pos (by simpa using hb)]
        rfl
    rw [Core.scrByte, Core.scrByte, Core.lineTag_own, kept]
    by_cases hb : b / 128 = line
    · rw [if_pos hb, if_pos rfl, if_pos hb, hb, if_neg h]
    · rw [if_neg hb, if_neg hb]

end own

section owns
variable (owner : Nat) (ls : List Nat) (k : Core)

theorem Core.lineTag_owns (m : Nat) (h : m ∈ ls ∨ k.lineTag.getD 0 m = owner) :
    (ls.foldl (fun k ln => k.own owner ln) k).lineTag.getD 0 m = owner := by
  induction ls generalizing k with
  | nil => simpa using h
  | cons a ls ih =>
    refine ih _ ?_
    rw [Core.lineTag_own]
    by_cases hm : m = a
    · exact .inr (if_pos hm)
    · exact h.imp (fun h => (List.mem_cons.mp h).resolve_left hm) fun h => by rw [if_neg hm, h]

theorem Core.scrByte_owns (b : Nat) : (ls.foldl (fun k ln => k.own owner ln) k).scrByte owner b = k.scrByte owner b :=
  foldl_same (fun k : Core => k.scrByte owner b) (fun k ln => Core.scrByte_own k owner ln b) ls k

end owns

/-- Every line that some bytes touch is among those of their pieces. -/
theorem mem_piecesOf {step a n b : Nat} (hs : 0 < step) (ha : a ≤ b) (hb : b < a + n) :
    b / step ∈ (piecesOf step a n).map fun p => p.2.1 / step := by
  have first : a / step ≤ b / step := Nat.div_le_div_right ha
  have last : b / step ≤ (a + n - 1) / step := Nat.div_le_div_right (by omega)
  have line : max a (b / step * step) / step = b / step := by
    refine le_antisymm (Nat.div_le_div_right (max_le ha (Nat.div_mul_le_self b step))) ?_
    exact (Nat.mul_div_cancel _ hs).symm.le.trans (Nat.div_le_div_right (le_max_right ..))
  unfold piecesOf
  rw [if_neg (by omega)]
  simp only [List.map_map, List.mem_map, List.mem_range, Function.comp_apply]
  exact ⟨b / step - a / step, by omega, by rw [Nat.add_sub_cancel' first, line]⟩

section scrWrite
variable (k : Core) (owner a : Nat) (bs : List Byte)

theorem Core.lineTag_scrWrite (b : Nat) (h : a ≤ b ∧ b < a + bs.length ∨ k.lineTag.getD 0 (b / 128) = owner) :
    (k.scrWrite owner a bs).lineTag.getD 0 (b / 128) = owner :=
  Core.lineTag_owns owner _ k _ (h.imp_left fun h => mem_piecesOf (by decide) h.1 h.2)

theorem Core.scrByte_scrWrite_outside (b : Nat) (h : b < a ∨ a + bs.length ≤ b) :
    (k.scrWrite owner a bs).scrByte owner b = k.scrByte owner b := by
  rw [← Core.scrByte_owns owner ((piecesOf 128 a bs.length).map fun p => p.2.1 / 128) k b]
  unfold Core.scrByte Core.scrWrite
  dsimp only
  rw [getD_putBytes_outside _ _ _ _ h]

/-- A written byte, stored as it is. -/
theorem Core.getD_scrWrite (i : Nat) (h : i < bs.length) : Tab.getD (k.scrWrite owner a bs).scratch 0 (a + i) = bs[i] :=
  getD_putBytes ..

end scrWrite

/-! ### Objects that are made one after another -/

/-- A new object's words and mark. -/
def Obj.new (expected : Word) : Obj := ⟨expected, 0#32, 0#32, 0#32, true⟩

/-- The bytes of a new object (R107). -/
def Obj.newBytes (expected : Word) : List Byte := bytesOf expected ++ List.replicate 12 0

theorem Obj.length_newBytes (expected : Word) : (Obj.newBytes expected).length = 16 := by
  rw [Obj.newBytes, List.length_append, List.length_replicate]
  rfl

/-- A new object is written for an owner at a place, and its granule marked (R107, R109). -/
def Core.init (k : Core) (owner a : Nat) (expected : Word) : Core :=
  { k.scrWrite owner a (Obj.newBytes expected) with marks := a / 16 :: k.marks }

/-- The lanes' objects are new; nothing else of the core that their owner sees has changed. -/
structure Core.Started (owner : Nat) (place : LaneIx → Nat) (expected : LaneIx → Word) (ls : List LaneIx) (k k' : Core) : Prop where
  obj : ∀ l ∈ ls, k'.obj (place l) = Obj.new (expected l)
  owned : ∀ l ∈ ls, ∀ b, place l ≤ b → b < place l + 16 → k'.lineTag.getD 0 (b / 128) = owner
  scrByte : ∀ b, (∀ l ∈ ls, b < place l ∨ place l + 16 ≤ b) → k'.scrByte owner b = k.scrByte owner b
  marks : ∀ b, (∀ l ∈ ls, b / 16 ≠ place l / 16) → k'.marked b = k.marked b

theorem Core.Started.nil (owner : Nat) (place : LaneIx → Nat) (expected : LaneIx → Word) (k : Core) :
    Core.Started owner place expected [] k k := ⟨nofun, nofun, fun _ _ => rfl, fun _ _ => rfl⟩

section init
variable (k : Core) (owner a : Nat) (expected : Word)

theorem Core.init_lineTag : (k.init owner a expected).lineTag = (k.scrWrite owner a (Obj.newBytes expected)).lineTag := by
  rw [Core.init]

theorem Core.init_scratch : (k.init owner a expected).scratch = (k.scrWrite owner a (Obj.newBytes expected)).scratch := by
  rw [Core.init]

theorem Core.lineTag_init (b : Nat) (h : a ≤ b ∧ b < a + 16 ∨ k.lineTag.getD 0 (b / 128) = owner) :
    (k.init owner a expected).lineTag.getD 0 (b / 128) = owner := by
  rw [Core.init_lineTag, Core.lineTag_scrWrite]
  rwa [Obj.length_newBytes]

theorem Core.scrByte_init (b : Nat) (h : b < a ∨ a + 16 ≤ b) : (k.init owner a expected).scrByte owner b = k.scrByte owner b := by
  have kept := Core.scrByte_scrWrite_outside k owner a (Obj.newBytes expected) b (by rwa [Obj.length_newBytes])
  rw [← kept, Core.scrByte, Core.scrByte, Core.init_lineTag, Core.init_scratch]

theorem Core.marked_init (b : Nat) : (k.init owner a expected).marked b = (decide (b / 16 = a / 16) || k.marked b) := by
  simp [Core.init, Core.marked]

theorem Core.word_init {j : Nat} (hj : j + 4 ≤ 16) :
    (k.init owner a expected).word (a + j) = wordOf (((Obj.newBytes expected).drop j).take 4) := by
  rw [Core.word, Core.init_scratch]
  refine congrArg wordOf (List.ext_getElem (by simp [getBytes, Obj.length_newBytes]; omega) fun i hi _ => ?_)
  simp only [getBytes, List.length_map, List.length_range] at hi
  rw [List.getElem_take, List.getElem_drop, ← Core.getD_scrWrite k owner a (Obj.newBytes expected)]
  simp only [getBytes, List.getElem_map, List.getElem_range, Nat.add_assoc]

theorem Core.obj_init : (k.init owner a expected).obj a = Obj.new expected := by
  have w0 : (k.init owner a expected).word a = expected :=
    (Core.word_init k owner a expected (j := 0) (by omega)).trans (wordOf_bytesOf expected)
  have zero : wordOf (List.replicate 4 0) = 0#32 := by decide
  have w4 : (k.init owner a expected).word (a + 4) = 0#32 := (Core.word_init k owner a expected (by omega)).trans zero
  have w8 : (k.init owner a expected).word (a + 8) = 0#32 := (Core.word_init k owner a expected (by omega)).trans zero
  have w12 : (k.init owner a expected).word (a + 12) = 0#32 := (Core.word_init k owner a expected (by omega)).trans zero
  rw [Core.obj, Core.marked_init, w0, w4, w8, w12, decide_eq_true rfl, Bool.true_or, Obj.new]

end init

theorem Core.Started.snoc {owner : Nat} {place : LaneIx → Nat} {expected : LaneIx → Word} {ls : List LaneIx} {l : LaneIx} {k k' : Core}
    (h : Core.Started owner place expected ls k k') (hs : ∀ m ∈ ls, Separate (place m) (place l)) :
    Core.Started owner place expected (ls ++ [l]) k (k'.init owner (place l) (expected l)) := by
  have owned (m : LaneIx) (hm : m ∈ ls ++ [l]) (b : Nat) (h1 : place m ≤ b) (h2 : b < place m + 16) :
      (k'.init owner (place l) (expected l)).lineTag.getD 0 (b / 128) = owner := by
    refine Core.lineTag_init _ _ _ _ b ?_
    rcases List.mem_append.mp hm with hm | hm
    · exact .inr (h.owned m hm b h1 h2)
    · exact .inl (List.mem_singleton.mp hm ▸ ⟨h1, h2⟩)
  refine ⟨fun m hm => ?_, owned, fun b hb => ?_, fun b hb => ?_⟩
  · by_cases hl : m = l
    · rw [hl, Core.obj_init]
    have hm' : m ∈ ls := (List.mem_append.mp hm).resolve_right (by simpa using hl)
    obtain ⟨granule, apart⟩ := hs m hm'
    have byte (j : Nat) (hj : j < 16) : Tab.getD (k'.init owner (place l) (expected l)).scratch 0 (place m + j) =
        Tab.getD k'.scratch 0 (place m + j) := by
      have same := Core.scrByte_init k' owner (place l) (expected l) (place m + j) (by omega)
      rwa [Core.scrByte, Core.scrByte, if_pos (owned m hm _ (by omega) (by omega)), if_pos (h.owned m hm' _ (by omega) (by omega))] at same
    have word (j : Nat) (hj : j + 4 ≤ 16) : (k'.init owner (place l) (expected l)).word (place m + j) = k'.word (place m + j) :=
      congrArg wordOf (getBytes_congr fun i hi => by rw [Nat.add_assoc, byte _ (by omega)])
    rw [← h.obj m hm', Core.obj, Core.obj, word 4 (by omega), word 8 (by omega), word 12 (by omega),
      show (k'.init owner (place l) (expected l)).word (place m) = k'.word (place m) from word 0 (by omega), Core.marked_init,
      decide_eq_false granule, Bool.false_or]
  · exact (Core.scrByte_init _ _ _ _ b (hb l (by simp))).trans (h.scrByte b fun m hm => hb m (List.mem_append_left _ hm))
  · rw [Core.marked_init, decide_eq_false (hb l (by simp)), Bool.false_or]
    exact h.marks b fun m hm => hb m (List.mem_append_left _ hm)

end Sys2Proof.Machine
end

section
/-! SUPPORT. Barrier objects of a team: what a change leaves of the state, the barrier instructions, and the statement on them (05 R102 to R109). -/

namespace Sys2Proof.Machine

/-! ### What changing an object leaves of the state -/

/-- Only a wait in `BWAIT` may have been answered. -/
def Group.Answered (g g' : Group) : Prop := { g' with wait := g.wait } = g ∧ ((∀ ws, g.wait ≠ .object ws) → g' = g)

theorem Group.Answered.refl (g : Group) : g.Answered g := ⟨rfl, fun _ => rfl⟩

theorem Group.answered_of_object {g : Group} {ws : List ObjWait} (h : g.wait = .object ws) (w : Wait) : g.Answered { g with wait := w } :=
  ⟨rfl, fun ho => absurd h (ho ws)⟩

theorem Group.Answered.trans {g g' g'' : Group} (h : g.Answered g') (k : g'.Answered g'') : g.Answered g'' := by
  obtain ⟨hw, hn⟩ := h
  obtain ⟨kw, kn⟩ := k
  refine ⟨(congrArg (fun r : Group => { r with wait := g.wait }) kw).trans hw, fun ho => ?_⟩
  have same := hn ho
  exact (kn (same ▸ ho)).trans same

/-- A state without its groups, its cores and its teams. -/
def State.inert (s : State) : State := { s with groups := [], cores := [], teams := [] }

/-- A team's block on its core stands where `tm` says: the clocks of its objects may differ. -/
def State.Block (s : State) (tid : Nat) (tm : Team) : Prop := ∃ oc, s.team tid = some { tm with objClk := oc }

/-- From `s` to `t` a team's objects have been changed: what `R` says has happened on the team's core, and waits in `BWAIT` may have been
answered. -/
structure Touches (tid : Nat) (tm : Team) (R : Core → Core → Prop) (s t : State) : Prop where
  inert : t.inert = s.inert
  block : t.Block tid tm
  core : R (s.core tm.core) (t.core tm.core)
  cores : ∀ c, c ≠ tm.core → t.core c = s.core c
  groups : ∀ k g, s.grp k = some g → ∃ g', t.grp k = some g' ∧ g.Answered g'

theorem Touches.trans {tid : Nat} {tm : Team} {R S Q : Core → Core → Prop} {s t u : State} (h : Touches tid tm R s t) (k : Touches tid tm S t u)
    (hq : ∀ c c' c'', R c c' → S c' c'' → Q c c'') : Touches tid tm Q s u := by
  refine ⟨k.inert.trans h.inert, k.block, hq _ _ _ h.core k.core, fun c hc => (k.cores c hc).trans (h.cores c hc), fun j g hg => ?_⟩
  obtain ⟨g', hg', ha⟩ := h.groups j g hg
  obtain ⟨g'', hg'', ha'⟩ := k.groups j g' hg'
  exact ⟨g'', hg'', ha.trans ha'⟩

theorem Touches.mono {tid : Nat} {tm : Team} {R S : Core → Core → Prop} {s t : State} (h : Touches tid tm R s t)
    (hs : R (s.core tm.core) (t.core tm.core) → S (s.core tm.core) (t.core tm.core)) : Touches tid tm S s t := { h with core := hs h.core }

theorem Touches.refl {tid : Nat} {tm : Team} {R : Core → Core → Prop} {s : State} (hb : s.Block tid tm)
    (hr : R (s.core tm.core) (s.core tm.core)) :
    Touches tid tm R s s :=
  ⟨rfl, hb, hr, fun _ _ => rfl, fun _ g hg => ⟨g, hg, Group.Answered.refl g⟩⟩

/-- Changes of a team's objects, one a lane. -/
theorem touches_foldl {tid : Nat} {tm : Team} {R : LaneIx → Core → Core → Prop} {P : List LaneIx → Core → Core → Prop}
    (hnil : ∀ k, P [] k k) (hsnoc : ∀ ls l k k' k'', P ls k k' → R l k' k'' → P (ls ++ [l]) k k'') {f : State → LaneIx → State}
    (ls : List LaneIx) (hf : ∀ s, ∀ l ∈ ls, s.Block tid tm → Touches tid tm (R l) s (f s l)) {s : State} (hb : s.Block tid tm) :
    Touches tid tm (P ls) s (ls.foldl f s) := by
  induction ls using List.reverseRecOn with
  | nil => exact Touches.refl hb (hnil _)
  | append_singleton ls l ih =>
    have start := ih fun s l hl => hf s l (List.mem_append_left _ hl)
    rw [List.foldl_append, List.foldl_cons, List.foldl_nil]
    exact start.trans (hf _ l (by simp) start.block) (hsnoc ls l)

section steps
variable {s : State} {tid : Nat} {tm : Team} (hb : s.Block tid tm)
include hb

theorem State.Block.locBase : s.locBase tid = tm.locBlk := by
  obtain ⟨oc, h⟩ := hb
  rw [State.locBase, h]
  rfl

theorem State.Block.coreOfTeam : s.coreOfTeam tid = tm.core := by
  obtain ⟨oc, h⟩ := hb
  rw [State.coreOfTeam, h]
  rfl

theorem State.Block.objMarked {off : Nat} (ha : off % 16 = 0) (hi : off < tm.locSize) :
    s.objMarked tid off = (s.core tm.core).marked (tm.locBlk + off) := by
  obtain ⟨oc, h⟩ := hb
  rw [State.objMarked, h]
  simp [ha, hi]

/-- A change of the team's core. -/
theorem touches_updCore {R : Core → Core → Prop} {f : Core → Core} (hf : R (s.core tm.core) (f (s.core tm.core))) :
    Touches tid tm R s (s.updCore tm.core f) := by
  refine ⟨rfl, hb, ?_, fun c hc => ?_, fun k g hg => ⟨g, hg, Group.Answered.refl g⟩⟩
  · rw [State.core_updCore, if_pos rfl]
    exact hf
  · rw [State.core_updCore, if_neg hc]

/-- Waits are answered in a group. -/
theorem touches_updGrp {gid : Nat} {f : Group → Group} (hf : ∀ g : Group, g.Answered (f g)) : Touches tid tm Eq s (s.updGrp gid f) := by
  refine ⟨rfl, hb, rfl, fun _ _ => rfl, fun k g hg => ?_⟩
  rw [State.grp_updGrp, hg]
  split
  · exact ⟨f g, rfl, hf g⟩
  · exact ⟨g, rfl, Group.Answered.refl g⟩

end steps

/-- Waits are answered in groups one after another. -/
theorem touches_answers {α : Type} {tid : Nat} {tm : Team} {gid : α → Nat} {f : α → Group → Group}
    (hf : ∀ a (g : Group), g.Answered (f a g)) (as : List α)
    {s : State} (hb : s.Block tid tm) : Touches tid tm Eq s (as.foldl (fun s a => s.updGrp (gid a) (f a)) s) := by
  induction as generalizing s with
  | nil => exact Touches.refl hb rfl
  | cons a as ih =>
    have step := touches_updGrp hb (gid := gid a) (hf a)
    exact step.trans (ih step.block) fun _ _ _ => Eq.trans

section steps
variable {s : State} {tid : Nat} {tm : Team} (hb : s.Block tid tm)
include hb

/-- A release event (R105). -/
theorem touches_releaseObj (off : Nat) : Touches tid tm (Core.Becomes (tm.locBlk + off) Obj.release) s (s.releaseObj tid off) := by
  unfold State.releaseObj
  dsimp only
  rw [hb.coreOfTeam, hb.locBase]
  have gen := touches_updCore hb (R := Core.Becomes (tm.locBlk + off) Obj.release)
    (f := fun k => k.setWord (tm.locBlk + off + 12) (k.word (tm.locBlk + off + 12) + 1#32)) ((Core.becomes_gen ..).congr rfl)
  refine gen.trans (touches_answers (fun e g => ?_) _ gen.block) fun _ _ _ h e => e ▸ h
  split
  next hw => exact Group.answered_of_object hw _
  next => exact Group.Answered.refl g

/-- An error applied to an object (R104, R107). -/
theorem touches_objError {off : Nat} (ha : off % 16 = 0) (hi : off < tm.locSize) (code : Nat) :
    Touches tid tm (Core.Becomes (tm.locBlk + off) (Obj.fail code)) s (s.objError tid off code) := by
  unfold State.objError
  dsimp only
  rw [hb.objMarked ha hi, hb.coreOfTeam, hb.locBase]
  split
  next hm =>
    have status := touches_updCore hb (R := Core.Becomes (tm.locBlk + off) fun o => { o with status := statusErr o.status code })
      (f := fun k => k.setWord (tm.locBlk + off + 8) (statusErr (k.word (tm.locBlk + off + 8)) code)) ((Core.becomes_status ..).congr rfl)
    refine (status.trans (touches_releaseObj status.block off) fun _ _ _ h k => h.trans k).mono fun h => h.congr ?_
    rw [Obj.fail]
    exact (if_pos hm).symm
  next hm => exact Touches.refl hb ((Core.Becomes.refl ..).congr (by rw [Obj.fail]; exact (if_neg hm).symm))

/-- A change of an object's expected or arrived word (R105). -/
theorem touches_objChange (off : Nat) {f : Core → Nat → Core} {φ : Obj → Obj}
    (hf : Core.Becomes (tm.locBlk + off) φ (s.core tm.core) (f (s.core tm.core) (tm.locBlk + off))) :
    Touches tid tm (Core.Becomes (tm.locBlk + off) (Obj.change φ)) s (s.objChange tid off f) := by
  have changed := touches_updCore hb (f := fun k => f k (tm.locBlk + off)) hf
  have opened : ((s.updCore tm.core fun k => f k (tm.locBlk + off)).core tm.core).isOpen (tm.locBlk + off) =
      (φ ((s.core tm.core).obj (tm.locBlk + off))).isOpen := by
    rw [← Core.isOpen_obj, changed.core.obj]
  unfold State.objChange
  dsimp only
  rw [hb.coreOfTeam, hb.locBase, opened, ← Core.isOpen_obj]
  split
  next ho =>
    refine (changed.trans (touches_releaseObj changed.block off) fun _ _ _ h k => h.trans k).mono fun h => h.congr ?_
    rw [Obj.change, if_pos ho]
    rfl
  next ho => exact changed.mono fun h => h.congr (by rw [Obj.change, if_neg ho])

/-- A count arrives at an object (R104, R105, R109). -/
theorem touches_objAdd {off : Nat} (ha : off % 16 = 0) (hi : off < tm.locSize) (n : Nat) :
    Touches tid tm (Core.Becomes (tm.locBlk + off) (Obj.arrive n)) s (s.objAdd tid off n) := by
  have arrived (w : Word) := Core.becomes_arrived (s.core tm.core) (tm.locBlk + off) w
  unfold State.objAdd
  dsimp only
  rw [hb.coreOfTeam, hb.locBase, ← Core.isOpen_obj]
  split
  next hover =>
    have added := touches_updCore hb (f := fun k => k.setWord (tm.locBlk + off + 4)
      (BitVec.ofNat 32 (min (((s.core tm.core).word (tm.locBlk + off + 4)).toNat + n) 0xFFFFFFFF))) (arrived _)
    have failed := added.trans (touches_objError added.block ha hi 7) fun _ _ _ h k => h.trans k
    split
    next ho =>
      refine failed.mono fun h => h.congr ?_
      rw [Obj.arrive]
      exact ((if_pos hover).trans (if_pos ho)).symm
    next ho =>
      refine (failed.trans (touches_releaseObj failed.block off) fun _ _ _ h k => h.trans k).mono fun h => h.congr ?_
      rw [Obj.arrive]
      exact ((if_pos hover).trans (if_neg ho)).symm
  next hover =>
    refine (touches_objChange hb off (arrived _)).mono fun h => h.congr ?_
    rw [Obj.arrive]
    exact (if_neg hover).symm

/-- An object expects more (R109). -/
theorem touches_expect (off : Nat) (n : Word) : Touches tid tm (Core.Becomes (tm.locBlk + off) (Obj.expect n)) s
    (s.objChange tid off fun k a => k.setWord a (k.word a + n)) :=
  touches_objChange hb off ((Core.becomes_expected ..).congr rfl)

/-- An object is killed (R109). -/
theorem touches_kill {off : Nat} (ha : off % 16 = 0) (hi : off < tm.locSize) :
    Touches tid tm (Core.Becomes (tm.locBlk + off) Obj.kill) s
      (((s.updCore tm.core fun k =>
          k.setWord (tm.locBlk + off + 8) (k.word (tm.locBlk + off + 8) ||| 0x40000000#32)).objError tid off 6).updCore tm.core fun k =>
        { k with marks := k.marks.filter (· ≠ (tm.locBlk + off) / 16) }) := by
  have killed := touches_updCore hb (R := Core.Becomes (tm.locBlk + off) fun o => { o with status := o.status ||| 0x40000000#32 })
    (f := fun k => k.setWord (tm.locBlk + off + 8) (k.word (tm.locBlk + off + 8) ||| 0x40000000#32)) ((Core.becomes_status ..).congr rfl)
  have failed := killed.trans (touches_objError killed.block ha hi 6) fun _ _ _ h k => h.trans k
  exact failed.trans (touches_updCore failed.block (Core.becomes_unmarked _ _)) fun _ _ _ h k => h.trans k

end steps

/-! ### Objects changed one after another -/

/-- The lanes' objects have changed, each by the changes of the lanes that name it, in lane order; nothing else of the core has. -/
structure Core.Became (place : LaneIx → Nat) (f : LaneIx → Obj → Obj) (ls : List LaneIx) (k k' : Core) : Prop where
  obj : ∀ a, (∀ l ∈ ls, place l = a ∨ Separate (place l) a) →
    k'.obj a = (ls.filter fun l => place l == a).foldl (fun o l => f l o) (k.obj a)
  scrByte : ∀ owner b, (∀ l ∈ ls, b < place l ∨ place l + 16 ≤ b) → k'.scrByte owner b = k.scrByte owner b
  marks : ∀ b, (∀ l ∈ ls, b / 16 ≠ place l / 16) → k'.marked b = k.marked b

theorem Core.Became.nil (place : LaneIx → Nat) (f : LaneIx → Obj → Obj) (k : Core) : Core.Became place f [] k k :=
  ⟨fun _ _ => rfl, fun _ _ _ => rfl, fun _ _ => rfl⟩

theorem Core.Became.snoc {place : LaneIx → Nat} {f : LaneIx → Obj → Obj} {ls : List LaneIx} {l : LaneIx} {k k' k'' : Core}
    (h : Core.Became place f ls k k') (h' : Core.Becomes (place l) (f l) k' k'') : Core.Became place f (ls ++ [l]) k k'' := by
  refine ⟨fun a ha => ?_, fun o b hb => ?_, fun b hb => ?_⟩
  · have before := h.obj a fun m hm => ha m (List.mem_append_left _ hm)
    rw [List.filter_append, List.foldl_append, ← before]
    rcases ha l (by simp) with rfl | hs
    · simpa using h'.obj
    · rw [h'.apart hs]
      have : place l ≠ a := fun e => hs.1 (by rw [e])
      simp [this]
  · exact (h'.scrByte o (hb l (by simp))).trans (h.scrByte o b fun m hm => hb m (List.mem_append_left _ hm))
  · exact (h'.marks b (hb l (by simp))).trans (h.marks b fun m hm => hb m (List.mem_append_left _ hm))

/-! ### The issue of a barrier instruction -/

theorem State.eq_of_inert {s t : State} (h : t.inert = s.inert) :
    { t with groups := s.groups, cores := s.cores, teams := s.teams } = s := by
  have := congrArg (fun t : State => { t with groups := s.groups, cores := s.cores, teams := s.teams }) h
  simpa only [State.inert] using this

theorem State.inert_updGrp (s : State) (gid : Nat) (f : Group → Group) : (s.updGrp gid f).inert = s.inert := by
  simp only [State.inert, State.updGrp]

theorem Group.Answered.still {g g' : Group} (h : g.Answered g') : g'.still = g.still := by
  have := congrArg Group.still h.1
  simpa only [Group.still, Group.mapLanes] using this

theorem Group.Answered.levels {g g' : Group} (h : g.Answered g') : g'.levels = g.levels := (congrArg Group.levels h.1 :)

theorem Group.Answered.wb {g g' : Group} (h : g.Answered g') (l : LaneIx) : (g'.lane l).wb = (g.lane l).wb :=
  (congrArg (fun r : Group => (r.lane l).wb) h.1 :)

/-- A new object is written and the clocks of its place forgotten (R109). -/
theorem touches_init {s : State} {tid : Nat} {tm : Team} (hb : s.Block tid tm) (off : Nat) (w : Word) :
    Touches tid tm (fun k k' => k' = k.init tm.owner (tm.locBlk + off) w) s
      ((s.updCore tm.core fun k => k.init tm.owner (tm.locBlk + off) w).updTeam tid fun t => { t with objClk := t.objClk.del off }) := by
  have made := touches_updCore hb (R := fun k k' => k' = k.init tm.owner (tm.locBlk + off) w)
    (f := fun k => k.init tm.owner (tm.locBlk + off) w) rfl
  generalize (s.updCore tm.core fun k => k.init tm.owner (tm.locBlk + off) w) = u at made ⊢
  refine ⟨made.inert, ?_, made.core, made.cores, made.groups⟩
  obtain ⟨oc, ht⟩ := made.block
  refine ⟨oc.del off, ?_⟩
  rw [State.team] at ht
  rw [State.team, State.updTeam, Tab.find_upd, if_pos rfl, ht]
  rfl

/-- What `BINIT` does for a lane (R109). -/
def State.initLane (s : State) (x : Issue) (off : Nat) (w : Word) : State :=
  (s.updCore (coreOf x.gid) fun k => k.init (s.locOf x.g).2.2 ((s.locOf x.g).1 + off) w).updTeam x.g.team fun t =>
    { t with objClk := t.objClk.del off }

/-- What `BKILL` does for a lane (R109). -/
def State.killLane (s : State) (x : Issue) (off : Nat) : State :=
  ((s.updCore (coreOf x.gid) fun k => k.setWord ((s.locOf x.g).1 + off + 8)
      (k.word ((s.locOf x.g).1 + off + 8) ||| 0x40000000#32)).objError x.g.team off 0x06).updCore (coreOf x.gid) fun k =>
    { k with marks := k.marks.filter (· ≠ ((s.locOf x.g).1 + off) / 16) }

theorem State.Block.locOf {s : State} {g : Group} {tm : Team} (hb : s.Block g.team tm) : s.locOf g = (tm.locBlk, tm.locSize, tm.owner) := by
  obtain ⟨oc, ht⟩ := hb
  rw [State.locOf, ht]

section objOp
variable {s : State} {x : Issue} {tm : Team} {guard : Bool} {srcs : List Operand} {a : Reg}
  (h : Rules.LocalRuns s x tm (x.part guard) srcs srcs a 16)
include h

theorem objTrap_of_runs {init : Bool} {l : LaneIx} (hl : Mask.has (x.part guard) l = true)
    (hm : (s.core tm.core).marked (Rules.placeOf s x tm a l) = !init) (word : Word) :
    s.objTrap x (s.stackOf x.g) word srcs init l (x.g.src (s.stackOf x.g) l a) = none := by
  rw [Rules.placeOf, h.core] at hm
  unfold State.objTrap
  rw [h.locOf]
  dsimp only
  rw [h.ready.2 l hl, h.localTrap hl, hm]
  cases init <;> rfl

/-- A barrier instruction whose lanes meet no condition: the lanes' effects one after another, and the group goes on (R109, R110). -/
theorem State.objOp_of_runs {init : Bool} {again : Word → Option TrapC} (word : Word)
    (hm : ∀ l, Mask.has (x.part guard) l = true → (s.core tm.core).marked (Rules.placeOf s x tm a l) = !init)
    (hp : init = true → ∀ l, Mask.has (x.part guard) l = true → (s.core tm.core).anyAbsent (Rules.placeOf s x tm a l) 16 = false)
    (ha : Rules.Apart s x (x.part guard) a ∨ ∀ w, again w = none) (f : Issue → Nat → LaneIx → Nat → State → State) :
    ∃ wb, s.objOp guard word srcs a init again f = .next (((Mask.lanes (x.part guard)).foldl (fun s' l =>
        f x (s.stackOf x.g) l (x.g.src (s.stackOf x.g) l a).toNat s')
      (s.updGrp x.gid fun g => g.scrub (s.stackOf x.g) wb (x.part guard) srcs)).updGrp x.gid fun g => g.advance x x.act x.seq) := by
  refine ⟨((Mask.low x.act).map fun l => (x.g.lane l).wb).getD 0, ?_⟩
  have noTrap (l : LaneIx) (hl : Mask.has (x.part guard) l = true) :
      (s.objTrap x (s.stackOf x.g) word srcs init l (x.g.src (s.stackOf x.g) l a)).or
        (if (Mask.lanes (x.part guard)).any fun k => k.val < l.val && x.g.src (s.stackOf x.g) k a == x.g.src (s.stackOf x.g) l a &&
            (s.objTrap x (s.stackOf x.g) word srcs init k (x.g.src (s.stackOf x.g) k a)).isNone
          then again (x.g.src (s.stackOf x.g) l a) else none) = none := by
    rw [objTrap_of_runs h hl (hm l hl), Option.none_or]
    rcases ha with ha | ha
    · refine if_neg ?_
      simp only [List.any_eq_true, not_exists, not_and]
      intro k hk
      by_cases hkl : k = l
      · simp [hkl]
      · simp [ha k l ((Mask.mem_lanes ..).mp hk) hl hkl]
    · rw [ha, ite_self]
  have present (ok : LaneIx → Bool) : (init && (Mask.lanes (x.part guard)).any fun l =>
      ok l && (s.core (coreOf x.gid)).anyAbsent ((s.locOf x.g).1 + (x.g.src (s.stackOf x.g) l a).toNat) 16) = false := by
    rw [Bool.and_eq_false_imp]
    intro hinit
    rw [List.any_eq_false]
    intro l hl
    have := hp hinit l ((Mask.mem_lanes ..).mp hl)
    rw [Rules.placeOf, h.core] at this
    rw [h.locOf, this, Bool.and_false]
    exact Bool.false_ne_true
  unfold State.objOp
  rw [State.withIssue_of h.issue]
  dsimp only
  rw [h.ready.pending, present, if_neg (by simp), State.finish_part _ _ noTrap]

end objOp

/-- What a barrier instruction leaves alone, when its lanes have changed objects alone. -/
theorem onlyObjects_of_touches {s u : State} {x : Issue} {tm : Team} {R : Core → Core → Prop} {part : Mask} {a : Reg} {wb : Nat}
    {srcs : List Operand} (hi : s.issue = some x)
    (h : Touches x.g.team tm R (s.updGrp x.gid fun g => g.scrub (s.stackOf x.g) wb part srcs) u)
    (bytes : ∀ b, (∀ l ∈ Mask.lanes part, b < Rules.placeOf s x tm a l ∨ Rules.placeOf s x tm a l + 16 ≤ b) →
      (u.core tm.core).scrByte tm.owner b = (s.core tm.core).scrByte tm.owner b)
    (marks : ∀ b, (∀ l ∈ Mask.lanes part, b / 16 ≠ Rules.placeOf s x tm a l / 16) →
      (u.core tm.core).marked b = (s.core tm.core).marked b) :
    ∃ g', Rules.OnlyObjects s (u.updGrp x.gid fun g => g.advance x x.act x.seq) x tm part a g' ∧
      (Rules.Steady x x.seq → Rules.GoOn x x.act x.seq g') := by
  obtain ⟨g, hg, answered⟩ := h.groups x.gid _ (by rw [State.grp_updGrp, if_pos rfl, State.grp_of_issue hi]; rfl)
  refine ⟨g.advance x x.act x.seq, ⟨?_, ?_, fun k gk hk hgk => ?_, ?_, h.cores, fun b hb => ?_, fun b hb => ?_⟩, fun hs => ?_⟩
  · rw [State.grp_updGrp, if_pos rfl, hg]
    rfl
  · exact Group.moved ((Group.still_advance ..).trans answered.still)
  · rw [State.grp_updGrp, if_neg hk]
    exact h.groups k gk (by rw [State.grp_updGrp, if_neg hk, hgk])
  · exact State.eq_of_inert ((State.inert_updGrp ..).trans (h.inert.trans (State.inert_updGrp ..)))
  · exact bytes b fun l hl => hb l ((Mask.mem_lanes ..).mp hl)
  · exact marks b fun l hl => hb l ((Mask.mem_lanes ..).mp hl)
  · have levels : (x.g.scrub (s.stackOf x.g) wb part srcs).levels = x.g.levels := by simp only [Group.scrub, Group.mapLanes_levels]
    have wbs (l : LaneIx) : ((x.g.scrub (s.stackOf x.g) wb part srcs).lane l).wb = (x.g.lane l).wb := Group.scrub_wb ..
    dsimp only at answered
    generalize x.g.scrub (s.stackOf x.g) wb part srcs = r at answered levels wbs
    exact Group.goOn_advance (answered.levels.trans levels) (fun l => (answered.wb l).trans (wbs l)) hs

/-! ### BINIT and BKILL -/

theorem separate_of_ne {a b c : Nat} (h : a ≠ b) (ha : a % 16 = 0) (hb : b % 16 = 0) : Separate (c + a) (c + b) := by
  constructor <;> omega

/-- The places that two lanes name are one, or separate objects'. -/
theorem place_eq_or_separate {s : State} {x : Issue} {tm : Team} {part : Mask} {srcs waits : List Operand} {a : Reg}
    (h : Rules.LocalRuns s x tm part srcs waits a 16) {l m : LaneIx} (hl : Mask.has part l = true) (hm : Mask.has part m = true) :
    Rules.placeOf s x tm a l = Rules.placeOf s x tm a m ∨ Separate (Rules.placeOf s x tm a l) (Rules.placeOf s x tm a m) := by
  by_cases he : (x.g.src (s.stackOf x.g) l a).toNat = (x.g.src (s.stackOf x.g) m a).toNat
  · exact .inl (congrArg (tm.locBlk + ·) he)
  · exact .inr (separate_of_ne he (h.inside l hl).1 (h.inside m hm).1)

theorem separate_of_apart {s : State} {x : Issue} {tm : Team} {part : Mask} {srcs waits : List Operand} {a : Reg}
    (h : Rules.LocalRuns s x tm part srcs waits a 16) (ha : Rules.Apart s x part a) {l m : LaneIx} (hl : Mask.has part l = true)
    (hm : Mask.has part m = true) (hne : l ≠ m) : Separate (Rules.placeOf s x tm a l) (Rules.placeOf s x tm a m) :=
  separate_of_ne (fun e => ha l m hl hm hne (BitVec.eq_of_toNat_eq e)) (h.inside l hl).1 (h.inside m hm).1

theorem Mask.nodup_lanes (m : Mask) : (Mask.lanes m).Nodup := (List.nodup_finRange 32).filter _

theorem pairwise_separate {s : State} {x : Issue} {tm : Team} {part : Mask} {srcs waits : List Operand} {a : Reg}
    (h : Rules.LocalRuns s x tm part srcs waits a 16) (ha : Rules.Apart s x part a) :
    (Mask.lanes part).Pairwise fun l m => Separate (Rules.placeOf s x tm a l) (Rules.placeOf s x tm a m) :=
  (Mask.nodup_lanes part).imp_of_mem fun hl hm hne =>
    separate_of_apart h ha ((Mask.mem_lanes ..).mp hl) ((Mask.mem_lanes ..).mp hm) hne

theorem State.block_of_runs {s : State} {x : Issue} {tm : Team} {part : Mask} {srcs waits : List Operand} {a : Reg} {size : Nat}
    (h : Rules.LocalRuns s x tm part srcs waits a size) (f : Group → Group) : (s.updGrp x.gid f).Block x.g.team tm := ⟨tm.objClk, h.team⟩

/-- `BINIT` makes new objects (R107, R109). -/
theorem execBinit_of_runs {s : State} {x : Issue} {tm : Team} {o : A2ab}
    (h : Rules.LocalRuns s x tm (x.part o.g) [⟨o.a, 1⟩, ⟨o.b, 1⟩] [⟨o.a, 1⟩, ⟨o.b, 1⟩] o.a 16) (ha : Rules.Apart s x (x.part o.g) o.a)
    (hf : ∀ l, Mask.has (x.part o.g) l = true → (s.core tm.core).marked (Rules.placeOf s x tm o.a l) = false ∧
      (s.core tm.core).anyAbsent (Rules.placeOf s x tm o.a l) 16 = false) :
    ∃ t g', exec (.binit o) s = .next t ∧ Rules.OnlyObjects s t x tm (x.part o.g) o.a g' ∧
      (∀ l, Mask.has (x.part o.g) l = true →
        (t.core tm.core).obj (Rules.placeOf s x tm o.a l) = Obj.new (x.g.src (s.stackOf x.g) l o.b)) ∧
      (Rules.Steady x x.seq → Rules.GoOn x x.act x.seq g') := by
  obtain ⟨wb, hop⟩ := State.objOp_of_runs h (init := true)
    (again := fun off => some { rank := 4, code := 0x08, info := encode (.binit o), addr := off.setWidth 64 }) (encode (.binit o))
    (fun l hl => (hf l hl).1) (fun _ l hl => (hf l hl).2) (.inl ha) fun x n l off s => s.initLane x off (x.g.src n l o.b)
  have touched := touches_foldl (tid := x.g.team) (tm := tm)
    (R := fun l k k' => k' = k.init tm.owner (Rules.placeOf s x tm o.a l) (x.g.src (s.stackOf x.g) l o.b))
    (P := fun ls k k' => (ls.Pairwise fun l m => Separate (Rules.placeOf s x tm o.a l) (Rules.placeOf s x tm o.a m)) →
      Core.Started tm.owner (Rules.placeOf s x tm o.a) (fun l => x.g.src (s.stackOf x.g) l o.b) ls k k')
    (fun k _ => Core.Started.nil ..)
    (fun ls l k k' k'' hs hk hp => by
      obtain ⟨hls, -, hl⟩ := List.pairwise_append.mp hp
      rw [hk]
      exact (hs hls).snoc fun m hm => hl m hm l (by simp))
    (Mask.lanes (x.part o.g))
    (f := fun s' l => s'.initLane x (x.g.src (s.stackOf x.g) l o.a).toNat (x.g.src (s.stackOf x.g) l o.b))
    (fun s' l _ hb => by
      rw [State.initLane, hb.locOf, ← h.core]
      exact touches_init hb _ _)
    (State.block_of_runs h fun g => g.scrub (s.stackOf x.g) wb (x.part o.g) [⟨o.a, 1⟩, ⟨o.b, 1⟩])
  have started := touched.core (pairwise_separate h ha)
  obtain ⟨g', only, goOn⟩ := onlyObjects_of_touches h.issue touched started.scrByte started.marks
  exact ⟨_, g', hop, only, fun l hl => started.obj l ((Mask.mem_lanes ..).mpr hl), goOn⟩

/-- A barrier instruction that changes marked objects: each has met the changes of the lanes that name it, in lane order (R109). -/
theorem State.objOp_became {s : State} {x : Issue} {tm : Team} {guard : Bool} {srcs : List Operand} {a : Reg}
    (h : Rules.LocalRuns s x tm (x.part guard) srcs srcs a 16) {again : Word → Option TrapC} (word : Word)
    (hm : ∀ l, Mask.has (x.part guard) l = true → (s.core tm.core).marked (Rules.placeOf s x tm a l) = true)
    (ha : Rules.Apart s x (x.part guard) a ∨ ∀ w, again w = none)
    {f : Issue → Nat → LaneIx → Nat → State → State} {φ : LaneIx → Obj → Obj}
    (hf : ∀ s' l, Mask.has (x.part guard) l = true → s'.Block x.g.team tm → Touches x.g.team tm
      (Core.Becomes (Rules.placeOf s x tm a l) (φ l)) s' (f x (s.stackOf x.g) l (x.g.src (s.stackOf x.g) l a).toNat s')) :
    ∃ t g', s.objOp guard word srcs a false again f = .next t ∧ Rules.OnlyObjects s t x tm (x.part guard) a g' ∧
      (∀ l, Mask.has (x.part guard) l = true → (t.core tm.core).obj (Rules.placeOf s x tm a l) =
        ((Mask.lanes (x.part guard)).filter fun m => Rules.placeOf s x tm a m == Rules.placeOf s x tm a l).foldl (fun o m => φ m o)
          ((s.core tm.core).obj (Rules.placeOf s x tm a l))) ∧
      (Rules.Steady x x.seq → Rules.GoOn x x.act x.seq g') := by
  obtain ⟨wb, hop⟩ := State.objOp_of_runs h (init := false) word hm nofun ha f
  have touched := touches_foldl (tid := x.g.team) (tm := tm) (P := Core.Became (Rules.placeOf s x tm a) φ)
    (fun k => Core.Became.nil ..) (fun ls l k k' k'' => Core.Became.snoc) (Mask.lanes (x.part guard))
    (fun s' l hl => hf s' l ((Mask.mem_lanes ..).mp hl))
    (State.block_of_runs h fun g => g.scrub (s.stackOf x.g) wb (x.part guard) srcs)
  obtain ⟨g', only, goOn⟩ := onlyObjects_of_touches h.issue touched (touched.core.scrByte tm.owner) touched.core.marks
  exact ⟨_, g', hop, only, fun l hl => touched.core.obj _ fun m hm => place_eq_or_separate h ((Mask.mem_lanes ..).mp hm) hl, goOn⟩

theorem filter_place_of_apart {s : State} {x : Issue} {tm : Team} {part : Mask} {srcs waits : List Operand} {a : Reg}
    (h : Rules.LocalRuns s x tm part srcs waits a 16) (ha : Rules.Apart s x part a) {l : LaneIx} (hl : Mask.has part l = true) :
    ((Mask.lanes part).filter fun m => Rules.placeOf s x tm a m == Rules.placeOf s x tm a l) = [l] := by
  have same (m : LaneIx) (hm : m ∈ Mask.lanes part) : (Rules.placeOf s x tm a m == Rules.placeOf s x tm a l) = (m == l) := by
    by_cases he : m = l
    · simp [he]
    · have apart := (separate_of_apart h ha ((Mask.mem_lanes ..).mp hm) hl he).1
      rw [beq_eq_false_iff_ne.mpr he, beq_eq_false_iff_ne.mpr fun e => apart (by rw [e])]
  rw [List.filter_congr same, List.filter_beq, List.count_eq_one_of_mem (Mask.nodup_lanes part) ((Mask.mem_lanes ..).mpr hl)]
  rfl

/-- `BKILL` kills objects (R107, R109). -/
theorem execBkill_of_runs {s : State} {x : Issue} {tm : Team} {o : A1a}
    (h : Rules.LocalRuns s x tm (x.part o.g) [⟨o.a, 1⟩] [⟨o.a, 1⟩] o.a 16) (ha : Rules.Apart s x (x.part o.g) o.a)
    (hm : ∀ l, Mask.has (x.part o.g) l = true → (s.core tm.core).marked (Rules.placeOf s x tm o.a l) = true) :
    ∃ t g', exec (.bkill o) s = .next t ∧ Rules.OnlyObjects s t x tm (x.part o.g) o.a g' ∧
      (∀ l, Mask.has (x.part o.g) l = true →
        (t.core tm.core).obj (Rules.placeOf s x tm o.a l) = ((s.core tm.core).obj (Rules.placeOf s x tm o.a l)).kill) ∧
      (Rules.Steady x x.seq → Rules.GoOn x x.act x.seq g') := by
  obtain ⟨t, g', hop, only, objs, goOn⟩ := State.objOp_became h (again := fun _ => some (descErr 0x08)) (encode (.bkill o)) hm (.inl ha)
    (f := fun x _ _ off s => s.killLane x off) (φ := fun _ => Obj.kill) fun s' l hl hb => by
      obtain ⟨halign, hin⟩ := h.inside l hl
      rw [State.killLane, hb.locOf, ← h.core]
      exact touches_kill hb halign (by omega)
  refine ⟨t, g', hop, only, fun l hl => ?_, goOn⟩
  rw [objs l hl, filter_place_of_apart h ha hl]
  rfl

theorem Obj.fail_of_marked {o : Obj} (h : o.marked = true) (code : Nat) :
    o.fail code = { o with status := statusErr o.status code, gen := o.gen + 1#32 } := if_pos h

theorem Obj.kill_of_marked {o : Obj} (h : o.marked = true) :
    o.kill = { o with status := statusErr (o.status ||| 0x40000000#32) 6, gen := o.gen + 1#32, marked := false } := by
  rw [Obj.kill, Obj.fail_of_marked (o := { o with status := o.status ||| 0x40000000#32 }) h]

/-- `BINIT` and `BKILL` (R107, R109). -/
theorem barrierInitAndKill : Rules.BarrierInitAndKill := by
  refine fun s x tm => ⟨fun o h ha hf => ?_, fun o h ha hm => ?_⟩
  · obtain ⟨t, g', hop, only, objs, goOn⟩ := execBinit_of_runs h ha hf
    refine ⟨t, g', hop, only, fun l hl => ?_, goOn⟩
    have obj := objs l hl
    exact ⟨congrArg Obj.expected obj, congrArg Obj.arrived obj, congrArg Obj.status obj, congrArg Obj.gen obj, congrArg Obj.marked obj⟩
  · obtain ⟨t, g', hop, only, objs, goOn⟩ := execBkill_of_runs h ha hm
    refine ⟨t, g', hop, only, fun l hl => ?_, goOn⟩
    have obj := objs l hl
    rw [Obj.kill_of_marked (hm l hl)] at obj
    exact ⟨congrArg Obj.expected obj, congrArg Obj.arrived obj, congrArg Obj.status obj, congrArg Obj.gen obj, congrArg Obj.marked obj⟩

/-! ### Counts (R104, R105, R109) -/

theorem topBit_iff (w : Word) : w.getLsbD 31 = true ↔ 2 ^ 31 ≤ w.toNat := by
  have := BitVec.msb_eq_decide w
  rw [BitVec.msb_eq_getLsbD_last] at this
  simpa using congrArg (· = true) this

/-- A word with its top bit set that a carry out of its low byte does not reach keeps it when it rises by one. -/
theorem topBit_add_one {w : Word} (h : w.getLsbD 31 = true) (hl : w.extractLsb' 0 8 ≠ 0xFF#8) : (w + 1#32).getLsbD 31 = true := by
  rw [topBit_iff] at h ⊢
  have low : w.toNat % 256 ≠ 255 := fun e => hl (BitVec.eq_of_toNat_eq (by simpa [BitVec.extractLsb'_toNat] using e))
  rw [BitVec.toNat_add, BitVec.toNat_ofNat]
  have := w.isLt
  omega

theorem topBit_statusErr (st : Word) (code : Nat) : (statusErr st code).getLsbD 31 = true := by
  have top : (st ||| 0x80000000#32).getLsbD 31 = true := by simp
  unfold statusErr
  dsimp only
  have named : (if (st ||| 0x80000000#32).extractLsb' 8 8 = 0#8 then st ||| 0x80000000#32 ||| BitVec.ofNat 32 code <<< 8
      else st ||| 0x80000000#32).getLsbD 31 = true := by
    split
    · rw [BitVec.getLsbD_or, top, Bool.true_or]
    · exact top
  generalize (if (st ||| 0x80000000#32).extractLsb' 8 8 = 0#8 then _ else _ : Word) = w at named ⊢
  split
  next => exact named
  next hl => exact topBit_add_one named hl

theorem Obj.change_eq (f : Obj → Obj) (o : Obj) : o.change f =
    { f o with gen := if o.isOpen = false ∧ (f o).isOpen = true then (f o).gen + 1#32 else (f o).gen } := by
  unfold Obj.change
  cases o.isOpen <;> cases (f o).isOpen <;> rfl

/-- A change that leaves the generation raises it when it opens the object (R105). -/
theorem Obj.gen_of_change {o o' : Obj} {f : Obj → Obj} (h : o' = o.change f) (hg : (f o).gen = o.gen) :
    o'.gen = if o.isOpen = false ∧ o'.isOpen = true then o.gen + 1#32 else o.gen := by
  rw [h, Obj.change_eq, ← hg]
  rfl

/-- A count that does not pass the largest: arrived rises by it, and an object that opens is released (R105). -/
theorem Obj.arrive_of_le {o : Obj} {n : Nat} (h : o.arrived.toNat + n < 2 ^ 32) : o.arrive n =
    o.change fun o => { o with arrived := BitVec.ofNat 32 (o.arrived.toNat + n) } := by
  unfold Obj.arrive
  rw [if_neg (by omega), Obj.change_eq, Obj.change_eq]
  dsimp only
  rw [Nat.min_eq_left (by omega)]

/-- A count that passes the largest: arrived stays there and the error is applied (R104). -/
theorem Obj.arrive_of_over {o : Obj} {n : Nat} (hm : o.marked = true) (h : 2 ^ 32 ≤ o.arrived.toNat + n) :
    ∃ gen, o.arrive n = { o with arrived := 0xFFFFFFFF#32, status := statusErr o.status 7, gen } := by
  unfold Obj.arrive
  dsimp only
  rw [if_pos (by omega), Nat.min_eq_right (by omega), Obj.fail_of_marked (by exact hm)]
  split <;> exact ⟨_, rfl⟩

/-- An object that is open stays so when more has arrived. -/
theorem Obj.isOpen_mono {o o' : Obj} (he : o'.expected = o.expected) (hs : o'.status = o.status) (ha : o.arrived.toNat ≤ o'.arrived.toNat)
    (h : o.isOpen = true) : o'.isOpen = true := by
  simp only [Obj.isOpen, objOpen, he, hs, Bool.or_eq_true, BitVec.ule, decide_eq_true_eq] at h ⊢
  exact h.imp_left fun h => h.trans ha

/-- What counts that sum up to `n` make of an object (R104, R105). -/
structure Obj.Counted (o o' : Obj) (n : Nat) : Prop where
  expected : o'.expected = o.expected
  arrived : o'.arrived.toNat = min (o.arrived.toNat + n) (2 ^ 32 - 1)
  marked : o'.marked = true
  small : o.arrived.toNat + n < 2 ^ 32 → o'.status = o.status ∧
    o'.gen = if o.isOpen = false ∧ o'.isOpen = true then o.gen + 1#32 else o.gen
  large : 2 ^ 32 ≤ o.arrived.toNat + n → o'.status.getLsbD 31 = true

theorem Obj.Counted.zero {o : Obj} (hm : o.marked = true) : o.Counted o 0 :=
  ⟨rfl, by omega, hm, fun _ => ⟨rfl, by cases o.isOpen <;> rfl⟩, fun h => by have := o.arrived.isLt; omega⟩

/-- Of two changes one after another, which close nothing, at most one opens. -/
theorem opens_once {a b c : Bool} {g g' : Word} (hab : a = true → b = true) (hbc : b = true → c = true)
    (hg : g' = if a = false ∧ b = true then g + 1#32 else g) :
    (if b = false ∧ c = true then g' + 1#32 else g') = if a = false ∧ c = true then g + 1#32 else g := by
  cases b
  case false => cases a <;> simp_all
  case true => simp_all

theorem Obj.Counted.arrive {o o' : Obj} {n : Nat} (h : o.Counted o' n) (m : Nat) : o.Counted (o'.arrive m) (n + m) := by
  have sum := h.arrived
  rcases Nat.lt_or_ge (o'.arrived.toNat + m) (2 ^ 32) with hlt | hge
  · have arrived : (BitVec.ofNat 32 (o'.arrived.toNat + m)).toNat = o'.arrived.toNat + m := by
      rw [BitVec.toNat_ofNat, Nat.mod_eq_of_lt hlt]
    rw [Obj.arrive_of_le hlt, Obj.change_eq]
    refine ⟨h.expected, ?_, h.marked, fun hs => ?_, fun hl => ?_⟩
    · rw [arrived]
      omega
    · obtain ⟨status, gen⟩ := h.small (by omega)
      refine ⟨status, ?_⟩
      have first : o.isOpen = true → o'.isOpen = true := Obj.isOpen_mono h.expected status (by omega)
      have second : o'.isOpen = true → Obj.isOpen { o' with arrived := BitVec.ofNat 32 (o'.arrived.toNat + m) } = true :=
        Obj.isOpen_mono rfl rfl (by rw [arrived]; omega)
      exact opens_once first second gen
    · exact h.large (by omega)
  · obtain ⟨gen, he⟩ := Obj.arrive_of_over h.marked hge
    rw [he]
    exact ⟨h.expected, by rw [show (0xFFFFFFFF#32).toNat = 2 ^ 32 - 1 from rfl]; omega, h.marked, by omega, fun _ => topBit_statusErr ..⟩

theorem Obj.counted_foldl {o : Obj} (hm : o.marked = true) (ls : List LaneIx) (n : LaneIx → Nat) :
    o.Counted (ls.foldl (fun o l => o.arrive (n l)) o) (ls.map n).sum := by
  induction ls using List.reverseRecOn with
  | nil => exact Obj.Counted.zero hm
  | append_singleton ls l ih => simpa using ih.arrive (n l)

/-- The lanes that name a lane's object, by its place and by its offset. -/
theorem counts_eq {s : State} {x : Issue} {tm : Team} {part : Mask} {a b : Reg} (l : LaneIx) :
    Rules.counts s x part a b l = (((Mask.lanes part).filter fun m => Rules.placeOf s x tm a m == Rules.placeOf s x tm a l).map fun m =>
      (x.g.src (s.stackOf x.g) m b).toNat).sum := by
  rw [Rules.counts]
  refine congrArg (fun ls : List LaneIx => (ls.map fun m => (x.g.src (s.stackOf x.g) m b).toNat).sum) (List.filter_congr fun m _ => ?_)
  rw [Bool.eq_iff_iff, beq_iff_eq, beq_iff_eq, Rules.placeOf, Rules.placeOf, Nat.add_left_cancel_iff, BitVec.toNat_inj]

/-- `BARV` adds its lanes' counts to arrived (R104, R105, R109). -/
theorem execBarv_of_runs {s : State} {x : Issue} {tm : Team} {o : A2ab}
    (h : Rules.LocalRuns s x tm (x.part o.g) [⟨o.a, 1⟩, ⟨o.b, 1⟩] [⟨o.a, 1⟩, ⟨o.b, 1⟩] o.a 16)
    (hm : ∀ l, Mask.has (x.part o.g) l = true → (s.core tm.core).marked (Rules.placeOf s x tm o.a l) = true) :
    ∃ t g', exec (.barv o) s = .next t ∧ Rules.OnlyObjects s t x tm (x.part o.g) o.a g' ∧
      (∀ l, Mask.has (x.part o.g) l = true → ((s.core tm.core).obj (Rules.placeOf s x tm o.a l)).Counted
        ((t.core tm.core).obj (Rules.placeOf s x tm o.a l)) (Rules.counts s x (x.part o.g) o.a o.b l)) ∧
      (Rules.Steady x x.seq → Rules.GoOn x x.act x.seq g') := by
  obtain ⟨t, g', hop, only, objs, goOn⟩ := State.objOp_became h (again := fun _ => none) (encode (.barv o)) hm (.inr fun _ => rfl)
    (f := fun x n l off s => s.objAdd x.g.team off (x.g.src n l o.b).toNat)
    (φ := fun l => Obj.arrive (x.g.src (s.stackOf x.g) l o.b).toNat) fun s' l hl hb => by
      obtain ⟨halign, hin⟩ := h.inside l hl
      exact touches_objAdd hb halign (by omega) _
  refine ⟨t, g', hop, only, fun l hl => ?_, goOn⟩
  rw [objs l hl, counts_eq (tm := tm)]
  exact Obj.counted_foldl (hm l hl) _ _

/-- What `BEXP` leaves of an object's words, by its lanes' counts. -/
theorem Obj.expect_foldl (o : Obj) (ls : List LaneIx) (n : LaneIx → Word) :
    ∃ gen, ls.foldl (fun o l => o.expect (n l)) o =
      { o with expected := BitVec.ofNat 32 (o.expected.toNat + (ls.map fun l => (n l).toNat).sum), gen } := by
  induction ls using List.reverseRecOn with
  | nil => exact ⟨o.gen, by simp⟩
  | append_singleton ls l ih =>
    obtain ⟨gen, ih⟩ := ih
    have sum (k : Nat) (w : Word) : BitVec.ofNat 32 k + w = BitVec.ofNat 32 (k + w.toNat) := by
      rw [BitVec.ofNat_add, BitVec.ofNat_toNat, BitVec.setWidth_eq]
    rw [List.foldl_append, List.foldl_cons, List.foldl_nil, ih, Obj.expect, Obj.change_eq, List.map_append, List.sum_append,
      List.map_singleton, List.sum_singleton, ← Nat.add_assoc, ← sum]
    exact ⟨_, rfl⟩

/-- `BEXP` adds its lanes' counts to expected (R105, R109). -/
theorem execBexp_of_runs {s : State} {x : Issue} {tm : Team} {o : A2ab}
    (h : Rules.LocalRuns s x tm (x.part o.g) [⟨o.a, 1⟩, ⟨o.b, 1⟩] [⟨o.a, 1⟩, ⟨o.b, 1⟩] o.a 16)
    (hm : ∀ l, Mask.has (x.part o.g) l = true → (s.core tm.core).marked (Rules.placeOf s x tm o.a l) = true) :
    ∃ t g', exec (.bexp o) s = .next t ∧ Rules.OnlyObjects s t x tm (x.part o.g) o.a g' ∧
      (∀ l, Mask.has (x.part o.g) l = true →
        let before := (s.core tm.core).obj (Rules.placeOf s x tm o.a l)
        let after := (t.core tm.core).obj (Rules.placeOf s x tm o.a l)
        (∃ gen, after = { before with
          expected := BitVec.ofNat 32 (before.expected.toNat + Rules.counts s x (x.part o.g) o.a o.b l), gen }) ∧
        (Rules.Apart s x (x.part o.g) o.a → after = before.expect (x.g.src (s.stackOf x.g) l o.b))) ∧
      (Rules.Steady x x.seq → Rules.GoOn x x.act x.seq g') := by
  obtain ⟨t, g', hop, only, objs, goOn⟩ := State.objOp_became h (again := fun _ => none) (encode (.bexp o)) hm (.inr fun _ => rfl)
    (f := fun x n l off s => s.objChange x.g.team off fun k a => k.setWord a (k.word a + x.g.src n l o.b))
    (φ := fun l => Obj.expect (x.g.src (s.stackOf x.g) l o.b)) fun s' l hl hb => touches_expect hb _ _
  refine ⟨t, g', hop, only, fun l hl => ⟨?_, fun ha => ?_⟩, goOn⟩ <;> rw [objs l hl]
  · rw [counts_eq (tm := tm)]
    exact Obj.expect_foldl ..
  · rw [filter_place_of_apart h ha hl]
    rfl

/-- `BARV` and `BEXP` (R104, R105, R109). -/
theorem barrierCounts : Rules.BarrierCounts := by
  refine fun s x tm o h hm => ⟨?_, ?_⟩
  · obtain ⟨t, g', hop, only, counted, goOn⟩ := execBarv_of_runs h hm
    refine ⟨t, g', hop, only, fun l hl => ?_, goOn⟩
    obtain ⟨expected, arrived, marked, small, large⟩ := counted l hl
    refine ⟨expected, BitVec.eq_of_toNat_eq ?_, marked, small, large⟩
    rw [BitVec.toNat_ofNat, Nat.mod_eq_of_lt (by omega)]
    exact arrived
  · obtain ⟨t, g', hop, only, objs, goOn⟩ := execBexp_of_runs h hm
    refine ⟨t, g', hop, only, fun l hl => ?_, goOn⟩
    obtain ⟨⟨gen, all⟩, apart⟩ := objs l hl
    refine ⟨congrArg Obj.expected all, congrArg Obj.arrived all, congrArg Obj.status all, (congrArg Obj.marked all).trans (hm l hl),
      fun ha => Obj.gen_of_change (apart ha) rfl⟩

/-- Settles O19: barrier objects are made, killed and counted on as the rules say. -/
theorem barrierObjects : Obligations.BarrierObjects := ⟨barrierInitAndKill, barrierCounts⟩

end Sys2Proof.Machine
end

section
/-! SUPPORT. Local loads and stores (06 R130, R133, R134), and the statement on them. -/

namespace Sys2Proof.Machine
open Sys2Proof.Rules

/-! ### Stores of several lanes to the scratchpad (03 R66) -/

section scrWrite
variable (k : Core) (owner a : Nat) (bs : List Byte)

/-- A written byte, as its owner reads it. -/
theorem Core.scrByte_scrWrite (i : Nat) (h : i < bs.length) : (k.scrWrite owner a bs).scrByte owner (a + i) = bs[i] := by
  rw [Core.scrByte, if_pos (Core.lineTag_scrWrite k owner a bs (a + i) (.inl ⟨by omega, by omega⟩))]
  exact Core.getD_scrWrite ..

theorem Core.length_scrRead (n : Nat) : (k.scrRead owner a n).length = n := by
  rw [Core.scrRead, List.length_map, List.length_range]

/-- Bytes read as they were written. -/
theorem Core.scrRead_scrWrite : (k.scrWrite owner a bs).scrRead owner a bs.length = bs := by
  refine List.ext_getElem (Core.length_scrRead ..) fun i h _ => ?_
  rw [Core.length_scrRead] at h
  simp only [Core.scrRead, List.getElem_map, List.getElem_range]
  exact Core.scrByte_scrWrite k owner a bs i h

end scrWrite

theorem Core.scrRead_congr {k k' : Core} {owner a n : Nat} (h : ∀ i < n, k'.scrByte owner (a + i) = k.scrByte owner (a + i)) :
    k'.scrRead owner a n = k.scrRead owner a n :=
  List.map_congr_left fun i hi => h i (List.mem_range.mp hi)

/-- Lanes store their bytes at their places, one after another. -/
def Core.stores (owner : Nat) (place : LaneIx → Nat) (bytes : LaneIx → List Byte) (ls : List LaneIx) (k : Core) : Core :=
  ls.foldl (fun k l => k.scrWrite owner (place l) (bytes l)) k

section stores
variable {owner size : Nat} {place : LaneIx → Nat} {bytes : LaneIx → List Byte}

/-- A byte that no lane stores stays. -/
theorem Core.scrByte_stores_outside {b : Nat} (ls : List LaneIx) (k : Core)
    (h : ∀ l ∈ ls, b < place l ∨ place l + (bytes l).length ≤ b) :
    (k.stores owner place bytes ls).scrByte owner b = k.scrByte owner b := by
  induction ls generalizing k with
  | nil => rfl
  | cons l ls ih =>
    refine (ih _ fun j hj => h j (by simp [hj])).trans ?_
    exact Core.scrByte_scrWrite_outside _ _ _ _ _ (h l (by simp))

/-- What the stores of a mask's lanes leave in the scratchpad. -/
theorem Core.stored_stores (k : Core) (m : Mask) (h : ∀ l, Mask.has m l = true → (bytes l).length = size) :
    Stored k (k.stores owner place bytes (Mask.lanes m)) owner m size place bytes := by
  have nodup := Mask.nodup_lanes m
  have length (l) (hl : l ∈ Mask.lanes m) := h l ((Mask.mem_lanes m l).mp hl)
  refine ⟨fun l hl apart => ?_, fun b hb => Core.scrByte_stores_outside _ _ fun l hl => ?_⟩
  · have apart (j) (hj : j ∈ Mask.lanes m) := apart j ((Mask.mem_lanes m j).mp hj)
    obtain ⟨before, after, hls⟩ := List.append_of_mem ((Mask.mem_lanes m l).mpr hl)
    rw [hls] at nodup apart length ⊢
    have hafter : l ∉ after := (List.nodup_cons.mp (List.nodup_append.mp nodup).2.1).1
    have hlen := length l (by simp)
    rw [Core.stores, List.foldl_append, List.foldl_cons]
    refine (Core.scrRead_congr fun i hi => Core.scrByte_stores_outside after _ fun j hj => ?_).trans
      (hlen ▸ Core.scrRead_scrWrite _ owner (place l) (bytes l))
    rw [length j (by simp [hj])]
    have := apart j (by simp [hj]) fun e => hafter (e ▸ hj)
    omega
  · rw [length l hl]
    exact hb l ((Mask.mem_lanes m l).mp hl)

end stores

/-- Only the places and bytes of the lanes that store matter. -/
theorem stored_congr {k k' : Core} {owner size : Nat} {m : Mask} {place place' : LaneIx → Nat} {bytes bytes' : LaneIx → List Byte}
    (h : Stored k k' owner m size place bytes) (e : ∀ l, Mask.has m l = true → place l = place' l ∧ bytes l = bytes' l) :
    Stored k k' owner m size place' bytes' := by
  obtain ⟨own, others⟩ := h
  refine ⟨fun l hl apart => ?_, fun b hb => others b fun l hl => (e l hl).1 ▸ hb l hl⟩
  rw [← (e l hl).1, ← (e l hl).2]
  exact own l hl fun j hj hne => by rw [(e j hj).1, (e l hl).1]; exact apart j hj hne

/-- The stores of lanes change their core alone. -/
theorem State.scrStore_foldl (x : Issue) (place : LaneIx → Nat) (bytes : LaneIx → List Byte) (ls : List LaneIx) (s : State) :
    let t := ls.foldl (fun s l => s.scrStore x (place l) (bytes l)) s
    t.core (coreOf x.gid) = (s.core (coreOf x.gid)).stores (s.locOf x.g).2.2 place bytes ls ∧
      (∀ c, c ≠ coreOf x.gid → t.core c = s.core c) ∧ { t with cores := s.cores } = s := by
  induction ls generalizing s with
  | nil => exact ⟨rfl, fun _ _ => rfl, rfl⟩
  | cons l ls ih =>
    obtain ⟨own, others, rest⟩ := ih (s.scrStore x (place l) (bytes l))
    refine ⟨own.trans ?_, fun c hc => (others c hc).trans ?_, congrArg (fun t => { t with cores := s.cores }) rest⟩
    · rw [State.scrStore, State.core_updCore, if_pos rfl]
      rfl
    · rw [State.scrStore, State.core_updCore, if_neg hc]

/-! ### What a local form meets -/

section fits
variable {s : State} {x : Issue} {n : Nat} {k : Chk} {l : LaneIx} {off : Word}

/-- A lane whose operands are there and whose offset is aligned and inside its team's block, in no marked granule for a store,
reaches its byte (R134). -/
theorem State.meetForm_of_fits (ht : x.g.operandTrap n k.srcs l = none) (halign : off.toNat % k.align = 0)
    (hin : off.toNat + k.size ≤ (s.locOf x.g).2.1)
    (hmark : k.store = true → (s.core (coreOf x.gid)).anyMarked ((s.locOf x.g).1 + off.toNat) k.size = false) :
    s.meetForm x n k l off = .loc ((s.locOf x.g).1 + off.toNat) := by
  have clear : (k.store && (s.core (coreOf x.gid)).anyMarked ((s.locOf x.g).1 + off.toNat) k.size) = false := by
    cases h : k.store with
    | false => rfl
    | true => exact hmark h
  rw [State.meetForm, ht]
  dsimp only
  rw [if_neg (by omega)]
  exact (if_neg hin.not_gt).trans (if_neg (ne_true_of_eq_false clear))

end fits

section localOp
variable {s : State} {x : Issue} {guard : Bool} {k : Chk} {off : Issue → Nat → LaneIx → Word} {nw : Bool} {dst : Option Operand}
  {data : Issue → Nat → LaneIx → List Byte} {place : LaneIx → Nat} (hi : s.issue = some x)
  (hp : x.g.pending (s.stackOf x.g) x.act (k.srcs ++ if nw then [] else dst.toList) = false)
  (hm : ∀ l, Mask.has (x.part guard) l = true → s.meetForm x (s.stackOf x.g) k l (off x (s.stackOf x.g) l) = .loc (place l))
  (ha : ∀ l, Mask.has (x.part guard) l = true → (s.core (coreOf x.gid)).anyAbsent (place l) k.size = false)
include hi hp hm ha

/-- A local form none of whose lanes meets a condition or an absent line: all its lanes complete (R121, R127, R134). -/
theorem State.localOp_of_fits : ∃ wb, s.localOp guard k off nw dst data = .next
    ((match dst with
      | some d => s.updGrp x.gid fun g => g.readWrite (s.stackOf x.g) wb (x.part guard) (x.part guard) k.srcs nw d fun l =>
          wordsOf ((s.core (coreOf x.gid)).scrRead (s.locOf x.g).2.2
            (s.meetForm x (s.stackOf x.g) k l (off x (s.stackOf x.g) l)).place k.size)
      | none => (Mask.lanes (x.part guard)).foldl (fun t l => t.scrStore x
          (s.meetForm x (s.stackOf x.g) k l (off x (s.stackOf x.g) l)).place (data x (s.stackOf x.g) l))
          (s.updGrp x.gid fun g => g.scrub (s.stackOf x.g) wb (x.part guard) k.srcs)).updGrp x.gid fun g => g.advance x x.act x.seq) := by
  refine ⟨((Mask.low x.act).map fun l => (x.g.lane l).wb).getD 0, ?_⟩
  have present : (((Mask.lanes (x.part guard)).filter fun l =>
      (s.meetForm x (s.stackOf x.g) k l (off x (s.stackOf x.g) l)).trap?.isNone).any fun l => (s.core (coreOf x.gid)).anyAbsent
        (s.meetForm x (s.stackOf x.g) k l (off x (s.stackOf x.g) l)).place k.size) = false := by
    rw [List.any_eq_false]
    intro l hl
    have hl := (Mask.mem_lanes ..).mp (List.mem_filter.mp hl).1
    rw [hm l hl, Meet.place, ha l hl]
    exact Bool.false_ne_true
  unfold State.localOp
  rw [State.withIssue_of hi]
  dsimp only
  rw [hp, present, if_neg (by simp), if_neg (by simp), State.finish_part _ _ fun l hl => congrArg Meet.trap? (hm l hl)]
  cases dst with
  | none => dsimp only
  | some d =>
    dsimp only
    rw [State.updGrp_updGrp (k := x.gid) (f := fun g => g.scrub _ _ _ _)]
    rfl

end localOp

/-! ### Local loads -/

/-- A base and a scaled signed offset, as a number (06 R131 to R133). -/
theorem add_signExtend_mul {n : Nat} (w : Nat) (a : BitVec w) (i : BitVec n) (k : Nat) :
    a + i.signExtend w * BitVec.ofNat w k = BitVec.ofInt w (a.toNat + i.toInt * k) := by
  rw [BitVec.ofInt_add, BitVec.ofInt_mul, BitVec.ofInt_natCast, BitVec.ofInt_natCast, BitVec.ofNat_toNat, BitVec.setWidth_eq,
    BitVec.signExtend]

theorem signExtend_mul_four {n : Nat} (a : Word) (i : BitVec n) :
    a + i.signExtend 32 * 4#32 = BitVec.ofInt 32 (a.toNat + 4 * i.toInt) :=
  (add_signExtend_mul 32 a i 4).trans (by rw [mul_comm]; rfl)

/-- A local load is a local form that writes a register; its register field is aligned to its width. -/
theorem localLoads_exec {i : Instr} {f : LocalForm} (hw : i.wellFormed = true) (h : localLoads i = some f) :
    ∃ word data, (∀ s, exec i s = s.localOp f.guard ⟨word, f.srcs, f.size, f.size, 0, 0, true, false⟩ f.off f.nw (some f.reg) data) ∧
      f.size = 4 * f.reg.w ∧ f.reg.r.toNat ≤ 119 ∧ (f.reg.r.toNat < 96 → f.reg.r.toNat + f.reg.w ≤ 96) := by
  unfold localLoads at h
  split at h
  case h_1 o =>
    obtain rfl := Option.some.inj h
    have hd : o.d.toNat ≤ 119 := Instr.dst_le hw (by simp [Instr.operands])
    refine ⟨encode (.llw o), fun _ _ _ => [], fun s => ?_, rfl, hd, fun h96 => by dsimp only at h96 ⊢; omega⟩
    simp only [← signExtend_mul_four _ o.imm]
    rfl
  case h_2 o =>
    obtain rfl := Option.some.inj h
    have hd := Instr.field_ok hw (f := (.pair, o.d)) (by simp [Instr.operands])
    simp [Role.ok] at hd
    exact ⟨_, fun _ _ _ => [], fun s => rfl, rfl, by dsimp only; omega, fun h96 => by dsimp only at h96 ⊢; omega⟩
  case h_3 o =>
    obtain rfl := Option.some.inj h
    have hd := Instr.field_ok hw (f := (.quad, o.d)) (by simp [Instr.operands])
    simp [Role.ok] at hd
    exact ⟨_, fun _ _ _ => [], fun s => rfl, rfl, by dsimp only; omega, fun h96 => by dsimp only at h96 ⊢; omega⟩
  case h_4 => cases h

theorem localStores_exec {i : Instr} {f : LocalForm} (h : localStores i = some f) :
    ∃ word data, (∀ s, exec i s = s.localOp f.guard ⟨word, f.srcs ++ [f.reg], f.size, f.size, 0, 1, true, true⟩ f.off true none data) ∧
      f.size = 4 * f.reg.w ∧ ∀ x n l, data x n l = (x.g.srcs n l f.reg).flatMap bytesOf := by
  unfold localStores at h
  split at h
  case h_1 o =>
    obtain rfl := Option.some.inj h
    refine ⟨encode (.lsw o), fun x n l => bytesOf (x.g.src n l o.d), fun s => ?_, rfl, fun x n l => ?_⟩
    · simp only [← signExtend_mul_four _ o.imm]
      rfl
    · rw [Group.srcs_one, List.flatMap_singleton]
  case h_2 o =>
    obtain rfl := Option.some.inj h
    exact ⟨_, fun x n l => (x.g.srcs n l ⟨o.d, 2⟩).flatMap bytesOf, fun s => rfl, rfl, fun _ _ _ => rfl⟩
  case h_3 o =>
    obtain rfl := Option.some.inj h
    exact ⟨_, fun x n l => (x.g.srcs n l ⟨o.d, 4⟩).flatMap bytesOf, fun s => rfl, rfl, fun _ _ _ => rfl⟩
  case h_4 => cases h

theorem length_wordsOf (bs : List Byte) : (wordsOf bs).length = (bs.length + 3) / 4 := by
  rw [wordsOf, List.length_map, List.length_range]

theorem Operand.length_regs (o : Operand) : o.regs.length = o.w := by
  unfold Operand.regs
  split
  · rw [List.length_replicate]
  · rw [List.length_map, List.length_range]

/-- An operand has four bytes for each of its words. -/
theorem length_bytesOf_srcs (g : Group) (n : Nat) (l : LaneIx) (o : Operand) : ((g.srcs n l o).flatMap bytesOf).length = 4 * o.w := by
  have four (w : Word) : (bytesOf w).length = 4 := rfl
  rw [List.length_flatMap, Group.srcs]
  simp only [four, List.map_const', List.sum_replicate, List.length_map, Operand.length_regs, smul_eq_mul, mul_comm]

/-- Local loads (R130, R133, R134). -/
theorem localLoads_hold : Rules.LocalLoads := by
  intro i f hw hf s x hruns fits
  obtain ⟨hi, hn, hr⟩ := hruns
  obtain ⟨word, data, hexec, hsize, hd, hwidth⟩ := localLoads_exec hw hf
  have place (l) (hl : Mask.has (x.part f.guard) l = true) : s.meetForm x (s.stackOf x.g)
      ⟨word, f.srcs, f.size, f.size, 0, 0, true, false⟩ l (f.off x (s.stackOf x.g) l) = .loc (f.place s x l) := by
    obtain ⟨halign, hin, -, hmark⟩ := fits l hl
    exact State.meetForm_of_fits (hr.operandTrap hl) halign hin hmark
  obtain ⟨wb, h⟩ := State.localOp_of_fits (dst := some f.reg) (data := data) hi hr.pending place fun l hl => (fits l hl).2.2.1
  dsimp only at h
  rw [State.updGrp_updGrp] at h
  have wrote (vals : LaneIx → List Word) (hl : ∀ l, (vals l).length = f.reg.w) :=
    Group.wrote x.g (s.stackOf x.g) wb (x.part f.guard) (x.part f.guard) f.srcs f.nw f.reg vals 0#32 (fun _ => false) _ hn hwidth hd hl
      ((Group.still_advance _ x x.act x.seq).trans (congrArg Group.still (Group.putGp_zero _ _).symm))
  refine ⟨_, _, (hexec s).trans h, OnlyGroup.updGrp s s _ _ x.g rfl (State.grp_of_issue hi), (wrote _ ?_).1.congr fun l hl => ?_,
    (wrote _ ?_).2.trans (congrArg Group.gp (x.g.putGp_zero fun _ => false)), fun hs => ?_⟩
  · exact fun l => (length_wordsOf _).trans (by rw [Core.length_scrRead, hsize]; omega)
  · rw [place l hl, Meet.place]
  · exact fun l => (length_wordsOf _).trans (by rw [Core.length_scrRead, hsize]; omega)
  · exact Group.goOn_advance (readWrite_levels ..) (fun l => readWrite_wb ..) hs

/-- A state that differs in its cores, with its group's lanes moved on. -/
theorem State.frame_of_cores {s t u : State} {gid : Nat} {f f' : Group → Group} {g : Group} (hg : s.grp gid = some g)
    (h : { t with cores := s.cores } = s.updGrp gid f) (hu : u = t.updGrp gid f') :
    u.grp gid = some (f' (f g)) ∧ (∀ k, k ≠ gid → u.grp k = s.grp k) ∧ { u with groups := s.groups, cores := s.cores } = s ∧
      ∀ c, u.core c = t.core c := by
  subst hu
  have groups : State.groups { t with cores := s.cores } = (s.updGrp gid f).groups := congrArg State.groups h
  have grp (k : Nat) : t.grp k = (s.updGrp gid f).grp k := congrArg (Tab.find · k) groups
  refine ⟨?_, fun k hk => ?_, ?_, fun _ => rfl⟩
  · rw [State.grp_updGrp, if_pos rfl, grp, State.grp_updGrp, if_pos rfl, hg]
    rfl
  · rw [State.grp_updGrp, if_neg hk, grp, State.grp_updGrp, if_neg hk]
  · have := congrArg (fun t => { t with groups := s.groups }) h
    exact this

/-- Local stores (R133, R134). -/
theorem localStores_hold : Rules.LocalStores := by
  intro i f hw hf s x hi hr fits
  obtain ⟨word, data, hexec, hsize, hdata⟩ := localStores_exec hf
  have place (l) (hl : Mask.has (x.part f.guard) l = true) : s.meetForm x (s.stackOf x.g)
      ⟨word, f.srcs ++ [f.reg], f.size, f.size, 0, 1, true, true⟩ l (f.off x (s.stackOf x.g) l) = .loc (f.place s x l) := by
    obtain ⟨halign, hin, -, hmark⟩ := fits l hl
    exact State.meetForm_of_fits (hr.operandTrap hl) halign hin hmark
  obtain ⟨wb, h⟩ := State.localOp_of_fits (nw := true) (dst := none) (data := data) hi
    (by simpa using hr.pending) place fun l hl => (fits l hl).2.2.1
  dsimp only at h
  obtain ⟨own, others, rest⟩ := State.scrStore_foldl x (fun l => (s.meetForm x (s.stackOf x.g)
    ⟨word, f.srcs ++ [f.reg], f.size, f.size, 0, 1, true, true⟩ l (f.off x (s.stackOf x.g) l)).place) (data x (s.stackOf x.g))
    (Mask.lanes (x.part f.guard)) (s.updGrp x.gid fun g => g.scrub (s.stackOf x.g) wb (x.part f.guard) (f.srcs ++ [f.reg]))
  obtain ⟨grp, grps, frame, core⟩ := State.frame_of_cores (State.grp_of_issue hi) rest rfl
  refine ⟨_, _, (hexec s).trans h, grp, grps, Group.moved (Group.still_advance ..), frame, fun c hc => (core c).trans (others c hc), ?_,
    fun hs => ?_⟩
  · rw [core, own]
    refine stored_congr (Core.stored_stores _ _ fun l _ => ?_) fun l hl => ⟨?_, hdata ..⟩
    · rw [hdata, length_bytesOf_srcs, hsize]
    · rw [place l hl, Meet.place]
  · exact Group.goOn_advance (by simp only [Group.scrub, Group.mapLanes_levels]) (fun l => Group.scrub_wb ..) hs

/-- Settles O15: a local form is one operation on the team's block, which reads the scratchpad into the destination or makes its lanes'
stores one after another. -/
theorem localForms : Obligations.LocalForms := ⟨localLoads_hold, localStores_hold⟩

end Sys2Proof.Machine
end

section
/-! SUPPORT. `FENCE` (06 R139; 07 R147, R148, R150, R153), and the statement on it. -/

namespace Sys2Proof.Machine
open Sys2Proof.Rules

/-! ### The instruction that a group is inside of -/

/-- The instruction that a group is inside of, and what it waits for there. -/
def Group.inside (g : Group) : Option Pin × Wait := (g.pin, g.wait)

section inside
variable (g : Group)

theorem Group.inside_mapOn (m : Mask) (f : LaneIx → Lane → Lane) : (g.mapOn m f).inside = g.inside := by
  simp only [Group.inside, Group.mapOn_pin, Group.mapOn_wait]

theorem Group.inside_moveLane (l : LaneIx) (pc next : Word) : (g.moveLane l pc next).inside = g.inside := by
  unfold Group.moveLane
  split
  · simp only [Group.inside, Group.setLane_pin, Group.setLane_wait, Group.updLevel_pin, Group.updLevel_wait]
  · simp only [Group.inside, Group.setLane_pin, Group.setLane_wait]

theorem Group.inside_moveLanes (ls : List LaneIx) (pc next : Group → LaneIx → Word) :
    (ls.foldl (fun g l => g.moveLane l (pc g l) (next g l)) g).inside = g.inside :=
  foldl_same Group.inside (fun _ _ => Group.inside_moveLane ..) ls g

theorem Group.inside_decideLevel (n : Nat) (lv : Level) : (g.decideLevel n lv).inside = g.inside := by
  have dropped : (g.dropLevel n).inside = g.inside := by
    simp only [Group.inside, Group.dropLevel, Group.mapLanes_pin, Group.mapLanes_wait]
  unfold Group.decideLevel
  dsimp only
  split
  · rw [Group.inside_mapOn]
    simp only [Group.inside, Group.updLevel_pin, Group.updLevel_wait]
  · rw [Group.inside_moveLanes _ _ (fun _ _ => lv.stop) fun _ _ => lv.stop + 4#32, Group.inside_mapOn, dropped]

theorem Group.inside_settleLoops (fuel : Nat) : (g.settleLoops fuel).inside = g.inside := by
  induction fuel generalizing g with
  | zero => rfl
  | succ fuel ih =>
    unfold Group.settleLoops
    split
    · rfl
    · rw [ih, Group.inside_decideLevel]

theorem Group.inside_releaseRejoin (k : Nat) : (g.releaseRejoin k).inside = g.inside := by
  unfold Group.releaseRejoin
  dsimp only
  rw [Group.inside_moveLanes _ _ (fun g l => (g.lane l).pc) fun g l => (g.lane l).pc + 4#32, Group.inside_mapOn]
  rfl

theorem Group.inside_settle : g.settle.inside = g.inside := by
  unfold Group.settle
  rw [Group.inside_settleLoops]
  refine foldl_same Group.inside (fun g k => ?_) _ g
  split
  · exact Group.inside_releaseRejoin ..
  · rfl

/-- At the end of an issue the group is inside of no instruction. -/
theorem Group.inside_advance (x : Issue) (moved : Mask) (next : LaneIx → Word) : (g.advance x moved next).inside = (none, .none) := by
  unfold Group.advance
  dsimp only
  rw [Group.inside_settle, Group.inside_moveLanes _ _ (fun _ _ => x.pc) fun _ l => next l]
  rfl

end inside

theorem Group.pin_advance (g : Group) (x : Issue) (moved : Mask) (next : LaneIx → Word) : (g.advance x moved next).pin = none := by
  have := g.inside_advance x moved next
  rw [Group.inside, Prod.mk.injEq] at this
  exact this.1

theorem Group.wait_advance (g : Group) (x : Issue) (moved : Mask) (next : LaneIx → Word) : (g.advance x moved next).wait = .none := by
  have := g.inside_advance x moved next
  rw [Group.inside, Prod.mk.injEq] at this
  exact this.2

/-! ### Release points (07 R150; 12 R274) -/

theorem State.groups_updGrp_id (s : State) (gid : Nat) : (s.updGrp gid id).groups = s.groups := Tab.upd_self _ _ _ fun _ _ => rfl

/-- A team is changed; its groups are not. -/
theorem State.groups_mapTeam_id (s : State) (tid : Nat) (f : Team → Team) : (s.mapTeam tid f id).groups = s.groups := by
  have same := foldl_same State.groups (fun (s : State) (e : Nat × Group) => s.groups_updGrp_id e.1) (s.groupsOf tid) (s.updTeam tid f)
  unfold State.mapTeam
  dsimp only
  split
  · exact same
  · exact same

theorem State.groups_raiseRel (s : State) (tid : Nat) : (s.raiseRel tid).groups = s.groups :=
  foldl_same State.groups (fun _ _ => State.groups_mapTeam_id ..) _ s

/-- A group as it has performed its release point. -/
def Group.released (carry : Option Scope) (g : Group) : Group := { g with cc := g.vc, relCarry := carry }

/-- A release point changes no group but the one that performs it. -/
theorem State.groups_releasePoint (s : State) (gid : Nat) (carry : Option Scope) :
    (s.releasePoint gid carry).groups = (s.updGrp gid (Group.released carry)).groups := by
  unfold State.releasePoint
  split
  next h => exact (Tab.upd_self _ _ _ fun v hv => absurd (h.symm.trans hv) nofun).symm
  next => exact State.groups_raiseRel ..

/-! ### Clocks -/

theorem Clk.le_join_left (a b : Clk) : a.le (a.join b) = true := by simp [Clk.le, Clk.join]
theorem Clk.le_join_right (a b : Clk) : b.le (a.join b) = true := by simp [Clk.le, Clk.join]
theorem Clk.join_empty (a : Clk) : a.join {} = a := by simp [Clk.join]

/-! ### The fence -/

theorem Scope.wide_iff (sc : Scope) : sc.wide = true ↔ sc = .device ∨ sc = .system := by cases sc <;> decide

/-- A group as its fence leaves it: the acquire side joins its clocks, the release side is a release point. -/
def Group.fenced (acq rel : Bool) (scope : Scope) (vec : Clk) (g : Group) : Group :=
  let g := if acq then g.acquireFence vec else g
  if rel then g.released (some scope) else g

section fenced
variable (g : Group) (acq rel : Bool) (scope : Scope) (vec : Clk)

theorem Group.fenced_lanes : (g.fenced acq rel scope vec).lanes = g.lanes := by
  cases acq <;> cases rel <;> rfl
theorem Group.fenced_levels : (g.fenced acq rel scope vec).levels = g.levels := by
  cases acq <;> cases rel <;> rfl
theorem Group.fenced_readFrom (h : acq = true) : (g.fenced acq rel scope vec).readFrom = [] := by
  subst h; cases rel <;> rfl
theorem Group.fenced_vc (h : acq = true) : (g.fenced acq rel scope vec).vc = (g.vc.join g.obs).join vec := by
  subst h; cases rel <;> rfl
theorem Group.fenced_relCarry : (g.fenced acq rel scope vec).relCarry = if rel then some scope else g.relCarry := by
  cases acq <;> cases rel <;> rfl

end fenced

theorem Group.relCarry_of_still {g h : Group} (e : g.still = h.still) : g.relCarry = h.relCarry := by
  have := congrArg Group.relCarry e
  simpa [Group.still] using this
theorem Group.readFrom_of_still {g h : Group} (e : g.still = h.still) : g.readFrom = h.readFrom := by
  have := congrArg Group.readFrom e
  simpa [Group.still] using this
theorem Group.vc_of_still {g h : Group} (e : g.still = h.still) : g.vc = h.vc := by
  have := congrArg Group.vc e
  simpa [Group.still] using this

/-- What a state's groups are when one of them has been changed. -/
theorem State.grp_of_groups {s t : State} {gid : Nat} {f : Group → Group} {g : Group} (hg : s.grp gid = some g)
    (h : t.groups = (s.updGrp gid f).groups) : t.grp gid = some (f g) ∧ ∀ k, k ≠ gid → t.grp k = s.grp k := by
  have grp (k : Nat) : t.grp k = (s.updGrp gid f).grp k := congrArg (Tab.find · k) h
  refine ⟨?_, fun k hk => ?_⟩
  · rw [grp, State.grp_updGrp, if_pos rfl, hg]
    rfl
  · rw [grp, State.grp_updGrp, if_neg hk]

theorem State.groups_updGrp_of {s t : State} {gid : Nat} {f f' : Group → Group} (h : t.groups = (s.updGrp gid f).groups) :
    (t.updGrp gid f').groups = (s.updGrp gid fun g => f' (f g)).groups := by
  rw [State.updGrp_groups, h, State.updGrp_groups, Tab.upd_upd]
  rfl

section fenceDone
variable {s : State} {x : Issue} (acq rel : Bool) (scope : Scope) (vec : Clk)

/-- A fence that completes changes its own group, and its lanes go on. -/
theorem State.fenceDone_next (hi : s.issue = some x) : ∃ t, s.fenceDone x acq rel scope vec = .next t ∧
    t.grp x.gid = some ((x.g.fenced acq rel scope vec).advance x x.act x.seq) ∧ ∀ k, k ≠ x.gid → t.grp k = s.grp k := by
  refine ⟨_, State.finish_part (guard := false) (trap := fun _ => none) _ _ fun _ _ => rfl,
    State.grp_of_groups (f := fun g => (g.fenced acq rel scope vec).advance x x.act x.seq) (State.grp_of_issue hi)
      (State.groups_updGrp_of (f := Group.fenced acq rel scope vec) ?_)⟩
  dsimp only
  cases acq <;> cases rel
  · exact (State.groups_updGrp_id ..).symm
  · exact State.groups_releasePoint ..
  · rfl
  · refine (State.groups_releasePoint ..).trans ?_
    rw [if_pos rfl, State.updGrp_updGrp]
    rfl

/-- What a completed fence leaves of its group. -/
theorem Group.fenced_advance (x : Issue) :
    let g' := (x.g.fenced acq rel scope vec).advance x x.act x.seq
    (acq = true → g'.readFrom = [] ∧ (x.g.vc.join x.g.obs).le g'.vc = true ∧ vec.le g'.vc = true) ∧
      g'.relCarry = (if rel then some scope else x.g.relCarry) ∧
      (∀ l, (g'.lane l).still = (x.g.lane l).still) ∧ (Steady x x.seq → GoOn x x.act x.seq g') := by
  have still : ((x.g.fenced acq rel scope vec).advance x x.act x.seq).still = (x.g.fenced acq rel scope vec).still :=
    Group.still_advance ..
  have lane (l : LaneIx) : (x.g.fenced acq rel scope vec).lane l = x.g.lane l := by rw [Group.lane, Group.fenced_lanes, Group.lane]
  refine ⟨fun ha => ?_, ?_, fun l => ?_, fun hs => ?_⟩
  · rw [Group.readFrom_of_still still, Group.vc_of_still still, Group.fenced_readFrom _ _ _ _ _ ha, Group.fenced_vc _ _ _ _ _ ha]
    exact ⟨rfl, Clk.le_join_left .., Clk.le_join_right ..⟩
  · rw [Group.relCarry_of_still still, Group.fenced_relCarry]
  · rw [← Group.lane_still, still, Group.lane_still, lane]
  · exact Group.goOn_advance (Group.fenced_levels ..) (fun l => by rw [lane]) hs

end fenceDone

section fence
variable {s : State} {x : Issue} {order : MOrder} {scope : Scope} (hi : s.issue = some x)
include hi

/-- A fence that the sequencer does not serve completes when what it waits for has come (R139, R147, R148). -/
theorem execFence_of_ready (hn : ¬ (order = .rlx ∧ (scope = .device ∨ scope = .system)))
    (hacq : order ≠ .rel → s.settledFor x.gid x.g = true ∧
      ((scope = .device ∨ scope = .system) → (x.g.vc.join x.g.obs).le (s.applied (dieOf x.gid)) = true))
    (hrel : order ≠ .acq → s.releaseReady x.gid x.g scope = true) :
    execFence order scope s = s.fenceDone x (order != .rel) (order != .acq) scope {} := by
  have local' : ¬ (decide (order = .rlx) && scope.wide) = true := by
    rwa [Bool.and_eq_true, decide_eq_true_eq, Scope.wide_iff]
  have acqReady : (!(order != .rel) || (s.settledFor x.gid x.g &&
      (!scope.wide || ((x.g.vc.join x.g.obs).join {}).le (s.applied (dieOf x.gid))))) = true := by
    by_cases ho : order = .rel
    · simp [ho]
    · obtain ⟨hs, hw⟩ := hacq ho
      rw [hs, Clk.join_empty]
      cases hwide : scope.wide with
      | false => simp
      | true => rw [hw ((Scope.wide_iff _).mp hwide)]; simp
  have relReady : (!(order != .acq) || s.releaseReady x.gid x.g scope) = true := by
    by_cases ho : order = .acq
    · simp [ho]
    · rw [hrel ho, Bool.or_true]
  unfold execFence
  rw [State.withIssue_of hi]
  dsimp only
  rw [if_neg local', acqReady, relReady, Bool.and_self, if_pos rfl]

variable (hwide : scope = .device ∨ scope = .system)
include hwide

/-- A sequentially consistent fence goes to the sequencer once its earlier accesses allow it (R153). -/
theorem execFence_enters (hw : ∀ v, x.g.wait ≠ .sequencer v) (hr : s.releaseReady x.gid x.g scope = true) :
    execFence .rlx scope s = .next (State.updGrp { s with scq := s.scq ++ [⟨x.gid⟩] } x.gid fun g =>
      { g with pin := some ⟨x.act, encode (.fence .rlx scope)⟩, wait := .sequencer none }) := by
  unfold execFence
  rw [State.withIssue_of hi]
  dsimp only
  rw [(Scope.wide_iff _).mpr hwide, if_pos (by rfl)]
  split
  next h => exact absurd h (hw _)
  next h => exact absurd h (hw _)
  next => rw [hr, if_pos rfl]

/-- It completes with the vector that the sequencer has given it (R153). -/
theorem execFence_served {vec : Clk} (hw : x.g.wait = .sequencer (some vec)) (hs : s.settledFor x.gid x.g = true)
    (hv : ((x.g.vc.join x.g.obs).join vec).le (s.applied (dieOf x.gid)) = true) :
    execFence .rlx scope s = s.fenceDone x true true scope vec := by
  unfold execFence
  rw [State.withIssue_of hi]
  dsimp only
  rw [(Scope.wide_iff _).mpr hwide, if_pos (by rfl), hw]
  dsimp only
  exact if_pos (by rw [hs, hv]; rfl)

end fence

/-- Settles O17: a fence that can go is its group's change alone, and one that the sequencer serves is put in its queue first. -/
theorem fences : Obligations.Fences := by
  intro s x order scope hi
  refine ⟨fun hn hacq hrel => ?_, fun hwide hw hr => ?_, fun hwide vec hw hs hv => ?_⟩
  · obtain ⟨t, hdone, grp, others⟩ := State.fenceDone_next (hi := hi) (order != .rel) (order != .acq) scope {}
    obtain ⟨acquired, carry, lanes, goOn⟩ := Group.fenced_advance (x := x) (order != .rel) (order != .acq) scope {}
    refine ⟨t, _, (execFence_of_ready hi hn hacq hrel).trans hdone, grp, others, fun ho => ?_, fun ho => ?_, fun ho => ?_, fun l => ?_, goOn⟩
    · obtain ⟨hread, hle, -⟩ := acquired (by simpa using ho)
      exact ⟨hread, hle⟩
    · exact carry.trans (if_pos (by simpa using ho))
    · exact carry.trans (if_neg (by simp [ho]))
    · rw [lanes]
  · exact ⟨_, _, execFence_enters hi hwide hw hr, OnlyGroup.updGrp _ _ _ _ x.g rfl (State.grp_of_issue hi), rfl⟩
  · obtain ⟨t, hdone, grp, others⟩ := State.fenceDone_next (hi := hi) true true scope vec
    obtain ⟨acquired, carry, -, -⟩ := Group.fenced_advance (x := x) true true scope vec
    obtain ⟨hread, hle, hvec⟩ := acquired rfl
    exact ⟨t, _, (execFence_served hi hwide hw hs hv).trans hdone, grp, hvec, hle, carry, hread, Group.pin_advance .., Group.wait_advance ..⟩

end Sys2Proof.Machine
end

section
/-! SUPPORT. Accesses that lanes put in flight (06 R118 to R127): what putting one there leaves alone, and that each stays there while
the other lanes' follow. -/

namespace Sys2Proof.Machine
open Sys2Proof.Rules

/-! ### What putting accesses in flight may change -/

/-- A state without what accesses change as they are issued: names, packets, wires, accesses, units, L1s, sharers and updates. -/
def State.unlaunched (s : State) : State :=
  { s with nextId := 0, packets := [], links := [], reqs := [], groups := [], teams := [], cores := [], lruClock := 0, upds := [], l2 := [] }

/-- A team without the signatures of its accesses and its mark of an operation that is not contained. -/
def Team.plain (t : Team) : Team := { t with ls := 0#32, sh := 0#32, sl := 0#32, acted := false }

/-- A lane without its register signature. -/
def Lane.unsigned (v : Lane) : Lane := { v with rsig := 0#32, nfold := 0 }

/-- A group without its lanes' register signatures. -/
def Group.unsigned (g : Group) : Group := g.mapLanes fun _ v => v.unsigned

/-- From `s` to `u` accesses of the lanes `P` of a group have been put in flight, with numbers from `n` on. -/
structure Accessing (gid : Nat) (P : LaneIx → Prop) (n : Nat) (s u : State) : Prop where
  rest : u.unlaunched = s.unlaunched
  nextId : s.nextId ≤ u.nextId
  kept : ∀ rid < n, u.reqs.find rid = s.reqs.find rid
  made : ∀ rid r, u.reqs.find rid = some r → s.reqs.find rid = some r ∨ ∃ l, P l ∧ r.maker = .lane gid l.val
  others : ∀ k, k ≠ gid → u.grp k = s.grp k
  own : (u.grp gid).map Group.unsigned = (s.grp gid).map Group.unsigned
  teams : ∀ tid, (u.team tid).map Team.plain = (s.team tid).map Team.plain

section accessing
variable {gid n : Nat} {P : LaneIx → Prop}

theorem Accessing.refl (s : State) : Accessing gid P n s s :=
  ⟨rfl, le_rfl, fun _ _ => rfl, fun _ _ h => .inl h, fun _ _ => rfl, rfl, fun _ => rfl⟩

theorem Accessing.trans {m : Nat} {s t u : State} (h : Accessing gid P n s t) (k : Accessing gid P m t u) (hm : n ≤ m) :
    Accessing gid P n s u where
  rest := k.rest.trans h.rest
  nextId := h.nextId.trans k.nextId
  kept rid hr := (k.kept rid (hr.trans_le hm)).trans (h.kept rid hr)
  made rid r hr := by
    rcases k.made rid r hr with ht | hl
    · exact h.made rid r ht
    · exact .inr hl
  others j hj := (k.others j hj).trans (h.others j hj)
  own := k.own.trans h.own
  teams tid := (k.teams tid).trans (h.teams tid)

/-- Nothing but what the erased state lacks, and no access, group or team. -/
theorem Accessing.of_eq {s u : State} (rest : u.unlaunched = s.unlaunched) (nextId : s.nextId ≤ u.nextId) (reqs : u.reqs = s.reqs)
    (groups : u.groups = s.groups) (teams : u.teams = s.teams) : Accessing gid P n s u := by
  refine ⟨rest, nextId, fun _ _ => by rw [reqs], fun _ _ h => .inl (reqs ▸ h), fun k _ => ?_, ?_, fun tid => ?_⟩
  · rw [State.grp, groups, State.grp]
  · rw [State.grp, groups, State.grp]
  · rw [State.team, teams, State.team]

section
variable {s u : State} (h : Accessing gid P n s u)
include h

/-- What does not depend on what accesses change is as it was. -/
theorem Accessing.same {β : Type} (f : State → β) (hf : ∀ s, f s.unlaunched = f s) : f u = f s := by
  rw [← hf u, h.rest, hf]

theorem Accessing.home (pa : Nat) : u.home pa = s.home pa := h.same (fun s => s.home pa) fun _ => rfl
theorem Accessing.grid (k : Nat) : u.grid k = s.grid k := h.same (fun s => s.grid k) fun _ => rfl
theorem Accessing.dram : u.dram = s.dram := h.same State.dram fun _ => rfl
theorem Accessing.dies : u.dies = s.dies := h.same State.dies fun _ => rfl
theorem Accessing.verOf (run home ln key : Nat) : u.verOf run home ln key = s.verOf run home ln key :=
  h.same (fun s => s.verOf run home ln key) fun _ => rfl

/-- What does not depend on a team's signatures is as it was. -/
theorem Accessing.team_map {β : Type} (f : Team → β) (hf : ∀ t, f t.plain = f t) (tid : Nat) :
    (u.team tid).map f = (s.team tid).map f := by
  have := congrArg (Option.map f) (h.teams tid)
  simpa only [Option.map_map, Function.comp_def, hf] using this

theorem Accessing.memberOf (core tid ln7 : Nat) : u.memberOf core tid ln7 = s.memberOf core tid ln7 := by
  have team := h.teams tid
  unfold State.memberOf
  cases hs : s.team tid <;> cases hu : u.team tid <;> rw [hs, hu] at team
  case none.some => cases team
  case some.none => cases team
  case some.some t v =>
    have plain : v.plain = t.plain := Option.some.inj team
    have hgrid : v.grid = t.grid := (congrArg Team.grid plain :)
    have hkind : v.kind = t.kind := (congrArg Team.kind plain :)
    have hrank : v.rank = t.rank := (congrArg Team.rank plain :)
    dsimp only
    rw [hgrid, hkind, hrank, h.grid]

theorem Accessing.locOf (g : Group) : u.locOf g = s.locOf g := by
  have := h.team_map (fun t => (t.locBlk, t.locSize, t.owner)) (fun _ => rfl) g.team
  unfold State.locOf
  cases hs : s.team g.team <;> cases hu : u.team g.team <;> rw [hs, hu] at this
  case none.some => cases this
  case some.none => cases this
  case some.some t v => exact Option.some.inj this

theorem Accessing.grp {g : Group} (hg : s.grp gid = some g) : ∃ g', u.grp gid = some g' ∧ g'.unsigned = g.unsigned := by
  have := h.own
  rw [hg] at this
  obtain ⟨g', hg', e⟩ := Option.map_eq_some_iff.mp this
  exact ⟨g', hg', e⟩

end

/-- Accesses made one after another, each of which the others leave in flight; `I` says what the processed lanes leave otherwise. -/
theorem accessing_foldl {s : State} {f : State → LaneIx → State} {W : LaneIx → Prop} {Q : LaneIx → Req → Prop}
    {I : List LaneIx → State → Prop} (ls : List LaneIx) (h0 : I [] s)
    (h : ∀ pre t, ∀ l ∈ ls, Accessing gid P s.nextId s t → I pre t → Accessing gid P t.nextId t (f t l) ∧ I (pre ++ [l]) (f t l) ∧
      (W l → ∃ rid, t.nextId ≤ rid ∧ rid < (f t l).nextId ∧ ∃ r, (f t l).reqs.find rid = some r ∧ Q l r)) :
    Accessing gid P s.nextId s (ls.foldl f s) ∧ I ls (ls.foldl f s) ∧
      ∀ l ∈ ls, W l → ∃ rid r, s.nextId ≤ rid ∧ (ls.foldl f s).reqs.find rid = some r ∧ Q l r := by
  suffices hall : Accessing gid P s.nextId s (ls.foldl f s) ∧ I ls (ls.foldl f s) ∧
      ∀ l ∈ ls, W l → ∃ rid, s.nextId ≤ rid ∧ rid < (ls.foldl f s).nextId ∧ ∃ r, (ls.foldl f s).reqs.find rid = some r ∧ Q l r by
    refine ⟨hall.1, hall.2.1, fun l hl hw => ?_⟩
    obtain ⟨rid, hle, -, r, hr⟩ := hall.2.2 l hl hw
    exact ⟨rid, r, hle, hr⟩
  induction ls using List.reverseRecOn with
  | nil => exact ⟨Accessing.refl s, h0, nofun⟩
  | append_singleton ls a ih =>
    obtain ⟨hs, hi, hls⟩ := ih fun pre t l hl => h pre t l (List.mem_append_left _ hl)
    rw [List.foldl_append, List.foldl_cons, List.foldl_nil]
    obtain ⟨ha, hia, hnew⟩ := h ls _ a (by simp) hs hi
    refine ⟨hs.trans ha hs.nextId, hia, fun l hl hw => ?_⟩
    rcases List.mem_append.mp hl with hl | hl
    · obtain ⟨rid, hle, hlt, r, hr, hq⟩ := hls l hl hw
      exact ⟨rid, hle, hlt.trans_le ha.nextId, r, (ha.kept rid hlt).trans hr, hq⟩
    · obtain rfl := List.mem_singleton.mp hl
      obtain ⟨rid, hle, hlt, hr⟩ := hnew hw
      exact ⟨rid, hs.nextId.trans hle, hlt, hr⟩

end accessing

/-! ### Sending an access on its way -/

/-- Sending changes names, packets and wires. -/
theorem State.send_eq (s : State) (part flits : Nat) (legs : List Leg) (c : Cargo) : ∃ n ps ls, s.nextId ≤ n ∧
    s.send part flits legs c = { s with nextId := n, packets := ps, links := ls } := by
  unfold State.send
  split
  · exact ⟨_, _, _, le_rfl, rfl⟩
  · unfold State.enter State.fresh
    dsimp only
    have le : s.nextId ≤ s.nextId + 1 + 1 := by omega
    split
    · exact ⟨_, _, _, le, rfl⟩
    · exact ⟨_, _, s.links, le, rfl⟩

/-- An access that goes on its way stands under its number; else names, packets and wires change. -/
theorem State.travel_eq (s : State) (rid : Nat) (r : Req) : ∃ n ps ls, s.nextId ≤ n ∧
    s.travel rid r = { s with reqs := s.reqs.put rid r, nextId := n, packets := ps, links := ls } := by
  unfold State.travel
  dsimp only
  split
  · exact State.send_eq { s with reqs := s.reqs.put rid r } ..
  · split
    · exact ⟨_, _, _, le_rfl, rfl⟩
    · exact State.send_eq { s with reqs := s.reqs.put rid r } ..
  · exact ⟨_, _, _, le_rfl, rfl⟩

section travel
variable {gid n : Nat} {P : LaneIx → Prop} {l : LaneIx} (hP : P l) {r : Req} (hr : r.maker = .lane gid l.val)
include hP hr

/-- An access of a lane goes on its way under a name that none had before. -/
theorem accessing_travel (s : State) {rid : Nat} (hn : n ≤ rid) : Accessing gid P n s (s.travel rid r) := by
  obtain ⟨n', ps, ls, hle, h⟩ := s.travel_eq rid r
  rw [h]
  refine ⟨rfl, hle, fun k hk => ?_, fun k q hq => ?_, fun _ _ => rfl, rfl, fun _ => rfl⟩
  · exact (Tab.find_put ..).trans (if_neg (hk.trans_le hn).ne)
  · have hq := (Tab.find_put ..).symm.trans hq
    split at hq
    · obtain rfl := Option.some.inj hq
      exact .inr ⟨l, hP, hr⟩
    · exact .inl hq

/-- A new access of a lane. -/
theorem accessing_launch (s : State) : Accessing gid P s.nextId s (s.launch r).1 :=
  (Accessing.of_eq (n := s.nextId) (s := s) (u := s.fresh.2) rfl (Nat.le_succ s.nextId) rfl rfl rfl).trans
    (accessing_travel hP hr s.fresh.2 (Nat.le_refl s.nextId)) le_rfl

omit hP hr

theorem State.find_travel (s : State) (rid : Nat) (r : Req) : (s.travel rid r).reqs.find rid = some r := by
  obtain ⟨n', ps, ls, -, h⟩ := s.travel_eq rid r
  rw [h]
  exact (Tab.find_put ..).trans (if_pos rfl)

theorem State.nextId_travel (s : State) (rid : Nat) (r : Req) : s.nextId ≤ (s.travel rid r).nextId := by
  obtain ⟨n', ps, ls, hle, h⟩ := s.travel_eq rid r
  rw [h]
  exact hle

/-- The access that has been put in flight. -/
theorem State.launch_found (s : State) (r : Req) : ∃ rid, s.nextId ≤ rid ∧ rid < (s.launch r).1.nextId ∧
    (s.launch r).1.reqs.find rid = some r :=
  ⟨s.nextId, le_rfl, Nat.lt_of_succ_le (State.nextId_travel s.fresh.2 s.nextId r), State.find_travel s.fresh.2 s.nextId r⟩

/-- An access going on its way changes no unit, no L1 and no line. -/
theorem State.launch_units (s : State) (r : Req) : (s.launch r).1.groups = s.groups ∧ (s.launch r).1.teams = s.teams ∧
    (s.launch r).1.cores = s.cores ∧ (s.launch r).1.l2 = s.l2 := by
  obtain ⟨n', ps, ls, -, h⟩ := s.fresh.2.travel_eq s.nextId r
  rw [show (s.launch r).1 = _ from h]
  exact ⟨rfl, rfl, rfl, rfl⟩

end travel

end Sys2Proof.Machine
end

section
/-! SUPPORT. What the lanes of an access meet (06 R126), the shape of an issue that reaches memory, and the instructions that load and
store. -/

namespace Sys2Proof.Machine
open Sys2Proof.Rules

/-! ### Where a lane's access goes -/

/-- An access whose operands are there and whose address is aligned goes where its address leads (R126). -/
theorem State.meet_of_goes {s : State} {x : Issue} {n : Nat} {k : Chk} {l : LaneIx} {va : Dword} {m : Meet}
    (hg : Goes s x k.store k.need k.size l va m) (ht : x.g.operandTrap n k.srcs l = none) (ha : va.toNat % k.align = 0)
    (hl : ∀ a, m = .loc a → k.localOk = true) : s.meet x n k l va = m := by
  rw [State.meet, ht]
  dsimp only
  rw [if_neg (by omega)]
  cases m with
  | trap c => cases hg
  | walk => cases hg
  | loc a =>
    obtain ⟨off, hclass, hin, rfl, -, hmark⟩ := hg
    rw [hclass]
    dsimp only
    rw [if_pos (hl _ rfl)]
    have clear : (k.store && (s.core (coreOf x.gid)).anyMarked ((s.locOf x.g).1 + off) k.size) = false := by
      cases h : k.store with
      | false => rfl
      | true => exact hmark h
    exact (if_neg hin.not_gt).trans (if_neg (ne_true_of_eq_false clear))
  | mem pa key =>
    obtain ⟨hclass, hlook⟩ := hg
    rw [hclass]
    dsimp only
    rw [hlook]

/-! ### The shape of an issue that reaches memory -/

/-- A group whose lanes' operands have been read and whose lanes' failed walks have been taken. -/
def Group.looked (act : Mask) (n wb : Nat) (part : Mask) (srcs : List Operand) (g : Group) : Group :=
  { g.scrub n wb part srcs with walkFail := g.walkFail.filter fun f => !act.getLsbD f.1 }

theorem Mask.lanes_zero : Mask.lanes 0#32 = [] := List.filter_eq_nil_iff.mpr fun l _ => by simp

/-- With no walk outstanding, the lanes trap or complete (03 R60). -/
theorem State.reachOp_of_no_walk {s : State} {x : Issue} {n : Nat} {k : Chk} {part : Mask} {va : LaneIx → Dword}
    (h : ∀ l, Mask.has part l = true → s.meet x n k l (va l) ≠ .walk) (wait : (LaneIx → Meet) → Mask → Bool)
    (eff : (LaneIx → Meet) → Mask → State → State)
    (hw : wait (fun l => s.meet x n k l (va l)) (maskOf fun l => Mask.has part l && (s.meet x n k l (va l)).trap?.isNone) = false) :
    ∃ wb, s.reachOp x n k part va wait eff = s.finish x part (fun l => (s.meet x n k l (va l)).trap?)
      (fun done t => eff (fun l => s.meet x n k l (va l)) done (t.updGrp x.gid (Group.looked x.act n wb part k.srcs))) x.seq := by
  refine ⟨((Mask.low x.act).map fun l => (x.g.lane l).wb).getD 0, ?_⟩
  have walks : (maskOf fun l => Mask.has part l && s.meet x n k l (va l) == .walk) = 0#32 := by
    refine Mask.ext' fun l => ?_
    rw [Mask.has_maskOf, Mask.has_zero]
    cases hl : Mask.has part l with
    | false => rfl
    | true => simpa using h l hl
  have all : part &&& ~~~(0#32) = part := Mask.ext' fun l => by simp
  unfold State.reachOp
  dsimp only
  rw [walks, all, hw, Mask.lanes_zero]
  rfl

/-! ### The instructions -/

/-- A load or store as the model issues it. -/
def issuedForm (f : AccessForm) (word : Word) : Form := ⟨word, f.guard, f.nw, f.srcs, f.addr⟩

theorem formM_eq (w : Word) (o : AM) (size : Nat) (sext : Bool) : formM w o size = issuedForm (formOf o size sext) w := by
  have addr : (formM w o size).addr = baseOff o size :=
    funext fun x => funext fun n => funext fun l => add_signExtend_mul 64 (x.g.src2 n l o.a) o.off size
  rw [issuedForm, formOf, ← addr]
  rfl

theorem formX_eq (w : Word) (g nw : Bool) (a b t : Reg) (size : Nat) : formX w g nw a b size =
    issuedForm ⟨g, nw, [⟨a, 2⟩, ⟨b, 1⟩], t, size, false, baseIndex a b size⟩ w := by
  have addr : (formX w g nw a b size).addr = baseIndex a b size :=
    funext fun x => funext fun n => funext fun l => add_signExtend_mul 64 (x.g.src2 n l a) (x.g.src n l b) size
  rw [issuedForm, ← addr]
  rfl

/-- The register field of a form fits the window or the shared registers (R22, R23). -/
def RegFits (o : Operand) : Prop := o.r.toNat ≤ 119 ∧ (o.r.toNat < 96 → o.r.toNat + o.w ≤ 96)

section regFits
variable {i : Instr} (h : i.wellFormed = true) {o : Operand}
include h

theorem regFits_of_dst (hd : (Role.dst, o.r) ∈ i.operands) (hw : o.w = 1) : RegFits o :=
  ⟨Instr.dst_le h hd, fun h96 => by omega⟩

theorem regFits_of_pair (hd : (Role.pair, o.r) ∈ i.operands) (hw : o.w = 2) : RegFits o := by
  have := Instr.field_ok h hd
  simp only [Role.ok, Bool.and_eq_true, beq_iff_eq, Bool.or_eq_true, decide_eq_true_eq] at this
  exact ⟨by omega, fun h96 => by omega⟩

theorem regFits_of_quad (hd : (Role.quad, o.r) ∈ i.operands) (hw : o.w = 4) : RegFits o := by
  have := Instr.field_ok h hd
  simp only [Role.ok, Bool.and_eq_true, beq_iff_eq, Bool.or_eq_true, decide_eq_true_eq] at this
  exact ⟨by omega, fun h96 => by omega⟩

end regFits

/-- A load is a load operation of its form (R131, R132). -/
theorem loads_exec {i : Instr} {f : AccessForm} (h : loads i = some f) (s : State) :
    exec i s = s.loadOp (issuedForm f (encode i)) f.t f.size f.sext := by
  unfold loads at h
  split at h <;> cases h
  case h_8 | h_9 => rw [← formX_eq]; rfl
  all_goals rw [← formM_eq]; rfl

theorem loads_regFits {i : Instr} {f : AccessForm} (hw : i.wellFormed = true) (h : loads i = some f) : RegFits f.reg := by
  unfold loads at h
  split at h <;> cases h
  case h_2 | h_9 =>
    exact regFits_of_pair hw (by simp [Instr.operands, formOf, AccessForm.reg]) (by simp [formOf, AccessForm.reg])
  case h_3 => exact regFits_of_quad hw (by simp [Instr.operands, formOf, AccessForm.reg]) (by simp [formOf, AccessForm.reg])
  all_goals exact regFits_of_dst hw (by simp [Instr.operands, formOf, AccessForm.reg]) (by simp [formOf, AccessForm.reg])

/-- A store is a store operation of its form (R131, R132). -/
theorem stores_exec {i : Instr} {f : AccessForm} (h : stores i = some f) (s : State) :
    exec i s = s.storeOp (issuedForm f (encode i)) f.t f.size := by
  unfold stores at h
  split at h <;> cases h
  case h_6 | h_7 => rw [← formX_eq]; rfl
  all_goals rw [← formM_eq]; rfl

theorem stores_size {i : Instr} {f : AccessForm} (h : stores i = some f) : f.nw = false ∧ f.size ≤ 4 * f.reg.w := by
  unfold stores at h
  split at h <;> cases h <;> exact ⟨rfl, by simp [formOf, AccessForm.reg]⟩

/-! ### Pending destinations (R127) -/

/-- Setting pending bits, one entry after another. -/
def pendAll (rs : List Nat) (key : Nat → Nat) (t : Tab RCell) : Tab RCell :=
  rs.foldl (fun t r => t.setD {} (key r) { (t.getD {} (key r)) with pend := true }) t

theorem pendAll_keeps (rs : List Nat) (key : Nat → Nat) (t : Tab RCell) (k : Nat) (h : (t.getD {} k).pend = true) :
    ((pendAll rs key t).getD {} k).pend = true := by
  induction rs generalizing t with
  | nil => exact h
  | cons r rs ih =>
    refine ih _ ?_
    rw [Tab.getD_setD]
    split
    · rfl
    · exact h

theorem pendAll_mem {rs : List Nat} (key : Nat → Nat) (t : Tab RCell) {r : Nat} (h : r ∈ rs) :
    ((pendAll rs key t).getD {} (key r)).pend = true := by
  induction rs generalizing t with
  | nil => cases h
  | cons a rs ih =>
    rcases List.mem_cons.mp h with rfl | h
    · refine pendAll_keeps rs key _ _ ?_
      rw [Tab.getD_setD, if_pos rfl]
    · exact ih _ h

theorem pendAll_ne (rs : List Nat) (key : Nat → Nat) (t : Tab RCell) (k : Nat) (h : ∀ r ∈ rs, k ≠ key r) :
    (pendAll rs key t).getD {} k = t.getD {} k := by
  induction rs generalizing t with
  | nil => rfl
  | cons a rs ih =>
    refine (ih _ fun r hr => h r (by simp [hr])).trans ?_
    rw [Tab.getD_setD, if_neg (h a (by simp))]

section setPend
variable (g : Group) (n : Nat) (done : Mask) (nw : Bool) (dst : Operand)

theorem Group.lane_setPend (l : LaneIx) : (g.setPend n done nw dst).lane l = { g.lane l with
    stack := if nw = false ∧ dst.r.toNat < 96 ∧ Mask.has done l = true then pendAll dst.regs ((g.lane l).slot n) (g.lane l).stack
      else (g.lane l).stack } := by
  unfold Group.setPend
  split
  next h =>
    have : ¬ (nw = false ∧ dst.r.toNat < 96 ∧ Mask.has done l = true) := by
      rintro ⟨rfl, hr, hl⟩
      simp only [Bool.false_or, Bool.or_eq_true, decide_eq_true_eq] at h
      rcases h with h | rfl
      · rw [h] at hr; exact absurd hr (by decide)
      · simp at hl
    rw [if_neg this]
  next h =>
    have hnw : nw = false := by simp at h; exact h.1.1
    split
    next hr =>
      rw [Group.lane_mapOn]
      split
      next hl => rw [if_pos ⟨hnw, hr, hl⟩]; rfl
      next hl => rw [if_neg fun ⟨_, _, h⟩ => hl h]
    next hr => rw [if_neg fun ⟨_, h, _⟩ => hr h]; rfl

theorem Group.s_setPend : (g.setPend n done nw dst).s =
    if nw = false ∧ dst.r ≠ Reg.z ∧ 96 ≤ dst.r.toNat ∧ done ≠ 0#32 then pendAll dst.regs id g.s else g.s := by
  unfold Group.setPend
  split
  next h =>
    rw [if_neg]
    rintro ⟨rfl, hz, -, hd⟩
    simp [hz, hd] at h
  next h =>
    simp only [Bool.or_eq_true, decide_eq_true_eq, not_or, Bool.not_eq_true] at h
    obtain ⟨⟨hnw, hz⟩, hd⟩ := h
    split
    next hr => rw [if_neg fun ⟨_, _, h, _⟩ => by omega, Group.mapOn_s]
    next hr => rw [if_pos ⟨hnw, hz, by omega, hd⟩]; rfl

theorem Group.setPend_frame : { g.setPend n done nw dst with lanes := g.lanes, s := g.s } = g := by
  unfold Group.setPend
  split
  · rfl
  · split
    · simp only [Group.mapOn, Group.mapLanes]
    · rfl

end setPend

end Sys2Proof.Machine
end

section
/-! SUPPORT. Loads as they are issued (06 R118, R120, R127, R131, R132). -/

namespace Sys2Proof.Machine
open Sys2Proof.Rules

/-! ### Changes of the group and its team alone -/

section accessing
variable {gid n : Nat} {P : LaneIx → Prop}

theorem accessing_updGrp (s : State) {f : Group → Group} (hf : ∀ g, (f g).unsigned = g.unsigned) :
    Accessing gid P n s (s.updGrp gid f) where
  rest := rfl
  nextId := le_rfl
  kept _ _ := rfl
  made _ _ h := .inl h
  others k hk := by rw [State.grp_updGrp, if_neg hk]
  own := by
    rw [State.grp_updGrp, if_pos rfl, Option.map_map]
    exact congrArg (Option.map · _) (funext hf)
  teams _ := rfl

theorem accessing_updTeam (s : State) (tid : Nat) {f : Team → Team} (hf : ∀ t, (f t).plain = t.plain) :
    Accessing gid P n s (s.updTeam tid f) where
  rest := rfl
  nextId := le_rfl
  kept _ _ := rfl
  made _ _ h := .inl h
  others _ _ := rfl
  own := rfl
  teams k := by
    have team : (s.updTeam tid f).team k = if k = tid then (s.team k).map f else s.team k := Tab.find_upd ..
    rw [team]
    split
    · rw [Option.map_map]
      exact congrArg (Option.map · _) (funext hf)
    · rfl

end accessing

theorem Group.unsigned_setLane (g : Group) (l : LaneIx) (v : Lane) (h : v.unsigned = (g.lane l).unsigned) :
    (g.setLane l v).unsigned = g.unsigned := by
  have lanes : (g.setLane l v).unsigned.lanes = g.unsigned.lanes := Group.ext_lanes fun k => by
    simp only [Group.unsigned, Group.lane_mapLanes, Group.lane_setLane]
    split
    next e => rw [h, e]
    next => rfl
  simp only [Group.unsigned, Group.mapLanes, Group.setLane] at lanes ⊢
  rw [lanes]

/-- Reserving places in a register signature is no change but of the signature (12 R271). -/
theorem accessing_reserve {gid n : Nat} {P : LaneIx → Prop} (s : State) (l : LaneIx) (words : Nat) :
    Accessing gid P n s (s.reserve gid l words).1 :=
  accessing_updGrp s fun g => Group.unsigned_setLane g l _ (foldl_same Lane.unsigned (f := fun v _ => v.reserve) (fun _ _ => rfl) _ _)

theorem Team.plain_foldLoad (t : Team) (va : Dword) (bs : List Byte) : (t.foldLoad va bs).plain = t.plain := by
  refine foldl_same Team.plain (fun _ _ => ?_) _ t
  rfl

theorem accessing_foldLoad {gid n : Nat} {P : LaneIx → Prop} (s : State) (tid : Nat) (va : Dword) (bs : List Byte) :
    Accessing gid P n s (s.foldLoad tid va bs) :=
  accessing_updTeam s tid fun t => by
    split
    · rfl
    · exact Team.plain_foldLoad ..

/-! ### L1s that loads have read -/

/-- An L1 line without its age. -/
def L1Line.aged (l : L1Line) : L1Line := { l with lru := 0 }

/-- Two cores that differ at most in the ages of their L1 lines. -/
structure Core.Like (k k' : Core) : Prop where
  rest : { k' with l1 := [] } = { k with l1 := [] }
  lines : ∀ ln, (k'.l1.find ln).map L1Line.aged = (k.l1.find ln).map L1Line.aged

theorem Core.Like.refl (k : Core) : Core.Like k k := ⟨rfl, fun _ => rfl⟩

theorem Core.Like.trans {k k' k'' : Core} (h : Core.Like k k') (h' : Core.Like k' k'') : Core.Like k k'' :=
  ⟨h'.rest.trans h.rest, fun ln => (h'.lines ln).trans (h.lines ln)⟩

theorem Core.Like.scrByte {k k' : Core} (h : Core.Like k k') (owner a : Nat) : k'.scrByte owner a = k.scrByte owner a :=
  (congrArg (fun k => Core.scrByte k owner a) h.rest :)

/-- A line read is younger, and else as it was. -/
theorem Core.like_touch (k : Core) {ln7 : Nat} {ln : L1Line} (h : k.l1.find ln7 = some ln) (age : Nat) :
    Core.Like k { k with l1 := k.l1.put ln7 { ln with lru := age } } := by
  refine ⟨rfl, fun j => ?_⟩
  rw [Tab.find_put]
  split
  next e => rw [e, h]; rfl
  next => rfl

theorem State.l1Hit_some {s : State} {member tid pa key : Nat} {ln : L1Line} (h : s.l1Hit member tid pa key = some ln) :
    (s.core member).l1.find (pa / 128) = some ln := by
  unfold State.l1Hit at h
  split at h
  next l hl =>
    split at h
    · rw [hl, Option.some.inj h]
    · cases h
  next => cases h

/-- Which line serves a load does not depend on ages. -/
theorem Accessing.l1Hit {gid n : Nat} {P : LaneIx → Prop} {s u : State} (h : Accessing gid P n s u)
    (hc : ∀ c, Core.Like (s.core c) (u.core c)) (member tid pa key : Nat) :
    (u.l1Hit member tid pa key).map L1Line.aged = (s.l1Hit member tid pa key).map L1Line.aged := by
  have lines := (hc member).lines (pa / 128)
  unfold State.l1Hit
  rw [h.home, h.verOf]
  cases hs : (s.core member).l1.find (pa / 128) <;> cases hu : (u.core member).l1.find (pa / 128) <;> rw [hs, hu] at lines
  case none.some => cases lines
  case some.none => cases lines
  case some.some a b =>
    have aged : b.aged = a.aged := Option.some.inj lines
    have key' : b.key = a.key := (congrArg L1Line.key aged :)
    dsimp only
    rw [key']
    split
    · exact congrArg some aged
    · rfl

/-! ### One load of memory -/

/-- How a load of memory stands as it is issued: behind earlier accesses of its line, served by the L1, or on its way home. -/
def Served (s : State) (member tid pa key size : Nat) (sext : Bool) (after : Option (List Nat)) (stage : Stage) : Prop :=
  (∀ a, after = some a → stage = .queued a) ∧
  (after = none → s.l1Hit member tid pa key = none → stage = .sent) ∧
  (after = none → ∀ ln, s.l1Hit member tid pa key = some ln →
    stage = .reply (loadWords size sext ((List.range size).map fun i => Tab.getD ln.data 0 (pa % 128 + i)))
      (ln.poison.getLsbD (pa / 64 % 2)))

/-- What serves a load depends on no line's age. -/
theorem Served.of_aged {s u : State} {member tid pa key size : Nat} {sext : Bool} {after : Option (List Nat)} {stage : Stage}
    (h : Served u member tid pa key size sext after stage)
    (e : (u.l1Hit member tid pa key).map L1Line.aged = (s.l1Hit member tid pa key).map L1Line.aged) :
    Served s member tid pa key size sext after stage := by
  obtain ⟨queued, missed, hit⟩ := h
  refine ⟨queued, fun ha hs => missed ha ?_, fun ha ln hs => ?_⟩
  · rw [hs] at e
    exact Option.map_eq_none_iff.mp e
  · rw [hs] at e
    obtain ⟨lu, hu, aged⟩ := Option.map_eq_some_iff.mp e
    rw [hit ha lu hu, show lu.data = ln.data from (congrArg L1Line.data aged :), show lu.poison = ln.poison from (congrArg L1Line.poison aged :)]

/-- An access as it was made, wherever it stands. -/
def Req.Is (r r' : Req) : Prop := { r' with stage := r.stage, wclk := r.wclk, unsettled := r.unsettled } = r

section load
variable {gid : Nat} {P : LaneIx → Prop} {l : LaneIx} (hP : P l)
include hP

theorem State.beginLoad_spec (s : State) {rid n : Nat} (hn : n ≤ rid) (r : Req) (hr : r.maker = .lane gid l.val) {size : Nat} {sext : Bool}
    (hk : r.kind = .load size sext) : Accessing gid P n s (s.beginLoad rid r) ∧ (s.beginLoad rid r).l2 = s.l2 ∧
      (∀ c, Core.Like (s.core c) ((s.beginLoad rid r).core c)) ∧ ∃ r', (s.beginLoad rid r).reqs.find rid = some r' ∧ r.Is r' ∧
        Served s r.member r.team r.pa r.key size sext none r'.stage := by
  -- the access as it goes on its way from a state in which its line's age may have changed
  have goes (t : State) (q : Req) (hq : q.maker = .lane gid l.val) (his : r.Is q) (ht : Accessing gid P n s t) (l2 : t.l2 = s.l2)
      (cores : ∀ c, Core.Like (s.core c) (t.core c)) (served : Served s r.member r.team r.pa r.key size sext none q.stage) :
      Accessing gid P n s (t.travel rid q) ∧ (t.travel rid q).l2 = s.l2 ∧ (∀ c, Core.Like (s.core c) ((t.travel rid q).core c)) ∧
        ∃ r', (t.travel rid q).reqs.find rid = some r' ∧ r.Is r' ∧ Served s r.member r.team r.pa r.key size sext none r'.stage := by
    obtain ⟨_, _, _, -, h⟩ := t.travel_eq rid q
    refine ⟨ht.trans (accessing_travel hP hq t hn) le_rfl, ?_, fun c => ?_, q, State.find_travel .., his, served⟩
    · exact (congrArg State.l2 h :).trans l2
    · rw [show (t.travel rid q).core c = t.core c from (congrArg (fun t => State.core t c) h :)]
      exact cores c
  unfold State.beginLoad
  split
  next size' sext' ln hk' hit =>
    cases hk.symm.trans hk'
    have touched (t : State) (h : Accessing gid P n s t) (hl2 : t.l2 = s.l2) (hc : t.cores = s.cores) :
        let u := { t.updCore r.member (fun k => { k with l1 := k.l1.put (r.pa / 128) { ln with lru := t.lruClock } }) with
          lruClock := t.lruClock + 1 }
        Accessing gid P n s u ∧ u.l2 = s.l2 ∧ ∀ c, Core.Like (s.core c) (u.core c) := by
      refine ⟨h.trans (Accessing.of_eq (n := n) rfl le_rfl rfl rfl rfl) le_rfl, hl2, fun c => ?_⟩
      have core (c : Nat) : t.core c = s.core c := by rw [State.core, hc, State.core]
      change Core.Like _ ((t.updCore r.member fun k => { k with l1 := k.l1.put (r.pa / 128) { ln with lru := t.lruClock } }).core c)
      rw [State.core_updCore]
      split
      next e => rw [e, core]; exact Core.like_touch _ (State.l1Hit_some hit) _
      next => rw [core]; exact Core.Like.refl _
    have served : Served s r.member r.team r.pa r.key size sext none (.reply (loadWords size sext ((List.range size).map fun i =>
        Tab.getD ln.data 0 (r.pa % 128 + i))) (ln.poison.getLsbD (r.pa / 64 % 2))) :=
      ⟨nofun, fun _ h => absurd (hit.symm.trans h) nofun, fun _ ln' h => by rw [Option.some.inj (hit.symm.trans h)]⟩
    dsimp only
    split
    · obtain ⟨ht, l2, cores⟩ := touched s (Accessing.refl s) rfl rfl
      exact goes _ _ hr rfl ht l2 cores served
    · obtain ⟨ht, l2, cores⟩ := touched _ (accessing_foldLoad s r.team r.va _) rfl rfl
      exact goes _ _ hr rfl ht l2 cores served
  next hmiss =>
    have miss : s.l1Hit r.member r.team r.pa r.key = none := by
      cases h : s.l1Hit r.member r.team r.pa r.key with
      | none => rfl
      | some ln => exact absurd h (hmiss size sext ln hk)
    exact goes s _ hr rfl (Accessing.refl s) rfl (fun c => Core.Like.refl _)
      ⟨nofun, fun _ _ => rfl, fun _ ln h => absurd (miss.symm.trans h) nofun⟩

/-- A load of memory is put in flight (R118, R120). -/
theorem State.issueLoad_spec (s : State) (r : Req) (hr : r.maker = .lane gid l.val) {size : Nat} {sext : Bool}
    (hk : r.kind = .load size sext) (after : Option (List Nat)) : Accessing gid P s.nextId s (s.issueLoad r after) ∧
      (s.issueLoad r after).l2 = s.l2 ∧ (∀ c, Core.Like (s.core c) ((s.issueLoad r after).core c)) ∧
      ∃ rid, s.nextId ≤ rid ∧ rid < (s.issueLoad r after).nextId ∧ ∃ r', (s.issueLoad r after).reqs.find rid = some r' ∧ r.Is r' ∧
        Served s r.member r.team r.pa r.key size sext after r'.stage := by
  have fresh : Accessing gid P s.nextId s s.fresh.2 := Accessing.of_eq rfl (Nat.le_succ s.nextId) rfl rfl rfl
  cases after with
  | none =>
    obtain ⟨accessing, l2, cores, r', found⟩ := State.beginLoad_spec hP s.fresh.2 (Nat.le_refl s.nextId) r hr hk
    exact ⟨fresh.trans accessing le_rfl, l2, cores, s.nextId, le_rfl, Nat.lt_of_succ_le accessing.nextId, r', found⟩
  | some a =>
    have hr' : Req.maker { r with stage := .queued a } = .lane gid l.val := hr
    obtain ⟨n, ps, ls, -, h⟩ := s.fresh.2.travel_eq s.nextId { r with stage := .queued a }
    refine ⟨fresh.trans (accessing_travel hP hr' s.fresh.2 (Nat.le_refl s.nextId)) le_rfl, ?_, fun c => ?_, s.nextId, le_rfl,
      Nat.lt_of_succ_le (State.nextId_travel s.fresh.2 s.nextId _), _, State.find_travel s.fresh.2 s.nextId _, rfl, ?_⟩
    · exact (congrArg State.l2 h :)
    · exact (congrArg (fun t => State.core t c) h :) ▸ Core.Like.refl _
    · exact ⟨fun _ h => congrArg Stage.queued (Option.some.inj h), nofun, nofun⟩

end load

/-! ### The loads of an issue's lanes -/

theorem Group.team_of_unsigned {g h : Group} (e : g.unsigned = h.unsigned) : g.team = h.team := by
  have := congrArg Group.team e
  simpa only [Group.unsigned, Group.mapLanes_team] using this

/-- An access as it is issued in a state from which only accesses have been made names its group's team and its lines' L1 as before. -/
theorem Accessing.reqOf {x : Issue} {n : Nat} {P : LaneIx → Prop} {s u : State} (h : Accessing x.gid P n s u) {g : Group}
    (hg : s.grp x.gid = some g) (hteam : g.team = x.g.team) (l : LaneIx) (word : Word) (kind : ReqKind) (va : Dword) (pa key : Nat) :
    (u.reqOf x l word kind va pa key).team = x.g.team ∧
      (u.reqOf x l word kind va pa key).member = s.memberOf (coreOf x.gid) x.g.team (pa / 128) := by
  obtain ⟨g', hg', e⟩ := h.grp hg
  have team : g'.team = x.g.team := (Group.team_of_unsigned e).trans hteam
  have got : (u.grp x.gid).getD x.g = g' := by rw [hg']; rfl
  unfold State.reqOf
  dsimp only
  rw [got, team, h.memberOf]
  exact ⟨rfl, rfl⟩

/-- What a lane's load is as it is issued from a state: where its value comes from, and where it goes. -/
def LoadInFlight (s : State) (x : Issue) (n : Nat) (f : Form) (dst : Operand) (size : Nat) (sext : Bool) (done : Mask)
    (after : Nat → Option (List Nat)) (m : Meet) (va : Dword) (l : LaneIx) (r : Req) : Prop :=
  r.maker = .lane x.gid l.val ∧ r.kind = .load size sext ∧ r.va = va ∧ r.dst = dstOf x.g n done f.nw dst l ∧
    match m with
    | .loc a => r.stage = .reply (loadWords size sext ((s.core (coreOf x.gid)).scrRead (s.locOf x.g).2.2 a size)) false
    | .mem pa key => r.pa = pa ∧ r.key = key ∧
      Served s (s.memberOf (coreOf x.gid) x.g.team (pa / 128)) x.g.team pa key size sext (after (pa / 128)) r.stage
    | _ => False

/-- The access goes to a byte. -/
def Meet.Lands (m : Meet) : Prop := (∃ a, m = .loc a) ∨ ∃ pa key, m = .mem pa key

section loadLane
variable {s t : State} {x : Issue} {n : Nat} {f : Form} {dst : Operand} {size : Nat} {sext : Bool} {done : Mask}
  {after : Nat → Option (List Nat)} {P : LaneIx → Prop} {l : LaneIx} {m : Meet} {g : Group}

/-- One lane's load (R118, R120, R127). -/
theorem State.loadLane_spec (hP : P l) (hm : m.Lands) (hg : s.grp x.gid = some g) (hteam : g.team = x.g.team)
    (h : Accessing x.gid P s.nextId s t) (hl2 : t.l2 = s.l2) (hc : ∀ c, Core.Like (s.core c) (t.core c)) (va : Dword) :
    let u := t.loadLane x n f dst size sext done after m va l
    Accessing x.gid P t.nextId t u ∧ u.l2 = s.l2 ∧ (∀ c, Core.Like (s.core c) (u.core c)) ∧
      ∃ rid, t.nextId ≤ rid ∧ rid < u.nextId ∧ ∃ r, u.reqs.find rid = some r ∧
        LoadInFlight s x n f dst size sext done after m va l r := by
  -- the register signature's places are reserved first
  obtain ⟨v, fold, hv, hl2', hc', hstep⟩ : ∃ v fold, Accessing x.gid P t.nextId t v ∧ v.l2 = t.l2 ∧ (∀ c, v.core c = t.core c) ∧
      (if foldsIn done f.nw dst l then let (s, p) := t.reserve x.gid l dst.w; (s, some p) else (t, none)) = (v, fold) := by
    split
    · exact ⟨_, _, accessing_reserve t l dst.w, rfl, fun _ => rfl, rfl⟩
    · exact ⟨_, _, Accessing.refl t, rfl, fun _ => rfl, rfl⟩
  have hsv := h.trans hv h.nextId
  have cores (c : Nat) : Core.Like (s.core c) (v.core c) := (hc' c).symm ▸ hc c
  unfold State.loadLane
  dsimp only
  dsimp only at hstep
  rw [hstep]
  dsimp only
  rcases hm with ⟨a, rfl⟩ | ⟨pa, key, rfl⟩
  · dsimp only
    have read : (v.core (coreOf x.gid)).scrRead (v.locOf x.g).2.2 a size = (s.core (coreOf x.gid)).scrRead (s.locOf x.g).2.2 a size := by
      rw [hsv.locOf]
      exact Core.scrRead_congr fun i _ => (cores _).scrByte ..
    generalize hq : ({ v.reqOf x l f.word (.load size sext) va noPa 0 with
      dst := dstOf x.g n done f.nw dst l, fold := fold
      stage := .reply (loadWords size sext ((v.core (coreOf x.gid)).scrRead (v.locOf x.g).2.2 a size)) false } : Req) = q
    have launched := accessing_launch hP (r := q) (gid := x.gid) (by rw [← hq]; rfl) v
    obtain ⟨-, -, hcores, hl2''⟩ := v.launch_units q
    obtain ⟨rid, hle, hlt, found⟩ := v.launch_found q
    refine ⟨hv.trans launched hv.nextId, hl2''.trans (hl2'.trans hl2), fun c => ?_, rid, hv.nextId.trans hle, hlt, q, found, ?_⟩
    · rw [show (v.launch q).1.core c = v.core c by rw [State.core, hcores, State.core]]
      exact cores c
    · rw [← hq]
      exact ⟨rfl, rfl, rfl, rfl, by rw [read]⟩
  · dsimp only
    obtain ⟨team, member⟩ := hsv.reqOf hg hteam l f.word (.load size sext) va pa key
    obtain ⟨launched, l2, like, rid, hle, hlt, r, found, his, served⟩ := State.issueLoad_spec hP (gid := x.gid) v
      { v.reqOf x l f.word (.load size sext) va pa key with dst := dstOf x.g n done f.nw dst l, fold := fold } rfl rfl (after (pa / 128))
    refine ⟨hv.trans launched hv.nextId, l2.trans (hl2'.trans hl2), fun c => (cores c).trans (like c), rid, hv.nextId.trans hle, hlt, r,
      found, (congrArg Req.maker his :), (congrArg Req.kind his :), (congrArg Req.va his :), (congrArg Req.dst his :),
      (congrArg Req.pa his :), (congrArg Req.key his :), ?_⟩
    dsimp only at served
    rw [team, member] at served
    exact served.of_aged (hsv.l1Hit cores ..)

/-- The loads of an issue's lanes, each of which is in flight when all have been made. -/
theorem State.loads_issued (hg : s.grp x.gid = some g) (hteam : g.team = x.g.team) (m : LaneIx → Meet)
    (hm : ∀ l, Mask.has done l = true → (m l).Lands) (va : LaneIx → Dword) :
    let u := (Mask.lanes done).foldl (fun t l => t.loadLane x n f dst size sext done after (m l) (va l) l) s
    Accessing x.gid (fun l => Mask.has done l = true) s.nextId s u ∧ (u.l2 = s.l2 ∧ ∀ c, Core.Like (s.core c) (u.core c)) ∧
      ∀ l, Mask.has done l = true → ∃ rid r, s.nextId ≤ rid ∧ u.reqs.find rid = some r ∧
        LoadInFlight s x n f dst size sext done after (m l) (va l) l r := by
  obtain ⟨accessing, inv, found⟩ := accessing_foldl (gid := x.gid) (P := fun l => Mask.has done l = true) (W := fun _ => True)
    (I := fun _ u => u.l2 = s.l2 ∧ ∀ c, Core.Like (s.core c) (u.core c)) (Mask.lanes done) ⟨rfl, fun _ => Core.Like.refl _⟩
    (Q := fun l => LoadInFlight s x n f dst size sext done after (m l) (va l) l) (s := s)
    (f := fun t l => t.loadLane x n f dst size sext done after (m l) (va l) l) fun pre t l hl ht ⟨hl2, hc⟩ => by
      have hl := (Mask.mem_lanes ..).mp hl
      obtain ⟨a, b, c, d⟩ := State.loadLane_spec (f := f) (n := n) (dst := dst) (size := size) (sext := sext) (done := done)
        (after := after) hl (hm l hl) hg hteam ht hl2 hc (va l)
      exact ⟨a, ⟨b, c⟩, fun _ => d⟩
  exact ⟨accessing, inv, fun l hl => found l ((Mask.mem_lanes ..).mpr hl) trivial⟩

end loadLane

end Sys2Proof.Machine
end

section
/-! SUPPORT. The group of an issue that reaches memory (06 R127), and the statement on loads (06 R118, R120, R131, R132). -/

namespace Sys2Proof.Machine
open Sys2Proof.Rules

/-! ### The registers of a group whose lanes await values -/

/-- Two groups with the same registers. -/
structure Group.SameRegs (g h : Group) : Prop where
  stack : ∀ l, (h.lane l).stack = (g.lane l).stack
  fw : ∀ l, (h.lane l).fw = (g.lane l).fw
  wb : ∀ l, (h.lane l).wb = (g.lane l).wb
  s : h.s = g.s

theorem Group.SameRegs.trans {g h k : Group} (a : g.SameRegs h) (b : h.SameRegs k) : g.SameRegs k :=
  ⟨fun l => (b.stack l).trans (a.stack l), fun l => (b.fw l).trans (a.fw l), fun l => (b.wb l).trans (a.wb l), b.s.trans a.s⟩

theorem Group.sameRegs_of_still {g h : Group} (e : h.still = g.still) : g.SameRegs h :=
  ⟨Group.stack_of_still e, Group.fw_of_still e, Group.wb_of_still e, Group.s_of_still e⟩

theorem Group.lane_of_unsigned {g h : Group} (e : h.unsigned = g.unsigned) (l : LaneIx) : (h.lane l).unsigned = (g.lane l).unsigned := by
  have := congrArg (fun g : Group => g.lane l) e
  simpa only [Group.unsigned, Group.lane_mapLanes] using this

theorem Group.sameRegs_of_unsigned {g h : Group} (e : h.unsigned = g.unsigned) : g.SameRegs h := by
  refine ⟨fun l => ?_, fun l => ?_, fun l => ?_, ?_⟩
  · exact (congrArg Lane.stack (Group.lane_of_unsigned e l) :)
  · exact (congrArg Lane.fw (Group.lane_of_unsigned e l) :)
  · exact (congrArg Lane.wb (Group.lane_of_unsigned e l) :)
  · have := congrArg Group.s e
    simpa only [Group.unsigned, Group.mapLanes_s] using this

/-- The registers of a group whose lanes of `done` await values in a destination: those entries are pending, and every other one is as it
was, but that reading it may have marked it poisoned (R127; 08 R173). -/
structure Awaiting (g : Group) (n : Nat) (done : Mask) (nw : Bool) (dst : Operand) (g' : Group) : Prop where
  window : nw = false → dst.r.toNat < 96 → ∀ l, Mask.has done l = true → ∀ k, k < dst.w → (g'.cell n l (dst.r.toNat + k)).pend = true
  uniform : nw = false → 97 ≤ dst.r.toNat → done ≠ 0#32 → ∀ k, k < dst.w → (g'.s.getD {} (dst.r.toNat + k)).pend = true
  others : ∀ l k, ¬ (nw = false ∧ dst.r.toNat < 96 ∧ Mask.has done l = true ∧ ∃ j, j < dst.w ∧ k = (g.lane l).slot n (dst.r.toNat + j)) →
    RCell.near ((g.lane l).stack.getD {} k) ((g'.lane l).stack.getD {} k)
  othersS : ∀ k, ¬ (nw = false ∧ 97 ≤ dst.r.toNat ∧ ∃ j, j < dst.w ∧ k = dst.r.toNat + j) →
    RCell.near (g.s.getD {} k) (g'.s.getD {} k)
  latches : ∀ l j, j < 4 → RCell.near ((g.lane l).fw.get j) ((g'.lane l).fw.get j)

section awaiting
variable (g : Group) (act : Mask) (n wb : Nat) (part : Mask) (srcs : List Operand) (done : Mask) (nw : Bool) (dst : Operand)

theorem Group.lane_looked (l : LaneIx) : (g.looked act n wb part srcs).lane l = (g.scrub n wb part srcs).lane l := rfl

theorem Group.s_looked : (g.looked act n wb part srcs).s = (g.scrub n wb part srcs).s := rfl

theorem Group.looked_frame : { g.looked act n wb part srcs with lanes := g.lanes, s := g.s, walkFail := g.walkFail } = g := by
  have h := Group.scrub_frame g n wb part srcs
  unfold Group.looked
  generalize g.scrub n wb part srcs = a at h ⊢
  exact congrArg (fun k : Group => { k with walkFail := g.walkFail }) h

theorem Group.wb_looked (l : LaneIx) : ((g.looked act n wb part srcs).lane l).wb = (g.lane l).wb :=
  (congrArg Lane.wb (Group.lane_looked ..)).trans (Group.scrub_wb ..)

theorem Reg.eq_z_of_toNat {r : Reg} (h : r.toNat = 96) : r = Reg.z := BitVec.eq_of_toNat_eq (h.trans (by decide))

/-- A group that has read its operands and whose destination's bits have been set. -/
theorem Group.awaiting (fits : dst.r.toNat < 96 → dst.r.toNat + dst.w ≤ 96) {g' : Group}
    (h : ((g.looked act n wb part srcs).setPend n done nw dst).SameRegs g') : Awaiting g n done nw dst g' := by
  have slot (l : LaneIx) (r : Nat) : ((g.looked act n wb part srcs).lane l).slot n r = (g.lane l).slot n r := by
    rw [Lane.slot, Group.wb_looked, Lane.slot]
  have stack (l : LaneIx) := (h.stack l).trans (congrArg Lane.stack (Group.lane_setPend ..))
  have wb' (l : LaneIx) := (h.wb l).trans (congrArg Lane.wb (Group.lane_setPend ..))
  have fw (l : LaneIx) := (h.fw l).trans (congrArg Lane.fw (Group.lane_setPend ..))
  dsimp only at stack wb' fw
  have near (l : LaneIx) (k : Nat) : RCell.near ((g.lane l).stack.getD {} k) (((g.looked act n wb part srcs).lane l).stack.getD {} k) := by
    rw [Group.lane_looked]
    exact Group.scrub_near ..
  have nearS (k : Nat) : RCell.near (g.s.getD {} k) ((g.looked act n wb part srcs).s.getD {} k) := by
    rw [Group.s_looked]
    exact Group.scrub_nearS ..
  have nearFw (l : LaneIx) (j : Nat) (hj : j < 4) :
      RCell.near ((g.lane l).fw.get j) (((g.looked act n wb part srcs).lane l).fw.get j) := by
    rw [Group.lane_looked]
    exact Group.scrub_nearFw _ _ _ _ _ _ _ hj
  have mem (hr : dst.r.toNat ≠ 96) (k : Nat) (hk : k < dst.w) : dst.r.toNat + k ∈ dst.regs := by
    rw [Operand.regs_of_ne dst hr]
    exact List.mem_map.mpr ⟨k, List.mem_range.mpr hk, rfl⟩
  have sregs := h.s.trans (Group.s_setPend ..)
  clear h
  generalize g.looked act n wb part srcs = c at *
  refine ⟨fun hnw hr l hl k hk => ?_, fun hnw hr hd k hk => ?_, fun l k hk => ?_, fun k hk => ?_, fun l j hj => ?_⟩
  · have hslot : (g'.lane l).slot n (dst.r.toNat + k) = (g.lane l).slot n (dst.r.toNat + k) := by
      rw [← slot, Lane.slot, wb', Lane.slot]
    rw [Group.cell, if_pos (by have := fits hr; omega), hslot, stack, if_pos ⟨hnw, hr, hl⟩, ← slot]
    exact pendAll_mem _ _ (mem (by omega) k hk)
  · rw [sregs, if_pos ⟨hnw, fun e => by rw [e] at hr; exact absurd hr (by decide), by omega, hd⟩]
    exact pendAll_mem id _ (mem (by omega) k hk)
  · rw [stack]
    split
    next hc =>
      obtain ⟨hnw, hr, hl⟩ := hc
      rw [pendAll_ne]
      · exact near l k
      · rw [Operand.regs_of_ne dst (by omega)]
        rintro _ hm rfl
        obtain ⟨j, hj, rfl⟩ := List.mem_map.mp hm
        exact hk ⟨hnw, hr, hl, j, List.mem_range.mp hj, slot l _⟩
    next => exact near l k
  · rw [sregs]
    split
    next hc =>
      obtain ⟨hnw, hz, hr, -⟩ := hc
      have hne : dst.r.toNat ≠ 96 := fun e => hz (Reg.eq_z_of_toNat e)
      rw [pendAll_ne]
      · exact nearS k
      · rw [Operand.regs_of_ne dst hne]
        rintro _ hm rfl
        obtain ⟨j, hj, rfl⟩ := List.mem_map.mp hm
        exact hk ⟨hnw, by omega, j, List.mem_range.mp hj, rfl⟩
    next => exact nearS k
  · rw [fw]
    exact nearFw l j hj

theorem Group.eq_of_unsigned {g h : Group} (e : h.unsigned = g.unsigned) : { h with lanes := g.lanes } = g := by
  have := congrArg (fun k : Group => { k with lanes := g.lanes }) e
  simpa only [Group.unsigned, Group.mapLanes] using this

/-- What such a group keeps. -/
theorem Group.keeps_of_unsigned {gu : Group} (hu : gu.unsigned = ((g.looked act n wb part srcs).setPend n done nw dst).unsigned) :
    { g with lanes := gu.lanes, s := gu.s, walkFail := gu.walkFail } = gu := by
  have h1 := Group.eq_of_unsigned hu
  have h2 := Group.setPend_frame (g.looked act n wb part srcs) n done nw dst
  have h3 := Group.looked_frame g act n wb part srcs
  generalize (g.looked act n wb part srcs).setPend n done nw dst = b at h1 h2
  generalize g.looked act n wb part srcs = c at h2 h3
  have e1 := congrArg (fun k : Group => { k with lanes := gu.lanes, s := gu.s, walkFail := gu.walkFail }) h1
  have e2 := congrArg (fun k : Group => { k with lanes := gu.lanes, s := gu.s, walkFail := gu.walkFail }) h2
  have e3 := congrArg (fun k : Group => { k with lanes := gu.lanes, s := gu.s, walkFail := gu.walkFail }) h3
  exact e3.symm.trans (e2.symm.trans e1.symm)

theorem Group.lane_keeps_of_unsigned {gu : Group} (hu : gu.unsigned = ((g.looked act n wb part srcs).setPend n done nw dst).unsigned)
    (l : LaneIx) : { gu.lane l with stack := [], fw := {}, rsig := 0#32, nfold := 0 } =
      { g.lane l with stack := [], fw := {}, rsig := 0#32, nfold := 0 } := by
  have h1 := Group.lane_of_unsigned hu l
  rw [Group.lane_setPend, Group.lane_looked] at h1
  have h2 := Group.scrub_other g n wb part srcs l
  generalize gu.lane l = a at h1 ⊢
  generalize (g.scrub n wb part srcs).lane l = c at h1 h2
  generalize g.lane l = d at h2 ⊢
  have e1 := congrArg (fun v : Lane => { v with stack := [], fw := {} }) h1
  have e2 := congrArg (fun v : Lane => { v with rsig := 0#32, nfold := 0 }) h2
  exact e1.trans e2

/-- What it keeps when its lanes have moved on. -/
theorem Group.keepsGroup {gu g' : Group} (hu : gu.unsigned = ((g.looked act n wb part srcs).setPend n done nw dst).unsigned)
    (h : g'.still = gu.still) : KeepsGroup g g' := by
  refine ⟨fun l => ?_, ?_⟩
  · have := congrArg Lane.still (Group.lane_keeps_of_unsigned g act n wb part srcs done nw dst hu l)
    rw [← Group.lane_still, h, Group.lane_still]
    exact this
  · have := Group.keeps_of_unsigned g act n wb part srcs done nw dst hu
    rw [h, ← this]
    simp only [Group.still, Group.mapLanes]

end awaiting

/-! ### What the lanes of a load or store meet -/

/-- The checks of a load or store (R126). -/
def accessChk (f : AccessForm) (word : Word) (store : Bool) : Chk :=
  ⟨word, if store then f.srcs ++ [f.reg] else f.srcs, f.size, f.size, if store then needWrite else needRead, if store then 1 else 0, true,
    store⟩

/-- What a lane of a load or store meets. -/
def State.meetOf (s : State) (x : Issue) (f : AccessForm) (word : Word) (store : Bool) (l : LaneIx) : Meet :=
  s.meet x (s.stackOf x.g) (accessChk f word store) l (f.addr x (s.stackOf x.g) l)

section goes
variable {s : State} {x : Issue} {store : Bool} {need : BitVec 4} {size a : Nat} {l : LaneIx} {va : Dword} {m : Meet}

theorem lands_of_goes (h : Goes s x store need size l va m) : m.Lands := by
  cases m with
  | loc a => exact .inl ⟨a, rfl⟩
  | mem pa key => exact .inr ⟨pa, key, rfl⟩
  | walk => cases h
  | trap c => cases h

/-- The line of a scratchpad byte that an access goes to is present (05 R91). -/
theorem present_of_goes (h : Goes s x store need size l va (.loc a)) : (s.core (coreOf x.gid)).anyAbsent a size = false := by
  obtain ⟨-, -, -, -, habs, -⟩ := h
  exact habs

theorem Meet.Lands.trap (h : m.Lands) : m.trap? = none := by
  rcases h with ⟨a, rfl⟩ | ⟨pa, key, rfl⟩ <;> rfl

theorem Meet.Lands.not_walk (h : m.Lands) : m ≠ .walk := by
  rcases h with ⟨a, rfl⟩ | ⟨pa, key, rfl⟩ <;> exact nofun

end goes

/-- Some lane's access waits for a scratchpad line (05 R91). -/
def State.waitsFor (s : State) (x : Issue) (size : Nat) (m : LaneIx → Meet) (ok : Mask) : Bool :=
  (Mask.lanes ok).any fun l => match m l with
    | .loc a => (s.core (coreOf x.gid)).anyAbsent a size
    | _ => false

theorem State.waitsFor_eq_false {s : State} {x : Issue} {size : Nat} {m : LaneIx → Meet} {ok : Mask}
    (h : ∀ l a, Mask.has ok l = true → m l = .loc a → (s.core (coreOf x.gid)).anyAbsent a size = false) : s.waitsFor x size m ok = false := by
  rw [State.waitsFor, List.any_eq_false]
  intro l hl
  rw [Mask.mem_lanes] at hl
  split
  next a hm => rw [h l a hl hm]; exact Bool.false_ne_true
  next => exact Bool.false_ne_true

/-- The lanes of a load or store meet no outstanding walk, and those that reach the scratchpad find their lines present. -/
def Settled (s : State) (x : Issue) (f : AccessForm) (word : Word) (store : Bool) : Prop :=
  ∀ l, Mask.has (x.part f.guard) l = true → s.meetOf x f word store l ≠ .walk ∧
    ∀ a, s.meetOf x f word store l = .loc a → (s.core (coreOf x.gid)).anyAbsent a f.size = false

section meets
variable {s : State} {x : Issue} {f : AccessForm} {word : Word} {store : Bool} {l : LaneIx} {m : Meet}

/-- A lane of a load or store whose access goes on (R126). -/
theorem State.meetOf_of_goes (hr : x.g.operandTrap (s.stackOf x.g) (f.srcs ++ if store then [f.reg] else []) l = none)
    (h : (f.addr x (s.stackOf x.g) l).toNat % f.size = 0 ∧
      Goes s x store (if store then needWrite else needRead) f.size l (f.addr x (s.stackOf x.g) l) m) : s.meetOf x f word store l = m := by
  refine State.meet_of_goes h.2 ?_ h.1 fun _ _ => rfl
  cases store with
  | true => exact hr
  | false => simpa [accessChk] using hr

/-- The shape of such an issue (R126). -/
theorem State.reachOp_of_settled (h : Settled s x f word store) (eff : (LaneIx → Meet) → Mask → State → State) :
    ∃ wb, s.reachOp x (s.stackOf x.g) (accessChk f word store) (x.part f.guard) (f.addr x (s.stackOf x.g)) (s.waitsFor x f.size) eff =
      s.finish x (x.part f.guard) (fun l => (s.meetOf x f word store l).trap?) (fun done t => eff (s.meetOf x f word store) done
        (t.updGrp x.gid (Group.looked x.act (s.stackOf x.g) wb (x.part f.guard) (accessChk f word store).srcs))) x.seq := by
  refine State.reachOp_of_no_walk (fun l hl => (h l hl).1) _ eff (State.waitsFor_eq_false fun l a hl hm => ?_)
  rw [Mask.has_maskOf, Bool.and_eq_true] at hl
  exact (h l hl.1).2 a hm

end meets

/-! ### A load operation -/

/-- The loads of lanes, one after another; `s` is the state of the issue. -/
def State.makeLoads (s : State) (x : Issue) (f : AccessForm) (word : Word) (done : Mask) (t : State) : State :=
  (Mask.lanes done).foldl (fun t l => t.loadLane x (s.stackOf x.g) (issuedForm f word) f.reg f.size f.sext done
    (s.loadAfter (coreOf x.gid)) (s.meetOf x f word false l) (f.addr x (s.stackOf x.g) l) l) t

/-- A group whose lanes' operands have been read and of which lanes await values. -/
def Group.requested (x : Issue) (f : AccessForm) (n wb : Nat) (done : Mask) (g : Group) : Group :=
  (g.looked x.act n wb (x.part f.guard) f.srcs).setPend n done f.nw f.reg

section requested
variable {x : Issue} {f : AccessForm} {n wb : Nat} {done : Mask} {gu : Group} (hu : gu.unsigned = (x.g.requested x f n wb done).unsigned)
include hu

/-- A group that awaits values and whose lanes have moved on. -/
theorem Group.requested_still {g' : Group} (h : g'.still = gu.still) (fits : f.reg.r.toNat < 96 → f.reg.r.toNat + f.reg.w ≤ 96) :
    Awaiting x.g n done f.nw f.reg g' ∧ KeepsGroup x.g g' :=
  ⟨Group.awaiting _ _ _ _ _ _ _ _ _ fits ((Group.sameRegs_of_unsigned hu).trans (Group.sameRegs_of_still h)),
    Group.keepsGroup _ _ _ _ _ _ _ _ _ hu h⟩

theorem Group.requested_frame : { x.g with lanes := gu.lanes, s := gu.s, walkFail := gu.walkFail } = gu :=
  Group.keeps_of_unsigned x.g _ _ _ _ _ _ _ _ hu

theorem Group.requested_lane (l : LaneIx) : { gu.lane l with stack := [], fw := {}, rsig := 0#32, nfold := 0 } =
    { x.g.lane l with stack := [], fw := {}, rsig := 0#32, nfold := 0 } :=
  Group.lane_keeps_of_unsigned x.g _ _ _ _ _ _ _ _ hu l

theorem Group.requested_levels : gu.levels = x.g.levels := (congrArg Group.levels (Group.requested_frame hu) :).symm

/-- Its lanes go on. -/
theorem Group.requested_goOn : Steady x x.seq → GoOn x x.act x.seq (gu.advance x x.act x.seq) :=
  Group.goOn_advance (Group.requested_levels hu) fun l => (congrArg Lane.wb (Group.requested_lane hu l) :)

end requested

section loadOp
variable {s : State} {x : Issue} {f : AccessForm}

/-- A load whose lanes' walks are over and whose scratchpad lines are present: its lanes trap or put their accesses in flight. -/
theorem State.loadOp_finish {word : Word} (hi : s.issue = some x)
    (hp : x.g.pending (s.stackOf x.g) x.act (f.srcs ++ if f.nw then [] else [f.reg]) = false) (h : Settled s x f word false) :
    ∃ wb, s.loadOp (issuedForm f word) f.t f.size f.sext = s.finish x (x.part f.guard) (fun l => (s.meetOf x f word false l).trap?)
      (fun done t => s.makeLoads x f word done (t.updGrp x.gid (Group.requested x f (s.stackOf x.g) wb done))) x.seq := by
  obtain ⟨wb, h⟩ := State.reachOp_of_settled h fun m done t => (Mask.lanes done).foldl
    (fun t l => t.loadLane x (s.stackOf x.g) (issuedForm f word) f.reg f.size f.sext done (s.loadAfter (coreOf x.gid)) (m l)
      (f.addr x (s.stackOf x.g) l) l) (t.updGrp x.gid fun g => g.setPend (s.stackOf x.g) done f.nw f.reg)
  refine ⟨wb, ?_⟩
  unfold State.loadOp
  rw [State.withIssue_of hi]
  dsimp only
  refine (if_neg (ne_true_of_eq_false hp)).trans (h.trans ?_)
  simp only [State.updGrp_updGrp]
  rfl

theorem LoadInFlight.of_updGrp {gid n size : Nat} {φ : Group → Group} {fm : Form} {dst : Operand} {sext : Bool} {done : Mask}
    {after : Nat → Option (List Nat)} {m : Meet} {va : Dword} {l : LaneIx} {r : Req}
    (h : LoadInFlight (s.updGrp gid φ) x n fm dst size sext done after m va l r) :
    LoadInFlight s x n fm dst size sext done after m va l r := by
  revert h
  cases m with
  | loc a => exact id
  | mem pa key => exact id
  | walk => exact id
  | trap c => exact id

/-- What the loads of lanes that reach a byte leave of the state, before the lanes go on. -/
structure LoadsMade (s : State) (x : Issue) (f : AccessForm) (word : Word) (wb : Nat) (done : Mask) (gu : Group) (u : State) : Prop where
  own : u.grp x.gid = some gu
  unsigned : gu.unsigned = (x.g.requested x f (s.stackOf x.g) wb done).unsigned
  others : ∀ k, k ≠ x.gid → u.grp k = s.grp k
  dram : u.dram = s.dram
  l2 : u.l2 = s.l2
  cores : ∀ c, Core.Like (s.core c) (u.core c)
  made : ∀ rid r, u.reqs.find rid = some r → s.reqs.find rid = some r ∨ ∃ l, Mask.has done l = true ∧ r.maker = .lane x.gid l.val
  found : ∀ l, Mask.has done l = true → ∃ rid r, s.nextId ≤ rid ∧ u.reqs.find rid = some r ∧
    LoadInFlight s x (s.stackOf x.g) (issuedForm f word) f.reg f.size f.sext done (s.loadAfter (coreOf x.gid)) (s.meetOf x f word false l)
      (f.addr x (s.stackOf x.g) l) l r

theorem State.loads_made (hi : s.issue = some x) {word : Word} (wb : Nat) {done : Mask}
    (hm : ∀ l, Mask.has done l = true → (s.meetOf x f word false l).Lands) : ∃ gu, LoadsMade s x f word wb done gu
      (s.makeLoads x f word done (s.updGrp x.gid (Group.requested x f (s.stackOf x.g) wb done))) := by
  generalize hg0 : x.g.requested x f (s.stackOf x.g) wb done = g0
  have team : g0.team = x.g.team := by
    rw [← hg0]
    exact (congrArg Group.team (Group.requested_frame (gu := x.g.requested x f (s.stackOf x.g) wb done) rfl) :).symm
  have grp0 : (s.updGrp x.gid (Group.requested x f (s.stackOf x.g) wb done)).grp x.gid = some g0 := by
    rw [State.grp_updGrp, if_pos rfl, State.grp_of_issue hi, ← hg0]
    rfl
  obtain ⟨accessing, ⟨l2, cores⟩, found⟩ := State.loads_issued (f := issuedForm f word) (dst := f.reg) (size := f.size) (sext := f.sext)
    (n := s.stackOf x.g) (after := s.loadAfter (coreOf x.gid)) grp0 team (s.meetOf x f word false) hm (f.addr x (s.stackOf x.g))
  obtain ⟨gu, hgu, unsigned⟩ := accessing.grp grp0
  refine ⟨gu, hgu, hg0 ▸ unsigned, fun k hk => ?_, accessing.dram, l2, cores, accessing.made, fun l hl => ?_⟩
  · exact (accessing.others k hk).trans (by rw [State.grp_updGrp, if_neg hk])
  · obtain ⟨rid, r, hle, hfind, hr⟩ := found l hl
    exact ⟨rid, r, hle, hfind, hr.of_updGrp⟩

end loadOp

/-- Loads (R118, R120, R127, R131, R132). -/
theorem loadsIssue : Rules.LoadsIssue := by
  intro i f hwf hf s x m ⟨hi, hr, hgo⟩ _
  have meet (l) (hl : Mask.has (x.part f.guard) l = true) : s.meetOf x f (encode i) false l = m l :=
    State.meetOf_of_goes (hr.operandTrap hl) (hgo l hl)
  have lands (l) (hl : Mask.has (x.part f.guard) l = true) : (s.meetOf x f (encode i) false l).Lands :=
    (meet l hl).symm ▸ lands_of_goes (hgo l hl).2
  obtain ⟨wb, h⟩ := State.loadOp_finish (word := encode i) hi hr.pending fun l hl =>
    ⟨(lands l hl).not_walk, fun a hm => present_of_goes ((meet l hl).symm.trans hm ▸ (hgo l hl).2)⟩
  rw [State.finish_part _ _ fun l hl => (lands l hl).trap] at h
  obtain ⟨gu, made⟩ := State.loads_made hi wb lands
  obtain ⟨awaiting, keeps⟩ := Group.requested_still made.unsigned (Group.still_advance gu x x.act x.seq) (loads_regFits hwf hf).2
  refine ⟨_, gu.advance x x.act x.seq, (loads_exec hf s).trans h, ?_, fun k hk => ?_, made.dram, made.l2, fun c a o => (made.cores c).scrByte o a,
    keeps, fun l hl => ?_, awaiting.window, awaiting.uniform, awaiting.others, awaiting.othersS, awaiting.latches,
    Group.requested_goOn made.unsigned⟩
  · rw [State.grp_updGrp, if_pos rfl, made.own]
    rfl
  · rw [State.grp_updGrp, if_neg hk, made.others k hk]
  · obtain ⟨rid, r, hle, hfind, hmaker, hkind, hva, hdst, hm⟩ := made.found l hl
    refine ⟨rid, r, hle, hfind, hmaker, hkind, hva, hdst, ?_⟩
    rw [meet l hl] at hm
    revert hm
    cases m l with
    | loc a => exact id
    | mem pa key => exact id
    | walk => exact id
    | trap c => exact id

end Sys2Proof.Machine
end

section
/-! SUPPORT. Stores as they are issued (06 R119, R131, R132), and the statement on loads and stores. -/

namespace Sys2Proof.Machine
open Sys2Proof.Rules

theorem Mask.lanes_filter (m : Mask) (p : LaneIx → Bool) :
    Mask.lanes (maskOf fun l => Mask.has m l && p l) = (Mask.lanes m).filter p := by
  simp only [Mask.lanes, List.filter_filter, Mask.has_maskOf, Bool.and_comm]

/-- The access goes to a scratchpad byte. -/
def Meet.isLoc (m : Meet) : Bool :=
  match m with
  | .loc _ => true
  | _ => false

/-! ### One lane's store -/

theorem Team.plain_foldStore (t : Team) (va : Dword) (bs : List Byte) : (t.foldStore va bs).plain = t.plain := by
  refine foldl_same Team.plain (fun _ _ => ?_) _ t
  rfl

section storeLane
variable {s t : State} {x : Issue} {P : LaneIx → Prop} {l : LaneIx}

/-- A store of memory is put in flight, and held in a checked run (R119; 12 R262). -/
theorem State.storeLane_mem (hP : P l) (word : Word) (pa key : Nat) (va : Dword) (bs : List Byte) (t : State) :
    let u := t.storeLane x word (.mem pa key) va bs l
    Accessing x.gid P t.nextId t u ∧ u.groups = t.groups ∧ u.cores = t.cores ∧ u.l2 = t.l2 ∧
      ∃ rid, t.nextId ≤ rid ∧ rid < u.nextId ∧ ∃ r, u.reqs.find rid = some r ∧
        r.maker = .lane x.gid l.val ∧ r.kind = .store bs ∧ r.pa = pa ∧ r.key = key ∧ r.stage = .sent := by
  have goes (v : State) (r : Req) (hv : Accessing x.gid P t.nextId t v) (hg : v.groups = t.groups) (hc : v.cores = t.cores)
      (hl : v.l2 = t.l2) (hr : r.maker = .lane x.gid l.val ∧ r.kind = .store bs ∧ r.pa = pa ∧ r.key = key ∧ r.stage = .sent) :
      let u := (v.launch r).1
      Accessing x.gid P t.nextId t u ∧ u.groups = t.groups ∧ u.cores = t.cores ∧ u.l2 = t.l2 ∧
        ∃ rid, t.nextId ≤ rid ∧ rid < u.nextId ∧ ∃ r, u.reqs.find rid = some r ∧
          r.maker = .lane x.gid l.val ∧ r.kind = .store bs ∧ r.pa = pa ∧ r.key = key ∧ r.stage = .sent := by
    obtain ⟨groups, -, cores, l2⟩ := v.launch_units r
    obtain ⟨rid, hle, hlt, found⟩ := v.launch_found r
    exact ⟨hv.trans (accessing_launch hP hr.1 v) hv.nextId, groups.trans hg, cores.trans hc, l2.trans hl, rid, hv.nextId.trans hle, hlt, r,
      found, hr⟩
  unfold State.storeLane
  dsimp only
  split
  · split
    · exact goes _ _ (accessing_updTeam t _ fun _ => Team.plain_foldStore ..) rfl rfl rfl ⟨rfl, rfl, rfl, rfl, rfl⟩
    · exact goes t _ (Accessing.refl t) rfl rfl rfl ⟨rfl, rfl, rfl, rfl, rfl⟩
  · exact goes t _ (Accessing.refl t) rfl rfl rfl ⟨rfl, rfl, rfl, rfl, rfl⟩

end storeLane

/-! ### A store operation -/

/-- The stores of lanes, one after another; `s` is the state of the issue. -/
def State.makeStores (s : State) (x : Issue) (f : AccessForm) (word : Word) (m : LaneIx → Meet) (done : Mask) (t : State) : State :=
  (Mask.lanes done).foldl (fun t l => t.storeLane x word (m l) (f.addr x (s.stackOf x.g) l) (f.bytes x (s.stackOf x.g) l) l) t

/-- What the stores of lanes that reach a byte leave of the state. -/
structure StoresMade (s : State) (x : Issue) (f : AccessForm) (done : Mask) (m : LaneIx → Meet) (t u : State) : Prop where
  groups : u.groups = t.groups
  dram : u.dram = t.dram
  l2 : u.l2 = t.l2
  cores : ∀ c, c ≠ coreOf x.gid → u.core c = t.core c
  core : u.core (coreOf x.gid) = (t.core (coreOf x.gid)).stores (t.locOf x.g).2.2 (fun l => (m l).place) (f.bytes x (s.stackOf x.g))
    ((Mask.lanes done).filter fun l => (m l).isLoc)
  made : ∀ rid r, u.reqs.find rid = some r → t.reqs.find rid = some r ∨ ∃ l, Mask.has done l = true ∧ r.maker = .lane x.gid l.val
  found : ∀ l, Mask.has done l = true → (∃ pa key, m l = .mem pa key) → ∃ rid r, t.nextId ≤ rid ∧ u.reqs.find rid = some r ∧
    r.maker = .lane x.gid l.val ∧ r.kind = .store (f.bytes x (s.stackOf x.g) l) ∧ m l = .mem r.pa r.key ∧ r.stage = .sent

section storeOp
variable {s : State} {x : Issue} {f : AccessForm}

theorem State.stores_made (s : State) (x : Issue) (f : AccessForm) (word : Word) {done : Mask} {m : LaneIx → Meet}
    (hm : ∀ l, Mask.has done l = true → (m l).Lands) (b : State) : StoresMade s x f done m b (s.makeStores x f word m done b) := by
  generalize hn : s.stackOf x.g = n
  obtain ⟨accessing, inv, found⟩ := accessing_foldl (gid := x.gid) (P := fun l => Mask.has done l = true) (s := b)
    (W := fun l => ∃ pa key, m l = .mem pa key)
    (I := fun pre u => u.groups = b.groups ∧ u.l2 = b.l2 ∧ (∀ c, c ≠ coreOf x.gid → u.core c = b.core c) ∧
      u.core (coreOf x.gid) = (b.core (coreOf x.gid)).stores (b.locOf x.g).2.2 (fun l => (m l).place) (f.bytes x n)
        (pre.filter fun l => (m l).isLoc))
    (Q := fun l r => r.maker = .lane x.gid l.val ∧ r.kind = .store (f.bytes x n l) ∧ m l = .mem r.pa r.key ∧ r.stage = .sent)
    (f := fun t l => t.storeLane x word (m l) (f.addr x n l) (f.bytes x n l) l) (Mask.lanes done) ⟨rfl, rfl, fun _ _ => rfl, rfl⟩
    fun pre t l hl ht ⟨hg, hl2, hc, hown⟩ => by
      have hl := (Mask.mem_lanes ..).mp hl
      rcases hm l hl with ⟨a, ha⟩ | ⟨pa, key, hmem⟩
      · have step : t.storeLane x word (m l) (f.addr x n l) (f.bytes x n l) l = t.scrStore x a (f.bytes x n l) := by rw [ha]; rfl
        have kept : ((pre ++ [l]).filter fun l => (m l).isLoc) = (pre.filter fun l => (m l).isLoc) ++ [l] := by
          simp [List.filter_append, Meet.isLoc, ha]
        rw [step, kept]
        refine ⟨Accessing.of_eq rfl le_rfl rfl rfl rfl, ⟨hg, hl2, fun c hne => ?_, ?_⟩, fun ⟨pa, key, h⟩ => ?_⟩
        · rw [State.scrStore, State.core_updCore, if_neg hne, hc c hne]
        · rw [State.scrStore, State.core_updCore, if_pos rfl, hown, ht.locOf, Core.stores, Core.stores, List.foldl_append, List.foldl_cons, List.foldl_nil,
            ha]
          rfl
        · rw [ha] at h; cases h
      · have kept : ((pre ++ [l]).filter fun l => (m l).isLoc) = pre.filter fun l => (m l).isLoc := by
          simp [List.filter_append, Meet.isLoc, hmem]
        obtain ⟨launched, groups, cores, l2, rid, hle, hlt, r, hfind, hmaker, hkind, hpa, hkey, hstage⟩ :=
          State.storeLane_mem (P := fun l => Mask.has done l = true) (x := x) hl word pa key (f.addr x n l) (f.bytes x n l) t
        rw [kept, hmem]
        have core (c : Nat) : (t.storeLane x word (.mem pa key) (f.addr x n l) (f.bytes x n l) l).core c = t.core c := by
          rw [State.core, cores, State.core]
        refine ⟨launched, ⟨groups.trans hg, l2.trans hl2, fun c hne => (core c).trans (hc c hne), (core _).trans hown⟩, fun _ =>
          ⟨rid, hle, hlt, r, hfind, hmaker, hkind, ?_, hstage⟩⟩
        rw [hpa, hkey]
  obtain ⟨groups, l2, cores, core⟩ := inv
  subst hn
  exact ⟨groups, accessing.dram, l2, cores, core, accessing.made, fun l hl hw => found l ((Mask.mem_lanes ..).mpr hl) hw⟩

/-- A store whose lanes' walks are over and whose scratchpad lines are present: its lanes trap or make their stores. -/
theorem State.storeOp_finish {word : Word} (hi : s.issue = some x)
    (hp : x.g.pending (s.stackOf x.g) x.act (f.srcs ++ [f.reg]) = false) (h : Settled s x f word true) :
    ∃ wb, s.storeOp (issuedForm f word) f.t f.size = s.finish x (x.part f.guard) (fun l => (s.meetOf x f word true l).trap?)
      (fun done t => s.makeStores x f word (s.meetOf x f word true) done
        (t.updGrp x.gid (Group.looked x.act (s.stackOf x.g) wb (x.part f.guard) (f.srcs ++ [f.reg])))) x.seq := by
  obtain ⟨wb, h⟩ := State.reachOp_of_settled h fun m done t => s.makeStores x f word m done t
  refine ⟨wb, ?_⟩
  unfold State.storeOp
  rw [State.withIssue_of hi]
  dsimp only
  exact (if_neg (ne_true_of_eq_false hp)).trans h

end storeOp

/-- A group whose operands have been read, whose failed walks have been taken and whose lanes have moved on. -/
theorem Group.moved_looked {g g' : Group} {act : Mask} {n wb : Nat} {part : Mask} {ops : List Operand}
    (h : g'.still = (g.looked act n wb part ops).still) : Moved g { g' with walkFail := g.walkFail } := by
  refine Group.moved (n := n) (wb := wb) (part := part) (ops := ops) ?_
  have walks : (g.scrub n wb part ops).walkFail = g.walkFail := by simp only [Group.scrub, Group.mapLanes_walkFail]
  have := congrArg (fun k : Group => { k with walkFail := g.walkFail }) h
  unfold Group.looked at this
  generalize g.scrub n wb part ops = a at walks this
  rw [← walks] at this ⊢
  simpa only [Group.still, Group.mapLanes] using this

theorem Group.goOn_looked {x : Issue} {n wb : Nat} {part : Mask} {ops : List Operand} :
    Steady x x.seq → GoOn x x.act x.seq ((x.g.looked x.act n wb part ops).advance x x.act x.seq) :=
  Group.goOn_advance (congrArg Group.levels (Group.looked_frame x.g x.act n wb part ops) :) fun _ => Group.wb_looked ..

theorem length_bytes {i : Instr} {f : AccessForm} (h : stores i = some f) (x : Issue) (n : Nat) (l : LaneIx) :
    (f.bytes x n l).length = f.size := by
  rw [AccessForm.bytes, List.length_take, length_bytesOf_srcs]
  have := (stores_size h).2
  omega

/-- Stores (R119, R131, R132). -/
theorem storesIssue : Rules.StoresIssue := by
  intro i f hwf hf s x m ⟨hi, hr, hgo⟩
  obtain ⟨hnw, -⟩ := stores_size hf
  have meet (l) (hl : Mask.has (x.part f.guard) l = true) : s.meetOf x f (encode i) true l = m l :=
    State.meetOf_of_goes (hr.operandTrap hl) (hgo l hl)
  have lands (l) (hl : Mask.has (x.part f.guard) l = true) : (s.meetOf x f (encode i) true l).Lands :=
    (meet l hl).symm ▸ lands_of_goes (hgo l hl).2
  obtain ⟨wb, h⟩ := State.storeOp_finish (word := encode i) hi (by simpa [hnw] using hr.pending) fun l hl =>
    ⟨(lands l hl).not_walk, fun a hm => present_of_goes ((meet l hl).symm.trans hm ▸ (hgo l hl).2)⟩
  rw [State.finish_part _ _ fun l hl => (lands l hl).trap] at h
  have made := State.stores_made s x f (encode i) lands
    (s.updGrp x.gid (Group.looked x.act (s.stackOf x.g) wb (x.part f.guard) (f.srcs ++ [f.reg])))
  obtain ⟨own, others⟩ := State.grp_of_groups (f := fun g =>
    (g.looked x.act (s.stackOf x.g) wb (x.part f.guard) (f.srcs ++ [f.reg])).advance x x.act x.seq) (State.grp_of_issue hi)
    (State.groups_updGrp_of (f' := fun g => g.advance x x.act x.seq) made.groups)
  refine ⟨_, _, (stores_exec hf s).trans h, own, others, made.dram, made.l2, made.cores, Group.moved_looked (Group.still_advance ..), ?_,
    fun l pa key hl hmem => ?_, Group.goOn_looked⟩
  · have locs : (Mask.lanes (x.part f.guard)).filter (fun l => (s.meetOf x f (encode i) true l).isLoc) =
        Mask.lanes (maskOf fun l => Mask.has (x.part f.guard) l && (m l).isLoc) := by
      rw [Mask.lanes_filter]
      exact List.filter_congr fun l hl => by rw [meet l ((Mask.mem_lanes ..).mp hl)]
    have core := made.core
    rw [locs] at core
    refine core.symm ▸ stored_congr (Core.stored_stores _ _ fun l _ => length_bytes hf ..) fun l hl => ⟨?_, rfl⟩
    rw [Mask.has_maskOf, Bool.and_eq_true] at hl
    rw [meet l hl.1]
  · obtain ⟨rid, r, hle, hfind, hmaker, hkind, hm, hstage⟩ := made.found l hl ⟨pa, key, (meet l hl).trans hmem⟩
    have reached := (hm.symm.trans (meet l hl)).trans hmem
    injection reached with hpa hkey
    exact ⟨rid, r, hle, hfind, hmaker, hkind, hpa, hkey, hstage⟩

/-- Settles O14: every lane's access is made in a state that differs from the issue's only by the accesses of the lanes before it, so it is
in flight as the issue's state gives it. -/
theorem loadsAndStoresIssue : Obligations.LoadsAndStoresIssue := ⟨loadsIssue, storesIssue⟩

end Sys2Proof.Machine
end

section
/-! SUPPORT. Accesses whose lanes meet a condition (06 R125, R126; 19 R362, R365), and the statement on them. -/

namespace Sys2Proof.Machine
open Sys2Proof.Rules

/-! ### The trap of some lanes of an issue (19 R362) -/

/-- The earlier of the condition that lanes have met so far and a lane's own. -/
def earlier (best c : Option TrapC) : Option TrapC :=
  match c, best with
  | none, b => b
  | some c, none => some c
  | some c, some b => if c.before b then some c else some b

theorem firstTrap_eq (m : Mask) (trap : LaneIx → Option TrapC) :
    firstTrap m trap = ((Mask.lanes m).foldl (fun best l => earlier best (trap l)) none).map fun b =>
      (b, maskOf fun l => Mask.has m l && (trap l).any fun c => c.rank == b.rank && c.code == b.code) := by
  unfold firstTrap
  refine congrArg₂ Option.map (funext fun b => congrArg (fun p => (b, maskOf p)) (funext fun l => ?_)) rfl
  cases trap l <;> rfl

section firstTrap
variable {part bad : Mask} {trap : LaneIx → Option TrapC} {rank code : Nat}

/-- Lanes that all meet one condition trap together. -/
theorem firstTrap_of_one (hsub : ∀ l, Mask.has bad l = true → Mask.has part l = true) (hne : bad ≠ 0#32)
    (hbad : ∀ l, Mask.has bad l = true → ∃ c, trap l = some c ∧ c.rank = rank ∧ c.code = code)
    (hgood : ∀ l, Mask.has part l = true → Mask.has bad l = false → trap l = none) : ∃ c, firstTrap part trap = some (c, bad) := by
  have one (ls : List LaneIx) (hls : ∀ l ∈ ls, Mask.has part l = true) (best : Option TrapC)
      (hbest : ∀ c, best = some c → c.rank = rank ∧ c.code = code) (hsome : best.isSome = true ∨ ∃ l ∈ ls, Mask.has bad l = true) :
      ∃ c, ls.foldl (fun best l => earlier best (trap l)) best = some c ∧ c.rank = rank ∧ c.code = code := by
    induction ls generalizing best with
    | nil =>
      obtain ⟨c, hc⟩ := Option.isSome_iff_exists.mp (hsome.resolve_right (by simp))
      exact ⟨c, hc, hbest c hc⟩
    | cons l ls ih =>
      rw [List.foldl_cons]
      have hls' : ∀ j ∈ ls, Mask.has part j = true := fun j hj => hls j (by simp [hj])
      cases hl : Mask.has bad l with
      | false =>
        rw [hgood l (hls l (by simp)) hl]
        refine ih hls' best hbest (hsome.imp_right ?_)
        rintro ⟨j, hj, hb⟩
        rcases List.mem_cons.mp hj with rfl | hj
        · rw [hl] at hb; cases hb
        · exact ⟨j, hj, hb⟩
      | true =>
        obtain ⟨c, hc, hcond⟩ := hbad l hl
        rw [hc]
        cases best with
        | none => exact ih hls' _ (fun d hd => Option.some.inj hd ▸ hcond) (.inl rfl)
        | some b =>
          dsimp only [earlier]
          split
          · exact ih hls' _ (fun d hd => Option.some.inj hd ▸ hcond) (.inl rfl)
          · exact ih hls' _ hbest (.inl rfl)
  obtain ⟨l0, hl0⟩ : ∃ l, Mask.has bad l = true := by
    by_contra hno
    exact hne (Mask.ext' fun l => by rw [Mask.has_zero]; exact eq_false_of_ne_true fun h => hno ⟨l, h⟩)
  obtain ⟨c, hc, hrank, hcode⟩ := one (Mask.lanes part) (fun l hl => (Mask.mem_lanes ..).mp hl) none nofun
    (.inr ⟨l0, (Mask.mem_lanes ..).mpr (hsub l0 hl0), hl0⟩)
  refine ⟨c, ?_⟩
  rw [firstTrap_eq, hc, Option.map_some]
  refine congrArg (fun m => some (c, m)) (Mask.ext' fun l => ?_)
  rw [Mask.has_maskOf, hrank, hcode]
  cases hl : Mask.has bad l with
  | true =>
    obtain ⟨d, hd, rfl, rfl⟩ := hbad l hl
    rw [hsub l hl, hd]
    simp
  | false =>
    cases hp : Mask.has part l with
    | false => rfl
    | true => rw [hgood l hp hl]; rfl

/-- The end of an issue some of whose lanes meet one condition: the others' effect happens, and the group parks with the trap of the lowest
(19 R362, R363). -/
theorem State.finish_of_one {s : State} {x : Issue} (eff : Mask → State → State) (next : LaneIx → Word)
    (hsub : ∀ l, Mask.has bad l = true → Mask.has part l = true) (hne : bad ≠ 0#32)
    (hbad : ∀ l, Mask.has bad l = true → ∃ c, trap l = some c ∧ c.rank = rank ∧ c.code = code)
    (hgood : ∀ l, Mask.has part l = true → Mask.has bad l = false → trap l = none) :
    ∃ l0 c moved, Mask.low bad = some l0 ∧ trap l0 = some c ∧ c.code = code ∧ (∀ l, Mask.has bad l = true → Mask.has moved l = false) ∧
      s.finish x part trap eff next = .next (((eff (part &&& ~~~bad) s).updGrp x.gid fun g => g.advance x moved next).takeTrap x.gid
        ⟨code, x.pc, bad, c.info, c.addr, false⟩) := by
  obtain ⟨c0, hfirst⟩ := firstTrap_of_one hsub hne hbad hgood
  have hdone : (maskOf fun l => Mask.has part l && (trap l).isNone) = part &&& ~~~bad := by
    refine Mask.ext' fun l => ?_
    rw [Mask.has_maskOf, Mask.has_and, Mask.has_not]
    cases hl : Mask.has bad l with
    | true => obtain ⟨c, hc, -⟩ := hbad l hl; rw [hc]; rfl
    | false =>
      cases hp : Mask.has part l with
      | false => rfl
      | true => rw [hgood l hp hl]; rfl
  cases hlow : Mask.low bad with
  | none => exact absurd (Mask.ext' fun l => by rw [Mask.low_none hlow, Mask.has_zero]) hne
  | some l0 =>
    obtain ⟨c, hc, -, hcode⟩ := hbad l0 (Mask.has_of_low hlow)
    refine ⟨l0, c, (part &&& ~~~bad ||| (x.act &&& ~~~part)) &&& ~~~(0#32), rfl, hc, hcode, fun l hl => ?_, ?_⟩
    · simp only [Mask.has_and, Mask.has_or, Mask.has_not, hl, hsub l hl]
      cases Mask.has x.act l <;> rfl
    · unfold State.finish State.finishStay
      dsimp only
      rw [hfirst, hdone]
      dsimp only
      rw [hlow, Option.bind_some, hc, Option.getD_some, hcode]

end firstTrap

/-! ### Taking the trap -/

theorem State.alert_dram (s : State) (kind : Nat) (id : Dword) (a b : Word) (c : Dword) : (s.alert kind id a b c).dram = s.dram := by
  unfold State.alert
  dsimp only
  split <;> rfl
theorem State.alert_reqs (s : State) (kind : Nat) (id : Dword) (a b : Word) (c : Dword) : (s.alert kind id a b c).reqs = s.reqs := by
  unfold State.alert
  dsimp only
  split <;> rfl

/-- A trap taken: the group has its record and its die its entry, or stops its control core; memory and accesses stay (19 R363, R369). -/
theorem State.takeTrap_spec (s : State) (gid : Nat) (tr : Trap) :
    let t := s.takeTrap gid tr
    t.grp gid = (s.grp gid).map (fun g => { g with trap := some tr }) ∧ t.dram = s.dram ∧ t.reqs = s.reqs ∧
      (gid < 8192 → gid ∈ (t.die (dieOf gid)).trapQ) ∧ (8192 ≤ gid → (t.die (dieOf gid)).ctrlStopped = true) := by
  have own (f : DieSt → DieSt) : ((s.updGrp gid fun g => { g with trap := some tr }).updDie (dieOf gid) f).grp gid =
      (s.grp gid).map fun g => { g with trap := some tr } := (State.grp_updGrp ..).trans (if_pos rfl)
  have die (f : DieSt → DieSt) : ((s.updGrp gid fun g => { g with trap := some tr }).updDie (dieOf gid) f).die (dieOf gid) =
      f (s.die (dieOf gid)) := (Tab.getD_setD ..).trans (if_pos rfl)
  unfold State.takeTrap
  dsimp only
  split
  next h =>
    refine ⟨own _, rfl, rfl, fun _ => ?_, fun h' => absurd h h'.not_gt⟩
    rw [die]
    simp
  next h =>
    refine ⟨?_, State.alert_dram .., State.alert_reqs .., fun h' => absurd h' h, fun _ => ?_⟩
    · rw [State.grp, State.alert_groups]
      exact own _
    · rw [State.die, State.alert_dies]
      exact congrArg DieSt.ctrlStopped (die _)

/-! ### Where the trapped lanes stand -/

theorem Group.run_keys {g : Group} {m : Mask} : g.run = m → ∀ l, Mask.has m l = true → (g.lane l).st = .eligible ∧
    ∀ k, Mask.has m k = true → (g.lane k).pc = (g.lane l).pc := by
  rintro rfl l hl
  unfold Group.run at hl ⊢
  dsimp only at hl ⊢
  split at hl
  next => simp at hl
  next key _ =>
    rw [Mask.has_maskOf, Bool.and_eq_true, beq_iff_eq] at hl
    obtain ⟨helig, hkey⟩ := hl
    rw [Group.eligible, Mask.has_maskOf, Bool.and_eq_true, beq_iff_eq] at helig
    refine ⟨helig.1, fun k hk => ?_⟩
    rw [Mask.has_maskOf, Bool.and_eq_true, beq_iff_eq] at hk
    exact congrArg Prod.snd (hk.2.trans hkey.symm)

/-- The active lanes of a group that is inside of no instruction stand at its PC (13 R282). -/
theorem Issue.stands {s : State} {x : Issue} (hi : s.issue = some x) (hpin : x.g.pin = none) {l : LaneIx} (hl : Mask.has x.act l = true) :
    (x.g.lane l).pc = x.pc ∧ (x.g.lane l).st = .eligible := by
  unfold State.issue at hi
  split at hi
  · cases hi
  · obtain ⟨g, -, h⟩ := Option.bind_eq_some_iff.mp hi
    split at h
    · cases h
    · unfold issueOf at h
      split at h
      · cases h
      · dsimp only at h
        split at h
        · cases h
        next l0 hlow =>
          obtain rfl := Option.some.inj h
          dsimp only at hpin hl hlow ⊢
          rw [hpin] at hl hlow
          dsimp only at hl hlow
          obtain ⟨hst, hpc⟩ := Group.run_keys rfl l hl
          exact ⟨(hpc l0 (Mask.has_of_low hlow)).symm, hst⟩

/-- A lane that does not move stays where it stands while the others go on. -/
theorem Group.pc_advance_of_not_moved {g : Group} {x : Issue} {moved : Mask} {next : LaneIx → Word} {l : LaneIx}
    (hl : Mask.has moved l = false) (hst : (g.lane l).st = .eligible) (hlv : g.levels = []) :
    ((g.advance x moved next).lane l).pc = (g.lane l).pc := by
  have lane := Group.starve_countIssue g x.act l
  have levels : (g.countIssue x.act).levels = [] := by rw [← hlv]; simp only [Group.countIssue, Group.mapLanes_levels]
  unfold Group.advance
  dsimp only
  generalize g.countIssue x.act = c at lane levels ⊢
  have start : Group.Stands { c with pin := none, wait := .none, acq := false } l (g.lane l).pc :=
    ⟨(congrArg Lane.pc lane :), (congrArg Lane.st lane :).trans hst, fun lv h => by rw [levels] at h; cases h⟩
  exact ((start.moveLanes hl (fun _ _ => x.pc) fun _ l => next l).settle).1

/-- The group of an issue as it parks with the trap of some of its lanes: those lanes' registers are as they were, and they stand at the
instruction. -/
theorem trapLeft_of {s u : State} {x : Issue} {gu : Group} {moved : Mask} {next : LaneIx → Word} {tr : Trap} (hi : s.issue = some x)
    (hpin : x.g.pin = none) (hact : ∀ l, Mask.has tr.lanes l = true → Mask.has x.act l = true)
    (hmoved : ∀ l, Mask.has tr.lanes l = true → Mask.has moved l = false) (hu : u.grp x.gid = some gu) (hlv : gu.levels = x.g.levels)
    (hlane : ∀ l, { gu.lane l with stack := [], fw := {}, rsig := 0#32, nfold := 0 } =
      { x.g.lane l with stack := [], fw := {}, rsig := 0#32, nfold := 0 })
    (hnear : ∀ l, Mask.has tr.lanes l = true → ∀ k, RCell.near ((x.g.lane l).stack.getD {} k) ((gu.lane l).stack.getD {} k)) :
    let t := (u.updGrp x.gid fun g => g.advance x moved next).takeTrap x.gid tr
    TrapLeft t x tr ∧ t.dram = u.dram ∧ t.reqs = u.reqs := by
  obtain ⟨own, dram, reqs, core, ctrl⟩ := (u.updGrp x.gid fun g => g.advance x moved next).takeTrap_spec x.gid tr
  rw [State.grp_updGrp, if_pos rfl, hu, Option.map_some, Option.map_some] at own
  have stack := Group.stack_of_still (Group.still_advance gu x moved next)
  have stays (hx : x.g.levels = []) (l) (hl : Mask.has tr.lanes l = true) : ((gu.advance x moved next).lane l).pc = x.pc := by
    obtain ⟨hpc, hst⟩ := Issue.stands hi hpin (hact l hl)
    have pc : (gu.lane l).pc = (x.g.lane l).pc := (congrArg Lane.pc (hlane l) :)
    have st : (gu.lane l).st = (x.g.lane l).st := (congrArg Lane.st (hlane l) :)
    rw [Group.pc_advance_of_not_moved (hmoved l hl) (st.trans hst) (hlv.trans hx), pc, hpc]
  generalize gu.advance x moved next = g' at own stack stays
  refine ⟨⟨⟨_, own, rfl, fun l hl => ⟨fun hx => stays hx l hl, fun k => ?_⟩⟩, core, ctrl⟩, dram, reqs⟩
  change RCell.near _ ((g'.lane l).stack.getD {} k)
  rw [stack]
  exact hnear l hl k

/-! ### Conditions of loads and stores -/

/-- The place of a condition of a load or store in the order of R126. -/
def accessRank (code : Nat) : Nat :=
  if code = 0x03 then 2 else if code = 0x13 then 3 else if code = 0x05 then 5 else if code = 0x08 then 6 else 4

theorem Issue.act_of_part {x : Issue} {guard : Bool} {l : LaneIx} (h : Mask.has (x.part guard) l = true) : Mask.has x.act l = true := by
  unfold Issue.part at h
  split at h
  · rw [Mask.has_and, Bool.and_eq_true] at h
    exact h.1
  · exact h

section traps
variable {i : Instr} {f : AccessForm} {s : State} {x : Issue} {store : Bool} {m : LaneIx → Meet} {bad : Mask} {code : Nat}

/-- A lane whose operands are there and whose address meets a condition traps with it (R126; 19 R365). -/
theorem State.meet_of_refuses {l : LaneIx} {info : Word} {addr : Dword} {srcs : List Operand}
    (h : Refuses i f s x store l code info addr) (ht : x.g.operandTrap (s.stackOf x.g) srcs l = none) :
    s.meet x (s.stackOf x.g) ⟨encode i, srcs, f.size, f.size, if store then needWrite else needRead, if store then 1 else 0, true, store⟩ l
      (f.addr x (s.stackOf x.g) l) = .trap { rank := accessRank code, code, info, addr } := by
  unfold State.meet
  rw [ht]
  dsimp only
  rcases h with ⟨halign, rfl, rfl, rfl⟩ | ⟨halign, h⟩
  · rw [if_pos halign]
    rfl
  · rw [if_neg (by omega)]
    rcases h with ⟨hclass, rfl, rfl, rfl⟩ | ⟨off, hclass, h⟩ | ⟨hclass, rfl, h⟩ <;> rw [hclass] <;> dsimp only
    · rfl
    · rw [if_pos rfl]
      rcases h with ⟨hout, rfl, rfl, rfl⟩ | ⟨hin, rfl, hmark, rfl, rfl, rfl⟩
      · exact if_pos hout
      · exact (if_neg hin.not_gt).trans (if_pos (by rw [Bool.true_and]; exact hmark))
    · rcases h with ⟨lv, hlook, rfl, rfl⟩ | ⟨r, hlook, rfl, rfl⟩ <;> rw [hlook] <;> rfl

theorem State.meetOf_of_refuses {l : LaneIx} {info : Word} {addr : Dword} (h : Refuses i f s x store l code info addr)
    (ht : x.g.operandTrap (s.stackOf x.g) (f.srcs ++ if store then [f.reg] else []) l = none) :
    s.meetOf x f (encode i) store l = .trap { rank := accessRank code, code, info, addr } := by
  refine State.meet_of_refuses h ?_
  cases store with
  | true => exact ht
  | false => simpa using ht

/-- The lanes `bad` of a load or store meet one condition, and the accesses of the others go on. -/
structure Refused (i : Instr) (f : AccessForm) (s : State) (x : Issue) (store : Bool) (bad : Mask) (code : Nat) : Prop where
  trapped : ∀ l, Mask.has bad l = true → Mask.has (x.part f.guard) l = true ∧ ∃ info addr, Refuses i f s x store l code info addr ∧
    s.meetOf x f (encode i) store l = .trap { rank := accessRank code, code, info, addr }
  lands : ∀ l, Mask.has (x.part f.guard &&& ~~~bad) l = true → (s.meetOf x f (encode i) store l).Lands
  settled : Settled s x f (encode i) store

theorem refused_of (hr : x.Ready (s.stackOf x.g) (x.part f.guard) (f.srcs ++ if store then [f.reg] else []) (f.srcs ++ if f.nw then [] else [f.reg]))
    (hbad : ∀ l, Mask.has bad l = true → Mask.has (x.part f.guard) l = true ∧ ∃ info addr, Refuses i f s x store l code info addr)
    (hgood : ∀ l, Mask.has (x.part f.guard) l = true → Mask.has bad l = false → (f.addr x (s.stackOf x.g) l).toNat % f.size = 0 ∧
      Goes s x store (if store then needWrite else needRead) f.size l (f.addr x (s.stackOf x.g) l) (m l)) :
    Refused i f s x store bad code := by
  have trapped (l) (hl : Mask.has bad l = true) : Mask.has (x.part f.guard) l = true ∧ ∃ info addr,
      Refuses i f s x store l code info addr ∧
        s.meetOf x f (encode i) store l = .trap { rank := accessRank code, code, info, addr } := by
    obtain ⟨hl', info, addr, h⟩ := hbad l hl
    exact ⟨hl', info, addr, h, State.meetOf_of_refuses h (hr.operandTrap hl')⟩
  have meet (l) (hl : Mask.has (x.part f.guard) l = true) (hb : Mask.has bad l = false) : s.meetOf x f (encode i) store l = m l :=
    State.meetOf_of_goes (hr.operandTrap hl) (hgood l hl hb)
  refine ⟨trapped, fun l hl => ?_, fun l hl => ?_⟩
  · obtain ⟨hl, hb⟩ : Mask.has (x.part f.guard) l = true ∧ Mask.has bad l = false := by simpa using hl
    exact (meet l hl hb).symm ▸ lands_of_goes (hgood l hl hb).2
  · cases hb : Mask.has bad l with
    | true =>
      obtain ⟨-, _, _, -, h⟩ := trapped l hb
      rw [h]
      exact ⟨nofun, nofun⟩
    | false =>
      rw [meet l hl hb]
      exact ⟨(lands_of_goes (hgood l hl hb).2).not_walk, fun a hm => present_of_goes (hm ▸ (hgood l hl hb).2)⟩

/-- The lanes that meet a condition trap, once the effect on the others is known. -/
theorem Refused.traps (h : Refused i f s x store bad code) (hi : s.issue = some x) (hpin : x.g.pin = none) (hne : bad ≠ 0#32)
    {eff : Mask → State → State}
    (hexec : exec i s = s.finish x (x.part f.guard) (fun l => (s.meetOf x f (encode i) store l).trap?) eff x.seq) {gu : Group}
    (own : (eff (x.part f.guard &&& ~~~bad) s).grp x.gid = some gu) (levels : gu.levels = x.g.levels)
    (lane : ∀ l, { gu.lane l with stack := [], fw := {}, rsig := 0#32, nfold := 0 } =
      { x.g.lane l with stack := [], fw := {}, rsig := 0#32, nfold := 0 })
    (near : ∀ l, Mask.has bad l = true → ∀ k, RCell.near ((x.g.lane l).stack.getD {} k) ((gu.lane l).stack.getD {} k))
    (dram : (eff (x.part f.guard &&& ~~~bad) s).dram = s.dram)
    (made : ∀ rid r, (eff (x.part f.guard &&& ~~~bad) s).reqs.find rid = some r → s.reqs.find rid = some r ∨
      ∃ l, Mask.has (x.part f.guard &&& ~~~bad) l = true ∧ r.maker = .lane x.gid l.val) :
    ∃ (t : State) (info : Word) (addr : Dword) (l0 : LaneIx), exec i s = .next t ∧ Mask.low bad = some l0 ∧
      Refuses i f s x store l0 code info addr ∧ TrapLeft t x ⟨code, x.pc, bad, info, addr, false⟩ ∧ t.dram = s.dram ∧
      ∀ rid r, t.reqs.find rid = some r → s.reqs.find rid = some r ∨
        ∃ l, Mask.has (x.part f.guard) l = true ∧ Mask.has bad l = false ∧ r.maker = .lane x.gid l.val := by
  obtain ⟨l0, c, moved, hlow, hc, hcode, hmoved, hfin⟩ := State.finish_of_one (rank := accessRank code) (code := code)
    (trap := fun l => (s.meetOf x f (encode i) store l).trap?) eff x.seq (fun l hl => (h.trapped l hl).1) hne
    (fun l hl => by obtain ⟨-, info, addr, -, h⟩ := h.trapped l hl; exact ⟨_, congrArg Meet.trap? h, rfl, rfl⟩)
    fun l hl hb => (h.lands l (by simpa using ⟨hl, hb⟩)).trap
  obtain ⟨-, info, addr, href, hmeet⟩ := h.trapped l0 (Mask.has_of_low hlow)
  rw [hmeet] at hc
  obtain rfl := Option.some.inj hc
  obtain ⟨left, hdram, hreqs⟩ := trapLeft_of (tr := ⟨code, x.pc, bad, info, addr, false⟩) (next := x.seq) hi hpin
    (fun l hl => Issue.act_of_part (h.trapped l hl).1) hmoved own levels lane near
  refine ⟨_, info, addr, l0, hexec.trans hfin, hlow, href, left, hdram.trans dram, fun rid r hfind => ?_⟩
  rw [hreqs] at hfind
  refine (made rid r hfind).imp_right ?_
  rintro ⟨l, hl, hmaker⟩
  obtain ⟨hl, hb⟩ : Mask.has (x.part f.guard) l = true ∧ Mask.has bad l = false := by simpa using hl
  exact ⟨l, hl, hb, hmaker⟩

end traps

theorem Group.levels_looked (g : Group) (act : Mask) (n wb : Nat) (part : Mask) (ops : List Operand) :
    (g.looked act n wb part ops).levels = g.levels := (congrArg Group.levels (Group.looked_frame g act n wb part ops) :)

theorem Group.lane_looked_keeps (g : Group) (act : Mask) (n wb : Nat) (part : Mask) (ops : List Operand) (l : LaneIx) :
    { (g.looked act n wb part ops).lane l with stack := [], fw := {}, rsig := 0#32, nfold := 0 } =
      { g.lane l with stack := [], fw := {}, rsig := 0#32, nfold := 0 } := by
  rw [Group.lane_looked]
  have h := Group.scrub_other g n wb part ops l
  generalize (g.scrub n wb part ops).lane l = a at h ⊢
  exact (congrArg (fun v : Lane => { v with rsig := 0#32, nfold := 0 }) h :)

/-- Settles O58: the lanes that meet the condition are the ones that trap, so the others' accesses are made as in an issue without them. -/
theorem accessTraps : Obligations.AccessTraps := by
  intro i f store hwf hf s x m bad code hi hpin hr hne hbad hgood
  have refused := refused_of hr hbad hgood
  have pending := hr.pending
  cases store with
  | false =>
    obtain ⟨wb, h⟩ := State.loadOp_finish hi pending refused.settled
    obtain ⟨gu, made⟩ := State.loads_made hi wb refused.lands
    have awaiting := (Group.requested_still made.unsigned rfl (loads_regFits hwf hf).2).1
    refine refused.traps hi hpin hne ((loads_exec hf s).trans h) made.own (Group.requested_levels made.unsigned)
      (Group.requested_lane made.unsigned) (fun l hl k => awaiting.others l k fun ⟨_, _, hl', _⟩ => ?_) made.dram made.made
    simp [hl] at hl'
  | true =>
    have hnw := (stores_size hf).1
    obtain ⟨wb, h⟩ := State.storeOp_finish (word := encode i) hi (by simpa [hnw] using pending) refused.settled
    have made := State.stores_made s x f (encode i) refused.lands
      (s.updGrp x.gid (Group.looked x.act (s.stackOf x.g) wb (x.part f.guard) (f.srcs ++ [f.reg])))
    have own := State.grp_of_groups (f := Group.looked x.act (s.stackOf x.g) wb (x.part f.guard) (f.srcs ++ [f.reg])) (State.grp_of_issue hi)
      made.groups
    refine refused.traps hi hpin hne ((stores_exec hf s).trans h) own.1 (Group.levels_looked ..) (fun l => Group.lane_looked_keeps ..)
      (fun l _ k => ?_) made.dram made.made
    rw [Group.lane_looked]
    exact Group.scrub_near ..

end Sys2Proof.Machine
end

section
/-! SUPPORT. Atomics as they are issued (06 R123, R135, R137; 07 R148). -/

namespace Sys2Proof.Machine
open Sys2Proof.Rules

/-! ### A line dropped from an L1 (06 R118) -/

/-- Dropping a line from an L1 changes L1s, updates and the lists of sharers; the bytes that the L2 holds stay. -/
theorem State.l1Evict_eq (s : State) (c ln7 : Nat) : ∃ cs us ls, s.l1Evict c ln7 = { s with cores := cs, upds := us, l2 := ls } ∧
    ∀ k, (Tab.find ls k).map L2Line.data = (s.l2.find k).map L2Line.data := by
  unfold State.l1Evict
  dsimp only
  split
  · exact ⟨_, _, s.l2, rfl, fun _ => rfl⟩
  · refine ⟨_, _, _, rfl, fun k => ?_⟩
    have pairs : (s.l2.map fun e => if e.1 % 2 ^ 32 = ln7 / 2 then (e.1, { e.2 with sharers := e.2.sharers.erase c }) else e).map
        (fun e => (e.1, e.2.data)) = s.l2.map fun e => (e.1, e.2.data) := by
      rw [List.map_map]
      refine List.map_congr_left fun e _ => ?_
      dsimp only [Function.comp_apply]
      split <;> rfl
    exact (Tab.find_map_snd ..).symm.trans ((congrArg (Tab.find · k) pairs).trans (Tab.find_map_snd ..))

theorem accessing_l1Evict {gid n : Nat} {P : LaneIx → Prop} (s : State) (c ln7 : Nat) : Accessing gid P n s (s.l1Evict c ln7) := by
  obtain ⟨_, _, _, h, -⟩ := s.l1Evict_eq c ln7
  rw [h]
  exact Accessing.of_eq rfl le_rfl rfl rfl rfl

/-! ### One lane's atomic -/

/-- A lane's atomic as it has been put in flight. -/
def AtomicInFlight (x : Issue) (n : Nat) (f : AtomicForm) (done : Mask) (pa key : Nat) (l : LaneIx) (r : Req) : Prop :=
  r.maker = .lane x.gid l.val ∧ r.kind = .atomic f.op (f.word x n l 0) (f.word x n l 1) ∧ r.pa = pa ∧ r.key = key ∧
    r.order = f.order ∧ r.scope = f.scope ∧ r.stage = .sent ∧ r.dst = dstOf x.g n done false ⟨f.d, 1⟩ l

section atomicLane
variable {x : Issue} {n : Nat} {f : AtomicForm} {P : LaneIx → Prop} {l : LaneIx}

/-- One lane's atomic outside a checked run (R123, R135, R137). -/
theorem State.atomicLane_spec (hP : P l) (t : State) (word : Word) (done : Mask) (logKey : LogKey) (va : Dword) (pa key : Nat) :
    let u := t.atomicLane x n word f.op f.order f.scope ⟨f.d, 1⟩ (f.word x n l 0) (f.word x n l 1) done .plain logKey (.mem pa key) va l
    Accessing x.gid P t.nextId t u ∧ (∀ k, (u.l2.find k).map L2Line.data = (t.l2.find k).map L2Line.data) ∧
      ∃ rid, t.nextId ≤ rid ∧ rid < u.nextId ∧ ∃ r, u.reqs.find rid = some r ∧ AtomicInFlight x n f done pa key l r := by
  -- the register signature's place is reserved first
  obtain ⟨v, fold, hv, hl2, hstep⟩ : ∃ v fold, Accessing x.gid P t.nextId t v ∧ v.l2 = t.l2 ∧
      (if foldsIn done false ⟨f.d, 1⟩ l then let (s, p) := t.reserve x.gid l 1; (s, some p) else (t, none)) = (v, fold) := by
    split
    · exact ⟨_, _, accessing_reserve t l 1, rfl, rfl⟩
    · exact ⟨_, _, Accessing.refl t, rfl, rfl⟩
  unfold State.atomicLane
  dsimp only at hstep ⊢
  rw [hstep]
  dsimp only [Logged.values]
  -- then the line is dropped from its L1, and the access made
  generalize hc : (v.reqOf x l word (.atomic f.op (f.word x n l 0) (f.word x n l 1)) va pa key).member = c
  obtain ⟨_, _, _, evict, data⟩ := v.l1Evict_eq c (pa / 128)
  have dropped : Accessing x.gid P t.nextId v (v.l1Evict c (pa / 128)) := accessing_l1Evict ..
  have data' (k : Nat) : ((v.l1Evict c (pa / 128)).l2.find k).map L2Line.data = (t.l2.find k).map L2Line.data := by
    rw [evict, ← hl2]
    exact data k
  clear evict data
  generalize v.l1Evict c (pa / 128) = w at dropped data' ⊢
  have acted (tid : Nat) : Accessing x.gid P t.nextId w (w.updTeam tid fun t => if t.logs then { t with acted := true } else t) :=
    accessing_updTeam w tid fun t => by split <;> rfl
  have made (tid : Nat) (q : Req) (hq : AtomicInFlight x n f done pa key l q) :
      let u := ((w.updTeam tid fun t => if t.logs then { t with acted := true } else t).launch q).1
      Accessing x.gid P t.nextId t u ∧ (∀ k, (u.l2.find k).map L2Line.data = (t.l2.find k).map L2Line.data) ∧
        ∃ rid, t.nextId ≤ rid ∧ rid < u.nextId ∧ ∃ r, u.reqs.find rid = some r ∧ AtomicInFlight x n f done pa key l r := by
    have before := (hv.trans dropped le_rfl).trans (acted tid) le_rfl
    generalize hy : (w.updTeam tid fun t => if t.logs then { t with acted := true } else t) = y at before
    have hl : y.l2 = w.l2 := hy ▸ rfl
    obtain ⟨-, -, -, l2⟩ := y.launch_units q
    obtain ⟨rid, hle, hlt, found⟩ := y.launch_found q
    refine ⟨before.trans (accessing_launch hP hq.1 y) before.nextId, fun k => ?_, rid, before.nextId.trans hle, hlt, q, found, hq⟩
    rw [l2, hl]
    exact data' k
  exact made _ _ ⟨rfl, rfl, rfl, rfl, rfl, rfl, rfl, rfl⟩

end atomicLane

/-! ### The atomics of an issue's lanes -/

/-- A group whose lanes' operands have been read and of which lanes await an atomic's word; a releasing one has performed its release
point. -/
def Group.atomics (x : Issue) (f : AtomicForm) (n wb : Nat) (g : Group) : Group :=
  let g := (g.looked x.act n wb x.act (⟨f.a, 2⟩ :: f.b.toList)).setPend n x.act false ⟨f.d, 1⟩
  if f.order.releases then g.released none else g

/-- The release point that an atomic performs, if it releases (07 R148). -/
def State.releasesFor (s : State) (gid : Nat) (o : MOrder) : State := if o.releases then s.releasePoint gid none else s

/-- The atomics of lanes, one after another. -/
def State.makeAtomics (x : Issue) (f : AtomicForm) (n : Nat) (word : Word) (key : LaneIx → LogKey) (m : LaneIx → Meet) (done : Mask)
    (t : State) : State :=
  (Mask.lanes done).foldl (fun t l => t.atomicLane x n word f.op f.order f.scope ⟨f.d, 1⟩ (f.word x n l 0) (f.word x n l 1) done .plain
    (key l) (m l) (x.g.src2 n l f.a) l) t

/-- A release point changes no access, no line and no byte of memory. -/
theorem State.raiseRel_keeps (s : State) (tid : Nat) :
    ((s.raiseRel tid).nextId, (s.raiseRel tid).reqs, (s.raiseRel tid).l2, (s.raiseRel tid).dram) = (s.nextId, s.reqs, s.l2, s.dram) := by
  refine foldl_same (fun s : State => (s.nextId, s.reqs, s.l2, s.dram)) (fun t k => ?_) _ s
  refine Eq.trans ?_ (foldl_same (fun s : State => (s.nextId, s.reqs, s.l2, s.dram)) (f := fun s (e : Nat × Group) => s.updGrp e.1 id)
    (fun _ _ => rfl) (t.groupsOf k) (t.updTeam k fun t => { t with relNo := t.relNo + 1 }))
  unfold State.mapTeam
  dsimp only
  split <;> rfl

theorem State.releasesFor_keeps (s : State) (gid : Nat) (o : MOrder) :
    let t := s.releasesFor gid o
    (t.nextId, t.reqs, t.l2, t.dram) = (s.nextId, s.reqs, s.l2, s.dram) := by
  unfold State.releasesFor State.releasePoint
  dsimp only
  split
  · split
    · rfl
    · exact State.raiseRel_keeps ..
  · rfl

theorem State.groups_releasesFor (s : State) (gid : Nat) (o : MOrder) :
    (s.releasesFor gid o).groups = (s.updGrp gid fun g => if o.releases then g.released none else g).groups := by
  unfold State.releasesFor
  cases o.releases with
  | true => exact State.groups_releasePoint ..
  | false => exact (State.groups_updGrp_id ..).symm

/-- What a logged atomic's entry holds (12 R265). -/
def atomicLogKey (f : AtomicForm) (x : Issue) (n : Nat) (l : LaneIx) : LogKey where
  kind := if f.order.acquires && f.scope != .team then 2 else 1
  operand := if f.op = .cas then f.word x n l 1 else f.word x n l 0
  addr := foldVa (x.g.src2 n l f.a)

/-- What a lane of an atomic meets (R126). -/
def State.atomicMeet (s : State) (x : Issue) (f : AtomicForm) (word : Word) (l : LaneIx) : Meet :=
  s.meet x (s.stackOf x.g) ⟨word, ⟨f.a, 2⟩ :: f.b.toList, 4, 4, needAtomic, 2, false, false⟩ l (x.g.src2 (s.stackOf x.g) l f.a)

section atomics
variable {s : State} {x : Issue} {f : AtomicForm}

/-- An atomic outside a checked run whose lanes all reach memory: its accesses are made, after its release point, and the lanes go on. -/
theorem State.atomicOp_next {word : Word} (hi : s.issue = some x) (hp : Plain s x)
    (hr : x.Ready (s.stackOf x.g) x.act (⟨f.a, 2⟩ :: f.b.toList) (⟨f.a, 2⟩ :: f.b.toList ++ [⟨f.d, 1⟩]))
    (hrel : f.order.releases = true → s.releaseReady x.gid x.g f.scope = true) (hact : x.act ≠ 0#32)
    (lands : ∀ l, Mask.has x.act l = true → (s.atomicMeet x f word l).Lands) :
    ∃ wb key b, s.atomicOp word f.op f.order f.scope f.d f.a f.b = .next ((State.makeAtomics x f (s.stackOf x.g) word key
      (s.atomicMeet x f word) x.act b).updGrp x.gid fun g => g.advance x x.act x.seq) ∧
      b.groups = (s.updGrp x.gid (Group.atomics x f (s.stackOf x.g) wb)).groups ∧
      (b.nextId, b.reqs, b.l2, b.dram) = (s.nextId, s.reqs, s.l2, s.dram) := by
  obtain ⟨wb, h⟩ := State.reachOp_of_no_walk (k := ⟨word, ⟨f.a, 2⟩ :: f.b.toList, 4, 4, needAtomic, 2, false, false⟩)
    (va := fun l => x.g.src2 (s.stackOf x.g) l f.a) (part := x.act) (fun l hl => (lands l hl).not_walk) (fun _ _ => false)
    (fun m done t => State.makeAtomics x f (s.stackOf x.g) word (atomicLogKey f x (s.stackOf x.g)) m done
      (let t := t.updGrp x.gid fun g => g.setPend (s.stackOf x.g) done false ⟨f.d, 1⟩
      if f.order.releases && done != 0#32 then t.releasePoint x.gid none else t)) rfl
  replace h := h.trans (State.finish_part (guard := false) _ _ fun l hl => (lands l hl).trap)
  refine ⟨wb, atomicLogKey f x (s.stackOf x.g), ((s.updGrp x.gid fun g => (g.looked x.act (s.stackOf x.g) wb x.act (⟨f.a, 2⟩ :: f.b.toList)).setPend
    (s.stackOf x.g) x.act false ⟨f.d, 1⟩).releasesFor x.gid f.order), ?_, ?_, ?_⟩
  · have ready : (x.g.pending (s.stackOf x.g) x.act (⟨f.a, 2⟩ :: f.b.toList ++ [⟨f.d, 1⟩]) ||
        (f.order.releases && !s.releaseReady x.gid x.g f.scope)) = false := by
      rw [Issue.Ready.pending (guard := false) hr]
      cases ho : f.order.releases with
      | false => rfl
      | true => rw [hrel ho]; rfl
    unfold State.atomicOp
    rw [State.withIssue_of hi]
    dsimp only
    refine (if_neg (ne_true_of_eq_false ready)).trans ?_
    rw [State.logged_of_plain hp]
    refine Eq.trans h ?_
    have releases : (f.order.releases && x.part false != 0#32) = f.order.releases := by simp [Issue.part, hact]
    dsimp only
    rw [releases, State.updGrp_updGrp]
    rfl
  · rw [State.groups_releasesFor]
    simp only [State.updGrp_updGrp]
    rfl
  · exact State.releasesFor_keeps ..


/-- What the atomics of lanes that reach memory leave of the state, before the lanes go on. -/
structure AtomicsMade (s : State) (x : Issue) (f : AtomicForm) (wb : Nat) (m : LaneIx → Meet) (gu : Group) (u : State) : Prop where
  own : u.grp x.gid = some gu
  unsigned : gu.unsigned = (x.g.atomics x f (s.stackOf x.g) wb).unsigned
  others : ∀ k, k ≠ x.gid → u.grp k = s.grp k
  dram : u.dram = s.dram
  data : ∀ k, (u.l2.find k).map L2Line.data = (s.l2.find k).map L2Line.data
  found : ∀ l, Mask.has x.act l = true → ∃ rid r pa key, s.nextId ≤ rid ∧ u.reqs.find rid = some r ∧ m l = .mem pa key ∧
    AtomicInFlight x (s.stackOf x.g) f x.act pa key l r

theorem State.atomics_made {word : Word} {key : LaneIx → LogKey} {m : LaneIx → Meet} {b : State} {wb : Nat} (hi : s.issue = some x)
    (hm : ∀ l, Mask.has x.act l = true → ∃ pa key, m l = .mem pa key)
    (hgroups : b.groups = (s.updGrp x.gid (Group.atomics x f (s.stackOf x.g) wb)).groups)
    (hkeeps : (b.nextId, b.reqs, b.l2, b.dram) = (s.nextId, s.reqs, s.l2, s.dram)) :
    ∃ gu, AtomicsMade s x f wb m gu (State.makeAtomics x f (s.stackOf x.g) word key m x.act b) := by
  obtain ⟨hid, -, hl2, hdram⟩ : b.nextId = s.nextId ∧ b.reqs = s.reqs ∧ b.l2 = s.l2 ∧ b.dram = s.dram := by
    simpa only [Prod.mk.injEq] using hkeeps
  obtain ⟨hown, hothers⟩ := State.grp_of_groups (State.grp_of_issue hi) hgroups
  obtain ⟨accessing, data, found⟩ := accessing_foldl (gid := x.gid) (P := fun l => Mask.has x.act l = true) (s := b)
    (W := fun _ => True) (I := fun _ u => ∀ k, (u.l2.find k).map L2Line.data = (b.l2.find k).map L2Line.data)
    (Q := fun l r => ∃ pa key, m l = .mem pa key ∧ AtomicInFlight x (s.stackOf x.g) f x.act pa key l r)
    (f := fun t l => t.atomicLane x (s.stackOf x.g) word f.op f.order f.scope ⟨f.d, 1⟩ (f.word x (s.stackOf x.g) l 0)
      (f.word x (s.stackOf x.g) l 1) x.act .plain (key l) (m l) (x.g.src2 (s.stackOf x.g) l f.a) l) (Mask.lanes x.act) (fun _ => rfl)
    fun _ t l hl _ hdata => by
      have hl := (Mask.mem_lanes ..).mp hl
      obtain ⟨pa, k, hmem⟩ := hm l hl
      obtain ⟨launched, data, rid, hle, hlt, r, hfind, hr⟩ := State.atomicLane_spec (x := x) (n := s.stackOf x.g) (f := f)
        (P := fun l => Mask.has x.act l = true) hl t word x.act (key l) (x.g.src2 (s.stackOf x.g) l f.a) pa k
      rw [hmem]
      exact ⟨launched, fun k => (data k).trans (hdata k), fun _ => ⟨rid, hle, hlt, r, hfind, pa, k, rfl, hr⟩⟩
  obtain ⟨gu, hgu, unsigned⟩ := accessing.grp hown
  refine ⟨gu, hgu, unsigned, fun k hk => (accessing.others k hk).trans (hothers k hk), accessing.dram.trans hdram, fun k => ?_,
    fun l hl => ?_⟩
  · rw [← hl2]
    exact data k
  · obtain ⟨rid, r, hle, hfind, pa, k, hmem, hr⟩ := found l ((Mask.mem_lanes ..).mpr hl) trivial
    exact ⟨rid, r, pa, k, hid ▸ hle, hfind, hmem, hr⟩

end atomics

/-! ### The group of an atomic -/

theorem Group.sameRegs_released (g : Group) (carry : Option Scope) : g.SameRegs (g.released carry) :=
  ⟨fun _ => rfl, fun _ => rfl, fun _ => rfl, rfl⟩

section group
variable {x : Issue} {f : AtomicForm} {n wb : Nat}

theorem Group.atomics_sameRegs : ((x.g.looked x.act n wb x.act (⟨f.a, 2⟩ :: f.b.toList)).setPend n x.act false ⟨f.d, 1⟩).SameRegs
    (x.g.atomics x f n wb) := by
  unfold Group.atomics
  dsimp only
  split
  · exact Group.sameRegs_released ..
  · exact Group.sameRegs_of_still rfl

theorem Group.levels_atomics : (x.g.atomics x f n wb).levels = x.g.levels := by
  have set := (congrArg Group.levels (Group.setPend_frame (x.g.looked x.act n wb x.act (⟨f.a, 2⟩ :: f.b.toList)) n x.act false ⟨f.d, 1⟩) :)
  unfold Group.atomics
  dsimp only
  split
  · exact set.trans (Group.levels_looked ..)
  · exact set.trans (Group.levels_looked ..)

theorem Group.wb_atomics {gu : Group} (hu : gu.unsigned = (x.g.atomics x f n wb).unsigned) (l : LaneIx) :
    (gu.lane l).wb = (x.g.lane l).wb := by
  have same := Group.atomics_sameRegs.trans (Group.sameRegs_of_unsigned hu)
  have looked := Group.wb_looked x.g x.act n wb x.act (⟨f.a, 2⟩ :: f.b.toList) l
  generalize x.g.looked x.act n wb x.act (⟨f.a, 2⟩ :: f.b.toList) = g at same looked
  exact ((same.wb l).trans (congrArg Lane.wb (Group.lane_setPend ..))).trans looked

end group

/-- An issue has a lane (13 R282). -/
theorem Issue.act_ne_zero {s : State} {x : Issue} (hi : s.issue = some x) : x.act ≠ 0#32 := by
  unfold State.issue at hi
  split at hi
  · cases hi
  · obtain ⟨g, -, h⟩ := Option.bind_eq_some_iff.mp hi
    split at h
    · cases h
    · unfold issueOf at h
      split at h
      · cases h
      · dsimp only at h
        split at h
        · cases h
        next l0 hlow =>
          obtain rfl := Option.some.inj h
          intro hact
          have has := Mask.has_of_low hlow
          dsimp only at hact
          rw [hact, Mask.has_zero] at has
          cases has

/-- An atomic instruction is an atomic operation of its form (R135). -/
theorem atomics_exec {i : Instr} {f : AtomicForm} (h : atomics i = some f) (s : State) :
    exec i s = s.atomicOp (encode i) f.op f.order f.scope f.d f.a f.b := by
  unfold atomics at h
  split at h <;> cases h <;> rfl

theorem regFits_z : RegFits ⟨Reg.z, 1⟩ := ⟨by decide, fun h => absurd h (by decide)⟩

theorem atomics_regFits {i : Instr} {f : AtomicForm} (hw : i.wellFormed = true) (h : atomics i = some f) : RegFits ⟨f.d, 1⟩ := by
  unfold atomics at h
  split at h <;> cases h
  case h_13 => exact regFits_z
  all_goals exact regFits_of_dst hw (by simp [Instr.operands, atomicOf]) rfl

/-- Settles O16: the lanes' accesses are made one after another from the state that the operands' reading and the release point leave. -/
theorem atomicsIssue : Obligations.AtomicsIssue := by
  intro i f hwf hf s x pa key hi hr hrel hgo hp
  have meet (l) (hl : Mask.has x.act l = true) : s.atomicMeet x f (encode i) l = .mem (pa l) (key l) :=
    State.meet_of_goes (hgo l hl).2 (hr.operandTrap (guard := false) hl) (hgo l hl).1 nofun
  obtain ⟨wb, lk, b, h, hgroups, hkeeps⟩ := State.atomicOp_next (word := encode i) hi hp hr hrel (Issue.act_ne_zero hi)
    fun l hl => .inr ⟨_, _, meet l hl⟩
  obtain ⟨gu, made⟩ := State.atomics_made (word := encode i) (key := lk) hi (fun l hl => ⟨_, _, meet l hl⟩) hgroups hkeeps
  have same := Group.atomics_sameRegs.trans (Group.sameRegs_of_unsigned made.unsigned)
  have levels : gu.levels = x.g.levels := (congrArg Group.levels (Group.eq_of_unsigned made.unsigned) :).trans Group.levels_atomics
  have awaiting := Group.awaiting x.g _ _ _ _ _ _ _ _ (atomics_regFits hwf hf).2 (same.trans (Group.sameRegs_of_still (Group.still_advance gu x x.act x.seq)))
  refine ⟨_, gu.advance x x.act x.seq, (atomics_exec hf s).trans h, ?_, fun k hk => ?_, made.dram, made.data, fun l hl => ?_,
    fun hd l hl => awaiting.window rfl hd l hl 0 Nat.one_pos, fun hd => awaiting.uniform rfl hd (Issue.act_ne_zero hi) 0 Nat.one_pos,
    Group.goOn_advance levels (Group.wb_atomics made.unsigned)⟩
  · rw [State.grp_updGrp, if_pos rfl, made.own]
    rfl
  · rw [State.grp_updGrp, if_neg hk, made.others k hk]
  · obtain ⟨rid, r, _, _, hle, hfind, hmem, hmaker, hkind, hpa, hkey, hrest⟩ := made.found l hl
    have reached := hmem.symm.trans (meet l hl)
    injection reached with e1 e2
    exact ⟨rid, r, hle, hfind, hmaker, hkind, hpa.trans e1, hkey.trans e2, hrest⟩

end Sys2Proof.Machine
end

section
/-! SUPPORT. The line instructions (06 R140) and the instructions that prefetch and drop code lines (06 R140; 13 R298). -/

namespace Sys2Proof.Machine
open Sys2Proof.Rules

/-! ### What a home's reads and L1s' changes leave alone -/

/-- A state without the L2's lines, L1s, updates, LPDDR-5X and the suspect slices. -/
def State.unlined (s : State) : State :=
  { s with l2 := [], cores := [], dram := [], dramKey := [], dramBad := [], upds := [], lruClock := 0, suspectSlices := [] }

theorem State.unlined_putBlock (s : State) (lid bn : Nat) (bs : List Byte) : (s.putBlock lid bn bs).unlined = s.unlined := by
  unfold State.putBlock
  split <;> rfl

theorem State.unlined_putSector (s : State) (lid sn : Nat) (bs : List Byte) (bad : Bool) : (s.putSector lid sn bs bad).unlined = s.unlined := by
  have blocks := foldl_same State.unlined (f := fun s i => s.putBlock lid (4 * sn + i) ((bs.drop (16 * i)).take 16))
    (fun _ _ => State.unlined_putBlock ..) (List.range 4) s
  unfold State.putSector
  generalize (List.range 4).foldl _ s = t at blocks ⊢
  exact blocks

theorem State.unlined_writeBackOf (s : State) (k : Nat) (which : L2Line → BitVec 4) : (s.writeBackOf k which).unlined = s.unlined := by
  unfold State.writeBackOf
  split
  · rfl
  next l _ =>
    have sectors := foldl_same State.unlined (f := fun s i => if (which l).getLsbD i && l.valid.getLsbD i then
        s.putSector l.lid (4 * (k % 2 ^ 32) + i) (getBytes l.data (64 * i) 64) (l.poison.getLsbD i) else s)
      (fun _ _ => by split; exacts [State.unlined_putSector .., rfl]) (List.range 4) s
    dsimp only
    generalize List.foldl _ s (List.range 4) = t at sectors ⊢
    exact sectors

theorem State.unlined_l1Drop (s : State) (c ln7 : Nat) : (s.l1Drop c ln7).unlined = s.unlined := rfl

theorem State.unlined_l1DropAll (s : State) (ln : Nat) : (s.l1DropAll ln).unlined = s.unlined := by
  have drops := foldl_same State.unlined (f := fun s (e : Nat × Core) => (s.l1Drop e.1 (2 * ln)).l1Drop e.1 (2 * ln + 1))
    (fun _ _ => (State.unlined_l1Drop ..).trans (State.unlined_l1Drop ..)) (s.cores.filter fun e => e.2.l1.any fun l => l.1 / 2 == ln) s
  unfold State.l1DropAll
  dsimp only
  generalize List.foldl _ s _ = t at drops ⊢
  exact drops

theorem State.unlined_evict (s : State) (k : Nat) : (s.evict k).unlined = s.unlined :=
  (State.unlined_l1DropAll ..).trans (State.unlined_writeBackOf ..)

theorem State.unlined_makeRoom (s : State) (home set : Nat) : (s.makeRoom home set).unlined = s.unlined := by
  unfold State.makeRoom
  split
  · rfl
  · exact State.unlined_evict ..

theorem State.unlined_openLine (s : State) (home ln key : Nat) : (s.openLine home ln key).unlined = s.unlined := by
  unfold State.openLine
  dsimp only
  split
  · exact State.unlined_makeRoom ..
  · split
    · rfl
    · exact (State.unlined_makeRoom ..).trans (State.unlined_evict ..)

theorem State.unlined_fillSector (s : State) (home ln i : Nat) : (s.fillSector home ln i).unlined = s.unlined := by
  unfold State.fillSector
  dsimp only
  split
  · rfl
  · split <;> rfl

/-- A read at a home changes lines, and LPDDR-5X and L1s where it must make room (03 R51, R63). -/
theorem State.unlined_readHome (s : State) (pa key n : Nat) : (s.readHome pa key n).1.unlined = s.unlined :=
  (foldl_same State.unlined (fun _ _ => State.unlined_fillSector ..) _ _).trans (State.unlined_openLine ..)

/-! ### Translations change no group -/

theorem State.groups_readHome (s : State) (pa key n : Nat) : (s.readHome pa key n).1.groups = s.groups :=
  (congrArg State.groups (s.unlined_readHome pa key n) :)

theorem State.groups_walkLevel (s : State) (now : Bool) (d part va table level : Nat) {next : State → Nat → State × WalkEnd}
    (h : ∀ s table, (next s table).1.groups = s.groups) : (s.walkLevel now d part va table level next).1.groups = s.groups := by
  unfold State.walkLevel
  dsimp only
  split
  · rfl
  generalize s.cachedEntry d part (table + 8 * vaIndex va level) level = c
  generalize hr : s.walkEntry _ _ = r
  have entry : r.1.groups = s.groups := by
    rw [← hr]
    cases c with
    | some c => rfl
    | none => exact State.groups_readHome ..
  split
  · exact entry
  split
  · exact entry
  split
  · rw [h]
    split
    · exact entry
    · exact entry
  · exact entry

theorem State.groups_walkFrom (s : State) (now : Bool) (d part va table level : Nat) :
    (s.walkFrom now d part va table level).1.groups = s.groups := by
  induction level generalizing s table with
  | zero =>
    rw [State.walkFrom_zero]
    exact State.groups_walkLevel _ _ _ _ _ _ _ fun _ _ => rfl
  | succ n ih =>
    rw [State.walkFrom_succ]
    exact State.groups_walkLevel _ _ _ _ _ _ _ fun s table => ih s table

theorem State.groups_walkTables (s : State) (now : Bool) (d part : Nat) (va : Dword) :
    (s.walkTables now d part va).1.groups = s.groups := by
  unfold State.walkTables
  split
  · rfl
  · exact State.groups_walkFrom ..

theorem State.groups_lookNow (s : State) (core part : Nat) (va : Dword) (need : BitVec 4) :
    (s.lookNow core part va need).1.groups = s.groups := by
  have walked := s.groups_walkTables false (dieOfCore core) part va
  unfold State.lookNow
  split
  · rfl
  split
  · rfl
  · split <;> (next h => rw [h] at walked; exact walked)

/-! ### CINV (06 R140) -/

section evict
variable (s : State) (c ln7 : Nat)

theorem State.core_l1Evict (k : Nat) : (s.l1Evict c ln7).core k =
    if k = c then { s.core c with l1 := (s.core c).l1.del ln7 } else s.core k := by
  have core : (s.l1Drop c ln7).core k = if k = c then { s.core c with l1 := (s.core c).l1.del ln7 } else s.core k :=
    State.core_updCore s c (fun k => { k with l1 := k.l1.del ln7 }) k
  unfold State.l1Evict
  dsimp only
  split
  · exact core
  · exact core

theorem State.l1_l1Evict_same : ((s.l1Evict c ln7).core c).l1.find ln7 = none := by
  rw [State.core_l1Evict, if_pos rfl]
  exact (Tab.find_del ..).trans (if_pos rfl)

/-- A line that an L1 does not hold it does not hold after another has been dropped. -/
theorem State.l1_l1Evict_none {k ln : Nat} (h : (s.core k).l1.find ln = none) : ((s.l1Evict c ln7).core k).l1.find ln = none := by
  rw [State.core_l1Evict]
  split
  next e =>
    subst e
    refine (Tab.find_del ..).trans ?_
    split
    · rfl
    · exact h
  next => exact h

theorem State.groups_l1Evict : (s.l1Evict c ln7).groups = s.groups := by
  obtain ⟨_, _, _, h, -⟩ := s.l1Evict_eq c ln7
  exact (congrArg State.groups h :)

end evict

/-- What a lane of `CWB` or `CINV` meets (R125, R140). -/
def State.lineMeet (s : State) (x : Issue) (word : Word) (a : Reg) (l : LaneIx) : Meet :=
  s.meet x (s.stackOf x.g) (lineChk word a) l (x.g.src2 (s.stackOf x.g) l a)

/-- The line that a lane of `CINV` names is dropped from the L1 that serves its core (R140). -/
def State.dropNamed (s : State) (x : Issue) (m : Meet) : State :=
  match m with
  | .mem pa _ => s.l1Evict (s.memberOf (coreOf x.gid) x.g.team (pa / 128)) (pa / 128)
  | _ => s

/-- The lines that lanes have named are dropped, one after another. -/
theorem State.dropNamed_foldl (x : Issue) (m : LaneIx → Meet) (pa key : LaneIx → Nat) (ls : List LaneIx) (s : State)
    (hm : ∀ l ∈ ls, m l = .mem (pa l) (key l)) :
    let t := ls.foldl (fun s l => s.dropNamed x (m l)) s
    t.groups = s.groups ∧ t.dram = s.dram ∧ (∀ c tid ln, t.memberOf c tid ln = s.memberOf c tid ln) ∧
      ∀ l ∈ ls, (t.core (s.memberOf (coreOf x.gid) x.g.team (pa l / 128))).l1.find (pa l / 128) = none := by
  induction ls using List.reverseRecOn with
  | nil => exact ⟨rfl, rfl, fun _ _ _ => rfl, nofun⟩
  | append_singleton ls a ih =>
    obtain ⟨groups, dram, member, gone⟩ := ih fun l hl => hm l (List.mem_append_left _ hl)
    rw [List.foldl_append, List.foldl_cons, List.foldl_nil, hm a (by simp)]
    generalize ls.foldl (fun s l => s.dropNamed x (m l)) s = t at groups dram member gone ⊢
    have named : t.dropNamed x (.mem (pa a) (key a)) = t.l1Evict (s.memberOf (coreOf x.gid) x.g.team (pa a / 128)) (pa a / 128) := by
      rw [← member]
      rfl
    rw [named]
    obtain ⟨_, _, _, h, -⟩ := t.l1Evict_eq (s.memberOf (coreOf x.gid) x.g.team (pa a / 128)) (pa a / 128)
    refine ⟨(State.groups_l1Evict ..).trans groups, ?_, fun c tid ln => ?_, fun l hl => ?_⟩
    · exact (congrArg State.dram h :).trans dram
    · exact (congrArg (fun u => State.memberOf u c tid ln) h :).trans (member c tid ln)
    · rcases List.mem_append.mp hl with hl | hl
      · exact State.l1_l1Evict_none _ _ _ (gone l hl)
      · obtain rfl := List.mem_singleton.mp hl
        exact State.l1_l1Evict_same ..

/-- The access goes to a byte of memory. -/
def Meet.isMem (m : Meet) : Bool :=
  match m with
  | .mem _ _ => true
  | _ => false

/-- The lines that lanes name and the L2 holds. -/
theorem State.mem_heldLines {s : State} {m : LaneIx → Meet} {ok : Mask} {k : Nat} : k ∈ s.heldLines m ok ↔
    ∃ l pa key, Mask.has ok l = true ∧ m l = .mem pa key ∧ k = l2Key (s.home pa) (pa / 256) ∧ (s.l2.find k).isSome = true := by
  unfold State.heldLines
  rw [List.mem_dedup, List.mem_filterMap]
  constructor
  · rintro ⟨l, hl, h⟩
    split at h
    next pa key hm =>
      dsimp only at h
      split at h
      next hs =>
        obtain rfl := Option.some.inj h
        exact ⟨l, pa, key, (Mask.mem_lanes ..).mp hl, hm, rfl, hs⟩
      next => cases h
    next => cases h
  · rintro ⟨l, pa, key, hl, hm, rfl, hs⟩
    refine ⟨l, (Mask.mem_lanes ..).mpr hl, ?_⟩
    rw [hm]
    exact if_pos hs

section lines
variable {s : State} {x : Issue} {o : A1a} {pa key : LaneIx → Nat}

/-- An issue of `CINV` whose lanes all reach memory (R140). -/
theorem execCinv_next (hi : s.issue = some x) (hp : x.g.pending (s.stackOf x.g) x.act [⟨o.a, 2⟩] = false)
    (hm : ∀ l, Mask.has (x.part o.g) l = true → s.lineMeet x (encode (.cinv o)) o.a l = .mem (pa l) (key l)) :
    ∃ wb, exec (.cinv o) s = .next (((Mask.lanes (x.part o.g)).foldl
      (fun t l => t.dropNamed x (s.lineMeet x (encode (.cinv o)) o.a l))
        (s.updGrp x.gid (Group.looked x.act (s.stackOf x.g) wb (x.part o.g) [⟨o.a, 2⟩]))).updGrp x.gid fun g => g.advance x x.act x.seq) := by
  have lands (l) (hl : Mask.has (x.part o.g) l = true) : (s.lineMeet x (encode (.cinv o)) o.a l).Lands := .inr ⟨_, _, hm l hl⟩
  obtain ⟨wb, h⟩ := State.reachOp_of_no_walk (k := lineChk (encode (.cinv o)) o.a) (va := fun l => x.g.src2 (s.stackOf x.g) l o.a)
    (fun l hl => (lands l hl).not_walk) (fun _ _ => false) (fun m done t => (Mask.lanes done).foldl (fun t l => t.dropNamed x (m l)) t) rfl
  refine ⟨wb, Eq.trans ?_ (h.trans (State.finish_part _ _ fun l hl => (lands l hl).trap))⟩
  change execCinv o s = _
  unfold execCinv
  rw [State.withIssue_of hi]
  exact if_neg (ne_true_of_eq_false hp)

/-- What the lines of a `CWB` that waits for none yet give: it completes, or waits for those that the L2 holds (R140). -/
theorem execCwb_of_settled (hi : s.issue = some x) (hp : x.g.pending (s.stackOf x.g) x.act [⟨o.a, 2⟩] = false)
    (hm : ∀ l, Mask.has (x.part o.g) l = true → s.lineMeet x (encode (.cwb o)) o.a l = .mem (pa l) (key l))
    (hw : ∀ w, x.g.wait ≠ .writeBack w) (howes : ∀ l, Mask.has (x.part o.g) l = true → s.laneOwes x.gid l (pa l / 256) = false) :
    ∃ ls, (∀ k, k ∈ ls ↔ ∃ l, Mask.has (x.part o.g) l = true ∧ k = l2Key (s.home (pa l)) (pa l / 256) ∧ (s.l2.find k).isSome = true) ∧
      exec (.cwb o) s = if ls.isEmpty then
          s.reachOp x (s.stackOf x.g) (lineChk (encode (.cwb o)) o.a) (x.part o.g) (fun l => x.g.src2 (s.stackOf x.g) l o.a)
            (fun _ _ => false) fun _ _ t => t
        else .next (s.updGrp x.gid fun g => { g with pin := some ⟨x.act, encode (.cwb o)⟩, wait := .writeBack ls }) := by
  have met (l) (hl : Mask.has (x.part o.g) l = true) : s.meet x (s.stackOf x.g) (lineChk (encode (.cwb o)) o.a) l
    (x.g.src2 (s.stackOf x.g) l o.a) = .mem (pa l) (key l) := hm l hl
  have walks : (maskOf fun l => Mask.has (x.part o.g) l && s.meet x (s.stackOf x.g) (lineChk (encode (.cwb o)) o.a) l
      (x.g.src2 (s.stackOf x.g) l o.a) == .walk) = 0#32 := by
    refine Mask.ext' fun l => ?_
    rw [Mask.has_maskOf, Mask.has_zero]
    cases hl : Mask.has (x.part o.g) l with
    | false => rfl
    | true => rw [met l hl]; rfl
  have part {p : LaneIx → Bool} (l) (h : Mask.has (maskOf fun l => Mask.has (x.part o.g) l && p l) l = true) :
      Mask.has (x.part o.g) l = true := by
    rw [Mask.has_maskOf, Bool.and_eq_true] at h
    exact h.1
  refine ⟨s.heldLines (s.lineMeet x (encode (.cwb o)) o.a) (maskOf fun l => Mask.has (x.part o.g) l &&
    (s.lineMeet x (encode (.cwb o)) o.a l).isMem), fun k => ⟨fun hk => ?_, ?_⟩, ?_⟩
  · obtain ⟨l, p, k, hl, h, rfl, hs⟩ := State.mem_heldLines.mp hk
    have hl := part l hl
    replace h := (hm l hl).symm.trans h
    injection h with h
    exact ⟨l, hl, by rw [h], hs⟩
  · rintro ⟨l, hl, rfl, hs⟩
    refine State.mem_heldLines.mpr ⟨l, _, _, ?_, hm l hl, rfl, hs⟩
    rw [Mask.has_maskOf, hl, hm l hl]
    rfl
  · change execCwb o s = _
    unfold execCwb
    rw [State.withIssue_of hi]
    dsimp only
    rw [walks, Mask.lanes_zero, List.foldl_nil, show x.act &&& ~~~(0#32) = x.act from Mask.ext' fun l => by simp]
    refine (if_neg (ne_true_of_eq_false hp)).trans ?_
    split
    next h => exact absurd h (hw _)
    next h => exact absurd h (hw _)
    next =>
      refine if_neg fun h => ?_
      obtain ⟨l, hl, h⟩ := List.any_eq_true.mp h
      have hl := part l ((Mask.mem_lanes ..).mp hl)
      rw [met l hl] at h
      cases (howes l hl).symm.trans h

/-- `CWB` as an operation that reaches memory and changes nothing: its lanes go on (R140). -/
theorem State.reachOp_cwb (hm : ∀ l, Mask.has (x.part o.g) l = true → s.lineMeet x (encode (.cwb o)) o.a l = .mem (pa l) (key l)) :
    ∃ wb, s.reachOp x (s.stackOf x.g) (lineChk (encode (.cwb o)) o.a) (x.part o.g) (fun l => x.g.src2 (s.stackOf x.g) l o.a)
      (fun _ _ => false) (fun _ _ t => t) = .next (s.updGrp x.gid fun g =>
        (g.looked x.act (s.stackOf x.g) wb (x.part o.g) [⟨o.a, 2⟩]).advance x x.act x.seq) := by
  have lands (l) (hl : Mask.has (x.part o.g) l = true) : (s.lineMeet x (encode (.cwb o)) o.a l).Lands := .inr ⟨_, _, hm l hl⟩
  obtain ⟨wb, h⟩ := State.reachOp_of_no_walk (k := lineChk (encode (.cwb o)) o.a) (va := fun l => x.g.src2 (s.stackOf x.g) l o.a)
    (fun l hl => (lands l hl).not_walk) (fun _ _ => false) (fun m done t => t) rfl
  exact ⟨wb, h.trans ((State.finish_part _ _ fun l hl => (lands l hl).trap).trans (congrArg _ (State.updGrp_updGrp ..)))⟩

/-- A `CWB` whose lines have been accepted (R140). -/
theorem execCwb_of_accepted (hi : s.issue = some x) (hp : x.g.pending (s.stackOf x.g) x.act [⟨o.a, 2⟩] = false)
    (hw : x.g.wait = .writeBack []) : exec (.cwb o) s = s.reachOp x (s.stackOf x.g) (lineChk (encode (.cwb o)) o.a) (x.part o.g)
      (fun l => x.g.src2 (s.stackOf x.g) l o.a) (fun _ _ => false) fun _ _ t => t := by
  change execCwb o s = _
  unfold execCwb
  rw [State.withIssue_of hi]
  dsimp only
  refine (if_neg (ne_true_of_eq_false hp)).trans ?_
  rw [hw]

end lines

/-- `CINV` and `CWB` (R140). -/
theorem lineInstructions : Rules.LineInstructions := by
  intro s x o pa key hi hr hgo
  have meet (word : Word) (l) (hl : Mask.has (x.part o.g) l = true) : s.lineMeet x word o.a l = .mem (pa l) (key l) :=
    State.meet_of_goes (k := lineChk word o.a) (hgo l hl) (hr.operandTrap hl) (Nat.mod_one _) nofun
  have issued := State.grp_of_issue hi
  have moved (wb : Nat) : Moved x.g { (x.g.looked x.act (s.stackOf x.g) wb (x.part o.g) [⟨o.a, 2⟩]).advance x x.act x.seq with
    walkFail := x.g.walkFail } := Group.moved_looked (Group.still_advance ..)
  refine ⟨?_, fun hw howes => ⟨fun hnone => ?_, fun ⟨l, hl, hs⟩ => ?_⟩, fun hw => ?_⟩
  · obtain ⟨wb, h⟩ := execCinv_next hi hr.pending (meet _)
    obtain ⟨groups, dram, -, gone⟩ := State.dropNamed_foldl x (s.lineMeet x (encode (.cinv o)) o.a) pa key (Mask.lanes (x.part o.g))
      (s.updGrp x.gid (Group.looked x.act (s.stackOf x.g) wb (x.part o.g) [⟨o.a, 2⟩])) fun l hl => meet _ l ((Mask.mem_lanes ..).mp hl)
    obtain ⟨own, -⟩ := State.grp_of_groups issued (State.groups_updGrp_of (f' := fun g => g.advance x x.act x.seq) groups)
    exact ⟨_, _, h, own, dram, moved wb, fun l hl => gone l ((Mask.mem_lanes ..).mpr hl), Group.goOn_looked⟩
  · obtain ⟨ls, hls, h⟩ := execCwb_of_settled hi hr.pending (meet _) hw howes
    obtain ⟨wb, hreach⟩ := State.reachOp_cwb (meet _)
    have empty : ls.isEmpty = true := List.isEmpty_iff.mpr (List.eq_nil_iff_forall_not_mem.mpr fun k hk => by
      obtain ⟨l, hl, rfl, hs⟩ := (hls k).mp hk
      rw [hnone l hl] at hs
      cases hs)
    exact ⟨_, _, h.trans ((if_pos empty).trans hreach), OnlyGroup.updGrp s s _ _ x.g rfl issued, moved wb, Group.goOn_looked⟩
  · obtain ⟨ls, hls, h⟩ := execCwb_of_settled hi hr.pending (meet _) hw howes
    have held : ¬ ls.isEmpty = true := fun h => by
      have := (hls _).mpr ⟨l, hl, rfl, hs⟩
      rw [List.isEmpty_iff.mp h] at this
      cases this
    exact ⟨_, _, ls, h.trans (if_neg held), OnlyGroup.updGrp s s _ _ x.g rfl issued, rfl, rfl, hls⟩
  · obtain ⟨wb, hreach⟩ := State.reachOp_cwb (meet _)
    exact ⟨_, _, (execCwb_of_accepted hi hr.pending hw).trans hreach, OnlyGroup.updGrp s s _ _ x.g rfl issued, Group.pin_advance .., Group.wait_advance ..,
      Group.goOn_looked⟩

end Sys2Proof.Machine
end

section
/-! SUPPORT. `PREF` (06 R140) and `ICINV` (13 R298), and the statement on line and code instructions. -/

namespace Sys2Proof.Machine
open Sys2Proof.Rules

/-! ### PREF (06 R140) -/

/-- A lane's translation of a prefetch: it is made at once. -/
def State.prefetchLook (s : State) (x : Issue) (va : Dword) : State × Look :=
  match s.partOf x.g with
  | some p => s.lookNow (coreOf x.gid) p va needRead
  | none => (s, s.lookCtrl va)

/-- A lane's prefetch, whatever its translation (R140). -/
def State.prefetch (s : State) (x : Issue) (word : Word) (va : Dword) (l : LaneIx) : State :=
  let (s, lk) := s.prefetchLook x va
  match lk with
  | .at pa key => s.prefetchLane x l word va pa key
  | _ => s

/-- A prefetch changes no group. -/
theorem State.groups_prefetch (s : State) (x : Issue) (word : Word) (va : Dword) (l : LaneIx) :
    (s.prefetch x word va l).groups = s.groups := by
  have looked : (s.prefetchLook x va).1.groups = s.groups := by
    unfold State.prefetchLook
    split
    · exact State.groups_lookNow ..
    · rfl
  unfold State.prefetch
  dsimp only
  split
  · unfold State.prefetchLane
    dsimp only
    split
    · exact looked
    · exact (State.launch_units ..).1.trans looked
  · exact looked

section pref
variable {s : State} {x : Issue} {o : A1a}

/-- `PREF` of global addresses: its lanes prefetch and go on (R140). -/
theorem execPref_next (hi : s.issue = some x) (hr : x.Ready (s.stackOf x.g) (x.part o.g) [⟨o.a, 2⟩] [⟨o.a, 2⟩])
    (hglobal : ∀ l, Mask.has (x.part o.g) l = true → classify (x.g.src2 (s.stackOf x.g) l o.a) = .global) :
    ∃ wb, exec (.pref o) s = .next (((Mask.lanes (x.part o.g)).foldl
      (fun t l => t.prefetch x (encode (.pref o)) (x.g.src2 (s.stackOf x.g) l o.a) l)
        (s.updGrp x.gid fun g => g.scrub (s.stackOf x.g) wb (x.part o.g) [⟨o.a, 2⟩])).updGrp x.gid fun g => g.advance x x.act x.seq) := by
  refine ⟨((Mask.low x.act).map fun l => (x.g.lane l).wb).getD 0, ?_⟩
  change execPref o s = _
  unfold execPref
  rw [State.withIssue_of hi]
  dsimp only
  refine (if_neg (ne_true_of_eq_false hr.pending)).trans ((State.finish_part _ _ fun l hl => ?_).trans ?_)
  · rw [hr.operandTrap hl, hglobal l hl]
    rfl
  · refine congrArg (fun t : State => (.next (t.updGrp x.gid fun g => g.advance x x.act x.seq) : Out)) ?_
    refine congrFun (congrFun (congrArg List.foldl (funext fun t => funext fun l => ?_)) _) _
    rfl

end pref

/-! ### ICINV (13 R298) -/

theorem Tab.mem_of_find_eq_some {α : Type} {m : Tab α} {k : Nat} {v : α} (h : m.find k = some v) : (k, v) ∈ m := by
  induction m with
  | nil => cases h
  | cons e m ih =>
    obtain ⟨k', v'⟩ := e
    rw [Tab.find_cons] at h
    split at h
    next e => simp [e, Option.some.inj h]
    next => simp [ih h]

/-- No body of a core's loop buffers holds words of a virtual line. -/
def Core.Clear (c : Core) (part line : Nat) : Prop := ∀ e ∈ c.loopBuf, ∀ b ∈ e.2, b.meets part line = false

theorem Core.Clear.getD {c : Core} {part line : Nat} (h : c.Clear part line) (k : Nat) : ∀ b ∈ c.loopBuf.getD [] k, b.meets part line = false := by
  intro b hb
  unfold Tab.getD at hb
  cases hf : c.loopBuf.find k with
  | none => rw [hf] at hb; cases hb
  | some bs =>
    rw [hf] at hb
    exact h _ (Tab.mem_of_find_eq_some hf) b hb

section dropCode
variable (c : Core) (part : Nat) (va : Dword)

theorem Core.ilines_dropCode (k : Nat) : (c.dropCode part va).ilines.find k = if k = ilineKey part va then none else c.ilines.find k :=
  Tab.find_del ..

/-- The bodies that remain are bodies of before and hold no word of the line. -/
theorem Core.loopBuf_dropCode {e : Nat × List Body} (he : e ∈ (c.dropCode part va).loopBuf) {b : Body} (hb : b ∈ e.2) :
    b.meets part (va.toNat / 128) = false ∧ ∃ e' ∈ c.loopBuf, b ∈ e'.2 := by
  obtain ⟨e', he', rfl⟩ := List.mem_map.mp (List.mem_filter.mp he).1
  obtain ⟨hb, hmeets⟩ := List.mem_filter.mp hb
  exact ⟨by simpa using hmeets, e', he', hb⟩

theorem Core.clear_dropCode : (c.dropCode part va).Clear part (va.toNat / 128) := fun _ he _ hb => (c.loopBuf_dropCode part va he hb).1

theorem Core.Clear.dropCode {c : Core} {p line : Nat} (h : c.Clear p line) : (c.dropCode part va).Clear p line := fun _ he _ hb =>
  have ⟨_, e', he', hb'⟩ := c.loopBuf_dropCode part va he hb
  h e' he' _ hb'

end dropCode

/-- The code lines that lanes name are removed, one after another. -/
theorem Core.dropCode_foldl (part : Nat) (va : LaneIx → Dword) (ls : List LaneIx) (c : Core) :
    let c' := ls.foldl (fun c l => c.dropCode part (va l)) c
    (∀ l ∈ ls, c'.ilines.find (ilineKey part (va l)) = none ∧ c'.Clear part ((va l).toNat / 128)) ∧
    ∀ k, (∀ l ∈ ls, k ≠ ilineKey part (va l)) → c'.ilines.find k = c.ilines.find k := by
  induction ls using List.reverseRecOn with
  | nil => exact ⟨nofun, fun _ _ => rfl⟩
  | append_singleton ls a ih =>
    obtain ⟨dropped, kept⟩ := ih
    rw [List.foldl_append, List.foldl_cons, List.foldl_nil]
    refine ⟨fun l hl => ⟨?_, ?_⟩, fun k hk => ?_⟩
    · rw [Core.ilines_dropCode]
      split
      next => rfl
      next hne =>
        rcases List.mem_append.mp hl with hl | hl
        · exact (dropped l hl).1
        · exact absurd (congrArg (fun l => ilineKey part (va l)) (List.mem_singleton.mp hl)) hne
    · rcases List.mem_append.mp hl with hl | hl
      · exact (dropped l hl).2.dropCode part (va a)
      · obtain rfl := List.mem_singleton.mp hl
        exact Core.clear_dropCode _ part (va l)
    · rw [Core.ilines_dropCode, if_neg (hk a (by simp)), kept k fun l hl => hk l (by simp [hl])]

/-- One line is removed from a group's core (13 R298). -/
def State.dropCodeOf (s : State) (x : Issue) (pc : Word) : State :=
  s.updCore (coreOf x.gid) fun c => c.dropCode (s.fetchPart x.g) (s.fetchVa x.g pc)

/-- The core is changed line by line, and nothing else. -/
theorem State.dropCodeOf_foldl (x : Issue) (pc : LaneIx → Word) (ls : List LaneIx) (s : State) :
    ∃ cs, ls.foldl (fun s l => s.dropCodeOf x (pc l)) s = { s with cores := cs } ∧
      Tab.getD cs {} (coreOf x.gid) =
        ls.foldl (fun c l => c.dropCode (s.fetchPart x.g) (s.codeBase x.g + (pc l).setWidth 64)) (s.core (coreOf x.gid)) := by
  induction ls generalizing s with
  | nil => exact ⟨s.cores, rfl, rfl⟩
  | cons a ls ih =>
    obtain ⟨cs, h, core⟩ := ih (s.dropCodeOf x (pc a))
    refine ⟨cs, h, core.trans ?_⟩
    rw [List.foldl_cons, State.dropCodeOf, State.core_updCore, if_pos rfl]
    rfl

/-- `ICINV`: its lanes' lines are removed from the core's instruction cache and the lanes go on (13 R298). -/
theorem execIcinv_next {s : State} {x : Issue} {a : Reg} (hi : s.issue = some x) (hr : x.Ready (s.stackOf x.g) x.act [⟨a, 1⟩] [⟨a, 1⟩]) :
    ∃ wb cs, exec (.icinv a) s = .next { s.updGrp x.gid fun g => (g.scrub (s.stackOf x.g) wb x.act [⟨a, 1⟩]).advance x x.act x.seq
      with cores := cs } ∧
      ({ s with cores := cs } : State).core (coreOf x.gid) = (Mask.lanes x.act).foldl (fun c l =>
        c.dropCode (s.fetchPart x.g) (s.codeBase x.g + (x.g.src (s.stackOf x.g) l a).setWidth 64)) (s.core (coreOf x.gid)) := by
  generalize hwb : ((Mask.low x.act).map fun l => (x.g.lane l).wb).getD 0 = wb
  obtain ⟨cs, fold, core⟩ := State.dropCodeOf_foldl x (fun l => x.g.src (s.stackOf x.g) l a) (Mask.lanes x.act)
    (s.updGrp x.gid fun g => g.scrub (s.stackOf x.g) wb x.act [⟨a, 1⟩])
  refine ⟨wb, cs, ?_, ?_⟩
  · change execIcinv a s = _
    unfold execIcinv State.stepOp
    rw [State.withIssue_of hi]
    dsimp only
    rw [hwb]
    refine (if_neg (ne_true_of_eq_false (Issue.Ready.pending (guard := false) hr))).trans
      ((State.finish_part (guard := false) _ _ fun l hl => ?_).trans ?_)
    · exact hr.operandTrap (guard := false) hl
    · exact (congrArg (fun t : State => (.next (t.updGrp x.gid fun g => g.advance x x.act x.seq) : Out)) fold).trans
        (congrArg Host.Outcome.next (State.updGrp_updGrp { s with cores := cs } ..))
  · exact core

/-- `PREF` and `ICINV` (R140, R298). -/
theorem prefetchAndInvalidateCode : Rules.PrefetchAndInvalidateCode := by
  intro s x hi
  have issued := State.grp_of_issue hi
  have moved (wb : Nat) (part : Mask) (ops : List Operand) : Moved x.g ((x.g.scrub (s.stackOf x.g) wb part ops).advance x x.act x.seq) :=
    Group.moved (Group.still_advance ..)
  have goOn (wb : Nat) (part : Mask) (ops : List Operand) (h : Steady x x.seq) :
      GoOn x x.act x.seq ((x.g.scrub (s.stackOf x.g) wb part ops).advance x x.act x.seq) :=
    Group.goOn_advance (by simp only [Group.scrub, Group.mapLanes_levels]) (fun l => Group.scrub_wb ..) h
  refine ⟨fun o hr hglobal => ?_, fun a hr => ?_⟩
  · obtain ⟨wb, h⟩ := execPref_next hi hr hglobal
    have groups := foldl_same State.groups (f := fun t l => t.prefetch x (encode (.pref o)) (x.g.src2 (s.stackOf x.g) l o.a) l)
      (fun _ _ => State.groups_prefetch ..) (Mask.lanes (x.part o.g))
      (s.updGrp x.gid fun g => g.scrub (s.stackOf x.g) wb (x.part o.g) [⟨o.a, 2⟩])
    obtain ⟨own, others⟩ := State.grp_of_groups issued (State.groups_updGrp_of (f' := fun g => g.advance x x.act x.seq) groups)
    exact ⟨_, _, h, own, others, moved .., goOn wb _ _⟩
  · obtain ⟨wb, cs, h, core⟩ := execIcinv_next hi hr
    obtain ⟨dropped, kept⟩ := Core.dropCode_foldl (s.fetchPart x.g)
      (fun l => s.codeBase x.g + (x.g.src (s.stackOf x.g) l a).setWidth 64) (Mask.lanes x.act) (s.core (coreOf x.gid))
    rw [← core] at dropped kept
    obtain ⟨own, others, -⟩ := OnlyGroup.updGrp s s x.gid (fun g => (g.scrub (s.stackOf x.g) wb x.act [⟨a, 1⟩]).advance x x.act x.seq) x.g rfl
      issued
    refine ⟨_, _, h, own, others, moved .., rfl, fun l hl => ?_, fun k hk => ?_, goOn wb _ _⟩
    · obtain ⟨line, clear⟩ := dropped l ((Mask.mem_lanes ..).mpr hl)
      exact ⟨line, clear.getD⟩
    · exact kept k fun l hl => hk l ((Mask.mem_lanes ..).mp hl)

/-- Settles O18: what a line's or a code line's lanes do one after another is done for each, as no later lane undoes it. -/
theorem lineAndCodeInstructions : Obligations.LineAndCodeInstructions := ⟨lineInstructions, prefetchAndInvalidateCode⟩

end Sys2Proof.Machine
end

section
/-! SUPPORT. Updates of sharers, acknowledgements and returned values (06 R118, R119; 07 R147, R149; 08 R170 to R174). -/

namespace Sys2Proof.Machine
open Sys2Proof.Rules

/-! ### What L1 fills and settled debts leave alone -/

/-- A state without L1s and what else a core holds, updates, the L2's lines and the clock of ages. -/
def State.uncored (s : State) : State := { s with cores := [], upds := [], l2 := [], lruClock := 0 }

theorem State.uncored_l1Evict (s : State) (c ln7 : Nat) : (s.l1Evict c ln7).uncored = s.uncored := by
  obtain ⟨_, _, _, h, -⟩ := s.l1Evict_eq c ln7
  exact (congrArg State.uncored h :)

/-- A core with room for one more line: at 2,048 lines the least recently used goes (06 R118). -/
def State.l1Room (s : State) (c ln7 : Nat) : State :=
  let l1 := (s.core c).l1
  if l1.length < 2048 || (l1.find ln7).isSome then s else
    match l1.foldl (fun (b : Option (Nat × Nat)) e => match b with
      | none => some (e.1, e.2.lru)
      | some v => if e.2.lru < v.2 then some (e.1, e.2.lru) else b) none with
    | none => s
    | some v => s.l1Evict c v.1

theorem State.l1Room_eq (s : State) (c ln7 : Nat) : s.l1Room c ln7 = s ∨ ∃ v, s.l1Room c ln7 = s.l1Evict c v := by
  unfold State.l1Room
  dsimp only
  split
  · exact .inl rfl
  · split
    · exact .inl rfl
    · exact .inr ⟨_, rfl⟩

section l1Fill
variable (s : State) (c ln7 key : Nat) (bs : List Byte) (poison : BitVec 2) (unsettled : List (Nat × List Nat)) (clk : Tab Clk)

theorem State.l1Fill_eq : s.l1Fill c ln7 key bs poison unsettled clk =
    let t := s.l1Room c ln7
    { t.updCore c (fun k => { k with l1 := k.l1.put ln7 { key, data := putBytes [] 0 bs, poison, unsettled, clk, lru := t.lruClock } }) with
      lruClock := t.lruClock + 1 } := rfl

theorem State.uncored_l1Fill : (s.l1Fill c ln7 key bs poison unsettled clk).uncored = s.uncored := by
  rw [State.l1Fill_eq]
  refine Eq.trans (b := (s.l1Room c ln7).uncored) rfl ?_
  rcases s.l1Room_eq c ln7 with h | ⟨v, h⟩
  · rw [h]
  · rw [h, State.uncored_l1Evict]

end l1Fill

/-! ### What an L1 fill gives -/

theorem State.upds_l1Evict_none {s : State} {c ln7 uid : Nat} (h : s.upds.find uid = none) : (s.l1Evict c ln7).upds.find uid = none := by
  have dropped : (s.l1Drop c ln7).upds.find uid = none := by
    have pairs : (s.upds.map fun e => if e.2.core = c && e.2.line = ln7 then (e.1, e.2.void) else e) =
        s.upds.map fun e => (e.1, if e.2.core = c && e.2.line = ln7 then e.2.void else e.2) :=
      List.map_congr_left fun e _ => by split <;> rfl
    have found := (congrArg (Tab.find · uid) pairs).trans (Tab.find_map_snd s.upds (fun u => if u.core = c && u.line = ln7 then u.void else u) uid)
    rw [h] at found
    exact found
  unfold State.l1Evict
  dsimp only
  split
  · exact dropped
  · exact dropped

section
variable {s : State} {c ln7 key : Nat} {bs : List Byte} {poison : BitVec 2} {unsettled : List (Nat × List Nat)} {clk : Tab Clk}

theorem State.upds_l1Fill_none {uid : Nat} (h : s.upds.find uid = none) :
    (s.l1Fill c ln7 key bs poison unsettled clk).upds.find uid = none := by
  rw [State.l1Fill_eq]
  change (s.l1Room c ln7).upds.find uid = none
  rcases s.l1Room_eq c ln7 with h' | ⟨v, h'⟩
  · rw [h', h]
  · rw [h', State.upds_l1Evict_none h]

theorem State.l1_l1Fill : ∃ l, ((s.l1Fill c ln7 key bs poison unsettled clk).core c).l1.find ln7 = some l ∧ l.key = key ∧
    l.data = putBytes [] 0 bs := by
  let ln : L1Line := { key, data := putBytes [] 0 bs, poison, unsettled, clk, lru := (s.l1Room c ln7).lruClock }
  have core := State.core_updCore (s.l1Room c ln7) c (fun k => { k with l1 := k.l1.put ln7 ln }) c
  rw [if_pos rfl] at core
  exact ⟨ln, (congrArg (fun k : Core => k.l1.find ln7) core).trans ((Tab.find_put ..).trans (if_pos rfl)), rfl, rfl⟩

/-- A change of a core that keeps its count of dropped returns keeps every core's. -/
theorem State.dropCnt_updCore {f : Core → Core} (h : ∀ k, (f k).dropCnt = k.dropCnt) (k : Nat) :
    ((s.updCore c f).core k).dropCnt = (s.core k).dropCnt := by
  rw [State.core_updCore]
  split
  next e => rw [h, e]
  next => rfl

theorem State.dropCnt_l1Fill (k : Nat) : ((s.l1Fill c ln7 key bs poison unsettled clk).core k).dropCnt = (s.core k).dropCnt := by
  let ln : L1Line := { key, data := putBytes [] 0 bs, poison, unsettled, clk, lru := (s.l1Room c ln7).lruClock }
  refine (State.dropCnt_updCore (s := s.l1Room c ln7) (c := c) (f := fun k => { k with l1 := k.l1.put ln7 ln }) (fun _ => rfl) k).trans ?_
  rcases s.l1Room_eq c ln7 with h | ⟨v, h⟩
  · rw [h]
  · rw [h, State.core_l1Evict]
    split
    next e => rw [e]
    next => rfl

end

/-! ### Fills and updates as they are applied -/

theorem State.uncored_applyFill (s : State) (uid : Nat) (u : Upd) : (s.applyFill uid u).uncored = s.uncored := by
  unfold State.applyFill
  dsimp only
  split
  · rfl
  · exact State.uncored_l1Fill ..

theorem State.upds_applyFill_none (s : State) (uid : Nat) (u : Upd) : (s.applyFill uid u).upds.find uid = none := by
  have gone : (s.upds.del uid).find uid = none := (Tab.find_del ..).trans (if_pos rfl)
  unfold State.applyFill
  dsimp only
  split
  · exact gone
  · exact State.upds_l1Fill_none (s := { s with upds := s.upds.del uid }) gone

theorem State.dropCnt_applyFill (s : State) (uid : Nat) (u : Upd) (k : Nat) : ((s.applyFill uid u).core k).dropCnt = (s.core k).dropCnt := by
  unfold State.applyFill
  dsimp only
  split
  · rfl
  · exact State.dropCnt_l1Fill (s := { s with upds := s.upds.del uid }) k

/-- A fill that is first on its path (06 R118). -/
theorem State.fill_applied {s : State} {uid : Nat} {u : Upd} (hu : s.upds.find uid = some u) (hfirst : s.updFirst uid u = true)
    (hfill : u.isFill = true) : ∃ t, exec (.sharerUpdateApply uid) s = .next t ∧ t.upds.find uid = none ∧ t.groups = s.groups ∧
      ∀ l, u.fill = some l → ∃ l', (t.core u.core).l1.find u.line = some l' ∧ l'.key = l.key ∧
        getBytes l'.data 0 128 = getBytes l.data 0 128 := by
  refine ⟨s.applyFill uid u, ?_, State.upds_applyFill_none .., (congrArg State.groups (s.uncored_applyFill uid u) :), fun l hl => ?_⟩
  · change execSharerUpdateApply uid s = _
    unfold execSharerUpdateApply
    rw [hu]
    dsimp only
    rw [if_pos hfill, if_pos hfirst]
  · have read : getBytes (putBytes [] 0 (getBytes l.data 0 128)) 0 128 = getBytes l.data 0 128 := by
      have := getBytes_putBytes [] 0 (getBytes l.data 0 128)
      rwa [show (getBytes l.data 0 128).length = 128 by simp [getBytes]] at this
    obtain ⟨l', hfind, hkey, hdata⟩ := State.l1_l1Fill (s := { s with upds := s.upds.del uid }) (c := u.core) (ln7 := u.line) (key := l.key)
      (bs := getBytes l.data 0 128) (poison := l.poison)
      (unsettled := l.unsettled.filter fun e => ({ s with upds := s.upds.del uid } : State).isUnsettled e.1) (clk := l.clk)
    refine ⟨l', ?_, hkey, by rw [hdata, read]⟩
    unfold State.applyFill
    rw [hl]
    exact hfind

/-- A sharer's line as an update leaves it (06 R119). -/
def L1Line.update (l : L1Line) (s : State) (u : Upd) : L1Line :=
  let ws := (u.cells.map fun c => c.1 / 4).dedup
  let clk := u.cc.join (Clk.one u.src.val u.epoch)
  let l := l.poke u.line u.cells
  { l with
    clk := ws.foldl (fun t w => t.setD {} w clk) l.clk
    unsettled := if u.src.val = u.core / 64 && s.isUnsettled u.store then (u.store, ws) :: l.unsettled else l.unsettled }

/-- An update is applied: its sharer's line, if still held, has its bytes (06 R119). -/
def State.applyUpdate (s : State) (uid : Nat) (u : Upd) : Out :=
  match (s.core u.core).l1.find u.line, u.cells with
  | some l, _ :: _ =>
    .next (({ s with upds := s.upds.del uid } : State).updCore u.core fun k => { k with l1 := k.l1.put u.line (l.update s u) })
  | _, _ => .next { s with upds := s.upds.del uid }

/-- An update that is first on its path and whose causal past is applied (06 R119; 07 R149). -/
theorem State.update_applied {s : State} {uid : Nat} {u : Upd} (hu : s.upds.find uid = some u) (hfirst : s.updFirst uid u = true)
    (hfill : u.isFill = false) (hpast : ∀ e, e < 4 → e ≠ u.src.val → u.cc.get e ≤ (s.applied (u.core / 64)).get e)
    (horder : ∀ v ∈ s.upds, v.2.isFill = false → ¬ (v.2.src = u.src ∧ v.2.core / 64 = u.core / 64 ∧ v.2.epoch < u.epoch)) :
    ∃ t, exec (.sharerUpdateApply uid) s = .next t ∧ t.upds.find uid = none ∧ { t with cores := s.cores, upds := s.upds } = s ∧
      (∀ c, c ≠ u.core → t.core c = s.core c) ∧ ((s.core u.core).l1.find u.line = none → t.cores = s.cores) ∧
      ∀ l, (s.core u.core).l1.find u.line = some l → u.cells ≠ [] → ∃ l', (t.core u.core).l1.find u.line = some l' ∧
        l'.data = (l.poke u.line u.cells).data ∧ l'.key = l.key := by
  have gone : (s.upds.del uid).find uid = none := (Tab.find_del ..).trans (if_pos rfl)
  have causal : ((List.range 4).all fun e => e == u.src.val || u.cc.get e ≤ (s.applied (u.core / 64)).get e) = true := by
    rw [List.all_eq_true]
    intro e he
    by_cases hsrc : e = u.src.val
    · simp [hsrc]
    · simp [hpast e (List.mem_range.mp he) hsrc]
  have inOrder : (s.upds.all fun v => v.2.isFill || !(v.2.src == u.src && v.2.core / 64 == u.core / 64 && v.2.epoch < u.epoch)) = true := by
    rw [List.all_eq_true]
    intro v hv
    cases hf : v.2.isFill with
    | true => rfl
    | false =>
      have := horder v hv hf
      simp only [Bool.false_or, Bool.not_eq_true', Bool.and_eq_false_imp, Bool.and_eq_true, beq_iff_eq, decide_eq_false_iff_not]
      exact fun ⟨h1, h2⟩ h3 => this ⟨h1, h2, h3⟩
  have ready : (!s.updFirst uid u || !((List.range 4).all fun e => e == u.src.val || u.cc.get e ≤ (s.applied (u.core / 64)).get e) ||
      !(s.upds.all fun v => v.2.isFill || !(v.2.src == u.src && v.2.core / 64 == u.core / 64 && v.2.epoch < u.epoch))) = false := by
    rw [hfirst, causal, inOrder]
    rfl
  have step : exec (.sharerUpdateApply uid) s = s.applyUpdate uid u := by
    change execSharerUpdateApply uid s = _
    unfold execSharerUpdateApply
    rw [hu]
    dsimp only
    rw [if_neg (ne_true_of_eq_false hfill), if_neg (ne_true_of_eq_false ready)]
    rfl
  rw [step]
  unfold State.applyUpdate
  split
  next l c cs hl hcells =>
    refine ⟨_, rfl, gone, rfl, fun c hc => ?_, fun h => absurd (h.symm.trans hl) nofun, fun l' hl' _ => ?_⟩
    · exact (State.core_updCore ..).trans (if_neg hc)
    · obtain rfl := Option.some.inj (hl'.symm.trans hl)
      refine ⟨l'.update s u, ?_, rfl, rfl⟩
      have core := State.core_updCore { s with upds := s.upds.del uid } u.core (fun k => { k with l1 := k.l1.put u.line (l'.update s u) }) u.core
      rw [if_pos rfl] at core
      exact (congrArg (fun k : Core => k.l1.find u.line) core).trans ((Tab.find_put ..).trans (if_pos rfl))
  next hno =>
    refine ⟨_, rfl, gone, rfl, fun _ _ => rfl, fun _ => rfl, fun l hl hcells => ?_⟩
    obtain ⟨c, cs, hc⟩ := List.exists_cons_of_ne_nil hcells
    exact absurd hc (hno l c cs hl)

/-! ### Acknowledgements (06 R119; 07 R147, R150) -/

theorem State.inTransit_send (s : State) (part flits : Nat) {legs : List Leg} (h : legs ≠ []) (c : Cargo) :
    (s.send part flits legs c).inTransit c = true := by
  have found (ps : Tab Packet) (pid : Nat) (p : Packet) (hp : p.cargo = c) : (ps.put pid p).any (fun e => e.2.cargo == c) = true :=
    List.any_eq_true.mpr ⟨_, Tab.mem_of_find_eq_some ((Tab.find_put ps ..).trans (if_pos rfl)), by simp [hp]⟩
  unfold State.send
  rw [if_neg (by simpa using h)]
  unfold State.enter State.inTransit
  dsimp only
  split
  · exact found _ _ _ rfl
  · exact found _ _ _ rfl

theorem State.uncored_paidOff (s : State) (core rid : Nat) (own : Clk) : (s.paidOff core rid own).uncored = s.uncored := by
  unfold State.paidOff
  dsimp only
  split <;> rfl

/-- An acknowledgement that has reached its issuer. -/
theorem State.ackDone_spec {s : State} {rid : Nat} {r : Req} (hr : s.reqs.find rid = some r) :
    let t := s.ackDone rid
    t.reqs.find rid = none ∧ t.dram = s.dram ∧
      (∀ gid ln g, r.maker = .lane gid ln → s.grp gid = some g →
        t.grp gid = some (if g.team = r.team then { g with vc := g.vc.join r.own } else g)) ∧
      ∀ k, (∀ ln, r.maker ≠ .lane k ln) → t.grp k = s.grp k := by
  have gone : (s.reqs.del rid).find rid = none := (Tab.find_del ..).trans (if_pos rfl)
  unfold State.ackDone
  rw [hr]
  dsimp only
  split
  next gid ln hm =>
    generalize hu : ({ s with reqs := s.reqs.del rid }.updGrp gid fun g => if g.team = r.team then { g with vc := g.vc.join r.own } else g) = u
    have same := u.uncored_paidOff r.core rid r.own
    have grp (k : Nat) : (u.paidOff r.core rid r.own).grp k = u.grp k := (congrArg (fun s => State.grp s k) same :)
    have own (k : Nat) : u.grp k = if k = gid then (s.grp k).map (fun g => if g.team = r.team then { g with vc := g.vc.join r.own } else g)
        else s.grp k := by rw [← hu, State.grp_updGrp]; rfl
    refine ⟨?_, ?_, fun gid' ln' g hm' hg => ?_, fun k hk => ?_⟩
    · exact (congrArg (fun s => Tab.find s.reqs rid) same :).trans (hu ▸ gone)
    · exact (congrArg State.dram same :).trans (hu ▸ rfl)
    · obtain ⟨rfl, -⟩ := Maker.lane.inj (hm.symm.trans hm')
      rw [grp, own, if_pos rfl, hg]
      rfl
    · rw [grp, own, if_neg fun e : k = gid => hk ln (e.symm ▸ hm)]
  next hm => exact ⟨gone, rfl, fun _ _ _ hm' => absurd (hm.symm.trans hm') nofun, fun _ _ => rfl⟩
  next hm => exact ⟨gone, rfl, fun _ _ _ hm' => absurd (hm.symm.trans hm') nofun, fun _ _ => rfl⟩

/-- A write as its home has settled it. -/
def Req.settled (r : Req) : Req := { r with own := Clk.one (r.home / 64) r.epoch, epoch := 0 }

theorem State.find_settleWrite {s : State} {rid : Nat} {r : Req} (hr : s.reqs.find rid = some r) :
    (s.settleWrite rid).reqs.find rid = some r.settled := by
  have h : (s.settleWrite rid).reqs.find rid = if rid = rid then (s.reqs.find rid).map Req.settled else s.reqs.find rid := Tab.find_upd ..
  rw [h, if_pos rfl, hr]
  rfl

/-- A reply on its way leaves every access, group and byte (04 R72). -/
theorem State.sendReply_eq (s : State) (rid : Nat) (r : Req) : ∃ n ps ls, s.sendReply rid r = { s with nextId := n, packets := ps, links := ls } := by
  obtain ⟨n, ps, ls, -, h⟩ := s.send_eq (s.packetPart r.part r.pa) 1 (s.replyLegs r) (.reply rid)
  exact ⟨n, ps, ls, h⟩

section ack
variable {s : State} {rid : Nat} {r : Req} (hr : s.reqs.find rid = some r)
include hr

/-- A current write whose acknowledgement's condition holds and whose issuer is at its home. -/
theorem execStoreAck_home (hst : r.stage = .current) (hack : s.ackReady rid r.home = true) (hlegs : s.replyLegs r = []) :
    exec (.storeAck rid) s = .next ((s.settleWrite rid).ackDone rid) := by
  change execStoreAck rid s = _
  unfold execStoreAck
  rw [hr]
  dsimp only
  rw [hst]
  dsimp only
  rw [if_neg (by rw [hack]; exact Bool.false_ne_true)]
  exact if_pos (by rw [show (s.settleWrite rid).replyLegs r = s.replyLegs r from rfl, hlegs]; rfl)

theorem execStoreAck_far (hst : r.stage = .current) (hack : s.ackReady rid r.home = true) (hlegs : s.replyLegs r ≠ []) :
    exec (.storeAck rid) s = .next ({ s.settleWrite rid with
      reqs := (s.settleWrite rid).reqs.upd rid fun r => { r with stage := .acked } }.sendReply rid r) := by
  change execStoreAck rid s = _
  unfold execStoreAck
  rw [hr]
  dsimp only
  rw [hst]
  dsimp only
  rw [if_neg (by rw [hack]; exact Bool.false_ne_true)]
  exact if_neg (by rw [show (s.settleWrite rid).replyLegs r = s.replyLegs r from rfl]; simpa using hlegs)

theorem execStoreAck_arrived (hst : r.stage = .acked) (hway : s.inTransit (.reply rid) = false) :
    exec (.storeAck rid) s = .next (s.ackDone rid) := by
  change execStoreAck rid s = _
  unfold execStoreAck
  rw [hr]
  dsimp only
  rw [hst]
  exact if_neg (by rw [hway]; exact Bool.false_ne_true)

end ack

end Sys2Proof.Machine
end

section
/-! SUPPORT. Returned values (08 R170, R171, R174), and the statement on updates and returns. -/

namespace Sys2Proof.Machine
open Sys2Proof.Rules

/-! ### The registers of a group to which a value has come -/

/-- Words put at places, one after another. -/
theorem getD_foldl_zip_setD (bad : Bool) : ∀ (ks : List Nat) (ws : List Word) (t : Tab RCell), ks.Nodup → ∀ k,
    ((ks.zip ws).foldl (fun t e => t.setD {} e.1 { val := e.2, pois := bad }) t).getD {} k =
      if k ∈ ks.take ws.length then { val := ws.getD (ks.idxOf k) 0#32, pois := bad } else t.getD {} k
  | [], _, _, _, _ => by simp
  | _ :: _, [], _, _, _ => by simp
  | a :: ks, w :: ws, t, h, k => by
    obtain ⟨ha, hks⟩ := List.nodup_cons.mp h
    rw [List.zip_cons_cons, List.foldl_cons, getD_foldl_zip_setD bad ks ws _ hks k, List.length_cons, List.take_succ_cons]
    by_cases hk : k ∈ ks.take ws.length
    · have hne : a ≠ k := fun e => ha (e ▸ List.mem_of_mem_take hk)
      rw [if_pos hk, if_pos (List.mem_cons_of_mem _ hk), List.idxOf_cons_ne _ hne, List.getD_cons_succ]
    · rw [if_neg hk, Tab.getD_setD]
      by_cases e : k = a
      · subst e
        rw [if_pos rfl, if_pos List.mem_cons_self, List.idxOf_cons_self, List.getD_cons_zero]
      · rw [if_neg e, if_neg fun h => (List.mem_cons.mp h).elim e hk]

theorem Group.s_foldReturn (g : Group) (l : LaneIx) (fold : Option Nat) (ws : List Word) : (g.foldReturn l fold ws).s = g.s := by
  unfold Group.foldReturn
  split
  · rfl
  · exact Group.setLane_s ..

theorem Group.stack_foldReturn (g : Group) (l : LaneIx) (fold : Option Nat) (ws : List Word) (k : LaneIx) :
    ((g.foldReturn l fold ws).lane k).stack = (g.lane k).stack := by
  unfold Group.foldReturn
  split
  · rfl
  next p =>
    rw [Group.lane_setLane]
    split
    next e => rw [e]; exact foldl_same Lane.stack (f := fun v (e : Word × Nat) => v.foldAt (p + e.2) e.1) (fun _ _ => rfl) ws.zipIdx (g.lane l)
    next => rfl

/-- A group to which a value has come: it stands in its destination, and its clocks are joined (08 R171; 07 R150). -/
def Group.returned (g : Group) (l : LaneIx) (r : Req) (ws : List Word) (bad : Bool) (un : List Nat) : Group :=
  let g := (g.deliver l r.dst ws bad).foldReturn l r.fold ws
  { g with obs := g.obs.join r.wclk, vc := g.vc.join r.own, readFrom := (un ++ g.readFrom).dedup }

/-- An acquire changes clocks, marks and the status alone (07 R151). -/
theorem Group.acquire_frame (g : Group) (own : RelRec) (r : Req) :
    { g.acquire own r with vc := g.vc, acq := g.acq, status := g.status } = g := by
  unfold Group.acquire
  split
  · rfl
  · split
    · rfl
    · dsimp only
      split <;> rfl

theorem Group.acquire_of_not (g : Group) (own : RelRec) {r : Req} (h : r.order.acquires = false) : g.acquire own r = g := by
  unfold Group.acquire
  rw [if_pos (by rw [h]; rfl)]

section returned
variable (g : Group) (l : LaneIx) (r : Req) (ws : List Word) (bad : Bool) (un : List Nat)

theorem Group.s_returned : (g.returned l r ws bad un).s = (g.deliver l r.dst ws bad).s := Group.s_foldReturn ..
theorem Group.stack_returned (k : LaneIx) : ((g.returned l r ws bad un).lane k).stack = ((g.deliver l r.dst ws bad).lane k).stack :=
  Group.stack_foldReturn ..

theorem Group.clocks_returned : (g.returned l r ws bad un).obs = g.obs.join r.wclk ∧ (g.returned l r ws bad un).vc = g.vc.join r.own := by
  have folded (g : Group) : ((g.foldReturn l r.fold ws).obs, (g.foldReturn l r.fold ws).vc) = (g.obs, g.vc) := by
    unfold Group.foldReturn
    split
    · rfl
    · rw [Group.setLane_obs, Group.setLane_vc]
  have delivered : ((g.deliver l r.dst ws bad).obs, (g.deliver l r.dst ws bad).vc) = (g.obs, g.vc) := by
    unfold Group.deliver
    split
    · rfl
    · dsimp only
      rw [Group.setLane_obs, Group.setLane_vc]
    · rfl
  obtain ⟨obs, vc⟩ := Prod.mk.inj ((folded _).trans delivered)
  exact ⟨congrArg (Clk.join · r.wclk) obs, congrArg (Clk.join · r.own) vc⟩

theorem Group.deliver_slots {ss : List Nat} (h : ss.Nodup) : (g.deliver l (.slots ss) ws bad).s = g.s ∧ ∀ (j : LaneIx) (k : Nat),
    ((g.deliver l (.slots ss) ws bad).lane j).stack.getD {} k =
      if j = l ∧ k ∈ ss.take ws.length then { val := ws.getD (ss.idxOf k) 0#32, pois := bad } else (g.lane j).stack.getD {} k := by
  refine ⟨Group.setLane_s .., fun j k => ?_⟩
  change ((g.setLane l _).lane j).stack.getD {} k = _
  rw [Group.lane_setLane]
  by_cases e : j = l
  · subst e
    rw [if_pos rfl]
    dsimp only
    rw [getD_foldl_zip_setD bad ss ws _ h k]
    simp
  · rw [if_neg e, if_neg fun h => e h.1]

theorem Group.deliver_sregs {rs : List Nat} (h : rs.Nodup) : (∀ j, ((g.deliver l (.sregs rs) ws bad).lane j).stack = (g.lane j).stack) ∧
    ∀ k, (g.deliver l (.sregs rs) ws bad).s.getD {} k =
      if k ∈ rs.take ws.length then { val := ws.getD (rs.idxOf k) 0#32, pois := bad } else g.s.getD {} k :=
  ⟨fun _ => rfl, getD_foldl_zip_setD bad rs ws g.s h⟩

end returned

/-- A group to which a value has come and which has acquired what it brings. -/
structure Group.Returned (g : Group) (ln : Nat) (r : Req) (ws : List Word) (bad : Bool) (g' : Group) : Prop where
  obs : g'.obs = g.obs.join r.wclk
  vc : r.order.acquires = false → g'.vc = g.vc.join r.own
  slots : ∀ ss, r.dst = .slots ss → ss.Nodup → g'.s = g.s ∧ ∀ l : LaneIx, ∀ k,
    (g'.lane l).stack.getD {} k = if l.val = ln % 32 ∧ k ∈ ss.take ws.length
      then { val := ws.getD (ss.idxOf k) 0#32, pois := bad } else (g.lane l).stack.getD {} k
  sregs : ∀ rs, r.dst = .sregs rs → rs.Nodup → (∀ l, (g'.lane l).stack = (g.lane l).stack) ∧ ∀ k,
    g'.s.getD {} k = if k ∈ rs.take ws.length then { val := ws.getD (rs.idxOf k) 0#32, pois := bad } else g.s.getD {} k
  none : r.dst = .none → g'.s = g.s ∧ ∀ l, (g'.lane l).stack = (g.lane l).stack

theorem Group.returned_acquire (g : Group) (ln : Nat) (r : Req) (ws : List Word) (bad : Bool) (un : List Nat) (own : RelRec) :
    g.Returned ln r ws bad ((g.returned (Fin.ofNat 32 ln) r ws bad un).acquire own r) := by
  obtain ⟨obs, vc⟩ := g.clocks_returned (Fin.ofNat 32 ln) r ws bad un
  have regs := g.s_returned (Fin.ofNat 32 ln) r ws bad un
  have stack := g.stack_returned (Fin.ofNat 32 ln) r ws bad un
  generalize g.returned (Fin.ofNat 32 ln) r ws bad un = c at obs vc regs stack
  have frame := c.acquire_frame own r
  have still (hr : r.order.acquires = false) := c.acquire_of_not own hr
  generalize c.acquire own r = g' at frame still
  replace regs : g'.s = _ := (congrArg Group.s frame :).trans regs
  replace stack (k) : (g'.lane k).stack = _ := (congrArg (fun g : Group => (g.lane k).stack) frame :).trans (stack k)
  refine ⟨(congrArg Group.obs frame :).trans obs, fun hr => (congrArg Group.vc (still hr)).trans vc, fun ss hd hnd => ?_, fun rs hd hnd => ?_,
    fun hd => ?_⟩
  · rw [hd] at regs stack
    obtain ⟨same, slots⟩ := g.deliver_slots (Fin.ofNat 32 ln) ws bad hnd
    refine ⟨regs.trans same, fun l k => ?_⟩
    rw [stack, slots]
    simp only [Fin.ext_iff, Fin.val_ofNat]
  · rw [hd] at regs stack
    obtain ⟨same, sregs⟩ := g.deliver_sregs (Fin.ofNat 32 ln) ws bad hnd
    exact ⟨fun l => (stack l).trans (same l), fun k => regs ▸ sregs k⟩
  · rw [hd] at regs stack
    exact ⟨regs, stack⟩

/-! ### A value that has come back -/

theorem State.uncored_readBack (s : State) (core rid : Nat) (un : List Nat) (clk : Clk) : (s.readBack core rid un clk).uncored = s.uncored := by
  unfold State.readBack
  dsimp only
  split <;> rfl

theorem State.dropCnt_paidOff (s : State) (core rid : Nat) (own : Clk) (k : Nat) :
    ((s.paidOff core rid own).core k).dropCnt = (s.core k).dropCnt := by
  unfold State.paidOff
  dsimp only
  split
  · refine State.dropCnt_updCore ?_ k
    exact fun _ => rfl
  · rfl

theorem State.dropCnt_readBack (s : State) (core rid : Nat) (un : List Nat) (clk : Clk) (k : Nat) :
    ((s.readBack core rid un clk).core k).dropCnt = (s.core k).dropCnt := by
  unfold State.readBack
  dsimp only
  split
  · refine State.dropCnt_updCore ?_ k
    exact fun _ => rfl
  · rfl

/-- The line that a returning load's fill brings is there (06 R118). -/
def State.filled (s : State) (rid : Nat) : State :=
  match s.fillOf rid with
  | some u => s.applyFill u.1 u.2
  | none => s

theorem State.uncored_filled (s : State) (rid : Nat) : (s.filled rid).uncored = s.uncored := by
  unfold State.filled
  split
  · exact State.uncored_applyFill ..
  · rfl

theorem State.dropCnt_filled (s : State) (rid k : Nat) : ((s.filled rid).core k).dropCnt = (s.core k).dropCnt := by
  unfold State.filled
  split
  · exact State.dropCnt_applyFill ..
  · rfl

/-- The state when a value has come: its access is no more, its fill is applied, and what waited for it waits no more. -/
def State.received (s : State) (rid : Nat) (r : Req) : State :=
  (({ s.filled rid with reqs := (s.filled rid).reqs.del rid }).paidOff r.core rid r.own).readBack r.core rid
    (r.unsettled.filter (s.filled rid).isUnsettled) r.wclk

section received
variable (s : State) (rid : Nat) (r : Req)

theorem State.uncored_received : (s.received rid r).uncored = { s with reqs := s.reqs.del rid }.uncored := by
  have filled := s.uncored_filled rid
  refine (State.uncored_readBack ..).trans ((State.uncored_paidOff ..).trans ?_)
  exact (congrArg (fun t : State => { t with reqs := t.reqs.del rid }) filled :)

theorem State.grp_received (k : Nat) : (s.received rid r).grp k = s.grp k := (congrArg (fun t => State.grp t k) (s.uncored_received rid r) :)
theorem State.dram_received : (s.received rid r).dram = s.dram := (congrArg State.dram (s.uncored_received rid r) :)
theorem State.find_received : (s.received rid r).reqs.find rid = none :=
  (congrArg (fun t : State => t.reqs.find rid) (s.uncored_received rid r) :).trans ((Tab.find_del ..).trans (if_pos rfl))

theorem State.dropCnt_received (k : Nat) : ((s.received rid r).core k).dropCnt = (s.core k).dropCnt :=
  (State.dropCnt_readBack ..).trans ((State.dropCnt_paidOff ..).trans (State.dropCnt_filled s rid k))

end received

/-- A dropped return is counted, up to the counter's end (08 R171, R176). -/
theorem State.dropCnt_dropReturn (s : State) (c : Nat) :
    ((s.dropReturn c).core c).dropCnt.toNat = min ((s.core c).dropCnt.toNat + 1) 0xFFFFFFFF := by
  unfold State.dropReturn
  rw [State.core_updCore, if_pos rfl]
  dsimp only
  generalize (s.core c).dropCnt = d
  split
  next h => rw [h]; rfl
  next h =>
    have : d.toNat ≠ 0xFFFFFFFF := fun e => h (BitVec.eq_of_toNat_eq e)
    bv_omega

section value
variable {s : State} {rid : Nat} {r : Req} {gid ln : Nat} {ws : List Word} {bad : Bool}

/-- A value that comes back to its group (08 R171). -/
theorem State.returnValue_live {g : Group} (hg : s.grp gid = some g) (htag : g.tag = r.tag) (hteam : g.team = r.team) (hdead : r.dead = false)
    (hlog : r.logIx = none) : ∃ (own : Group → RelRec) (un : List Nat), s.returnValue rid r gid ln ws bad =
      (s.received rid r).updGrp gid fun g =>
        (g.returned (Fin.ofNat 32 ln) r ws bad un).acquire (own (g.returned (Fin.ofNat 32 ln) r ws bad un)) r := by
  refine ⟨fun g => ((s.received rid r).updGrp gid fun g => g.returned (Fin.ofNat 32 ln) r ws bad
    (r.unsettled.filter (s.filled rid).isUnsettled)).relRec g r.scope, r.unsettled.filter (s.filled rid).isUnsettled, ?_⟩
  unfold State.returnValue
  change (match (s.received rid r).grp gid with | none => _ | some g => _) = _
  rw [State.grp_received, hg]
  dsimp only
  rw [if_neg (by simp [htag, hteam]), if_neg (ne_true_of_eq_false hdead), hlog]
  exact State.updGrp_updGrp ..

/-- A value that comes back when its allocation has gone (08 R171). -/
theorem State.returnValue_gone (h : ∀ g, s.grp gid = some g → g.tag ≠ r.tag ∨ g.team ≠ r.team) :
    s.returnValue rid r gid ln ws bad = (s.received rid r).dropReturn r.core := by
  unfold State.returnValue
  change (match (s.received rid r).grp gid with | none => _ | some g => _) = _
  rw [State.grp_received]
  cases hg : s.grp gid with
  | none => rfl
  | some g => exact if_pos (by simpa using h g hg)

/-- A value that comes back when its group has been killed (19 R369). -/
theorem State.returnValue_dead {g : Group} (hg : s.grp gid = some g) (htag : g.tag = r.tag) (hteam : g.team = r.team) (hdead : r.dead = true) :
    s.returnValue rid r gid ln ws bad =
      ((s.received rid r).updGrp gid fun g => { g with vc := g.vc.join r.own }).dropReturn r.core := by
  unfold State.returnValue
  change (match (s.received rid r).grp gid with | none => _ | some g => _) = _
  rw [State.grp_received, hg]
  exact (if_neg (by simp [htag, hteam])).trans (if_pos hdead)

/-- What a dropped return leaves: every group but for its clock, and the count one higher. -/
theorem State.returnValue_dropped (h : ∀ g, s.grp gid = some g → g.tag ≠ r.tag ∨ g.team ≠ r.team ∨ r.dead = true) :
    let t := s.returnValue rid r gid ln ws bad
    t.reqs.find rid = none ∧ t.dram = s.dram ∧ (∀ k g, s.grp k = some g → ∃ g', t.grp k = some g' ∧ { g' with vc := g.vc } = g) ∧
      (t.core r.core).dropCnt.toNat = min ((s.core r.core).dropCnt.toNat + 1) 0xFFFFFFFF := by
  have gone := s.find_received rid r
  have dram := s.dram_received rid r
  have grp := s.grp_received rid r
  have count := s.dropCnt_received rid r r.core
  by_cases hlive : ∃ g, s.grp gid = some g ∧ g.tag = r.tag ∧ g.team = r.team
  · obtain ⟨g, hg, htag, hteam⟩ := hlive
    have hdead : r.dead = true := ((h g hg).resolve_left (not_not.mpr htag)).resolve_left (not_not.mpr hteam)
    rw [State.returnValue_dead hg htag hteam hdead]
    generalize s.received rid r = u at gone dram grp count
    refine ⟨gone, dram, fun k gk hk => ?_, ?_⟩
    · have own : ((u.updGrp gid fun g => { g with vc := g.vc.join r.own }).dropReturn r.core).grp k = _ :=
        State.grp_updGrp u gid (fun g => { g with vc := g.vc.join r.own }) k
      rw [own, grp, hk]
      split
      · exact ⟨_, rfl, rfl⟩
      · exact ⟨_, rfl, rfl⟩
    · rw [State.dropCnt_dropReturn, ← count]
      rfl
  · rw [State.returnValue_gone fun g hg => by
      by_contra hno
      simp only [not_or, not_not] at hno
      exact hlive ⟨g, hg, hno⟩]
    generalize s.received rid r = u at gone dram grp count
    exact ⟨gone, dram, fun k g hk => ⟨g, (grp k).trans hk, rfl⟩, by rw [State.dropCnt_dropReturn, count]⟩

end value

/-! ### The steps of returns (06 R123; 08 R171) -/

section asyncReturn
variable {s : State} {rid : Nat} {r : Req} {gid ln : Nat} {ws : List Word} {bad : Bool} (hr : s.reqs.find rid = some r)
include hr

/-- A reply is no read that the task unit has still to serve. -/
theorem State.serveTaskRead_of_reply (hst : r.stage = .reply ws bad) : s.serveTaskRead rid = s := by
  unfold State.serveTaskRead
  rw [hr]
  dsimp only
  rw [if_pos (by simp [hst])]

theorem execAsyncReturn_ready (hm : r.maker = .lane gid ln) (hst : r.stage = .reply ws bad) (hep : r.epoch = 0) (hready : s.returnReady rid r = true) :
    exec (.asyncReturn rid) s = .next (s.returnValue rid r gid ln ws bad) := by
  change execAsyncReturn rid s = _
  unfold execAsyncReturn
  rw [State.serveTaskRead_of_reply hr hst]
  dsimp only
  rw [hr]
  dsimp only
  rw [hst, hm]
  exact (if_neg (not_not.mpr hep)).trans (if_pos hready)

/-- The home of an atomic that wrote is settled, and its reply sent. -/
theorem execAsyncReturn_settles (hm : r.maker = .lane gid ln) (hst : r.stage = .reply ws bad) (hep : r.epoch ≠ 0) (hack : s.ackReady rid r.home = true) (hlegs : s.replyLegs r ≠ []) :
    exec (.asyncReturn rid) s = .next ((s.settleWrite rid).sendReply rid r) := by
  have way : ((s.settleWrite rid).sendReply rid r).inTransit (.reply rid) = true := State.inTransit_send _ _ _ hlegs _
  change execAsyncReturn rid s = _
  unfold execAsyncReturn
  rw [State.serveTaskRead_of_reply hr hst]
  dsimp only
  rw [hr]
  dsimp only
  rw [hst, hm]
  refine (if_pos hep).trans ((if_neg (by rw [hack]; exact Bool.false_ne_true)).trans (congrArg _ (if_neg ?_)))
  unfold State.returnReady
  rw [way]
  exact Bool.false_ne_true

end asyncReturn

/-- Settles O31: each step is evaluated from its own rule; what it leaves alone is what an L1 fill, a debt paid off and a reply on its way
leave alone. -/
theorem updatesAndReturns : Obligations.UpdatesAndReturns := by
  intro s
  refine ⟨fun uid u hu hfirst => ⟨State.update_applied hu hfirst, State.fill_applied hu hfirst⟩, fun rid r hr => ⟨fun hst hack =>
    ⟨fun hlegs => ?_, fun hlegs => ?_⟩, fun hst hway => ?_⟩, fun rid r gid ln ws bad hr hm hst => ⟨fun hep hack hlegs => ?_,
      fun hep hready hlog => ⟨fun g hg htag hteam hdead => ?_, fun hgone => ?_⟩⟩⟩
  · exact ⟨_, execStoreAck_home hr hst hack hlegs, State.ackDone_spec (State.find_settleWrite hr)⟩
  · obtain ⟨n, ps, ls, h⟩ := State.sendReply_eq { s.settleWrite rid with
      reqs := (s.settleWrite rid).reqs.upd rid fun r => { r with stage := .acked } } rid r
    refine ⟨_, { r.settled with stage := .acked }, execStoreAck_far hr hst hack hlegs, ?_, rfl, rfl, rfl, (congrArg State.groups h :),
      State.inTransit_send _ _ _ hlegs _⟩
    refine (congrArg (fun t : State => t.reqs.find rid) h :).trans ((Tab.find_upd ..).trans ?_)
    rw [if_pos rfl, State.find_settleWrite hr]
    rfl
  · exact ⟨_, execStoreAck_arrived hr hst hway, State.ackDone_spec hr⟩
  · obtain ⟨n, ps, ls, h⟩ := (s.settleWrite rid).sendReply_eq rid r
    exact ⟨_, r.settled, execAsyncReturn_settles hr hm hst hep hack hlegs,
      (congrArg (fun t : State => t.reqs.find rid) h :).trans (State.find_settleWrite hr), rfl, rfl, rfl, (congrArg State.groups h :),
      State.inTransit_send _ _ _ hlegs _⟩
  · obtain ⟨own, un, h⟩ := State.returnValue_live (ln := ln) (ws := ws) (bad := bad) (rid := rid) hg htag hteam hdead hlog
    obtain ⟨obs, vc, slots, sregs, none⟩ := g.returned_acquire ln r ws bad un (own (g.returned (Fin.ofNat 32 ln) r ws bad un))
    have grp (k) := State.grp_received s rid r k
    refine ⟨_, _, (execAsyncReturn_ready hr hm hst hep hready).trans (congrArg _ h), State.dram_received s rid r, State.find_received s rid r,
      ?_, fun k hk => ?_, obs, vc, slots, sregs, none⟩
    · rw [State.grp_updGrp, if_pos rfl, grp, hg]
      rfl
    · rw [State.grp_updGrp, if_neg hk, grp]
  · exact ⟨_, execAsyncReturn_ready hr hm hst hep hready, State.returnValue_dropped hgone⟩

end Sys2Proof.Machine
end

section
/-! SUPPORT. The new words of atomics (06 R135, R136). -/

namespace Sys2Proof.Machine
open Sys2Proof.Rules

/-! ### Integer atomics (06 R135) -/

theorem BitVec.ofInt_toInt_min {w : Nat} (a b : BitVec w) : BitVec.ofInt w (min a.toInt b.toInt) = if a.slt b then a else b := by
  rcases lt_or_ge a.toInt b.toInt with h | h
  · rw [min_eq_left h.le, BitVec.ofInt_toInt, if_pos (BitVec.slt_iff_toInt_lt.mpr h)]
  · rw [min_eq_right h, BitVec.ofInt_toInt, if_neg (BitVec.slt_iff_toInt_lt.not.mpr h.not_gt)]

theorem BitVec.ofInt_toInt_max {w : Nat} (a b : BitVec w) : BitVec.ofInt w (max a.toInt b.toInt) = if a.slt b then b else a := by
  rcases lt_or_ge a.toInt b.toInt with h | h
  · rw [max_eq_right h.le, BitVec.ofInt_toInt, if_pos (BitVec.slt_iff_toInt_lt.mpr h)]
  · rw [max_eq_left h, BitVec.ofInt_toInt, if_neg (BitVec.slt_iff_toInt_lt.not.mpr h.not_gt)]

theorem BitVec.ofNat_toNat_min {w : Nat} (a b : BitVec w) : BitVec.ofNat w (min a.toNat b.toNat) = if a.ult b then a else b := by
  rcases lt_or_ge a.toNat b.toNat with h | h
  · rw [min_eq_left h.le, BitVec.ofNat_toNat, BitVec.setWidth_eq, if_pos (BitVec.ult_iff_toNat_lt.mpr h)]
  · rw [min_eq_right h, BitVec.ofNat_toNat, BitVec.setWidth_eq, if_neg (BitVec.ult_iff_toNat_lt.not.mpr h.not_gt)]

theorem BitVec.ofNat_toNat_max {w : Nat} (a b : BitVec w) : BitVec.ofNat w (max a.toNat b.toNat) = if a.ult b then b else a := by
  rcases lt_or_ge a.toNat b.toNat with h | h
  · rw [max_eq_right h.le, BitVec.ofNat_toNat, BitVec.setWidth_eq, if_pos (BitVec.ult_iff_toNat_lt.mpr h)]
  · rw [max_eq_left h, BitVec.ofNat_toNat, BitVec.setWidth_eq, if_neg (BitVec.ult_iff_toNat_lt.not.mpr h.not_gt)]

theorem atomicResults : Rules.AtomicResults := fun old b b1 =>
  ⟨congrArg some (BitVec.eq_of_toNat_eq (by simp)), rfl, rfl, rfl, congrArg some (BitVec.ofInt_toInt_min ..).symm,
    congrArg some (BitVec.ofInt_toInt_max ..).symm, congrArg some (BitVec.ofNat_toNat_min ..).symm,
    congrArg some (BitVec.ofNat_toNat_max ..).symm, rfl, rfl, rfl, if_pos rfl, fun h => if_neg h⟩

/-! ### Codes of binary32 (09 R182) -/

theorem fp32_mag (c : Nat) : fp32.mag c = c % 2 ^ 31 := rfl
theorem fp32_neg (c : Nat) : fp32.neg c = (c / 2 ^ 31 % 2 == 1) := rfl

theorem fp32_decode (c : Nat) : fp32.decode c =
    if 0x7F800000 < c % 2 ^ 31 then .nan else if c % 2 ^ 31 = 0x7F800000 then .inf (fp32.neg c)
    else if c % 2 ^ 31 / 2 ^ 23 = 0 then .fin (fp32.neg c) (c % 2 ^ 31 % 2 ^ 23) (-149)
    else .fin (fp32.neg c) (2 ^ 23 + c % 2 ^ 31 % 2 ^ 23) ((c % 2 ^ 31 / 2 ^ 23 : Nat) - 127 - 23) := by
  unfold Fmt.decode
  simp only [show fp32.ieee = true from rfl, show fp32.infMag = 0x7F800000 from rfl, fp32_mag, if_true]
  by_cases hnan : 0x7F800000 < c % 2 ^ 31
  · rw [if_pos hnan, if_pos hnan]
  · rw [if_neg hnan, if_neg hnan]
    by_cases hinf : c % 2 ^ 31 = 0x7F800000
    · rw [if_pos hinf, if_pos hinf]
    · rw [if_neg hinf, if_neg hinf]
      rfl

/-- A code of 32 bits is its sign and its magnitude. -/
theorem fp32_code {c : Nat} (h : c < 2 ^ 32) : c = fp32.signed (fp32.neg c) (c % 2 ^ 31) := by
  rw [Fmt.signed, fp32_neg]
  change c = if (c / 2 ^ 31 % 2 == 1) = true then 2 ^ 31 + c % 2 ^ 31 else c % 2 ^ 31
  split
  next h => rw [beq_iff_eq] at h; omega
  next h => rw [beq_iff_eq] at h; omega

/-- The codes of infinities. -/
theorem fp32_code_of_inf {c : Nat} (h : c < 2 ^ 32) {s : Bool} (hd : fp32.decode c = .inf s) : c = fp32.signed s 0x7F800000 := by
  have code := fp32_code h
  rw [fp32_decode] at hd
  split at hd
  · cases hd
  · split at hd
    next hinf => rwa [hinf, Fp.inf.inj hd] at code
    next => split at hd <;> cases hd

/-- The codes of zeros. -/
theorem fp32_code_of_zero {c : Nat} (h : c < 2 ^ 32) {s : Bool} {e : Int} (hd : fp32.decode c = .fin s 0 e) : c = fp32.signed s 0 := by
  have code := fp32_code h
  rw [fp32_decode] at hd
  split at hd
  · cases hd
  · split at hd
    · cases hd
    · split at hd
      next hexp =>
        obtain ⟨hs, hm, -⟩ := Fp.fin.inj hd
        rwa [hs, show c % 2 ^ 31 = 0 by omega] at code
      next =>
        obtain ⟨-, hm, -⟩ := Fp.fin.inj hd
        omega

/-! ### The sum of two values (10 R221) -/

/-- The value of a finite operand. -/
def Fp.value (v : Fp) : ℚ :=
  match v with
  | .fin s m e => (if s then -1 else 1) * m * 2 ^ e
  | _ => 0

theorem Fp.value_units (s : Bool) (m : Nat) {e q : Int} (h : q ≤ e) :
    (((Fp.fin s m e).units q : ℤ) : ℚ) * 2 ^ q = (if s then -1 else 1) * (m : ℚ) * 2 ^ e := by
  have pow : ((2 ^ (e - q).toNat : Nat) : ℚ) * 2 ^ q = 2 ^ e := by
    rw [Nat.cast_pow, Nat.cast_ofNat, ← zpow_natCast, Int.toNat_of_nonneg (by omega), ← zpow_add₀ (by norm_num), Int.sub_add_cancel]
  rw [← pow]
  cases s with
  | true =>
    rw [if_pos rfl, show (Fp.fin true m e).units q = -(m * 2 ^ (e - q).toNat : Nat) from rfl]
    push_cast
    ring
  | false =>
    rw [if_neg Bool.false_ne_true, show (Fp.fin false m e).units q = (m * 2 ^ (e - q).toNat : Nat) from rfl]
    push_cast
    ring

/-- The sum of two finite values is exact, and an exact zero is negative only of two negative zeros. -/
theorem Fp.sum_fin (s1 s2 : Bool) (m1 m2 : Nat) (e1 e2 : Int) : ∃ s m e, Fp.sum [.fin s1 m1 e1, .fin s2 m2 e2] false = .fin s m e ∧
    (if s then (-1 : ℚ) else 1) * m * 2 ^ e =
      (if s1 then -1 else 1) * (m1 : ℚ) * 2 ^ e1 + (if s2 then -1 else 1) * (m2 : ℚ) * 2 ^ e2 ∧
    ((if s then (-1 : ℚ) else 1) * m * 2 ^ e = 0 → (s = true ↔ (s1 = true ∧ m1 = 0) ∧ (s2 = true ∧ m2 = 0))) := by
  generalize hq : min (min e1 e1) e2 = q
  generalize hn : 0 + (Fp.fin s1 m1 e1).units q + (Fp.fin s2 m2 e2).units q = n
  have total : (n : ℚ) * 2 ^ q = (if s1 then -1 else 1) * (m1 : ℚ) * 2 ^ e1 + (if s2 then -1 else 1) * (m2 : ℚ) * 2 ^ e2 := by
    rw [← Fp.value_units s1 m1 (q := q) (by omega), ← Fp.value_units s2 m2 (q := q) (by omega), ← hn]
    push_cast
    ring
  have sum : Fp.sum [.fin s1 m1 e1, .fin s2 m2 e2] false = if n = 0 then
      if m1 = 0 ∧ s1 = true ∧ m2 = 0 ∧ s2 = true then .fin true 0 0 else .fin false 0 0
      else .fin (n < 0) n.natAbs q := by
    subst hq hn
    change (if 0 + (Fp.fin s1 m1 e1).units (min (min e1 e1) e2) + (Fp.fin s2 m2 e2).units (min (min e1 e1) e2) = 0 then
      if (((m1 == 0) && s1) && (((m2 == 0) && s2) && true)) = true then Fp.fin true 0 0
      else if (((m1 == 0) && !s1) && (((m2 == 0) && !s2) && true)) = true then .fin false 0 0 else .fin false 0 0
      else _) = _
    rw [ite_self]
    simp only [Bool.and_true, Bool.and_eq_true, beq_iff_eq, and_assoc]
    rfl
  rw [sum, ← total]
  by_cases h0 : n = 0
  · rw [if_pos h0, h0]
    split
    next h =>
      obtain ⟨hm1, hs1, hm2, hs2⟩ := h
      exact ⟨_, _, _, rfl, by simp, fun _ => ⟨fun _ => ⟨⟨hs1, hm1⟩, hs2, hm2⟩, fun _ => rfl⟩⟩
    next h => exact ⟨_, _, _, rfl, by simp, fun _ => ⟨nofun, fun ⟨⟨hs1, hm1⟩, hs2, hm2⟩ => absurd ⟨hm1, hs1, hm2, hs2⟩ h⟩⟩
  · have abs : (if (decide (n < 0) : Bool) then (-1 : ℚ) else 1) * (n.natAbs : ℚ) = n := by
      rw [Nat.cast_natAbs, Int.cast_abs]
      split
      next h => rw [abs_of_neg (by simpa using h)]; ring
      next h => rw [abs_of_nonneg (by simpa using h)]; ring
    rw [if_neg h0]
    refine ⟨_, _, _, rfl, by rw [abs], fun hz => ?_⟩
    rw [abs, mul_eq_zero] at hz
    rcases hz with hz | hz
    · exact absurd (by exact_mod_cast hz) h0
    · exact absurd hz (by positivity)

/-! ### AFADD (06 R136) -/

/-- The sum as `AFADD` takes it: rounded to nearest even, without any mode. -/
def atomicSum (a b : Nat) : Nat := (Mode.add ⟨.rne, false, false, true⟩ fp32 a b).code

theorem atomicSum_of_nan {a b : Nat} (h : fp32.isNan a = true ∨ fp32.isNan b = true) : atomicSum a b = 0x7FC00000 := by
  unfold atomicSum Mode.add Mode.fin
  cases hf : [(fp32, a), (fp32, b)].find? fun e => e.1.isNan e.2 with
  | some e => rfl
  | none =>
    rw [List.find?_eq_none] at hf
    rcases h with h | h
    · exact absurd h (hf (fp32, a) (by simp))
    · exact absurd h (hf (fp32, b) (by simp))

/-- The sum of two codes that are no NaN, rounded once. -/
theorem atomicSum_of_not_nan {a b : Nat} (ha : fp32.isNan a = false) (hb : fp32.isNan b = false) :
    atomicSum a b = (fp32.encode 0 .rne false (Fp.sum [fp32.decode a, fp32.decode b] false)).code := by
  have find : ([(fp32, a), (fp32, b)].find? fun e => e.1.isNan e.2) = none := by
    rw [List.find?_eq_none]
    simp [ha, hb]
  have val (c : Nat) : (⟨.rne, false, false, true⟩ : Mode).val fp32 c = fp32.decode c := rfl
  unfold atomicSum Mode.add Mode.fin
  rw [find, val, val]
  dsimp only
  change FRes.code (match Fp.sum [fp32.decode a, fp32.decode b] false with | .nan => _ | v => _) = _
  cases Fp.sum [fp32.decode a, fp32.decode b] false with
  | nan => rfl
  | inf s => rfl
  | fin s m e => exact if_neg (by rw [Bool.and_false]; exact Bool.false_ne_true)

theorem fp32_signed_lt (s : Bool) {m : Nat} (h : m < 2 ^ 31) : fp32.signed s m < 2 ^ 32 := by
  change (if s = true then 2 ^ 31 + m else m) < 2 ^ 32
  split <;> omega

theorem fp32_overflow (s : Bool) : fp32.overflow s false = fp32.signed s fp32.infMag := by
  rw [Fmt.overflow, if_neg Bool.false_ne_true, if_pos (show fp32.hasInf = true from rfl)]

/-- A finite value's code has its sign and a magnitude up to the infinity's. -/
theorem encode_signed (s : Bool) (m : Nat) (e : Int) :
    ∃ n, n ≤ fp32.infMag ∧ (fp32.encode 0 .rne false (.fin s m e)).code = fp32.signed s n := by
  have limit : fp32.maxMag ≤ fp32.infMag := by
    rw [Fmt.maxMag, if_pos (show fp32.ieee = true from rfl)]
    exact Nat.sub_le ..
  unfold Fmt.encode
  dsimp only
  split
  next h => cases h
  split
  · exact ⟨0, Nat.zero_le _, rfl⟩
  generalize (if roundTo s m (e - 0) _ .rne = 2 ^ fp32.p then _ else _ : Nat × Int) = nq
  obtain ⟨n, q⟩ := nq
  dsimp only
  split
  · exact ⟨0, Nat.zero_le _, rfl⟩
  generalize (if n < 2 ^ (fp32.p - 1) then n else _) = mag
  split
  · split
    · exact ⟨_, limit, rfl⟩
    · exact ⟨_, le_rfl, fp32_overflow s⟩
  next h => exact ⟨mag, (not_lt.mp h).trans limit, rfl⟩

theorem encode_lt (s : Bool) (m : Nat) (e : Int) : (fp32.encode 0 .rne false (.fin s m e)).code < 2 ^ 32 := by
  obtain ⟨n, hn, h⟩ := encode_signed s m e
  rw [h]
  exact fp32_signed_lt s (hn.trans_lt (by norm_num [Fmt.infMag, fp32]))

/-- A sum with an infinity is that infinity, unless the other is a NaN or the other infinity (10 R221). -/
theorem Fp.sum_inf {s : Bool} {v : Fp} (hnan : v ≠ .nan) (hinf : v ≠ .inf (!s)) :
    Fp.sum [.inf s, v] false = .inf s ∧ Fp.sum [v, .inf s] false = .inf s := by
  cases v with
  | nan => exact absurd rfl hnan
  | inf s' =>
    obtain rfl : s' = s := by_contra fun hne => hinf (congrArg Fp.inf (Bool.eq_not.mpr hne))
    cases s' <;> exact ⟨rfl, rfl⟩
  | fin s' m e => cases s <;> exact ⟨rfl, rfl⟩

theorem decode_ne_nan {c : Nat} (h : fp32.isNan c = false) : fp32.decode c ≠ .nan := fun e => by
  rw [Fmt.isNan, e] at h
  cases h

theorem fp32_decode_negZero : ∃ e, fp32.decode 0x80000000 = .fin true 0 e := ⟨_, rfl⟩

/-- What is no NaN is not said to be one. -/
theorem isNan_of_decode {c : Nat} {v : Fp} (h : fp32.decode c = v) (hv : v ≠ .nan) : fp32.isNan c = false := by
  rw [Fmt.isNan, h]
  simpa using hv

theorem floatAtomic : Rules.FloatAtomic := by
  intro old b b1
  have nan {r : Nat} (h : r = 0x7FC00000) : BitVec.ofNat 32 r = 0x7FC00000#32 := by rw [h]
  have code (w : Word) (r : Nat) (h : r = w.toNat) : BitVec.ofNat 32 r = w := by rw [h]; simp
  have negZero {w : Word} {s : Bool} {m : Nat} {e : Int} (h : fp32.decode w.toNat = .fin s m e) : s = true ∧ m = 0 ↔ w = 0x80000000#32 := by
    constructor
    · rintro ⟨rfl, rfl⟩
      exact BitVec.eq_of_toNat_eq (fp32_code_of_zero w.isLt h)
    · rintro rfl
      obtain ⟨rfl, rfl, -⟩ := Fp.fin.inj (h.symm.trans fp32_decode_negZero.choose_spec)
      exact ⟨rfl, rfl⟩
  refine ⟨BitVec.ofNat 32 (atomicSum old.toNat b.toNat), rfl, fun h => nan (atomicSum_of_nan h), fun s ho hb => ?_, fun s ho hb hne => ?_,
    fun s hb ho hne => ?_, fun x y ⟨s1, m1, e1, ho, hx⟩ ⟨s2, m2, e2, hb, hy⟩ => ?_⟩
  · refine nan ?_
    rw [atomicSum_of_not_nan (isNan_of_decode ho nofun) (isNan_of_decode hb nofun), ho, hb]
    cases s <;> rfl
  · refine code _ _ ?_
    rw [atomicSum_of_not_nan (isNan_of_decode ho nofun) hb, ho, (Fp.sum_inf (decode_ne_nan hb) hne).1]
    exact (fp32_code_of_inf old.isLt ho).symm
  · refine code _ _ ?_
    rw [atomicSum_of_not_nan ho (isNan_of_decode hb nofun), hb, (Fp.sum_inf (decode_ne_nan ho) hne).2]
    exact (fp32_code_of_inf b.isLt hb).symm
  · obtain ⟨s, m, e, hsum, hval, hzero⟩ := Fp.sum_fin s1 s2 m1 m2 e1 e2
    rw [← hx, ← hy]
    refine ⟨s, m, e, hval, fun h => (hzero (hval.trans h)).trans (and_congr (negZero ho) (negZero hb)), ?_⟩
    rw [atomicSum_of_not_nan (isNan_of_decode ho nofun) (isNan_of_decode hb nofun), ho, hb, hsum]
    exact Nat.mod_eq_of_lt (encode_lt s m e)

end Sys2Proof.Machine
end

section
/-! SUPPORT. Lines at their home: which lines a home's work leaves, and that written bytes are read back (03 R51, R63; 06 R119). -/

namespace Sys2Proof.Machine
open Sys2Proof.Rules

/-! ### Where a line is -/

/-- The die of a slice set is its addresses' die. -/
theorem State.sliceSet_die (s : State) (pa : Nat) : s.sliceSet pa ≠ [] ∧ ∀ c ∈ s.sliceSet pa, c / 64 = pa / 2 ^ 38 := by
  have all (c : Nat) (hc : c ∈ (List.range 64).map (64 * (pa / 2 ^ 38) + ·)) : c / 64 = pa / 2 ^ 38 := by
    obtain ⟨i, hi, rfl⟩ := List.mem_map.mp hc
    have := List.mem_range.mp hi
    omega
  unfold State.sliceSet
  dsimp only
  generalize (s.die (pa / 2 ^ 38)).sets.getD 0#4 (pa / 2 ^ 30 % 256) = doms
  split
  · exact ⟨by simp, all⟩
  next hne =>
    refine ⟨fun h => hne ?_, fun c hc => all c (List.mem_filter.mp hc).1⟩
    -- every domain has a slice of the die
    have clear (i : Nat) (hi : i < 64) : doms.getLsbD (domainOf (64 * (pa / 2 ^ 38) + i) % 4) = false := by
      have := List.filter_eq_nil_iff.mp h (64 * (pa / 2 ^ 38) + i) (List.mem_map.mpr ⟨i, List.mem_range.mpr hi, rfl⟩)
      simpa using this
    have domain (i : Nat) (hi : i < 64) : domainOf (64 * (pa / 2 ^ 38) + i) % 4 = 2 * (i / 32) + i % 8 / 4 := by
      unfold domainOf
      omega
    refine BitVec.eq_of_getLsbD_eq fun j hj => ?_
    rw [BitVec.getLsbD_zero]
    have := clear (32 * (j / 2) + 4 * (j % 2)) (by omega)
    rw [domain _ (by omega)] at this
    rwa [show 2 * ((32 * (j / 2) + 4 * (j % 2)) / 32) + (32 * (j / 2) + 4 * (j % 2)) % 8 / 4 = j by omega] at this

theorem hashIdx_lt (ln : Nat) {n : Nat} (h : 0 < n) : hashIdx ln n < n := by
  unfold hashIdx
  dsimp only
  generalize (ln ^^^ (ln >>> 13) ^^^ (ln >>> 23)) % 2 ^ 32 * 0x9E3779B1 = x
  have : x % 2 ^ 32 / 2 ^ 16 < 2 ^ 16 := by omega
  exact Nat.div_lt_of_lt_mul (by nlinarith)

/-- The home of an address is a slice of its die (03 R50). -/
theorem State.home_die (s : State) (pa : Nat) : s.home pa / 64 = pa / 2 ^ 38 := by
  obtain ⟨hne, hdie⟩ := s.sliceSet_die pa
  have lt := hashIdx_lt (pa / 256 % 2 ^ 30) (List.length_pos_of_ne_nil hne)
  refine hdie _ ?_
  unfold State.home
  dsimp only
  rw [List.getD_eq_getElem _ _ lt]
  exact List.getElem_mem lt

/-- A line of an address is in no other slice's part of the table. -/
theorem State.l2Key_div (s : State) (pa : Nat) : l2Key (s.home pa) (pa / 256) / 2 ^ 32 = s.home pa ∨
    256 ≤ l2Key (s.home pa) (pa / 256) / 2 ^ 32 := by
  have := s.home_die pa
  unfold l2Key
  generalize s.home pa = h at *
  omega

/-- The bitmap's bytes lie in the part's memory. -/
theorem State.granuleAt_lt (s : State) (pa : Nat) : (s.granuleAt pa).1 < 2 ^ 40 := by
  unfold State.granuleAt
  dsimp only
  have := ((s.region pa).extractLsb' 15 25).isLt
  omega

/-- A line in another slice than its granule's dirty bit is no line of that slice. -/
theorem State.l2Key_apart {s : State} {pa : Nat} (h : s.home (s.granuleAt pa).1 ≠ s.home pa) :
    l2Key (s.home pa) (pa / 256) / 2 ^ 32 ≠ s.home (s.granuleAt pa).1 := by
  have lt := s.granuleAt_lt pa
  have die := s.home_die (s.granuleAt pa).1
  rcases s.l2Key_div pa with hk | hk <;> omega

/-! ### Which lines a home's work leaves -/

section others
variable {k : Nat}

theorem State.l2_putBlock (s : State) (lid bn : Nat) (bs : List Byte) : (s.putBlock lid bn bs).l2 = s.l2 := by
  unfold State.putBlock
  split <;> rfl

theorem State.l2_putSector (s : State) (lid sn : Nat) (bs : List Byte) (bad : Bool) : (s.putSector lid sn bs bad).l2 = s.l2 := by
  unfold State.putSector
  exact foldl_same State.l2 (fun _ _ => State.l2_putBlock ..) _ s

theorem State.find_writeBackOf (s : State) {k' : Nat} (which : L2Line → BitVec 4) (h : k ≠ k') :
    (s.writeBackOf k' which).l2.find k = s.l2.find k := by
  unfold State.writeBackOf
  split
  · rfl
  next l _ =>
    have sectors := foldl_same State.l2 (f := fun s i => if (which l).getLsbD i && l.valid.getLsbD i then
        s.putSector l.lid (4 * (k' % 2 ^ 32) + i) (getBytes l.data (64 * i) 64) (l.poison.getLsbD i) else s)
      (fun _ _ => by split; exacts [State.l2_putSector .., rfl]) (List.range 4) s
    dsimp only
    generalize List.foldl _ s (List.range 4) = t at sectors ⊢
    rw [Tab.find_put, if_neg h, sectors]

theorem State.find_evict (s : State) {k' : Nat} (h : k ≠ k') : (s.evict k').l2.find k = s.l2.find k := by
  unfold State.evict
  exact (Tab.find_del ..).trans ((if_neg h).trans (State.find_writeBackOf s _ h))

/-- The older of two unpinned lines (03 R51). -/
def olderLine (b : Option (Nat × Nat)) (e : Nat × L2Line) : Option (Nat × Nat) :=
  if e.2.pins ≠ 0 then b else match b with
    | none => some (e.1, e.2.lru)
    | some v => if e.2.lru < v.2 then some (e.1, e.2.lru) else b

theorem olderLine_of {P : Nat → Prop} {b : Option (Nat × Nat)} {e : Nat × L2Line} (hb : ∀ p ∈ b, P p.1) (he : P e.1) :
    ∀ p ∈ olderLine b e, P p.1 := by
  have new : ∀ p ∈ some (e.1, e.2.lru), P p.1 := fun p hp => Option.some.inj hp ▸ he
  unfold olderLine
  split
  · exact hb
  · split
    · exact new
    · split
      · exact new
      · exact hb

/-- A victim is a line of its slice. -/
theorem State.victim_home {s : State} {home set v : Nat} (h : s.victim home set = some v) : v / 2 ^ 32 = home := by
  have fold (ls : Tab L2Line) (hls : ∀ e ∈ ls, e.1 / 2 ^ 32 = home) (b : Option (Nat × Nat)) (hb : ∀ p ∈ b, p.1 / 2 ^ 32 = home) :
      ∀ p ∈ ls.foldl olderLine b, p.1 / 2 ^ 32 = home := by
    induction ls generalizing b with
    | nil => exact hb
    | cons e ls ih =>
      exact ih (fun e' he' => hls e' (List.mem_cons_of_mem _ he')) _
        (olderLine_of (P := fun k => k / 2 ^ 32 = home) hb (hls e List.mem_cons_self))
  unfold State.victim at h
  dsimp only at h
  split at h
  · cases h
  · obtain ⟨p, hp, rfl⟩ := Option.map_eq_some_iff.mp h
    refine fold _ (fun e he => ?_) none nofun p hp
    have := (List.mem_filter.mp he).2
    rw [Bool.and_eq_true, beq_iff_eq] at this
    exact this.1

theorem State.find_makeRoom (s : State) {home : Nat} (set : Nat) (h : k / 2 ^ 32 ≠ home) : (s.makeRoom home set).l2.find k = s.l2.find k := by
  unfold State.makeRoom
  split
  · rfl
  next v hv => exact State.find_evict s fun e => h (e ▸ State.victim_home hv)

section line
variable (s : State) {home ln : Nat} (h : k / 2 ^ 32 ≠ home) (hne : k ≠ l2Key home ln)
include hne

theorem State.find_fillSector (i : Nat) : (s.fillSector home ln i).l2.find k = s.l2.find k := by
  unfold State.fillSector
  dsimp only
  split
  · rfl
  · split
    · rfl
    · exact (Tab.find_put ..).trans (if_neg hne)

include h

theorem State.find_openLine (key : Nat) : (s.openLine home ln key).l2.find k = s.l2.find k := by
  have room (s : State) := State.find_makeRoom s (setOf ln) h
  unfold State.openLine
  dsimp only
  split
  · exact (Tab.find_put ..).trans ((if_neg hne).trans (room s))
  · split
    · exact (Tab.find_put ..).trans (if_neg hne)
    · exact (Tab.find_put ..).trans ((if_neg hne).trans ((room _).trans (State.find_evict s hne)))

end line

end others

end Sys2Proof.Machine
end

section
/-! SUPPORT. Written bytes are read back at their home (03 R51, R63, R67; 06 R119). -/

namespace Sys2Proof.Machine
open Sys2Proof.Rules

/-! ### What finding a line depends on besides the L2 -/

/-- Every address has the home, and every key the installation, that it had. -/
structure State.Mapped (s t : State) : Prop where
  sets : ∀ d, (t.die d).sets = (s.die d).sets
  keys : t.keys = s.keys

theorem State.Mapped.trans {s t u : State} (h : s.Mapped t) (h' : t.Mapped u) : s.Mapped u :=
  ⟨fun d => (h'.sets d).trans (h.sets d), h'.keys.trans h.keys⟩

theorem State.mapped_of_unlined {s t : State} (h : t.unlined = s.unlined) : s.Mapped t :=
  ⟨fun d => (congrArg (fun s => (State.die s d).sets) h :), (congrArg State.keys h :)⟩

section mapped
variable {s t : State} (h : s.Mapped t)
include h

theorem State.Mapped.home (pa : Nat) : t.home pa = s.home pa := by
  unfold State.home State.sliceSet
  simp only [h.sets]

theorem State.Mapped.lid (key : Nat) : t.lid key = s.lid key := by
  unfold State.lid
  rw [h.keys]

end mapped

/-! ### The line that an access opens -/

/-- A line under a key's installation. -/
def L2Line.Under (l : L2Line) (s : State) (key : Nat) : Prop := l.key = key ∧ l.lid = s.lid key

theorem State.lid_of_unlined {s t : State} (h : t.unlined = s.unlined) (key : Nat) : t.lid key = s.lid key :=
  (State.mapped_of_unlined h).lid key

theorem State.openLine_opens (s : State) (home ln key : Nat) :
    ∃ l, (s.openLine home ln key).l2.find (l2Key home ln) = some l ∧ l.Under s key := by
  have put (m : Tab L2Line) (l : L2Line) : (m.put (l2Key home ln) l).find (l2Key home ln) = some l := (Tab.find_put ..).trans (if_pos rfl)
  unfold State.openLine
  dsimp only
  split
  · exact ⟨_, put .., rfl, State.lid_of_unlined (State.unlined_makeRoom ..) key⟩
  next l hl =>
    split
    next h =>
      rw [Bool.and_eq_true, decide_eq_true_eq, decide_eq_true_eq] at h
      exact ⟨_, put .., h.1, h.2⟩
    next => exact ⟨_, put .., rfl, State.lid_of_unlined ((State.unlined_makeRoom ..).trans (State.unlined_evict ..)) key⟩

/-- Filling a sector leaves a line under its key. -/
theorem State.fillSector_under {s : State} {home ln : Nat} {l : L2Line} (h : s.l2.find (l2Key home ln) = some l) (i : Nat) :
    ∃ l', (s.fillSector home ln i).l2.find (l2Key home ln) = some l' ∧ l'.key = l.key ∧ l'.lid = l.lid := by
  unfold State.fillSector
  dsimp only
  rw [h]
  dsimp only
  split
  · exact ⟨l, h, rfl, rfl⟩
  · exact ⟨_, (Tab.find_put ..).trans (if_pos rfl), rfl, rfl⟩

/-- A valid sector is filled already. -/
theorem State.fillSector_of_valid {s : State} {home ln i : Nat} {l : L2Line} (h : s.l2.find (l2Key home ln) = some l)
    (hv : l.valid.getLsbD i = true) : s.fillSector home ln i = s := by
  unfold State.fillSector
  dsimp only
  rw [h]
  exact if_pos hv

/-- Sectors filled one after another, but for those that are skipped. -/
def State.fillSectors (s : State) (home ln : Nat) (skip : Nat → Bool) (is : List Nat) : State :=
  is.foldl (fun s i => if skip i then s else s.fillSector home ln i) s

section fillSectors
variable {s : State} {home ln : Nat} {skip : Nat → Bool} {is : List Nat}

theorem State.fillSectors_under {l : L2Line} (h : s.l2.find (l2Key home ln) = some l) :
    ∃ l', (s.fillSectors home ln skip is).l2.find (l2Key home ln) = some l' ∧ l'.key = l.key ∧ l'.lid = l.lid := by
  induction is generalizing s l with
  | nil => exact ⟨l, h, rfl, rfl⟩
  | cons i is ih =>
    obtain ⟨l', h', hkey, hlid⟩ : ∃ l', (if skip i then s else s.fillSector home ln i).l2.find (l2Key home ln) = some l' ∧
        l'.key = l.key ∧ l'.lid = l.lid := by
      split
      · exact ⟨l, h, rfl, rfl⟩
      · exact State.fillSector_under h i
    obtain ⟨l'', h'', hkey', hlid'⟩ := ih h'
    exact ⟨l'', h'', hkey'.trans hkey, hlid'.trans hlid⟩

theorem State.fillSectors_of_valid {l : L2Line} (h : s.l2.find (l2Key home ln) = some l) (hv : ∀ i ∈ is, l.valid.getLsbD i = true) :
    s.fillSectors home ln skip is = s := by
  induction is with
  | nil => rfl
  | cons i is ih =>
    have step : (if skip i then s else s.fillSector home ln i) = s := by
      split
      · rfl
      · exact State.fillSector_of_valid h (hv i List.mem_cons_self)
    rw [State.fillSectors, List.foldl_cons, step]
    exact ih fun j hj => hv j (List.mem_cons_of_mem _ hj)

theorem State.unlined_fillSectors : (s.fillSectors home ln skip is).unlined = s.unlined := by
  refine foldl_same State.unlined (fun s i => ?_) is s
  split
  · rfl
  · exact State.unlined_fillSector ..

theorem State.find_fillSectors {k : Nat} (hne : k ≠ l2Key home ln) : (s.fillSectors home ln skip is).l2.find k = s.l2.find k := by
  refine foldl_same (fun s : State => s.l2.find k) (fun s i => ?_) is s
  split
  · rfl
  · exact State.find_fillSector s hne i

end fillSectors

theorem State.readHome_eq (s : State) (pa key n : Nat) : (s.readHome pa key n).1 =
    (s.openLine (s.home pa) (pa / 256) key).fillSectors (s.home pa) (pa / 256) (fun _ => false) (sectorsOf pa n) := rfl

/-! ### Bytes that a home holds -/

/-- Bytes of a line that its home holds under a key's installation. -/
def State.Holds (s : State) (pa key : Nat) (bs : List Byte) : Prop :=
  ∃ l, s.l2.find (l2Key (s.home pa) (pa / 256)) = some l ∧ l.Under s key ∧ (∀ i ∈ sectorsOf pa bs.length, l.valid.getLsbD i = true) ∧
    getBytes l.data (pa % 256) bs.length = bs

/-- Bytes are held as long as their line stands. -/
theorem State.Holds.of_mapped {s t : State} {pa key : Nat} {bs : List Byte} (h : s.Holds pa key bs) (hm : s.Mapped t)
    (hl : t.l2.find (l2Key (s.home pa) (pa / 256)) = s.l2.find (l2Key (s.home pa) (pa / 256))) : t.Holds pa key bs := by
  obtain ⟨l, hfind, ⟨hkey, hlid⟩, hv, hbs⟩ := h
  exact ⟨l, by rw [hm.home, hl, hfind], ⟨hkey, hlid.trans (hm.lid key).symm⟩, hv, hbs⟩

/-- Held bytes are what a read gives. -/
theorem State.Holds.readHome {s : State} {pa key : Nat} {bs : List Byte} (h : s.Holds pa key bs) :
    (s.readHome pa key bs.length).2.1 = bs := by
  obtain ⟨l, hfind, ⟨hkey, hlid⟩, hv, hbs⟩ := h
  have opened : s.openLine (s.home pa) (pa / 256) key = { s with
      l2 := s.l2.put (l2Key (s.home pa) (pa / 256)) { l with lru := s.lruClock }, lruClock := s.lruClock + 1 } := by
    unfold State.openLine
    dsimp only
    rw [hfind]
    exact if_pos (by simp [hkey, hlid])
  have found : (s.openLine (s.home pa) (pa / 256) key).l2.find (l2Key (s.home pa) (pa / 256)) = some { l with lru := s.lruClock } := by
    rw [opened]
    exact (Tab.find_put ..).trans (if_pos rfl)
  have filled := State.fillSectors_of_valid (skip := fun _ => false) found hv
  change getBytes (((s.readHome pa key bs.length).1.l2.find (l2Key (s.home pa) (pa / 256))).getD { key, lid := 0 }).data (pa % 256) bs.length = bs
  rw [State.readHome_eq, filled, found]
  exact hbs

/-- The bits of a list of sectors. -/
theorem getLsbD_foldl_or (is : List Nat) (m : BitVec 4) {i : Nat} (h : i < 4) (hi : m.getLsbD i = true ∨ i ∈ is) :
    (is.foldl (fun m i => m ||| (1#4 <<< i)) m).getLsbD i = true := by
  induction is generalizing m with
  | nil => exact hi.resolve_right (List.not_mem_nil)
  | cons j is ih =>
    refine ih _ ?_
    rcases hi with hi | hi
    · exact .inl (by rw [BitVec.getLsbD_or, hi, Bool.true_or])
    · rcases List.mem_cons.mp hi with rfl | hi
      · exact .inl (by simp [h])
      · exact .inr hi

theorem mem_sectorsOf_lt {pa n i : Nat} (h : i ∈ sectorsOf pa n) : i < 4 := List.mem_range.mp (List.mem_filter.mp h).1

section writeLine
variable (s : State) (pa key : Nat) (bs : List Byte)

/-- The line with its sectors filled, before bytes are written to it. -/
def State.lineFor : State :=
  (s.openLine (s.home pa) (pa / 256) key).fillSectors (s.home pa) (pa / 256)
    (fun i => pa % 256 ≤ 64 * i && 64 * (i + 1) ≤ pa % 256 + bs.length) (sectorsOf pa bs.length)

theorem State.unlined_lineFor : (s.lineFor pa key bs).unlined = s.unlined := State.unlined_fillSectors.trans (State.unlined_openLine ..)

/-- A line after bytes are written to it (03 R51, R52). -/
def L2Line.written (l : L2Line) (pa : Nat) (bs : List Byte) : L2Line :=
  let bits := fun is : List Nat => is.foldl (fun m i => m ||| (1#4 <<< i)) 0#4
  { l with
    data := putBytes l.data (pa % 256) bs, valid := l.valid ||| bits (sectorsOf pa bs.length)
    dirty := l.dirty ||| bits (sectorsOf pa bs.length)
    poison := l.poison &&& ~~~(bits ((sectorsOf pa bs.length).filter
      fun i => pa % 256 ≤ 64 * i && 64 * (i + 1) ≤ pa % 256 + bs.length)) }

/-- A write to a line puts its bytes into the line that stands there (03 R51). -/
theorem State.writeLine_spec : ∃ l, (s.lineFor pa key bs).l2.find (l2Key (s.home pa) (pa / 256)) = some l ∧ l.Under s key ∧
    s.writeLine pa key bs =
      { s.lineFor pa key bs with l2 := (s.lineFor pa key bs).l2.put (l2Key (s.home pa) (pa / 256)) (l.written pa bs) } := by
  obtain ⟨l0, hopen, hkey0, hlid0⟩ := s.openLine_opens (s.home pa) (pa / 256) key
  obtain ⟨l, hl, hkey, hlid⟩ := State.fillSectors_under (skip := fun i => pa % 256 ≤ 64 * i && 64 * (i + 1) ≤ pa % 256 + bs.length)
    (is := sectorsOf pa bs.length) hopen
  refine ⟨l, hl, ⟨hkey.trans hkey0, hlid.trans hlid0⟩, ?_⟩
  change (match (s.lineFor pa key bs).l2.find (l2Key (s.home pa) (pa / 256)) with | none => _ | some l => _) = _
  rw [State.lineFor, hl]
  rfl

theorem State.unlined_writeLine : (s.writeLine pa key bs).unlined = s.unlined := by
  obtain ⟨l, -, -, hw⟩ := s.writeLine_spec pa key bs
  rw [hw]
  exact s.unlined_lineFor pa key bs

/-- Written bytes are held (03 R51). -/
theorem State.holds_writeLine : (s.writeLine pa key bs).Holds pa key bs := by
  obtain ⟨l, hl, ⟨hkey, hlid⟩, hw⟩ := s.writeLine_spec pa key bs
  have m := State.mapped_of_unlined (s.unlined_writeLine pa key bs)
  refine ⟨l.written pa bs, ?_, ⟨hkey, hlid.trans (m.lid key).symm⟩, fun i hi => ?_, getBytes_putBytes ..⟩
  · rw [m.home, hw]
    exact (Tab.find_put ..).trans (if_pos rfl)
  · exact (BitVec.getLsbD_or ..).trans (Bool.or_eq_true_iff.mpr (.inr (getLsbD_foldl_or _ _ (mem_sectorsOf_lt hi) (.inr hi))))

/-- A write to a line leaves the lines of other slices. -/
theorem State.find_writeLine {k : Nat} (h : k / 2 ^ 32 ≠ s.home pa) (hne : k ≠ l2Key (s.home pa) (pa / 256)) :
    (s.writeLine pa key bs).l2.find k = s.l2.find k := by
  obtain ⟨l, -, -, hw⟩ := s.writeLine_spec pa key bs
  rw [hw]
  exact (Tab.find_put ..).trans ((if_neg hne).trans ((State.find_fillSectors hne).trans (State.find_openLine s h hne key)))

end writeLine

end Sys2Proof.Machine
end

section
/-! SUPPORT. Writes that become current, and versions that a run's writes are held in (06 R119; 03 R67, R68; 07 R149; 12 R262). -/

namespace Sys2Proof.Machine
open Sys2Proof.Rules

/-! ### A line that stays as it was -/

/-- A line of the table stands as it did, and is found where it was. -/
structure State.KeepsLine (k : Nat) (s t : State) : Prop where
  mapped : s.Mapped t
  line : t.l2.find k = s.l2.find k

section keeps
variable {k : Nat} {s t u : State}

theorem State.KeepsLine.trans (h : s.KeepsLine k t) (h' : t.KeepsLine k u) : s.KeepsLine k u :=
  ⟨h.mapped.trans h'.mapped, h'.line.trans h.line⟩

theorem State.KeepsLine.refl (s : State) : s.KeepsLine k s := ⟨⟨fun _ => rfl, rfl⟩, rfl⟩

/-- What changes no die, no key and no line keeps every line. -/
theorem State.keepsLine_of_same (h : (t.dies, t.keys, t.l2) = (s.dies, s.keys, s.l2)) : s.KeepsLine k t :=
  ⟨⟨fun d => (congrArg (fun p => (Tab.getD p.1 {} d : DieSt).sets) h :), (congrArg (fun p => p.2.1) h :)⟩, (congrArg (fun p => Tab.find p.2.2 k) h :)⟩

theorem State.KeepsLine.holds {pa key : Nat} {bs : List Byte} (h : s.KeepsLine (l2Key (s.home pa) (pa / 256)) t) (hs : s.Holds pa key bs) :
    t.Holds pa key bs := hs.of_mapped h.mapped h.line

section apart
variable (s) {pa : Nat} (key : Nat) (h : k / 2 ^ 32 ≠ s.home pa) (hne : k ≠ l2Key (s.home pa) (pa / 256))
include h hne

theorem State.keepsLine_readHome (n : Nat) : s.KeepsLine k (s.readHome pa key n).1 :=
  ⟨State.mapped_of_unlined (s.unlined_readHome pa key n), by
    rw [State.readHome_eq, State.find_fillSectors hne, State.find_openLine s h hne key]⟩

theorem State.keepsLine_writeLine (bs : List Byte) : s.KeepsLine k (s.writeLine pa key bs) :=
  ⟨State.mapped_of_unlined (s.unlined_writeLine pa key bs), s.find_writeLine pa key bs h hne⟩

theorem State.keepsLine_pokeHome (bs : List Byte) : s.KeepsLine k (s.pokeHome pa bs) :=
  (s.keepsLine_writeLine 0 h hne bs).trans (State.keepsLine_of_same rfl)

end apart

/-! ### Dirty bits, clocks and updates leave the written line -/

/-- A bitmap's line is found in its home's part of the table. -/
theorem State.granule_apart {pa : Nat} (h : k / 2 ^ 32 ≠ s.home (s.granuleAt pa).1) :
    k ≠ l2Key (s.home (s.granuleAt pa).1) ((s.granuleAt pa).1 / 256) := by
  have lt := s.granuleAt_lt pa
  rintro rfl
  refine h ?_
  unfold l2Key
  omega

theorem State.keepsLine_setBit (s : State) {pa : Nat} (h : k / 2 ^ 32 ≠ s.home (s.granuleAt pa).1) : s.KeepsLine k (s.setBit pa) := by
  have hne := State.granule_apart h
  have read := s.keepsLine_readHome 0 h hne 1
  unfold State.setBit
  dsimp only
  split
  · exact read
  · refine read.trans (State.keepsLine_pokeHome _ ?_ ?_ _)
    · rwa [read.mapped.home]
    · rwa [read.mapped.home]

theorem State.keepsLine_markDirty (s : State) {pa : Nat} (h : k / 2 ^ 32 ≠ s.home (s.granuleAt pa).1) : s.KeepsLine k (s.markDirty pa) := by
  unfold State.markDirty
  split
  · exact .refl s
  · split
    · exact s.keepsLine_setBit h
    · exact State.keepsLine_of_same rfl

theorem State.keepsLine_recordRel (s : State) (pa : Nat) (rel : Option RelRec) : s.KeepsLine k (s.recordRel pa rel) := State.keepsLine_of_same rfl

theorem State.same_send (s : State) (part flits : Nat) (legs : List Leg) (c : Cargo) :
    ((s.send part flits legs c).dies, (s.send part flits legs c).keys, (s.send part flits legs c).l2) = (s.dies, s.keys, s.l2) := by
  obtain ⟨n, ps, ls, -, h⟩ := s.send_eq part flits legs c
  rw [h]

theorem State.same_sendUpd (s : State) (part bytes : Nat) (u : Upd) :
    ((s.sendUpd part bytes u).dies, (s.sendUpd part bytes u).keys, (s.sendUpd part bytes u).l2) = (s.dies, s.keys, s.l2) :=
  State.same_send ..

theorem State.keepsLine_forward (s : State) (rid part pa epoch : Nat) (cc : Clk) (bs : List Byte) (writer : Option Nat) :
    s.KeepsLine k (s.forward rid part pa epoch cc bs writer) := by
  unfold State.forward
  exact State.keepsLine_of_same (foldl_same (fun s : State => (s.dies, s.keys, s.l2)) (fun _ _ => State.same_sendUpd ..) _ s)

theorem State.keepsLine_closeEpoch (s : State) (d : Nat) : s.KeepsLine k (s.closeEpoch d) := by
  have bumped : s.KeepsLine k (s.updDie d fun k => { k with epoch := k.epoch + 1 }) := by
    refine ⟨⟨fun j => ?_, rfl⟩, rfl⟩
    unfold State.updDie State.setDie State.die
    dsimp only
    rw [Tab.getD_setD]
    split
    · next h => rw [h]
    · rfl
  unfold State.closeEpoch
  exact bumped.trans (State.keepsLine_of_same (foldl_same (fun s : State => (s.dies, s.keys, s.l2)) (fun _ _ => State.same_send ..) _ _))

/-- A write that becomes current writes its line; what follows leaves the line, when its dirty bit is in another slice (06 R119). -/
theorem State.keepsLine_makeCurrent (s : State) (rid part : Nat) {pa : Nat} (key : Nat) (bs : List Byte) (cc : Clk) (rel : Option RelRec)
    (writer : Option Nat) (h : k / 2 ^ 32 ≠ s.home (s.granuleAt pa).1) :
    (s.writeLine pa key bs).KeepsLine k (s.makeCurrent rid part pa key bs cc rel writer).1 := by
  have same := s.unlined_writeLine pa key bs
  have granule : (s.writeLine pa key bs).granuleAt pa = s.granuleAt pa := (congrArg (fun s => State.granuleAt s pa) same :)
  have marked := (s.writeLine pa key bs).keepsLine_markDirty (k := k) (pa := pa) (by rwa [granule, (State.mapped_of_unlined same).home])
  unfold State.makeCurrent
  dsimp only
  generalize List.foldl _ (State.wclk _) _ = w
  have clocked := marked.trans (State.keepsLine_of_same (t := { (s.writeLine pa key bs).markDirty pa with wclk := w }) rfl)
  have sent := (clocked.trans (State.keepsLine_recordRel _ pa rel)).trans
    (State.keepsLine_forward _ rid part pa (s.die (s.home pa / 64)).epoch cc bs writer)
  split
  · exact sent.trans (State.keepsLine_closeEpoch ..)
  · exact sent

/-- A write that became current is held at its home (06 R119). -/
theorem State.holds_makeCurrent (s : State) (rid part : Nat) {pa : Nat} (key : Nat) (bs : List Byte) (cc : Clk) (rel : Option RelRec)
    (writer : Option Nat) (h : s.home (s.granuleAt pa).1 ≠ s.home pa) :
    (s.makeCurrent rid part pa key bs cc rel writer).1.Holds pa key bs := by
  have kept := s.keepsLine_makeCurrent rid part key bs cc rel writer (State.l2Key_apart h)
  rw [← (State.mapped_of_unlined (s.unlined_writeLine pa key bs)).home] at kept
  exact kept.holds (s.holds_writeLine pa key bs)

end keeps

/-! ### Versions -/

/-- Bytes put one after another. -/
def putCells (pa : Nat) (m : Tab Byte) (cells : List (Byte × Nat)) : Tab Byte := cells.foldl (fun m e => m.put (pa % 256 + e.2) e.1) m

theorem find_putCells (pa : Nat) {e : Byte × Nat} : ∀ (cells : List (Byte × Nat)) (m : Tab Byte),
    (∀ e' ∈ cells, e'.2 = e.2 → e'.1 = e.1) → e ∈ cells ∨ Tab.find m (pa % 256 + e.2) = some e.1 →
    Tab.find (putCells pa m cells) (pa % 256 + e.2) = some e.1
  | [], _, _, h => h.resolve_left List.not_mem_nil
  | c :: cells, m, hsame, h => by
    refine find_putCells pa cells _ (fun e' he' => hsame e' (List.mem_cons_of_mem _ he')) ?_
    rw [Tab.find_put]
    split
    next heq => exact .inr (congrArg some (hsame c List.mem_cons_self (by omega)))
    next hne =>
      rcases h with h | h
      · rcases List.mem_cons.mp h with rfl | h
        · exact absurd rfl hne
        · exact .inl h
      · exact .inr h

/-- A version that holds bytes gives them (12 R263). -/
theorem Ver.over_putCells (v : Ver) (m : Tab Byte) (pa : Nat) (bs : List Byte) (h : v.bytes = putCells pa m bs.zipIdx) : v.over pa bs = bs := by
  have each : ∀ e ∈ bs.zipIdx, (Tab.find v.bytes (pa % 256 + e.2)).getD e.1 = e.1 := fun e he => by
    rw [h, find_putCells pa bs.zipIdx m (fun e' he' heq => ?_) (.inl he), Option.getD_some]
    have he := List.mem_zipIdx_iff_getElem?.mp he
    have he' := List.mem_zipIdx_iff_getElem?.mp he'
    rw [heq, he] at he'
    exact (Option.some.inj he').symm
  unfold Ver.over
  rw [List.map_congr_left each, List.zipIdx_map_fst]

/-- A run's version of a line under a key, as the table of versions is searched. -/
def isVer (run home ln key : Nat) (v : Ver) : Bool := v.run == run && v.home == home && v.ln == ln && v.key == key

/-- A version that takes more bytes, with a release number (12 R262). -/
def Ver.holding (v : Ver) (pa num : Nat) (cc : Clk) (rel : Bool) (bs : List Byte) : Ver :=
  { v with bytes := putCells pa v.bytes bs.zipIdx, num := max v.num num, cc := v.cc.join cc, rel := v.rel || rel }

section hold
variable (s : State) (run grid cluster home pa key num : Nat) (cc : Clk) (rel : Bool) (bs : List Byte)

/-- A write that is held leaves its bytes and at least its release number in the run's version (12 R262). -/
theorem State.verOf_hold : ∃ v, (s.hold run grid cluster home pa key num cc rel bs).verOf run home (pa / 256) key = some v ∧
    v.over pa bs = bs ∧ num ≤ v.num := by
  cases hv : s.verOf run home (pa / 256) key with
  | some v =>
    have is : isVer run home (pa / 256) key v = true := List.find?_some (p := isVer run home (pa / 256) key) hv
    have kept : (isVer run home (pa / 256) key ∘ fun w => if isVer run home (pa / 256) key w then w.holding pa num cc rel bs else w) =
        isVer run home (pa / 256) key := funext fun w => by
      rw [Function.comp_apply]
      split <;> rfl
    refine ⟨v.holding pa num cc rel bs, ?_, Ver.over_putCells _ v.bytes pa bs rfl, Nat.le_max_right ..⟩
    unfold State.hold
    dsimp only
    rw [hv]
    change (s.vers.map fun w => if isVer run home (pa / 256) key w then w.holding pa num cc rel bs else w).find? (isVer run home (pa / 256) key) = _
    rw [List.find?_map, kept]
    exact (congrArg (Option.map _) hv).trans (congrArg some (if_pos is))
  | none =>
    have room : (s.makeRoom home (setOf (pa / 256))).vers = s.vers := (congrArg State.vers (s.unlined_makeRoom home (setOf (pa / 256))) :)
    refine ⟨{ run, grid, home, ln := pa / 256, key, lid := (s.makeRoom home (setOf (pa / 256))).lid key, bytes := putCells pa [] bs.zipIdx, num, cc, rel,
              cluster, way := (s.makeRoom home (setOf (pa / 256))).freeWay home (setOf (pa / 256)) }, ?_, Ver.over_putCells _ [] pa bs rfl, le_rfl⟩
    unfold State.hold
    dsimp only
    rw [hv]
    unfold State.verOf at hv ⊢
    dsimp only
    rw [room, List.find?_append, hv]
    simp [putCells]

theorem State.reqs_hold : (s.hold run grid cluster home pa key num cc rel bs).reqs = s.reqs := by
  unfold State.hold
  dsimp only
  split
  · rfl
  · exact (congrArg State.reqs (s.unlined_makeRoom home (setOf (pa / 256))) :)

end hold

end Sys2Proof.Machine
end

section
/-! SUPPORT. Accesses performed at their home (06 R118, R119, R123, R135; 12 R262, R264). -/

namespace Sys2Proof.Machine
open Sys2Proof.Rules

section store
variable {s : State} {rid : Nat} {r : Req} {bs : List Byte} (hr : s.reqs.find rid = some r) (hat : s.atHome rid r = true)
  (hk : r.kind = .store bs)
include hr hat hk

/-- A write that no run holds becomes current. -/
theorem exec_storeCurrent (hheld : r.held = none) : exec (.storeCurrentAtHome rid) s =
    .next ((s.makeCurrent rid r.part r.pa r.key bs r.cc r.rel).1.setReq rid
      { r with stage := .current, epoch := (s.die (s.home r.pa / 64)).epoch }) := by
  change execStoreCurrentAtHome rid s = _
  unfold execStoreCurrentAtHome
  rw [hr]
  dsimp only
  rw [hk]
  dsimp only
  rw [hat, hheld]
  rfl

section held
variable {num : Nat} {tm : Team} (hheld : r.held = some num) (htm : s.team r.team = some tm) (hholds : tm.holds = true)
include hheld htm hholds

/-- A run's write is held in its way, and owes nothing more (12 R262; 07 R157). -/
theorem exec_storeHeld (hw : s.wayFree r.team tm.grid r.home (r.pa / 256) r.key = true) : ∃ t,
    exec (.storeCurrentAtHome rid) s = .next t ∧ t.reqs = s.reqs.del rid ∧
      t.vers = (s.hold r.team tm.grid tm.cluster r.home r.pa r.key tm.relNo r.cc (r.rel.isSome || tm.relNo != 0) bs).vers := by
  change ∃ t, execStoreCurrentAtHome rid s = _ ∧ _
  unfold execStoreCurrentAtHome
  rw [hr]
  dsimp only
  rw [hk]
  dsimp only
  rw [hat, hheld, htm]
  dsimp only
  rw [hholds, hw]
  have reqs := s.reqs_hold r.team tm.grid tm.cluster r.home r.pa r.key tm.relNo r.cc (r.rel.isSome || tm.relNo != 0) bs
  generalize s.hold r.team tm.grid tm.cluster r.home r.pa r.key tm.relNo r.cc (r.rel.isSome || tm.relNo != 0) bs = u at reqs ⊢
  have paid := State.uncored_paidOff { u with reqs := u.reqs.del rid } r.core rid {}
  have hreqs : ({ u with reqs := u.reqs.del rid }.paidOff r.core rid {}).reqs = s.reqs.del rid :=
    (congrArg State.reqs paid :).trans (congrArg (Tab.del · rid) reqs)
  have hvers : ({ u with reqs := u.reqs.del rid }.paidOff r.core rid {}).vers = u.vers := (congrArg State.vers paid :)
  generalize { u with reqs := u.reqs.del rid }.paidOff r.core rid {} = v at hreqs hvers ⊢
  refine ⟨_, rfl, ?_⟩
  rw [← hreqs, ← hvers]
  constructor <;> split <;> split <;> rfl

/-- A run's write without a way waits for one, and its group parks (12 R264). -/
theorem exec_storeBlocked (hw : s.wayFree r.team tm.grid r.home (r.pa / 256) r.key = false) :
    exec (.storeCurrentAtHome rid) s = .next (match r.gid? with
      | some g => (s.setReq rid { r with stage := .blocked }).updGrp g fun g => { g with blocked := true, stalled := true }
      | none => s.setReq rid { r with stage := .blocked }) := by
  change execStoreCurrentAtHome rid s = _
  unfold execStoreCurrentAtHome
  rw [hr]
  dsimp only
  rw [hk]
  dsimp only
  rw [hat, hheld, htm]
  dsimp only
  rw [hholds, hw]
  rfl

end held

end store

/-! ### Loads -/

theorem State.groups_readFor (s : State) (team pa key n : Nat) : (s.readFor team pa key n).1.groups = s.groups := by
  unfold State.readFor
  dsimp only
  split <;> exact State.groups_readHome ..

theorem State.groups_addSharer (s : State) (pa c : Nat) : (s.addSharer pa c).groups = s.groups := by
  unfold State.addSharer
  dsimp only
  split
  · rfl
  · split <;> rfl

theorem State.groups_send (s : State) (part flits : Nat) (legs : List Leg) (c : Cargo) : (s.send part flits legs c).groups = s.groups := by
  obtain ⟨n, ps, ls, -, h⟩ := s.send_eq part flits legs c
  rw [h]

theorem State.groups_sendUpd (s : State) (part bytes : Nat) (u : Upd) : (s.sendUpd part bytes u).groups = s.groups := State.groups_send ..

theorem State.groups_sendFill (s : State) (rid c tid part pa key : Nat) : (s.sendFill rid c tid part pa key).1.groups = s.groups := by
  unfold State.sendFill
  split
  · rfl
  · exact (State.groups_sendUpd ..).trans ((State.groups_addSharer ..).trans (State.groups_readHome ..))

theorem State.sendReply_frame (s : State) (rid : Nat) (r : Req) : (s.sendReply rid r).groups = s.groups ∧
    (s.sendReply rid r).reqs = s.reqs ∧ (s.sendReply rid r).dram = s.dram ∧ (s.sendReply rid r).l2 = s.l2 := by
  obtain ⟨n, ps, ls, h⟩ := s.sendReply_eq rid r
  rw [h]
  exact ⟨rfl, rfl, rfl, rfl⟩

/-- A load that has read its bytes at its home, with what it found there (07 R147, R150). -/
def Req.readBytes (r : Req) (s : State) (size : Nat) (sext : Bool) (bs : List Byte) (bad : Bool) : Req :=
  { r with stage := .reply (loadWords size sext bs) bad, unsettled := s.unsettledAt r.pa size, wclk := s.clockAt r.pa size }

section load
variable {s : State} {rid : Nat} {r : Req} {size : Nat} {sext : Bool} (hr : s.reqs.find rid = some r) (hat : s.atHome rid r = true)
  (hk : r.kind = .load size sext)
include hr hat hk

/-- What a load at its home does (06 R118, R122). -/
theorem exec_loadAtHome_eq : exec (.loadAtHome rid) s =
    let read := s.readFor r.team r.pa r.key size
    let r' := r.readBytes read.1 size sext read.2.1 read.2.2
    let fill := read.1.sendFill rid r.member r.team r.part r.pa r.key
    let u := (if r.folded || !fill.1.isLive r' then fill.1 else fill.1.foldLoad r.team r.va read.2.1).setReq rid r'
    .next (if fill.2 && r.member = r.core then u else u.sendReply rid r') := by
  change execLoadAtHome rid s = _
  unfold execLoadAtHome Req.readBytes
  rw [hr]
  dsimp only
  rw [hk]
  dsimp only
  rw [hat]
  rfl

/-- A load at its home takes the bytes there, and its reply stands (06 R118). -/
theorem exec_loadAtHome : ∃ t, exec (.loadAtHome rid) s = .next t ∧ t.groups = s.groups ∧ t.reqs.find rid =
    let read := s.readFor r.team r.pa r.key size
    some (r.readBytes read.1 size sext read.2.1 read.2.2) := by
  refine ⟨_, exec_loadAtHome_eq hr hat hk, ?_⟩
  dsimp only
  have hread := s.groups_readFor r.team r.pa r.key size
  generalize s.readFor r.team r.pa r.key size = read at hread ⊢
  have hfill := State.groups_sendFill read.1 rid r.member r.team r.part r.pa r.key
  generalize read.1.sendFill rid r.member r.team r.part r.pa r.key = fill at hfill ⊢
  generalize r.readBytes read.1 size sext read.2.1 read.2.2 = r'
  have folded (c : Prop) [Decidable c] : (if c then fill.1 else fill.1.foldLoad r.team r.va read.2.1).groups = s.groups := by
    rw [← hread, ← hfill]
    split <;> rfl
  have hgroups := folded ((r.folded || !fill.1.isLive r') = true)
  generalize (if (r.folded || !fill.1.isLive r') = true then fill.1 else fill.1.foldLoad r.team r.va read.2.1) = u at hgroups ⊢
  have hput : (u.setReq rid r').reqs.find rid = some r' := (Tab.find_put ..).trans (if_pos rfl)
  obtain ⟨groups, reqs, -, -⟩ := (u.setReq rid r').sendReply_frame rid r'
  split
  · exact ⟨hgroups, hput⟩
  · exact ⟨groups.trans hgroups, reqs ▸ hput⟩

end load

/-! ### Atomics -/

/-- An atomic that has read its word at its home, with what it found there (06 R123, R138; 07 R150). -/
def Req.readWord (r : Req) (s : State) (old : Word) (bad : Bool) : Req :=
  { r with
    found := s.rels.find (r.pa / 256), wclk := s.clockAt r.pa 4, unsettled := s.unsettledAt r.pa 4
    stage := .reply [old] bad }

section atomic
variable {s : State} {rid : Nat} {r : Req} {op : AtomOp} {b b1 : Word} (hr : s.reqs.find rid = some r) (hat : s.atHome rid r = true)
  (hk : r.kind = .atomic op b b1)
include hr hat hk

/-- What an atomic at its home does, by what it read there (06 R123, R135). -/
theorem exec_atomicAtHome : exec (.atomicAtHome rid) s =
    let read := s.readHome r.pa r.key 4
    let r' := r.readWord read.1 (wordOf read.2.1) read.2.2
    if read.2.2 then
      .next { (read.1.setReq rid r').sendReply rid r' with
        suspectSlices := if read.1.suspectSlices.contains r.home then read.1.suspectSlices else r.home :: read.1.suspectSlices }
    else match op.apply (wordOf read.2.1) b b1 with
      | none => .next ((read.1.setReq rid r').sendReply rid r')
      | some v =>
        let current := read.1.makeCurrent rid r.part r.pa r.key (bytesOf v) r.cc r.rel
        .next (current.1.setReq rid { r' with epoch := current.2 }) := by
  change execAtomicAtHome rid s = _
  unfold execAtomicAtHome Req.readWord
  rw [hr]
  dsimp only
  rw [hk]
  dsimp only
  rw [hat]
  rfl

end atomic

/-! ### Every access at its home -/

section current
variable (s : State) (rid : Nat) {r : Req} (r' : Req) (bs : List Byte)

/-- What an access wrote is read at its home from then on (06 R119). -/
theorem readHome_current (h : s.home (s.granuleAt r.pa).1 ≠ s.home r.pa) :
    (((s.makeCurrent rid r.part r.pa r.key bs r.cc r.rel).1.setReq rid r').readHome r.pa r.key bs.length).2.1 = bs := by
  have current := s.holds_makeCurrent rid r.part r.key bs r.cc r.rel none h
  exact State.Holds.readHome (s := (s.makeCurrent rid r.part r.pa r.key bs r.cc r.rel).1.setReq rid r') (current.of_mapped ⟨fun _ => rfl, rfl⟩ rfl)

end current

/-- A run's write at its home, with and without a way (12 R262, R264). -/
theorem storesAtHome {s : State} {rid : Nat} {r : Req} {bs : List Byte} (hr : s.reqs.find rid = some r) (hat : s.atHome rid r = true)
    (hk : r.kind = .store bs) {num : Nat} {tm : Team} (hheld : r.held = some num) (htm : s.team r.team = some tm) (hholds : tm.holds = true) :
    (s.wayFree r.team tm.grid r.home (r.pa / 256) r.key = true → ∃ t v, exec (.storeCurrentAtHome rid) s = .next t ∧
      t.reqs.find rid = none ∧ t.verOf r.team r.home (r.pa / 256) r.key = some v ∧ v.over r.pa bs = bs ∧ tm.relNo ≤ v.num) ∧
    (s.wayFree r.team tm.grid r.home (r.pa / 256) r.key = false → ∃ t, exec (.storeCurrentAtHome rid) s = .next t ∧
      t.dram = s.dram ∧ t.l2 = s.l2 ∧ t.reqs.find rid = some { r with stage := .blocked } ∧
      ∀ gid ln g, r.maker = .lane gid ln → s.grp gid = some g → t.grp gid = some { g with blocked := true, stalled := true }) := by
  refine ⟨fun hw => ?_, fun hw => ?_⟩
  · obtain ⟨t, ht, hreqs, hvers⟩ := exec_storeHeld hr hat hk hheld htm hholds hw
    obtain ⟨v, hv, hover, hnum⟩ := s.verOf_hold r.team tm.grid tm.cluster r.home r.pa r.key tm.relNo r.cc (r.rel.isSome || tm.relNo != 0) bs
    refine ⟨t, v, ht, ?_, ?_, hover, hnum⟩
    · rw [hreqs, Tab.find_del, if_pos rfl]
    · unfold State.verOf at hv ⊢
      rwa [hvers]
  · refine ⟨_, exec_storeBlocked hr hat hk hheld htm hholds hw, ?_⟩
    have hput : (s.setReq rid { r with stage := .blocked }).reqs.find rid = some { r with stage := .blocked } := (Tab.find_put ..).trans (if_pos rfl)
    cases hgid : r.gid? with
    | none =>
      refine ⟨rfl, rfl, hput, fun gid ln g hm => ?_⟩
      rw [Req.gid?, hm] at hgid
      cases hgid
    | some gid =>
      refine ⟨rfl, rfl, hput, fun gid' ln g hm hg => ?_⟩
      rw [Req.gid?, hm] at hgid
      cases hgid
      exact (State.grp_updGrp ..).trans ((if_pos rfl).trans (congrArg (Option.map _) hg))

/-- An atomic at its home: at a poisoned word, when it writes nothing, and when it writes (06 R123, R135). -/
theorem atomicsOfHome {s : State} {rid : Nat} {r : Req} {op : AtomOp} {b b1 : Word} (hr : s.reqs.find rid = some r) (hat : s.atHome rid r = true)
    (hk : r.kind = .atomic op b b1) :
    let read := s.readHome r.pa r.key 4
    let old := wordOf read.2.1
    (read.2.2 = true → ∃ t r', exec (.atomicAtHome rid) s = .next t ∧ t.reqs.find rid = some r' ∧ r'.stage = .reply [old] true ∧
      t.dram = read.1.dram ∧ t.l2 = read.1.l2 ∧ r.home ∈ t.suspectSlices) ∧
    (read.2.2 = false → op.apply old b b1 = none → ∃ t r', exec (.atomicAtHome rid) s = .next t ∧
      t.reqs.find rid = some r' ∧ r'.stage = .reply [old] false ∧ r'.epoch = r.epoch ∧ t.dram = read.1.dram ∧ t.l2 = read.1.l2) ∧
    (read.2.2 = false → ∀ v, op.apply old b b1 = some v → ∃ t r', exec (.atomicAtHome rid) s = .next t ∧
      r'.stage = .reply [old] false ∧ r'.epoch = (s.die (s.home r.pa / 64)).epoch ∧ r'.maker = r.maker ∧ r'.dst = r.dst ∧
      t = (read.1.makeCurrent rid r.part r.pa r.key (bytesOf v) r.cc r.rel).1.setReq rid r' ∧
      (r.pa % 256 ≤ 252 → s.home (s.granuleAt r.pa).1 ≠ s.home r.pa → (t.readHome r.pa r.key 4).2.1 = bytesOf v)) := by
  have run := exec_atomicAtHome hr hat hk
  have same := s.unlined_readHome r.pa r.key 4
  generalize s.readHome r.pa r.key 4 = read at run same ⊢
  obtain ⟨u, bytes, bad⟩ := read
  dsimp only at run same ⊢
  have hput (r' : Req) : (u.setReq rid r').reqs.find rid = some r' := (Tab.find_put ..).trans (if_pos rfl)
  refine ⟨?_, ?_, ?_⟩
  · rintro rfl
    obtain ⟨-, reqs, dram, l2⟩ := (u.setReq rid (r.readWord u (wordOf bytes) true)).sendReply_frame rid (r.readWord u (wordOf bytes) true)
    refine ⟨_, r.readWord u (wordOf bytes) true, run.trans (if_pos rfl), reqs ▸ hput _, rfl, dram, l2, ?_⟩
    dsimp only
    split
    next h => exact List.contains_iff_mem.mp h
    next => exact List.mem_cons_self
  · rintro rfl hnone
    obtain ⟨-, reqs, dram, l2⟩ := (u.setReq rid (r.readWord u (wordOf bytes) false)).sendReply_frame rid (r.readWord u (wordOf bytes) false)
    rw [if_neg Bool.false_ne_true, hnone] at run
    exact ⟨_, r.readWord u (wordOf bytes) false, run, reqs ▸ hput _, rfl, rfl, dram, l2⟩
  · rintro rfl v hv
    rw [if_neg Bool.false_ne_true, hv] at run
    have epoch : (u.makeCurrent rid r.part r.pa r.key (bytesOf v) r.cc r.rel).2 = (s.die (s.home r.pa / 64)).epoch :=
      (congrArg (fun s => (State.die s (State.home s r.pa / 64)).epoch) same :)
    dsimp only at run
    rw [epoch] at run
    refine ⟨_, { r.readWord u (wordOf bytes) false with epoch := (s.die (s.home r.pa / 64)).epoch }, run, rfl, rfl, rfl, rfl, rfl, fun _ h => ?_⟩
    refine readHome_current (r := r) u rid _ (bytesOf v) ?_
    rw [show u.granuleAt r.pa = s.granuleAt r.pa from (congrArg (fun s => State.granuleAt s r.pa) same :), (State.mapped_of_unlined same).home,
      (State.mapped_of_unlined same).home]
    exact h

theorem accessesAtHome : Rules.AccessesAtHome := by
  intro s rid r hr hat
  refine ⟨fun bs hk => ⟨fun hheld => ?_, fun num tm hheld htm hholds => storesAtHome hr hat hk hheld htm hholds⟩, fun size sext hk => ?_,
    fun op b b1 hk => atomicsOfHome hr hat hk⟩
  · exact ⟨_, exec_storeCurrent hr hat hk hheld, rfl, fun _ _ h => readHome_current s rid _ bs h⟩
  · obtain ⟨t, ht, hgroups, hreq⟩ := exec_loadAtHome hr hat hk
    exact ⟨t, _, ht, hreq, rfl, rfl, rfl, fun k => congrArg (Tab.find · k) hgroups⟩

/-- Settles O30: the words of atomics by the operation, and each access performed at its home by its kind. -/
theorem atomicsAtHome : Obligations.AtomicsAtHome := ⟨atomicResults, floatAtomic, accessesAtHome⟩

end Sys2Proof.Machine
end
